-- ==== Sys2Proof/Word.lean ====
section
/-! DEFINITION. The words of the AX4 (R3, R4, R12): bit vectors only where the manual numbers bits. -/

namespace Sys2Proof

/-- One byte of memory. -/
abbrev Byte := BitVec 8
/-- A 32-bit word: a grid word, a loop counter, an amax register (R12). -/
abbrev W32 := BitVec 32
/-- A 64-bit word: a scalar or staging register (R12). -/
abbrev W64 := BitVec 64
/-- An address register, 80 bits (R12, R177). -/
abbrev W80 := BitVec 80
/-- A line of 2,048 bits: a grid line or a landing slot (R236). -/
abbrev Line := BitVec 2048

end Sys2Proof
end

