-- ==== Sys2Proof/Config.lean ====
section
/-! DEFINITION. What an implementation fixes and the manual does not state: free values, with no body, so that no
proof can see them (log entries 6, 7, 8, 10, 11). -/

namespace Sys2Proof.Config

/-- A free 64-bit value, applied to the counter `free` of State, which the step advances (log entry 10). -/
opaque freeWord : Nat → W64

/-- SHA-384 of a byte sequence; the manual names the standard and does not define it (R134 to R137, R434, R539;
log entry 6). -/
opaque sha384 : List Byte → BitVec 384

/-- Whether an ECDSA P-384 signature verifies over a digest with the fused key (R539; log entry 6). -/
opaque ecdsaVerifies : BitVec 384 → List Byte → Bool

/-- The bytes of an SPDM answer to request `code` of the responder after the requests of its session; DMTF SPDM 1.2 defines them, not
the manual (R541; log entry 6). -/
opaque spdmAnswer : Nat → List (List Byte) → List Byte → List Byte

/-- What a sensor of the package reads: physics, not the manual, says it (R543; log entry 6). -/
opaque sensor : Nat → Nat → BitVec 32

/-- The stepping of the part, a field of ident (R533; log entry 12). -/
opaque stepping : BitVec 8

/-- A control core's state as a fatal dump shows it, whose layout the manual does not give (R544): of a die, at a count of free
values (log entry 10). -/
opaque controlCoreState : Nat → Nat → List Byte

/-- The check value and layout of a request descriptor are internal to the AX4 (R408; log entry 7). -/
opaque requestDescriptor : List Nat → Line

/-- Storage that the directory of a die picks for a version: a free choice among free lines (R41; log entry 8). -/
opaque storagePick : Nat → Nat

/-- The route tables that a coordinator computes for an advance are its own choice among minimal routes
(R467; log entry 11): the bytes of entry `dest` of the tables of version `ver` of package `pkg`. -/
opaque routeEntry : Nat → Nat → Nat → BitVec 128

/-- Payloads of ACK, NAK, TRAIN and MARK flits, whose layout the manual does not give (R450; log entry 20): the flit's
kind and what it carries. -/
opaque linkPayload : List Nat → BitVec 224

end Sys2Proof.Config
end

