-- ==== Sys2Proof/Machine/Sparse.lean ====
section
/-! DEFINITION. Sparse maps as plain data: a list of key and value pairs, keys rising. A key that is not listed reads
as a default. -/

namespace Sys2Proof

/-- A sparse map from natural numbers. -/
abbrev Sparse (α : Type) := List (Nat × α)

namespace Machine

/-- The value at key `k`, or the default `d`. -/
def Sparse.get {α : Type} (d : α) (m : Sparse α) (k : Nat) : α :=
  match m with
  | [] => d
  | (j, v) :: r => if j = k then v else Sparse.get d r k

/-- The value at key `k`, if one is listed. -/
def Sparse.find? {α : Type} (m : Sparse α) (k : Nat) : Option α :=
  match m with
  | [] => none
  | (j, v) :: r => if j = k then some v else Sparse.find? r k

/-- Insert a pair before the first larger key. -/
def Sparse.insert {α : Type} (m : Sparse α) (k : Nat) (v : α) : Sparse α :=
  match m with
  | [] => [(k, v)]
  | (j, w) :: r => if k < j then (k, v) :: (j, w) :: r else (j, w) :: Sparse.insert r k v

/-- Remove every entry of key `k`. -/
def Sparse.erase {α : Type} (m : Sparse α) (k : Nat) : Sparse α :=
  match m with
  | [] => []
  | (j, w) :: r => if j = k then Sparse.erase r k else (j, w) :: Sparse.erase r k

/-- Write key `k`. -/
def Sparse.set {α : Type} (m : Sparse α) (k : Nat) (v : α) : Sparse α :=
  Sparse.insert (Sparse.erase m k) k v

/-- Write key `k`, keeping no entry that equals the default `d`. -/
def Sparse.put {α : Type} [DecidableEq α] (d : α) (m : Sparse α) (k : Nat) (v : α) : Sparse α :=
  if v = d then Sparse.erase m k else Sparse.set m k v

/-- Keys strictly rising. -/
def Sparse.sorted {α : Type} : Sparse α → Bool
  | [] => true
  | [_] => true
  | (a, _) :: (b, w) :: r => decide (a < b) && Sparse.sorted ((b, w) :: r)

end Machine
end Sys2Proof
end

