-- ==== Sys2Proof/Syntax.lean ====
section
/-! DEFINITION. The instruction set of the AX4: one constructor of `Instr` per row of spec/opcode_table.json.
Rows 0 to 183 are slot operations (R102 to R126), rows 184 to 198 and CHECKPOINT_PERIOD_WRITE are SYSWR numbers with
rows of their own, and the others are the indivisible steps of the machine, its firmware, its links and its host
(95_what_each_step_holds.md). Register fields have the width of their register kind (R107). -/

namespace Sys2Proof

/-- A predicate: flag and polarity (R105). -/
structure Pred where
  neg  : Bool
  flag : BitVec 4
deriving DecidableEq, Repr

/-- The element types of the V, M and ST slots (R108). -/
inductive Ty where
  | f32 | bf16 | f16 | f8e4 | f8e5 | ln6 | i8 | i16 | i32 | n8 | n16 | n32
deriving DecidableEq, Repr

/-- The element formats of tiles (R38). -/
inductive EFmt where
  | f32 | f16 | bf16 | f8e4 | f8e5 | ln6 | ln6x | i8 | i16 | i32 | n8 | n16 | n32 | bs4 | sb1 | q8s | q8u
deriving DecidableEq, Repr

/-- The directions of a grid line (R106). -/
inductive Dir where
  | h | v | d
deriving DecidableEq, Repr

/-- A grid line: direction and index (R106). -/
structure LineRef where
  dir : Dir
  idx : BitVec 6
deriving DecidableEq, Repr

/-- A source operand of the vector and store slots (R106): a line, a landing slot or a scalar broadcast. -/
inductive Src where
  | line  (r : LineRef)
  | land  (l : BitVec 4)
  | bcast (g : BitVec 5)
deriving DecidableEq, Repr

/-- The nine slots of a bundle (R102). -/
inductive Slot where
  | sy | s | v0 | v1 | m | ld | st | e0 | e1
deriving DecidableEq, Repr

/-- The refusal codes of sealing (R129). -/
inductive SealCode where
  | imgSize | opcode | rsvField | type | opDir | range | fmtCode | privOp | ports | pairing | dstDup | target | brDelay
  | loopLen | noEntry | genOvf
deriving DecidableEq, Repr

/-- The conditions of CMP, ACMP and VCMP (R113). -/
inductive Cond where
  | eq | ne | lt | le | gt | ge | ltu | leu | gtu | geu
deriving DecidableEq, Repr

/-- Scopes of fences, acquires and releases (R109, R355). -/
inductive Scope where
  | ctx | core | die | pkg | dom
deriving DecidableEq, Repr

/-- The integer atomics differ only in their operation (R347). -/
structure Amo where
  d    : BitVec 6
  a    : BitVec 5
  ac   : BitVec 3
  dist : BitVec 12
  wide : Bool
  u    : Bool
  v    : BitVec 6
deriving DecidableEq, Repr

/-- The header of a copy command (R123) but for its opcode. -/
structure CpyHdr where
  fl    : BitVec 4
  acq   : Bool
  rel   : Bool
  sc    : BitVec 3
  nd    : BitVec 3
  kb    : BitVec 4
  yf    : Bool
  ac    : BitVec 3
  banks : BitVec 32
deriving DecidableEq, Repr

/-- The fields of a transform operation (R125). -/
structure Xf where
  tf : EFmt
  tt : EFmt
  d  : LineRef
  a  : LineRef
  n  : BitVec 6
  fl : BitVec 4
deriving DecidableEq, Repr

/-- A packet of the fabric: the header of R462 and its body bytes. -/
structure Packet where
  dpkg : BitVec 13
  ddie : BitVec 2
  spkg : BitVec 13
  sdie : BitVec 2
  cls  : BitVec 2
  vc   : BitVec 2
  ver  : BitVec 8
  mc   : Bool
  dl   : BitVec 3
  ord  : Bool
  seq  : BitVec 32
  op   : BitVec 8
  addr : W64
  aux  : W64
  body : List Byte
deriving DecidableEq, Repr

/-- A flit of a link (R450). -/
structure Flit where
  seq  : BitVec 13
  kind : BitVec 3
  crc  : BitVec 16
  pay  : BitVec 224
deriving DecidableEq, Repr

/-- What an indivisible step that is no slot operation acts on: `n` is the context (4 times the physical core index
plus the context number), core, die, package or link, the other fields are what the step brings (a packet, a flit, a
host's value). The step takes it from State, where the agenda put it. -/
structure EvtArg where
  n    : Nat
  m    : Nat
  k    : Nat
  w    : W64
  v    : W64
  flag : Bool
  data : List Byte
  list : List (Nat × Nat)
  pkt  : Packet
  flit : Flit
deriving DecidableEq, Repr

/-- The instructions and steps of the AX4. Slot operations other than those of SY carry a predicate `p`. SY
operations carry the bundle header mark `k` (R110). The steps after CHECKPOINT_PERIOD_WRITE carry nothing: what they act
on is `EvtArg`, in State. -/
inductive Instr where
  -- SY slot (R111)
  | nop (k : BitVec 2)
  | wait (k : BitVec 2) (f : BitVec 4) (pol y : Bool)
  | arv (k : BitVec 2) (n : BitVec 12) (rel : Bool)
  | bwt (k : BitVec 2) (n : BitVec 12) (y : Bool)
  | fmt (k : BitVec 2) (h : Bool) (v : BitVec 16)
  | fenceAcq (k : BitVec 2) (sc : Scope)
  | fenceRel (k : BitVec 2) (sc : Scope)
  | fenceAll (k : BitVec 2) (sc : Scope)
  | join (k : BitVec 2) (n : BitVec 12)
  | leave (k : BitVec 2) (n : BitVec 12)
  | yield (k : BitVec 2)
  | hndl (k : BitVec 2)
  -- S slot: integer operations (R227)
  | add (p : Pred) (d a b : BitVec 6)
  | sub (p : Pred) (d a b : BitVec 6)
  | mul (p : Pred) (d a b : BitVec 6)
  | mulh (p : Pred) (d a b : BitVec 6) (u : Bool)
  | div (p : Pred) (d a b : BitVec 6) (u : Bool)
  | rem (p : Pred) (d a b : BitVec 6) (u : Bool)
  | and (p : Pred) (d a b : BitVec 6)
  | or (p : Pred) (d a b : BitVec 6)
  | xor (p : Pred) (d a b : BitVec 6)
  | shl (p : Pred) (d a b : BitVec 6)
  | shr (p : Pred) (d a b : BitVec 6)
  | sar (p : Pred) (d a b : BitVec 6)
  | rot (p : Pred) (d a b : BitVec 6)
  | clz (p : Pred) (d a : BitVec 6)
  | popc (p : Pred) (d a : BitVec 6)
  | min (p : Pred) (d a b : BitVec 6) (u : Bool)
  | max (p : Pred) (d a b : BitVec 6) (u : Bool)
  | cmp (p : Pred) (f : BitVec 4) (a b : BitVec 6) (c : Cond)
  | sel (p : Pred) (d a b : BitVec 6) (f : BitVec 4)
  | mov (p : Pred) (d a : BitVec 6)
  | addImm (p : Pred) (d a : BitVec 6) (imm : BitVec 32)
  | subImm (p : Pred) (d a : BitVec 6) (imm : BitVec 32)
  | mulImm (p : Pred) (d a : BitVec 6) (imm : BitVec 32)
  | andImm (p : Pred) (d a : BitVec 6) (imm : BitVec 32)
  | orImm (p : Pred) (d a : BitVec 6) (imm : BitVec 32)
  | xorImm (p : Pred) (d a : BitVec 6) (imm : BitVec 32)
  | shlImm (p : Pred) (d a : BitVec 6) (imm : BitVec 32)
  | shrImm (p : Pred) (d a : BitVec 6) (imm : BitVec 32)
  | sarImm (p : Pred) (d a : BitVec 6) (imm : BitVec 32)
  | rotImm (p : Pred) (d a : BitVec 6) (imm : BitVec 32)
  | minImm (p : Pred) (d a : BitVec 6) (imm : BitVec 32) (u : Bool)
  | maxImm (p : Pred) (d a : BitVec 6) (imm : BitVec 32) (u : Bool)
  | cmpImm (p : Pred) (f : BitVec 4) (a : BitVec 6) (imm : BitVec 32) (c : Cond)
  | movImm (p : Pred) (d : BitVec 6) (imm : BitVec 32)
  | movh (p : Pred) (d : BitVec 6) (imm : BitVec 32)
  -- S slot: addresses (R230)
  | aadd (p : Pred) (d a : BitVec 5) (b : BitVec 6)
  | aaddi (p : Pred) (d a : BitVec 5) (imm : BitVec 32)
  | aidx (p : Pred) (d a : BitVec 5) (b : BitVec 6) (j : BitVec 24)
  | acmp (p : Pred) (f : BitVec 4) (a b : BitVec 5) (c : Cond)
  /-- AMOV with x = 0, 1 or 2 (R230): a to a, g to a, a to g. -/
  | amov (p : Pred) (x : BitVec 2) (d a : BitVec 6)
  | amovh (p : Pred) (d : BitVec 6) (a : BitVec 5)
  | ahome (p : Pred) (d a : BitVec 5) (b : BitVec 6)
  -- S slot: control flow (R231, R232)
  | br (p : Pred) (off : BitVec 25)
  | brc (p : Pred) (d : BitVec 6) (off : BitVec 25)
  | call (p : Pred) (d : BitVec 6) (off : BitVec 25)
  | ret (p : Pred) (a : BitVec 6)
  | loop (p : Pred) (lc : BitVec 3) (im : Bool) (a : BitVec 6) (len : BitVec 6) (cnt : BitVec 24)
  -- S slot: flags and staging (R233, R234)
  | fset (p : Pred) (f : BitVec 4) (v : Bool)
  | fmov (p : Pred) (f a : BitVec 4) (inv : Bool)
  | kwr (p : Pred) (k : BitVec 4) (a : BitVec 6)
  | kwrImm (p : Pred) (k : BitVec 4) (imm : BitVec 32)
  | zwr (p : Pred) (z : BitVec 3) (a : BitVec 6)
  | zwrImm (p : Pred) (z : BitVec 3) (imm : BitVec 32)
  -- S slot: launching and scheduling (R166 to R172)
  | launch (p : Pred) (d : BitVec 6) (a : BitVec 5) (b : BitVec 6)
  | launchm (p : Pred) (d : BitVec 6) (a : BitVec 5) (b : BitVec 6)
  | tend (p : Pred)
  | steal (p : Pred) (d a : BitVec 6) (f : BitVec 4)
  | prioSelf (p : Pred) (d : BitVec 6) (imm : BitVec 32)
  | prioTask (p : Pred) (d a : BitVec 6) (imm : BitVec 32)
  | lpscfg (p : Pred) (a : BitVec 5)
  | lpsnxt (p : Pred) (d : BitVec 6) (f : BitVec 4)
  | stepmark (p : Pred)
  | qlvl (p : Pred) (d a : BitVec 6) (imm : BitVec 32)
  | qstat (p : Pred) (d a : BitVec 6)
  -- S slot: buffer rings (R384)
  | bacqP (p : Pred) (d : BitVec 5) (e : BitVec 6) (ring : BitVec 3)
  | bacqC (p : Pred) (d : BitVec 5) (t : BitVec 6) (ring : BitVec 3)
  | brelP (p : Pred) (c : BitVec 6) (e : Bool) (ring : BitVec 3)
  | brelC (p : Pred) (ring : BitVec 3)
  | brcfg (p : Pred) (d a : BitVec 6) (ring : BitVec 3)
  -- S slot: traps and system numbers (R411 to R418)
  | trap (p : Pred) (imm : BitVec 32)
  | eret (p : Pred)
  | sysrd (p : Pred) (d : BitVec 6) (num : BitVec 12)
  | syswr (p : Pred) (a : BitVec 6) (num : BitVec 12)
  | halt (p : Pred)
  -- S slot: freezing (R442)
  | frz (p : Pred) (d a : BitVec 6)
  | frzThaw (p : Pred) (d a : BitVec 6)
  | drain (p : Pred) (d a : BitVec 6)
  | dscan (p : Pred) (d : BitVec 6) (a : BitVec 5) (b : BitVec 6)
  | imgw (p : Pred) (d a : BitVec 6) (b : BitVec 5) (inc bud : Bool)
  | imgr (p : Pred) (d : BitVec 6) (a : BitVec 5) (b : BitVec 6)
  -- S slot: fabric (R477)
  | rtver (p : Pred) (d : BitVec 6)
  | lkev (p : Pred) (d a : BitVec 6)
  | reconf (p : Pred) (d : BitVec 6) (a : BitVec 5)
  -- V0 and V1 slots (R116, R117); `w` is false for V0 and true for V1
  | vadd (p : Pred) (w : Bool) (ty : Ty) (d : LineRef) (a b : Src) (s : Bool)
  | vsub (p : Pred) (w : Bool) (ty : Ty) (d : LineRef) (a b : Src) (s : Bool)
  | vmul (p : Pred) (w : Bool) (ty : Ty) (d : LineRef) (a b : Src) (s : Bool)
  | vfma (p : Pred) (w : Bool) (ty : Ty) (d : LineRef) (a b c : Src)
  | vfms (p : Pred) (w : Bool) (ty : Ty) (d : LineRef) (a b c : Src)
  | vmin (p : Pred) (w : Bool) (ty : Ty) (d : LineRef) (a b : Src)
  | vmax (p : Pred) (w : Bool) (ty : Ty) (d : LineRef) (a b : Src)
  | vabs (p : Pred) (w : Bool) (ty : Ty) (d : LineRef) (a : Src)
  | vneg (p : Pred) (w : Bool) (ty : Ty) (d : LineRef) (a : Src)
  | vclamp (p : Pred) (w : Bool) (ty : Ty) (d : LineRef) (a b c : Src)
  | vmulh (p : Pred) (w : Bool) (ty : Ty) (d : LineRef) (a b : Src)
  | vrcp (p : Pred) (w : Bool) (ty : Ty) (d : LineRef) (a : Src)
  | vrsq (p : Pred) (w : Bool) (ty : Ty) (d : LineRef) (a : Src)
  | vexp2 (p : Pred) (w : Bool) (ty : Ty) (d : LineRef) (a : Src)
  | vlog2 (p : Pred) (w : Bool) (ty : Ty) (d : LineRef) (a : Src)
  | vsqrt (p : Pred) (w : Bool) (ty : Ty) (d : LineRef) (a : Src)
  | vcvt (p : Pred) (w : Bool) (ty tx : Ty) (d : LineRef) (a : Src) (part : BitVec 8)
  | vq8 (p : Pred) (w : Bool) (ty : Ty) (d : LineRef) (a : Src) (signed : Bool)
  | vdq8 (p : Pred) (w : Bool) (ty : Ty) (d : LineRef) (a b : Src) (signed : Bool)
  | vand (p : Pred) (w : Bool) (ty : Ty) (d : LineRef) (a b : Src)
  | vor (p : Pred) (w : Bool) (ty : Ty) (d : LineRef) (a b : Src)
  | vxor (p : Pred) (w : Bool) (ty : Ty) (d : LineRef) (a b : Src)
  | vnot (p : Pred) (w : Bool) (ty : Ty) (d : LineRef) (a : Src)
  | vshl (p : Pred) (w : Bool) (ty : Ty) (d : LineRef) (a : Src) (n : BitVec 8)
  | vshr (p : Pred) (w : Bool) (ty : Ty) (d : LineRef) (a : Src) (n : BitVec 8)
  | vsar (p : Pred) (w : Bool) (ty : Ty) (d : LineRef) (a : Src) (n : BitVec 8)
  | vpopc (p : Pred) (w : Bool) (ty : Ty) (d : LineRef) (a : Src)
  | vclz (p : Pred) (w : Bool) (ty : Ty) (d : LineRef) (a : Src)
  | vcmp (p : Pred) (w : Bool) (ty : Ty) (c : Cond) (d : LineRef) (a b : Src)
  | vsel (p : Pred) (w : Bool) (ty : Ty) (d : LineRef) (a b c : Src)
  | vmov (p : Pred) (w : Bool) (ty : Ty) (d : LineRef) (a : Src)
  | vbcast (p : Pred) (w : Bool) (ty : Ty) (d : LineRef) (a : Src) (n : BitVec 8)
  | vperm (p : Pred) (w : Bool) (ty : Ty) (d : LineRef) (a b : Src)
  | viota (p : Pred) (w : Bool) (ty : Ty) (d : LineRef) (n : BitVec 8)
  | vrot (p : Pred) (w : Bool) (ty : Ty) (d : LineRef) (a : Src) (n : BitVec 8)
  | vredsum (p : Pred) (w : Bool) (ty : Ty) (d : LineRef) (a : Src)
  | vredmax (p : Pred) (w : Bool) (ty : Ty) (d : LineRef) (a : Src)
  | vredmin (p : Pred) (w : Bool) (ty : Ty) (d : LineRef) (a : Src)
  | vamax (p : Pred) (w : Bool) (ty : Ty) (mx : BitVec 2) (a : Src)
  -- M slot (R118, R119, R273)
  | mcfg (p : Pred) (ty : Ty) (pm : BitVec 4)
  | mldw (p : Pred) (ty : Ty) (gl : LineRef)
  | mswap (p : Pred)
  | mstrm (p : Pred) (ty : Ty) (gl : LineRef) (n : BitVec 6) (pl : Bool) (cb : BitVec 2) (arow : BitVec 6) (yf : Bool)
  | mzero (p : Pred) (pm : BitVec 2)
  | mrdacc (p : Pred) (tt : Ty) (gl : LineRef) (row : BitVec 6) (pl : Bool) (part : BitVec 6)
  | maddacc (p : Pred) (ty : Ty) (gl : LineRef) (row : BitVec 6) (pl : Bool) (part : BitVec 6)
  | mwaitp (p : Pred) (pm : BitVec 4)
  -- LD slot (R120, R122, R326)
  | ldw (p : Pred) (d : BitVec 6) (a : BitVec 5) (ac : BitVec 3) (dist : BitVec 12) (off : BitVec 10)
  | ldd (p : Pred) (d : BitVec 6) (a : BitVec 5) (ac : BitVec 3) (dist : BitVec 12) (off : BitVec 10)
  | ldl (p : Pred) (l : BitVec 4) (a : BitVec 5) (ac : BitVec 3) (dist : BitVec 12) (off : BitVec 10)
  | ldls (p : Pred) (l : BitVec 4) (a : BitVec 5) (ac : BitVec 3) (dist : BitVec 12) (s : BitVec 6)
  | ldg (p : Pred) (l : BitVec 4) (a : BitVec 5) (ac : BitVec 3) (dist : BitVec 12) (x : Src)
  | tlnew (p : Pred) (d : BitVec 6) (a : BitVec 5) (dist : BitVec 12) (n : BitVec 6)
  | tlrd (p : Pred) (l : BitVec 4) (a : BitVec 5) (dist : BitVec 12) (off : BitVec 10)
  | tlqry (p : Pred) (l : BitVec 4) (a : BitVec 5) (dist : BitVec 12)
  | tlrep (p : Pred) (d : BitVec 6) (a : BitVec 5) (dist : BitVec 12)
  | amoAdd (p : Pred) (m : Amo)
  | amoMax (p : Pred) (m : Amo)
  | amoMin (p : Pred) (m : Amo)
  | amoAnd (p : Pred) (m : Amo)
  | amoOr (p : Pred) (m : Amo)
  | amoXch (p : Pred) (m : Amo)
  | amoCas (p : Pred) (m : Amo)
  | amoFadd (p : Pred) (m : Amo)
  -- ST slot (R121, R122, R326)
  | stw (p : Pred) (s : BitVec 6) (a : BitVec 5) (ac : BitVec 3) (off : BitVec 14)
  | std (p : Pred) (s : BitVec 6) (a : BitVec 5) (ac : BitVec 3) (off : BitVec 14)
  | stl (p : Pred) (s : Src) (a : BitVec 5) (ac : BitVec 3) (off : BitVec 14)
  | stlx (p : Pred) (tt : Ty) (mx : BitVec 2) (s : Src) (a : BitVec 5) (ac : BitVec 3) (off : BitVec 14)
  | tlwr (p : Pred) (tt : Ty) (mx : BitVec 2) (s : Src) (a : BitVec 5) (off : BitVec 14)
  | tlfin (p : Pred) (a : BitVec 5)
  | puth (p : Pred) (s : Src) (a : BitVec 5) (ac : BitVec 3) (off : BitVec 14)
  -- E0 slot (R123, R124)
  | cpy (p : Pred) (h : CpyHdr)
  | cred (p : Pred) (h : CpyHdr)
  | cmc (p : Pred) (h : CpyHdr)
  | cgat (p : Pred) (h : CpyHdr)
  | cstat (p : Pred) (fl kb : BitVec 4)
  | ccancel (p : Pred) (fl : BitVec 4)
  -- E1 slot, transform forms (R125, R126, R284)
  | xcvt (p : Pred) (x : Xf)
  | xtrn (p : Pred) (x : Xf)
  | xexp (p : Pred) (x : Xf) (xr : BitVec 4)
  | xpack (p : Pred) (x : Xf)
  -- E1 slot, fitting forms (R312)
  | apxb (p : Pred) (rg : BitVec 4) (len : BitVec 12)
  | apxe (p : Pred) (rg : BitVec 4)
  | ftcfg (p : Pred) (rg : BitVec 4) (zb : BitVec 3)
  | ftcfgNew (p : Pred) (rg : BitVec 4) (zb : BitVec 3)
  | ftinv (p : Pred) (rg : BitVec 4)
  | ftst (p : Pred) (rg : BitVec 4) (mask : BitVec 5) (f : BitVec 4)
  | ftstep (p : Pred) (rg : BitVec 4) (zb : BitVec 3) (fl : BitVec 4)
  | ftsamp (p : Pred) (rg : BitVec 4) (zb : BitVec 3) (fl : BitVec 4)
  -- SYSWR numbers with rows of their own (R418); `x` selects the context where the number does
  | pageWalkPreload (p : Pred) (a : BitVec 6)
  | tlbPageInvalidate (p : Pred) (a : BitVec 6)
  | tlbAllInvalidate (p : Pred) (a : BitVec 6)
  | pageTableRootWrite (p : Pred) (a : BitVec 6)
  | pwrLimWrite (p : Pred) (a : BitVec 6)
  | handlerWordWrite (p : Pred) (a : BitVec 6) (ctl : Bool) (x : BitVec 2)
  | futureEmptyWordWrite (p : Pred) (a : BitVec 6)
  | futemptyInline (p : Pred) (a : BitVec 6)
  | trapWordWrite (p : Pred) (a : BitVec 6)
  | timerWrite (p : Pred) (a : BitVec 6)
  | tframeWrite (p : Pred) (a : BitVec 6)
  | preemptRequest (p : Pred) (a : BitVec 6) (x : BitVec 2)
  | contextResume (p : Pred) (a : BitVec 6) (x : BitVec 2)
  | checkpointAreaWrite (p : Pred) (a : BitVec 6)
  | linDmaxWrite (p : Pred) (a : BitVec 6)
  | checkpointPeriodWrite (p : Pred) (a : BitVec 6) (steps : Bool)
  -- Steps of a context and its core
  | exposedResultWrite
  | latchDataArrival
  | loadLanding
  | timerExpiry
  | bundleCacheFill
  | contextSwitch
  | waitTimeout
  | sageLeaseGrant
  | leaseExpiry
  | leaseRenewal
  | weightBlockLoad
  | accumulatorRowWrite
  | maddaccRowWrite
  | heldWindowAccess
  | windowAccess
  | transformBeat
  | surrogateResult
  | apxComparison
  | fittingOpComplete
  | copyCommandStart
  | copyBurst
  | copyCompletion
  | memoryAccessPerform
  | atomicApply
  | writeAcknowledge
  | pageWalk
  | wakeDelivery
  | handlerStart
  | barrierEntryOperation
  | barrierNotification
  -- Steps of dispatch and scheduling
  | taskDispatch
  | teamDispatch
  | teamMigrate
  | freeTeamSlotsAdvertise
  | localTaskStart
  | corePreemption
  | autoSteal
  -- Steps of the directory, lineage and recovery
  | tlfinApply
  | useRelease
  | contentDestroyed
  | patrolScrub
  | recoveryRequest
  | restoreComplete
  | replicationComplete
  | jobEnd
  | engineFault
  | dieLoss
  | buddyRingChange
  | imageCopyComplete
  | checkpointTrigger
  -- The control port (R446)
  | controlPortFrz
  | controlPortDrain
  | controlPortDscan
  | controlPortImgw
  | controlPortImgr
  | controlPortReconf
  -- Links (R451 to R456)
  | flitTransmit
  | flitReceive
  | ackReceive
  | ackTimer
  | nakReceive
  | trainReceive
  | losDetection
  | restripeTimerEnd
  | wavelengthRelock
  | heldTimeout
  | heldDirectionRelock
  -- Packets, routes and groups (R461 to R476, R488)
  | packetHop
  | packetDelivery
  | e2eAckReceive
  | linkDownReport
  | tableWrite
  | advanceMark
  | advanceDone
  | advanceTimeout
  | auditSend
  | auditReceive
  | drainMarkerReceive
  | drainAnswerReceive
  | drainDoneReceive
  | holdMarkReceive
  -- The host (R533 to R538)
  | ownerWrite
  | jobDoorbell
  | eqheadWrite
  | plimWrite
  | bar0RegisterWrite
  | seal
  | aperture
  | dumpread
  | meas
  -- The management port and SPDM (R541, R543)
  | readEvents
  | readDump
  | resetDie
  | setLimit
  | identify
  | getVersion
  | getCapabilities
  | negotiateAlgorithms
  | getDigests
  | getCertificate
  | challenge
  | getMeasurements
  -- Boot, power and failure (R539 to R546)
  | dieReset
  | bootTimeout
  | packageReset
  | coolantConditionChange
  | fatalError
  -- Further steps
  | directoryOperation
  | hostTileLoad
  | streamLineEntry
  | weightsLoaded
  | windowSumFreezeEnd
  | paddedFreezeEnd
  | dieReady
deriving DecidableEq, Repr

end Sys2Proof
end

