-- ==== Sys2Proof/Machine/CtxState.lean ====
section
/-! DEFINITION. The state of one context of a core (R12, R147, R197 to R234, R235, R262, R301, R319, R333, R402):
registers, planes, what is in flight, what it waits for. Plain data only. -/

namespace Sys2Proof.Machine

/-- A task record as read at launch (R56). -/
structure TaskRec where
  image : W64
  entry : Nat
  prio  : Nat
  lvl   : Nat
  exact : Nat
  ins   : List W64
  outs  : List W64
  args  : List W64
  team  : Nat
  rank  : Nat
  tsize : Nat
  job   : Nat
deriving DecidableEq, Repr

/-- What an accepted task is known by: its id, its levels and priorities and the kind of its instance
(R58, R144, R146, R147, R150, R518). -/
structure Task where
  tid    : Nat
  desc   : TaskRec
  level  : Nat
  base   : Nat
  /-- the package's core-cycle count at acceptance; age counts from it (R150) -/
  born   : Nat
  /-- cycles frozen by FRZ, not counted in the age (R150) -/
  slept  : Nat
  rebuilt : Bool
  redispatched : Bool
  restored : Bool
  /-- the version a rebuild task rebuilds (R515); 0 otherwise -/
  target : W64
  /-- LAUNCHM pins the copy to this physical core (R155) -/
  pin    : Option Nat
  /-- compact address of the image's data section (R147), 0 for none -/
  dataSec : W64
  /-- an input was approximate as the task started (R60) -/
  apxIn  : Bool
  /-- the package that accepted the task, which with its id names it (R146, R497) -/
  pkg    : Nat
deriving DecidableEq, Repr

/-- Destinations of exposed results and landings (R408 dkind). -/
inductive Dest where
  | g (i : BitVec 6) | a (i : BitVec 5) | f (i : BitVec 4) | lc (i : BitVec 3) | mx (i : BitVec 2)
  | land (i : BitVec 4) | line (r : LineRef) | fmtHalf (h : Bool) | k (i : BitVec 4) | z (i : BitVec 3)
  | view (i : BitVec 4)
  /-- nothing is written: a request whose landing only marks its end -/
  | none
deriving DecidableEq, Repr

/-- An exposed result in flight (R197): written at context time `due`. `ord` is the issue order of its operation. -/
structure Pend where
  due  : Nat
  ord  : Nat
  slot : Slot
  dest : Dest
  val  : Line
deriving DecidableEq, Repr

/-- An own-scratchpad store not yet performed (R319), or a BREL that acts at `due` (R384). -/
structure OwnStore where
  due   : Nat
  ord   : Nat
  /-- physical byte address, package-local -/
  addr  : Nat
  /-- the issue order, in bundles, of the cycle in which it is performed (R358) -/
  step  : Nat
  /-- compact virtual address of the first byte (R408) -/
  va    : W64
  data  : List Byte
  /-- a BREL carried with the stores: ring, role (false producer), error mark, count -/
  brel  : Option (Nat × Bool × Bool × Nat)
deriving DecidableEq, Repr

/-- A fault that a request met: its cause (R401), taddr. -/
structure FaultRec where
  cause : Nat
  taddr : W64
deriving DecidableEq, Repr

/-- The state of a latch (R409). -/
inductive LatchStat where
  | arrived | pending | poisoned | retry
deriving DecidableEq, Repr

/-- An in-flight latch (R206): the request it waits for, its landing time and destination. -/
structure Latch where
  req   : Nat
  due   : Nat
  dist  : Nat
  ord   : Nat
  slot  : Slot
  dest  : Dest
  /-- the flag that a STEAL's result carries (R169) -/
  flag  : Option (BitVec 4 × Bool)
  stat  : LatchStat
  /-- core cycle at which own-scratchpad data is in the latch (R319) -/
  ready : Nat
  /-- freeze cycles of level-2 padding still to pass at the landing cycle (R209) -/
  pad   : Nat
  /-- core cycle of its issue, and the worst case of R208 of its source; 0 where none bounds it -/
  born  : Nat
  worst : Nat
  data  : Line
  cause : Nat
  taddr : W64
deriving DecidableEq, Repr

/-- Ordering kinds (R356). -/
inductive OrdKind where
  | s | o | n
deriving DecidableEq, Repr

/-- What an off-core request asks for. -/
inductive ReqOp where
  | load  (gather : Bool)
  | store
  | puth
  | atomic (op : BitVec 8) (wide uns : Bool) (v cmp : W64)
  | tlnew (num : W64)
  | tlrd (off : BitVec 10)
  /-- the source line is converted at the home, whose entry gives the position its rounding needs (R329) -/
  | tlwr (src : Line) (off : BitVec 14) (raw : Bool) (tt : Ty) (fmt : W32)
  | tlfin
  | tlqry
  | tlrep
  | launch (sel : W64)
  | launchm (sel : W64)
  | qlvl (sel : W64) (lvl : Nat)
  | qstat (sel : W64)
  | prio (tid : W64) (v : Nat)
  /-- FRZ, DRAIN, DSCAN, IMGW, IMGR and RECONF by op code, with x, the operand of ga or aa and that of gb or ab -/
  | team (op x : Nat) (a : W80) (b : W64)
deriving DecidableEq, Repr

/-- One separately performed piece of an access (R353): `len` bytes at virtual offset `off` of the request's home, byte
`pos` of its data. -/
structure Piece where
  off  : Nat
  pos  : Nat
  len  : Nat
  /-- physical address once translated -/
  pa   : Option Nat
  kind : OrdKind
  done : Bool
  /-- held at a window whose accumulator plane is busy (R181) -/
  held : Bool
  /-- the fault that its page or its word met; which one the request reports is known once every piece is (R190, R321) -/
  bad  : Option Nat
deriving DecidableEq, Repr

/-- A request that left the context (R319, R351): what it asks, its pieces, how far it is. -/
structure Req where
  id    : Nat
  ord   : Nat
  /-- context time of issue -/
  t     : Nat
  slot  : Slot
  op    : ReqOp
  /-- alias class (R359) -/
  cls   : Nat
  /-- home die of its address, or of its tile reference -/
  home  : Nat
  /-- the address of a memory access, the pointer of a tile access -/
  base  : W80
  pieces : List Piece
  /-- data read so far, or to be written; byte k at k -/
  data  : List Byte
  fault : Option FaultRec
  /-- all pieces performed, or the answer given -/
  performed : Bool
  /-- the report of its performing or fault has reached the context -/
  acked : Bool
  /-- context time of its level-2 completion bound (R361); none when the target is on another package -/
  bound : Option Nat
  /-- the number of an end-to-end sequence when it travels to another package (R466) -/
  remote : Option Nat
  /-- where the directory had the storage of a tile request's version as the request issued (R184, R355) -/
  place : Option Nat
deriving DecidableEq, Repr

/-- The states of a copy command (R333, R343, R344, R345). -/
inductive CmdStat where
  | queued | running | draining | stopped | done
deriving DecidableEq, Repr

/-- A command of the copy engine (R333 to R346). -/
structure Cmd where
  id    : Nat
  op    : BitVec 5
  hdr   : CpyHdr
  stage : List W64
  fmt   : W32
  rsn   : W64
  stat  : CmdStat
  /-- elements moved; the resume offset when stopped -/
  off   : Nat
  acq   : Bool
  cause : Nat
  taddr : W64
  /-- fault cause of R401 for the trap at the WAIT -/
  trap  : Nat
  /-- context time of issue and its scratchpad reservation length at level 2 (R341) -/
  tc    : Nat
  rl    : Nat
  /-- the bank reservation still stands (R340) -/
  resv  : Bool
  /-- a CRED's sources, read at its start (R338) -/
  table : List W64
  /-- the core cycle at which the command issued, for the order among the core's contexts -/
  born  : Nat
  /-- issue order in its context -/
  ord   : Nat
  /-- first elements of the writes on their way to another package and not acknowledged (R343, R481) -/
  far   : List Nat
deriving DecidableEq, Repr

/-- A transform operation with beats still to run, or a closing write of xst or of its flag (R283 to R292). -/
structure Xform where
  t0   : Nat
  ord  : Nat
  op   : BitVec 4
  x    : Xf
  xr   : BitVec 4
  fmt  : W32
  rsn  : W64
  /-- predicate: a false operation occupies its beats and does nothing (R286) -/
  live : Bool
  /-- beats run -/
  beat : Nat
  /-- source lines held, by number -/
  held : Sparse Line
  /-- lines written so far by an XEXP -/
  done : Nat
  /-- an XEXP stopped by a decode error -/
  err  : Bool
  /-- context time at which xst is written, and its value -/
  fin  : Option (Nat × W64)
deriving DecidableEq, Repr

/-- A view of a region (R301) with its binding and sample buffer (R313). -/
structure View where
  state : Nat
  served : Bool
  nsamp : Nat
  npass : Nat
  nfail : Nat
  inv   : W32
  wref  : W64
  /-- weights are loaded in the quad's working memory -/
  loaded : Bool
  bufOff : Nat
  cap   : Nat
deriving DecidableEq, Repr

/-- A pending comparison (R305): of region `rg`, effective after context time `c`. -/
structure Cmp where
  rg   : Nat
  c    : Nat
  known : Bool
  pass : Bool
deriving DecidableEq, Repr

/-- The open invocation of a region (R303, R304). -/
structure Invoc where
  rg    : Nat
  t     : Nat
  /-- samples are recorded at the APXE -/
  record : Bool
  /-- Sorrel is evaluated beside the true path -/
  both  : Bool
  /-- the surrogate path is taken -/
  serve : Bool
  /-- the input vector as FP32 patterns -/
  input : List W32
  /-- Sorrel's outputs, where it is evaluated -/
  ys    : List Nat
  /-- the engine has not finished a surrogate path's evaluation, and may not by its end (R304) -/
  late  : Bool
  /-- bundle index of the APXE -/
  last  : Nat
deriving DecidableEq, Repr

/-- A FTSTEP or FTSAMP under way (R315). -/
structure FitOp where
  step : Bool
  rg   : Nat
  w    : W64
  w2   : W64
  fl   : BitVec 4
  /-- what FTSAMP took at issue: counts and records -/
  nsamp : Nat
  npass : Nat
  nfail : Nat
  inv   : W32
  recs  : List Byte
  /-- core cycle of completion -/
  fin   : Nat
  /-- requests that carry its writes to another package -/
  sent  : List Nat
  /-- error found: cause and taddr -/
  err   : Option FaultRec
deriving DecidableEq, Repr

/-- The loop sequencer (R161, R171). -/
structure Seq where
  conf  : Bool
  bad   : Bool
  addr  : W64
  desc  : BitVec 256
  cur   : Nat
  hi    : Nat
  /-- core cycle at which the descriptor read completes -/
  ready : Nat
  /-- context time of the LPSCFG (R171) -/
  tcfg  : Nat
deriving DecidableEq, Repr

/-- An active hardware loop (R204, R232). -/
structure LoopRec where
  n     : BitVec 3
  first : Nat
  last  : Nat
deriving DecidableEq, Repr

/-- One stream of the matrix engine (R266, R277): issue cycle, plane, rows, lines and the weights it meets. -/
structure Stream where
  cyc  : Nat
  pl   : Nat
  row  : Nat
  cb   : Nat
  ty   : Ty
  n    : Nat
  /-- its predicate: a false MSTRM opens its windows and writes nothing (R270) -/
  live : Bool
  lines : List Line
  wa   : Sparse Line
  /-- lines entered, rows written -/
  entered : Nat
  written : Nat
deriving DecidableEq, Repr

/-- A hidden write of MLDW or MADDACC (R266). -/
inductive Hidden where
  | wload (cyc : Nat) (cols : List Line)
  | madd  (cyc : Nat) (pl row : Nat) (ty : Ty) (part : Nat) (x : Line)
deriving DecidableEq, Repr

/-- Matrix planes of a context (R262) and their busy windows (R266). Weight column j is the operand vector of its line;
an accumulator row is 32 FP32 elements. -/
structure Planes where
  fc0  : Ty
  fc1  : Ty
  fwa  : Ty
  fws  : Ty
  /-- rows of c0 at 0 to 63, of c1 at 64 to 127 -/
  acc  : Sparse (BitVec 1024)
  wa   : Sparse Line
  ws   : Sparse Line
  /-- first cycle after the busy windows opened by MSTRM and by others; planes c0, c1, wa, ws -/
  busyStream : Sparse Nat
  busyOther  : Sparse Nat
  streams : List Stream
  hidden  : List Hidden
deriving DecidableEq, Repr

/-- What a declined or yielded context waits for (R212, R214). -/
inductive Await where
  | flag (f : BitVec 4) (pol : Bool)
  | phase (name : Nat)
  | ringEmpty (r : Nat)
  | ringFull (r : Nat)
  | leases (m : Nat)
  | tile (ref : W64)
  | landing (req : Nat)
deriving DecidableEq, Repr

/-- Modes of a context (R414, R389, R429). -/
inductive Mode where
  | free | task | handler | wake | stopped | frozen
deriving DecidableEq, Repr

/-- What a trap in progress holds back (R403, R411): the context time T, the records' requests, the flags engines wrote
during the shadow. -/
structure Shadow where
  t       : Nat
  readCause : Bool
  readAddr  : Bool
  /-- flags written by an engine during the shadow (R411) -/
  engine  : BitVec 16
  /-- parked latches: the request and the number of its record (R409) -/
  parked  : List (Nat × Nat)
  /-- self-alias offset of the frame as written (R407) -/
  base    : Nat
  /-- the trap's cause, for `prior` in a stop record (R413) -/
  cause   : Nat
  /-- the open invocation of the task's schedule (R306) -/
  invoc   : Option Invoc
  /-- own stores and BRELs still to act when the trap was taken, with their remaining counts in `due` (R403) -/
  keep    : List OwnStore
  /-- a future-empty handler: the version it waits for (R394) -/
  ref     : Option W64
  /-- the handler chose to run another task (R394) -/
  inline  : Bool
  /-- the stopped command, or the failed fitting operation, whose WAIT trapped (R344) -/
  cmd     : Option Nat
  /-- the task's loop sequencer, when its descriptor read was under way as the trap was taken (R171) -/
  seq     : Option Seq
deriving DecidableEq, Repr

/-- A barrier name as the context sees it (R378). -/
structure BarView where
  member  : Bool
  /-- an arrival not yet notified -/
  arrived : Bool
  /-- an arrival was made since task entry -/
  made    : Bool
deriving DecidableEq, Repr

/-- Operations on their way to a barrier entry (R377). -/
inductive BarOp where
  | join | leave | arrive
deriving DecidableEq, Repr

/-- General registers of a context (R12). Registers not listed read 0. -/
structure Regs where
  g    : Sparse W64
  a    : Sparse W80
  /-- f1 to f15 in bits 1 to 15; bit 0 is unused: f0 reads 1 -/
  f    : BitVec 16
  land : Sparse Line
  /-- grid rows -/
  grid : Sparse Line
  k    : Sparse W64
  z    : Sparse W64
  lc   : Sparse W32
  mx   : Sparse W32
  fmt  : W32
  rsn  : W64
  xst  : W64
deriving DecidableEq, Repr

/-- Trap and handler registers (R400, R402, R388, R393). -/
structure SysRegs where
  tcause  : W64
  taddr   : W64
  tframe  : W64
  trapWord : W64
  timer   : W64
  /-- a TIMER is due (R402) -/
  timerDue : Bool
  /-- the counter value when it fell due -/
  timerAt : W64
  futWord : W64
  himg    : W64
  hctl    : W64
  /-- the arm bit in effect: a write while the context works takes effect when it is next free (R389) -/
  armed   : Bool
deriving DecidableEq, Repr

/-- Counters of R225, R226 and R372. -/
structure Counters where
  late : Nat
  pwr  : Nat
  busy : Nat
  bank : Nat
  sage : Nat
  sync : Nat
  /-- issue count -/
  issued : Nat
deriving DecidableEq, Repr

/-- Consecutive cycles for which each timed or failed condition has frozen the presented bundle (R171, R341, R361, R371). -/
structure Waits where
  /-- a failed freeze-form WAIT or BWT -/
  sync  : Nat
  /-- a bank reserved at level 2 -/
  bank  : Nat
  /-- a fence's padding at level 2 -/
  fence : Nat
  /-- the wait after an LPSCFG -/
  lps   : Nat
deriving DecidableEq, Repr

/-- The schedule of a context: where it is and what is in flight (R196 to R206). -/
structure Sched where
  /-- bundle index of the presented bundle -/
  pc    : Nat
  /-- context time of the presented bundle -/
  time  : Nat
  /-- pending branch: target and delay bundles still to issue (R203) -/
  rtgt  : Nat
  dly   : Nat
  loops : List LoopRec
  /-- empty bundles of a surrogate path still to issue (R304) -/
  empty : Nat
  /-- the TRAP of the presented bundle is taken as false (R417) -/
  tskip : Bool
  /-- number of operations issued: the order of results -/
  ord   : Nat
  pend  : List Pend
  latches : List Latch
  stores  : List OwnStore
  xforms  : List Xform
  /-- a LOOP of the issuing bundle: loop started, or body skipped -/
  jump  : Option (Nat ⊕ LoopRec)
  /-- consecutive cycles for which the presented bundle has frozen the core, and by cause -/
  held  : Nat
  waits : Waits
  /-- grid lines that results reached, with the core cycle: a window write to their words in it is discarded (R181, R240) -/
  wrote : List (Nat × LineRef)
  /-- issue order of the latest fence that released (R361) -/
  fence : Nat
  /-- the issuing bundle ended or restored the schedule: no next bundle follows it -/
  ended  : Bool
  /-- the presented bundle as a whole may issue: its operations take effect -/
  granted : Bool
deriving DecidableEq, Repr

/-- The memory side of a context: requests, faults to report, copy commands (R318, R319, R333). -/
structure MemSide where
  reqs   : List Req
  nextId : Nat
  /-- store-type faults whose report has reached the context: issue order, slot, fault (R368) -/
  due    : List (Nat × Slot × FaultRec)
  cmds   : List Cmd
  /-- the most recently issued command of each flag, as CSTAT reads it -/
  last   : Sparse W64
  /-- references whose TLFIN the task issued (R61) -/
  fins   : List W64
  /-- the page that a presented walk request (SYSWR 0x040) waits for, and whether its walk is complete (R193) -/
  preload : Option (W64 × Bool)
deriving DecidableEq, Repr

/-- Fitting state of a context (R301 to R315). -/
structure FitSide where
  views  : Sparse View
  cmps   : List Cmp
  invoc  : Option Invoc
  ops    : List FitOp
  /-- weight versions bound during the task (R310) -/
  bound  : List W64
  /-- the weight version that a presented FTCFG waits for, its region, whether it is new (R313) -/
  want   : Option (W64 × Nat × Bool)
  /-- what another package's home answered of the version that a presented FTCFG names: its entry's bytes, none where it holds none -/
  answer : Option (W64 × List Byte)
deriving DecidableEq, Repr

/-- Synchronisation state of a context (R378, R390). -/
structure SyncSide where
  bars  : Sparse BarView
  /-- operations on their way to their entries, oldest first: operation, name, and the issue order below which every
  own-scratchpad store is performed first, 0 for none (R363) -/
  out   : List (BarOp × Nat × Nat)
  /-- wake queue: payload address and source placement -/
  wakes : List (W64 × W64)
  /-- what a declined or yielded context waits for (R212, R214) -/
  await : Option Await
  /-- gave up the width; must drain before it issues (R213) -/
  yielded : Bool
  /-- a pre-emption request waits (R420) -/
  preempt : Bool
  /-- frozen by a team freeze (R430) -/
  freezing : Bool
  /-- the core cycle in which the request to freeze came -/
  asked : Nat
  /-- its TEND waits (R168, R537) -/
  tending : Bool
  /-- its TEND has written the task's lineage and waits for the copies' acknowledgements (R499) -/
  retired : Bool
  /-- the version of another package whose home counts this context among its waiters (R42, R394) -/
  told : Option W64
deriving DecidableEq, Repr

/-- One context (R12). -/
structure Ctx where
  mode  : Mode
  task  : Option Task
  regs  : Regs
  sys   : SysRegs
  planes : Planes
  sched : Sched
  mem   : MemSide
  fit   : FitSide
  sync  : SyncSide
  seq   : Seq
  cnt   : Counters
  shadow : Option Shadow
deriving DecidableEq, Repr

/-- Reset values of the general registers (R9, R147; log entry 1). -/
def Regs.reset : Regs :=
  { g := [], a := [], f := 0, land := [], grid := [], k := [], z := [], lc := [], mx := [], fmt := 0, rsn := 0,
    xst := 0 }

/-- Reset values of the trap registers (R402). -/
def SysRegs.reset : SysRegs :=
  { tcause := 0, taddr := 0, tframe := 0x16000, trapWord := 0, timer := 0, timerDue := false, timerAt := 0,
    futWord := 0, himg := 0, hctl := 0, armed := false }

/-- Every plane .f32 and +0 (R262). -/
def Planes.reset : Planes :=
  { fc0 := .f32, fc1 := .f32, fwa := .f32, fws := .f32, acc := [], wa := [], ws := [], busyStream := [],
    busyOther := [], streams := [], hidden := [] }

/-- Nothing has waited. -/
def Waits.reset : Waits := { sync := 0, bank := 0, fence := 0, lps := 0 }

/-- No result in flight, no active loop (R215). -/
def Sched.reset : Sched :=
  { pc := 0, time := 0, rtgt := 0, dly := 0, loops := [], empty := 0, tskip := false, ord := 0, pend := [],
    latches := [], stores := [], xforms := [], jump := none, held := 0, waits := .reset, wrote := [], fence := 0, ended := false, granted := false }

/-- Nothing requested. -/
def MemSide.reset : MemSide :=
  { reqs := [], nextId := 0, due := [], cmds := [], last := [], fins := [], preload := none }

/-- Every view unbound and INVALID (R301). -/
def FitSide.reset : FitSide := { views := [], cmps := [], invoc := none, ops := [], bound := [], want := none, answer := none }

/-- No barrier view, no wake. -/
def SyncSide.reset : SyncSide :=
  { bars := [], out := [], wakes := [], await := none, yielded := false, preempt := false, freezing := false, asked := 0,
    tending := false, retired := false, told := none }

/-- The sequencer not configured (R215). -/
def Seq.reset : Seq :=
  { conf := false, bad := false, addr := 0, desc := 0, cur := 0, hi := 0, ready := 0, tcfg := 0 }

/-- Counters at 0 (R226). -/
def Counters.reset : Counters := { late := 0, pwr := 0, busy := 0, bank := 0, sage := 0, sync := 0, issued := 0 }

/-- An unbound view (R301). -/
def View.reset : View :=
  { state := 0, served := false, nsamp := 0, npass := 0, nfail := 0, inv := 0, wref := 0, loaded := false,
    bufOff := 0, cap := 0 }

/-- A barrier name the context has not used. -/
def BarView.reset : BarView := { member := false, arrived := false, made := false }

/-- A free context at its reset values (log entry 1). -/
def Ctx.reset : Ctx :=
  { mode := .free, task := none, regs := .reset, sys := .reset, planes := .reset, sched := .reset, mem := .reset,
    fit := .reset, sync := .reset, seq := .reset, cnt := .reset, shadow := none }

end Sys2Proof.Machine
end

