-- ==== Sys2Proof/Machine/PkgState.lean ====
section
/-! DEFINITION. The state of cores, quads, dies and the package around the contexts: queues, directory, lineage, page
tables' caches, barrier table, fabric, host and management attachments. Plain data only. -/

namespace Sys2Proof.Machine

/-- A buffer ring (R380 to R383). -/
structure Ring where
  conf  : Bool
  desc  : W64
  owner : Nat
  pi    : Nat
  ci    : Nat
  tags  : Sparse W64
  /-- the core cycle in which performed writes last changed a tag, and the tags before it (R386) -/
  was   : Option (Nat × Sparse W64)
deriving DecidableEq, Repr

/-- A translation held by a TLB (R191): page of `2^size` bytes at offset `page` of home `home`. -/
structure TlbEntry where
  home : Nat
  page : Nat
  size : Nat
  frame : Nat
  r : Bool
  w : Bool
  kind : OrdKind
  d : Bool
  pn : Bool
deriving DecidableEq, Repr

/-- A line of the bundle cache (R202): four bundles of an image; `lock` names the context that locked it. -/
structure CacheLine where
  image : W64
  line  : Nat
  lock  : Option Nat
deriving DecidableEq, Repr

/-- The state of an accepted task's entry (R142, R149 to R153). Times are the package's core-cycle count. -/
inductive QStat where
  /-- some input is not settled -/
  | waiting
  /-- ready since the cycle given -/
  | ready (since : Nat)
  /-- in the local ready queue of a core since the cycle given -/
  | loc (core since : Nat)
  /-- running on a context -/
  | running (ctx : Nat)
  /-- set aside by an inline choice until the version is VALID or FREED (R394) -/
  | parked (core : Nat) (ref : W64) (since : Nat)
deriving DecidableEq, Repr

/-- A task entry of a die's pool (R142). Queue 64 is the recovery queue (R515). -/
structure QEntry where
  queue : Nat
  task  : Task
  stat  : QStat
  /-- freeze image from which it resumes (R421, R440) -/
  image : Option Nat
deriving DecidableEq, Repr

/-- A level-change entry (R163). -/
structure LevelChange where
  queue : Nat
  seq   : Nat
  level : Nat
  /-- level in force before it -/
  prev  : Nat
deriving DecidableEq, Repr

/-- A task queue (R143, R146): current level and the next sequence number. -/
structure Queue where
  level : Nat
  seq   : Nat
  /-- sequence number of the latest level-change entry -/
  change : Nat
deriving DecidableEq, Repr

/-- A tile version's directory entry (R42) with what the home keeps beside it (R146, R503, R520). States: 1 FUTURE,
2 WRITING, 3 VALID, 4 LOST, 5 REBUILDING, 6 FREED. -/
structure Tile where
  rows8 : Nat
  cols8 : Nat
  efmt  : Nat
  state : Nat
  apx   : Bool
  repl  : Bool
  nolin : Bool
  level : Nat
  depth : Nat
  wprio : Nat
  usesinit : Nat
  uses  : Nat
  /-- package-local physical address of its storage -/
  loc   : Nat
  linrec : Nat
  /-- dependant count (R503) -/
  deps  : Nat
  /-- producer: package and task id (R146) -/
  prod  : Option (Nat × Nat)
  job   : Nat
  /-- tasks marked as users of a rebuilt version (R520) -/
  marked : List (Nat × Nat)
  /-- a recovery found it unrecoverable (R522) -/
  dead  : Bool
  /-- recovered from FREED: uses count the marked tasks until it returns there (R520) -/
  again : Bool
  /-- its content stands in its storage though its state is not VALID: until a copy for the buddy home is acknowledged (R66, R510) -/
  kept  : Bool
  /-- waiting contexts of other packages: package and context (R42, R394) -/
  parked : List (Nat × Nat)
  /-- packages that wait for a change of the version and are told of each (R149, R394, R513) -/
  watch : List Nat
deriving DecidableEq, Repr

/-- A record set of a lineage store (R497, R498). -/
structure LinRec where
  ref   : W64
  img   : W64
  entry : Nat
  level : Nat
  apx   : Bool
  oj    : Nat
  outs  : List W64
  ins   : List W64
  args  : List W64
  depth : Nat
  wmask : Nat
  tid   : Nat
  rank  : Nat
  team  : Nat
  job   : Nat
  tsize : Nat
  pkg   : Nat
  prio  : Nat
deriving DecidableEq, Repr

/-- A recovery under way (R514): a rebuild by its producer, whose queue entry tells WALK, QUEUED and RUNNING apart, or a
restore from the replica. -/
inductive Rebuild where
  | rebuild | restore
deriving DecidableEq, Repr

/-- A bound barrier name (R377): its team's key, phase, counts and members. A member is its context's rank with whether
it has arrived in the current phase and whether it leaves at completion. -/
structure BarEntry where
  team  : Nat
  name  : Nat
  phase : W32
  e     : Nat
  a     : Nat
  members : List (Nat × Bool × Bool)
  /-- ranks to be notified of a completed phase -/
  notify : List Nat
deriving DecidableEq, Repr

/-- A sealed image (R53, R127, R136). -/
structure Image where
  handle : W64
  bundles : List (BitVec 512)
  entries : List Nat
  handlers : List Nat
  regions : List (BitVec 512)
  sys    : Bool
  digest : BitVec 384
  data   : List Byte
  dataAt : W64
  /-- sealing completed (R137) -/
  ready  : Bool
  /-- the file (R140), as it goes to another package (R505) -/
  file   : List Byte
deriving DecidableEq, Repr

/-- A walk request in a walk queue (R192). -/
structure Walk where
  home : Nat
  off  : Nat
  write : Bool
  /-- requesting package and core -/
  pkg  : Nat
  core : Nat
  /-- the tag of a request from another package (log entry 5) -/
  tag  : W64
  /-- the cycle of its arrival -/
  cycle : Nat
deriving DecidableEq, Repr

/-- Points where arrivals of one cycle have an order, or where one cycle has one arrival (R44, R151, R158, R160, R333, R348,
R377). -/
inductive Spot where
  /-- the entry of a tile version in its home's directory -/
  | directory (ref : W64)
  /-- the write queue of a memory port: an HBM stack of a die, the scratchpad of a core -/
  | stack (die k : Nat)
  | pad (core : Nat)
  /-- the dispatcher of a die -/
  | take (die : Nat)
  /-- the local ready queue of a core, as stealing reaches it -/
  | victim (core : Nat)
  /-- the stealing attempts of a core -/
  | attempt (core : Nat)
  /-- the copy engine of a core -/
  | burst (core : Nat)
  /-- an entry of a die's barrier table -/
  | barrier (die entry : Nat)
  /-- the queue side of a die -/
  | queues (die : Nat)
deriving DecidableEq, Repr

/-- The latest arrival at a point: its cycle and its rank in that cycle's order. -/
structure Stamp where
  spot  : Spot
  cycle : Nat
  rank  : Nat
deriving DecidableEq, Repr

/-- A freeze image (R421, R436): the context, its plain area, the rings it owns and the bytes of their slots, by place in the tile
window. -/
structure FreezeImage where
  ctx   : Ctx
  plain : List Host.Cell
  rings : List (Nat × Ring)
  slots : List Host.Cell
deriving DecidableEq, Repr

/-- An entry of a quad's region table (R298). -/
structure RegEntry where
  wref  : W64
  loaded : Bool
  nlines : Nat
  base  : Nat
  refs  : Nat
  /-- order of use, for the least recently used choice -/
  used  : Nat
  /-- the weight version as loaded: its FP32 words, row by row (R299) -/
  words : List W32
deriving DecidableEq, Repr

/-- One core (R152, R158, R191, R202, R211, R219 to R225, R333, R380). -/
structure Core where
  running : Nat
  cycle   : Nat
  pwrLim  : Nat
  /-- charges of earlier cycles: cycle and weight (R220) -/
  charges : List (Nat × Nat)
  /-- streams that charge: first cycle, lines, weight (R218) -/
  drawing : List (Nat × Nat × Nat)
  /-- lease expiries by class 1 to 3; the cycle at which a command of the class last issued (R222) -/
  leases  : Sparse Nat
  lastUse : Sparse Nat
  cache   : List CacheLine
  utlb    : List TlbEntry
  rot     : Nat
  /-- cycles to wait before the next stealing round, and victims tried in this round (R158) -/
  stealWait : Nat
  tried   : Nat
  rings   : Sparse Ring
  offline : Bool
  copyRR  : Nat
  /-- cycles until the first bundle of the context that took the width (R214) -/
  switch  : Nat
  /-- the width is given to no context -/
  idle    : Bool
  /-- task id at the head of the local ready queue, and the cycle since which it stands there (R153) -/
  head    : Option (Nat × Nat)
deriving DecidableEq, Repr

/-- A packet store of a die and its acceptance windows (R466, R468). -/
structure E2E where
  /-- packets not yet acknowledged -/
  store  : List Packet
  /-- next sequence number by destination die (package × 4 + die) -/
  next   : Sparse Nat
  /-- lowest number not yet acknowledged, by destination -/
  acked  : Sparse Nat
  /-- per source die: lowest unaccepted number, numbers accepted above it -/
  low    : Sparse Nat
  above  : Sparse (List Nat)
  /-- ord packets accepted and held until the lower numbers are delivered (R469) -/
  held   : List Packet
  /-- drain markers sent and not answered -/
  drains : List Nat
  /-- packets that wait for the sequence window or for room in the store -/
  waiting : List Packet
  /-- next sequence number of the multicast stream -/
  mnext  : Nat
  /-- multicast packets by sequence number, with the destination dies that have not acknowledged -/
  sets   : List (Nat × List Nat)
deriving DecidableEq, Repr

/-- The control port (R446). -/
structure Port where
  op : W64
  a  : W64
  b  : W64
  go : Bool
  st : W64
deriving DecidableEq, Repr

/-- Lineage state of a die (R496, R525; log entry 109): its home area and mirror area, the rebuilds under way. -/
structure Lineage where
  home   : Sparse LinRec
  mirror : Sparse LinRec
  nextRec : Nat
  used   : Nat
  dmax   : Nat
  /-- lost homes for which this die acts, the latest last (R510, R525): package × 4 + die -/
  acts   : List Nat
  /-- rebuilds by version reference, with their priority -/
  rebuilds : Sparse (Rebuild × Nat)
  /-- on their way to the homes of this die: use releases with package and task id, reports of destroyed content,
  recovery requests with their priority -/
  releases : List (W64 × Nat × Nat)
  reports  : List W64
  requests : List (W64 × Nat)
  /-- versions being copied to the buddy home (R332) -/
  copying : List W64
  /-- the on-die cache: records of the home area (false) and the mirror area, by index or reference, the latest used first (R496) -/
  cache  : List (Bool × Nat)
  /-- the cycle of the first recovery request of a version that is being rebuilt (R526) -/
  asked  : Sparse Nat
deriving DecidableEq, Repr

/-- One die. -/
structure Die where
  root    : W64
  tlb     : List TlbEntry
  /-- the walk queue, and the walks in flight with the requests that joined them (R192) -/
  walks   : List Walk
  walking : List Walk
  queues  : Sparse Queue
  changes : List LevelChange
  entries : List QEntry
  /-- re-dispatches and rebuilds that wait for an entry (R142) -/
  waitEntry : List QEntry
  /-- free team slots as last advertised, and when (R157) -/
  slots   : Nat
  advert  : Nat
  tiles   : Sparse Tile
  /-- directory mirror of the homes whose buddy home this die is (R510) -/
  mirror  : Sparse Tile
  /-- replicas held for other homes: contents by reference (R332) -/
  replicas : Sparse (List Byte)
  /-- highest version allocated by tile number (R36) -/
  versions : Sparse Nat
  nextTile : Nat
  lin     : Lineage
  images  : List Image
  /-- images on their way from another package, by handle: the bytes that have come (R505) -/
  parts   : Sparse (List Byte)
  /-- tasks withdrawn from this die's queues: task id and cause of R145 (R59, R127; log entry 111) -/
  withdrawn : List (Nat × Nat)
  /-- latest generation by image number (R137) -/
  gens    : Sparse Nat
  /-- the image store in firmware-reserved HBM (R127, R179; log entry 63): die-local address and bytes -/
  store   : Nat × Nat
  bars    : Sparse BarEntry
  frozen  : Sparse FreezeImage
  dirty   : Sparse Bool
  bad     : List Nat
  boot    : Nat
  /-- the package's core-cycle count at its latest reset (R540) -/
  resetAt : Nat
  offline : Bool
  meas    : Sparse (BitVec 384)
  /-- SHA-384 digests of the system images that the signed firmware lists (R538) -/
  sysList : List (BitVec 384)
  port    : Port
  e2e     : E2E
deriving DecidableEq, Repr

/-- One link direction (R452 to R456, R460, R476, R479). -/
structure LinkDir where
  /-- 0 UP, 1 DEG, 2 RESTRIPE, 3 HELD, 4 DOWN -/
  st    : Nat
  mask  : BitVec 16
  rst   : Nat
  nrs   : Nat
  nrp   : Nat
  /-- sender: next sequence number; receiver: expected number -/
  seq   : Nat
  /-- sender: flits not acknowledged; receiver: flits of a packet not yet whole -/
  buf   : List Flit
  /-- flits waiting to be sent -/
  out   : List Flit
  /-- receiver: a NAK was sent since the last accepted flit -/
  nak   : Bool
  /-- receiver: accepted flits not covered by an ACK -/
  unacked : Nat
  /-- sender: permits spent by VC (class × 4 + vc); receiver: occupied slots -/
  slots : Sparse Nat
  /-- permits returned or received, by VC -/
  count : Sparse Nat
  /-- receiver: permits not yet returned in an ACK -/
  owed  : Sparse Nat
  /-- wavelengths relocked in RESTRIPE, to be added at its end -/
  relock : BitVec 16
  /-- wavelengths lost by the detections of this restripe -/
  lostw : BitVec 16
  /-- die cycle counter at the detection or hold -/
  since : Nat
  /-- the E of the TRAIN that the sender replays from -/
  trainE : Nat
  /-- sender: the route version that the other end reported as installed (R475, R546) -/
  peer : Option (BitVec 8)
  /-- restripe in progress follows a relock, not a loss of light (R458) -/
  adding : Bool
  /-- sender: flits sent since the last restripe (R451) -/
  flits : Nat
  /-- receiver: wavelengths lost, each with the cycle of its detection (R456) -/
  dark : List (Nat × Nat)
  /-- receiver: the package at the other end, as the link's training told it (R475; log entry 20) -/
  end_ : Option Nat
  /-- sender: the cycle of the last AUDIT mark (R476) -/
  audit : Nat
deriving DecidableEq, Repr

/-- Route tables of one version (R463, R464). -/
structure Routes where
  ver : BitVec 8
  tab : Sparse (BitVec 128)
  mc  : Sparse (BitVec 576)
deriving DecidableEq, Repr

/-- An advance at the coordinator (R467): version, packages that have not answered. -/
structure Advance where
  ver   : BitVec 8
  due   : List Nat
  start : Nat
  /-- the cycle of the mark -/
  mark  : Nat
  /-- the mark was flooded -/
  sent  : Bool
  /-- a further advance follows -/
  again : Bool
deriving DecidableEq, Repr

/-- A RECONF under way (R475, R488). -/
structure Reconf where
  desc  : BitVec 1024
  /-- who asked: a context and its request, or a die's control port -/
  ctx   : Option (Nat × Nat)
  die   : Nat
  /-- 1 draining, 2 drained, 3 held -/
  step  : Nat
  start : Nat
  /-- the tables and members to install -/
  tabs  : Routes
  mems  : List (Nat × Nat × Nat × Nat)
deriving DecidableEq, Repr

/-- A packet inside the package: the link it came over, and whether it is a multicast's local copy (R461, R470). -/
structure Transit where
  pkt  : Packet
  link : Option Nat
  here : Bool
deriving DecidableEq, Repr

/-- The package's fabric state. -/
structure Fabric where
  active : Routes
  shadow : Routes
  gid   : Nat
  size  : Nat
  /-- group members: package and coordinates -/
  members : List (Nat × Nat × Nat × Nat)
  coord : Nat
  nadv  : Nat
  adv   : Option Advance
  rcf   : Option Reconf
  /-- at the coordinator: packages that reported drain done (R488) -/
  drained : List Nat
  links : Sparse LinkDir
  /-- packets inside the package that wait for a hop or a delivery -/
  transit : List Transit
  /-- the buddy ring: the online packages of the domain (R185) -/
  ring  : List Nat
  /-- dies of other packages known to be lost (R509): package × 4 + die -/
  gone  : List Nat
  /-- versions homed on other packages, as their homes last reported them to waiters here: state + 8 × apx + 16 × no
  lineage + 32 × depth -/
  known : Sparse Nat
deriving DecidableEq, Repr

/-- A team (R156, R157, R429). -/
structure Team where
  key   : Nat
  job   : Nat
  die   : Nat
  queue : Nat
  tsize : Nat
  /-- 0 RUNNING, 1 FROZEN, 2 DRAINED -/
  state : Nat
  /-- ranks launched, ranks ended -/
  ranks : List Nat
  ended : List Nat
  /-- die that holds the bindings: the die of rank 0 -/
  bindDie : Nat
  /-- compact address of the last image (R443) -/
  image : W64
  /-- dispatched -/
  placed : Bool
  /-- next choice of its die since this cycle (R157) -/
  choice : Option Nat
  /-- launched by LAUNCHM: runs on its masked cores -/
  masked : Bool
  /-- sequence number of the first member, against later level changes (R156) -/
  first : Nat
  /-- contexts reserved for it (R157) -/
  reserved : List Nat
  /-- cycle of its freeze (R150) -/
  since : Nat
  /-- bindings of an image, for its placement (R440) -/
  saved : List BarEntry
  /-- an image on its way to other packages: its address and the status word once it is acknowledged (R443) -/
  sending : Option (W64 × W64)
deriving DecidableEq, Repr

/-- A job (R65, R172, R444, R447). -/
structure Job where
  steps : Nat
  marks : List (Nat × Nat)
  period : Nat
  every : Nat
  area  : W64
  last  : Nat
  /-- step count at the latest checkpoint trigger (R444) -/
  lastStep : Nat
deriving DecidableEq, Repr

/-- Host and management registers (R533, R536 to R538, R542, R543). -/
structure HostSide where
  owner  : W64
  jqbase : W64
  jqsize : W64
  jqtail : Nat
  jqhead : Nat
  eqbase : W64
  eqsize : W64
  eqtail : Nat
  eqhead : Nat
  plim   : Nat
  mbox   : Sparse Byte
  bar2   : W64
  /-- records that found the host ring full -/
  ringFull : Bool
  mgmtLim : Nat
  inlet  : Nat
  flow   : Nat
  /-- event sequence number, and the latest 1,024 records -/
  seqno  : Nat
  events : List (BitVec 256)
  fatal  : Bool
  dump   : List Byte
  /-- the requests of the SPDM session over DOE and of the one over MCTP (R541) -/
  doe    : List (List Byte)
  mctp   : List (List Byte)
deriving DecidableEq, Repr

/-- What leaves the package towards the host, the management port, a link or the circuit switch. -/
inductive Out where
  /-- a message to the control core of another package for which R462 lists no op: a link report, a drain-done (R467, R488) -/
  | report (pkg : Nat) (w : W64)
  /-- the answer to a read that the host or a control core made: the address it gave, the bytes -/
  | answer (addr : Nat) (data : List Byte)
  /-- a write to host memory -/
  | host (addr : Nat) (data : List Byte)
  | msix (vector : Nat)
  | mgmt (data : List Byte)
  | spdm (mctp : Bool) (data : List Byte)
  /-- a flit on a link, with the wavelength that each of its 16 units travels on (R451) -/
  | flit (link : Nat) (f : Flit) (waves : List Nat)
  /-- an event to a control core: die and record -/
  | control (die : Nat) (r : BitVec 256)
deriving DecidableEq, Repr

/-- Power leave (R222): budget in hundredths of a watt and the requests that wait, in order: core and class. -/
structure Sage where
  budget : Nat
  queue : List (Nat × Nat)
deriving DecidableEq, Repr

/-- A hidden request descriptor as the hardware wrote it, with what it stands for (R408, log entry 7). -/
inductive Descr where
  | req (r : Req) (l : Latch)
  | xform (x : Xform)
deriving DecidableEq, Repr

/-- Queue reset (R143, R146). -/
def Queue.reset : Queue := { level := 0, seq := 1, change := 0 }

/-- An unconfigured ring (R380). -/
def Ring.reset : Ring := { conf := false, desc := 0, owner := 0, pi := 0, ci := 0, tags := [], was := none }

/-- A core after die reset (R219, R225; log entries 1 and 12). -/
def Core.reset : Core :=
  { running := 0, cycle := 0, pwrLim := 2560, charges := [], drawing := [], leases := [], lastUse := [], cache := [],
    utlb := [], rot := 0, stealWait := 0, tried := 0, rings := [], offline := false, copyRR := 0, switch := 0,
    idle := true, head := none }

/-- The end-to-end side after reset. -/
def E2E.reset : E2E :=
  { store := [], next := [], acked := [], low := [], above := [], held := [], drains := [], waiting := [], mnext := 0, sets := [] }

/-- The lineage side after die reset (R501, R525). -/
def Lineage.reset : Lineage :=
  { home := [], mirror := [], nextRec := 0, used := 0, dmax := 4, acts := [], rebuilds := [],
    releases := [], reports := [], requests := [], copying := [], cache := [], asked := [] }

/-- A die after reset, its boot done (R186, R525, R539; log entries 12 and 63). -/
def Die.reset : Die :=
  { root := 0, tlb := [], walks := [], walking := [], queues := [], changes := [], entries := [], waitEntry := [],
    slots := 0, advert := 0, tiles := [], mirror := [], replicas := [], versions := [], nextTile := 1,
    lin := .reset, images := [], parts := [], withdrawn := [], gens := [], store := (0x2F00000000, 0x100000000), bars := [], frozen := [], dirty := [], bad := [], boot := 3, resetAt := 0,
    offline := false, meas := [], sysList := [],
    port := { op := 0, a := 0, b := 0, go := false, st := 0 }, e2e := .reset }

/-- A link direction after reset (R479). -/
def LinkDir.reset : LinkDir :=
  { st := 0, mask := 0xFFFF, rst := 0, nrs := 0, nrp := 0, seq := 0, buf := [], out := [], nak := false, unacked := 0,
    slots := [], count := [], owed := [], relock := 0, lostw := 0, since := 0, trainE := 0, peer := none, adding := false,
    flits := 0, dark := [], end_ := none, audit := 0 }

/-- The fabric after package reset: a connected group of one (R546); its own route entry has rch = 1 and loc = 1. -/
def Fabric.reset : Fabric :=
  { active := { ver := 0, tab := [(0, 0x600)], mc := [] }, shadow := { ver := 0, tab := [(0, 0x600)], mc := [] },
    gid := 0, size := 1, members := [(0, 0, 0, 0)], coord := 0, nadv := 0, adv := none, rcf := none, drained := [], links := [],
    transit := [], ring := [0], gone := [], known := [] }

/-- Host side after package reset (R533; log entry 12 for the coolant, the management limit and the aperture). -/
def HostSide.reset : HostSide :=
  { owner := 0, jqbase := 0, jqsize := 0, jqtail := 0, jqhead := 0, eqbase := 0, eqsize := 0, eqtail := 0, eqhead := 0,
    plim := 3400, mbox := [], bar2 := 0, ringFull := false, mgmtLim := 3400, inlet := 25, flow := 30, seqno := 0,
    events := [], fatal := false, dump := [], doe := [], mctp := [] }

/-- A job that nothing has touched. -/
def Job.reset : Job := { steps := 0, marks := [], period := 0, every := 0, area := 0, last := 0, lastStep := 0 }

/-- Sage's budget after reset (R222). -/
def Sage.reset : Sage := { budget := 74000, queue := [] }

end Sys2Proof.Machine
end

