-- ==== Sys2Proof/Machine/State.lean ====
section
/-! DEFINITION. The state of one AX4 package, what a step can answer beside a next state, and the package right after
reset. Maps list only what differs from its reset value. -/

namespace Sys2Proof.Machine

/-- What moves next (log entry 4): a core cycle of the core of the context `cur`, a core cycle of another core, or an
indivisible step of another agent with its arguments. -/
inductive Move where
  | cycle
  | core (c : Nat)
  | event (i : Instr) (e : EvtArg)
deriving DecidableEq, Repr

/-- Bytes of the package's memory by 46-bit package-local physical address (R179): strictly rising addresses, no byte
listed that is 0, which is what an unlisted address reads as (log entry 2). -/
abbrev Memory := List Host.Cell

/-- The canonical form of memory: addresses strictly rising, no zero byte listed. -/
abbrev Memory.wf (m : Memory) : Prop :=
  (m.map Prod.fst).Pairwise (· < ·) ∧ ∀ c ∈ m, c.2 ≠ 0

/-- One package (R13, R14, R173, R174). -/
structure State where
  /-- dies D0 to D3 -/
  dies  : Sparse Die
  /-- cores by physical core index (R173) -/
  cores : Sparse Core
  /-- contexts by 4 × physical core index + context number -/
  ctxs  : Sparse Ctx
  /-- region tables of the quads, by package-wide quad number, then entry (R298) -/
  quads : Sparse (Sparse RegEntry)
  mem   : Memory
  teams : List Team
  jobs  : Sparse Job
  fab   : Fabric
  host  : HostSide
  sage  : Sage
  /-- package index (R174) -/
  pkg   : Nat
  /-- the package's count of core cycles -/
  clock : Nat
  /-- walk requests on their way to other packages: page and tag; the count of invalidations, which their tags carry (R194) -/
  walksOut : List (W64 × W64)
  epoch : Nat
  /-- the latest arrivals of this cycle at the points where arrivals have an order -/
  stamps : List Stamp
  /-- team images that IMGW wrote here, by digest: their members and bound names, with the state that R436 does not lay out (log
  entry 17) -/
  portable : List (BitVec 384 × List FreezeImage × List BarEntry)
  /-- request descriptors written into frames (R408, log entry 7) -/
  descs : List (Line × Descr)
  /-- what left the package, oldest first -/
  out   : List Out
  /-- the model's own: the context whose operations run, what moves next, the argument of an indivisible step, the
  counter of free values (log entries 4 and 10) -/
  cur   : Nat
  agenda : List Move
  evt   : EvtArg
  free  : Nat
deriving DecidableEq, Repr

/-- Why a step stops for want of any behaviour. -/
inductive Fault where
  /-- A core presents a bundle that no slot layout of R102 to R126 decodes. Sealed images hold none (R127, R128), so
  only states that no run reaches raise it; raised by the step. Safe: the model stops. -/
  | badBundle
deriving DecidableEq, Repr

/-- Why the model gives no next state. -/
inductive Refusal where
  /-- An instruction that has no meaning yet; raised by the dispatch. Safe. -/
  | notModelled (mnemonic : String)
  /-- An indivisible step that cannot come about in this state (nothing for it to act on, or an ordering rule holds it
  back); raised by the events. Safe: the hardware does not take the step either. -/
  | notEnabled
deriving DecidableEq, Repr

/-- An empty packet. -/
def packetZero : Packet :=
  { dpkg := 0, ddie := 0, spkg := 0, sdie := 0, cls := 0, vc := 0, ver := 0, mc := false, dl := 0, ord := false, seq := 0,
    op := 0, addr := 0, aux := 0, body := [] }

/-- An empty flit. -/
def flitZero : Flit := { seq := 0, kind := 0, crc := 0, pay := 0 }

/-- No argument. -/
def evtZero : EvtArg :=
  { n := 0, m := 0, k := 0, w := 0, v := 0, flag := false, data := [], list := [], pkt := packetZero, flit := flitZero }

/-- The package right after reset: every die booted and online (log entry 12), a connected group of one (R546), no
task, no image, memory with nothing listed (log entry 2), every register at its reset value (log entry 1). -/
def State.reset : State :=
  { dies := [], cores := [], ctxs := [], quads := [], mem := [], teams := [], jobs := [], fab := .reset,
    host := .reset, sage := .reset, pkg := 0, clock := 0, walksOut := [], epoch := 0, stamps := [], portable := [], descs := [], out := [], cur := 0, agenda := [],
    evt := evtZero, free := 0 }

end Sys2Proof.Machine
end

