-- ==== Sys2Proof/Machine/Bits.lean ====
section
/-! DEFINITION. Bit fields, sign extension, byte order (R3, R4), words and lines. -/

namespace Sys2Proof.Machine

/-- Bits [lo+n-1:lo] of a natural number (R3). -/
def bits (v lo n : Nat) : Nat := (v >>> lo) % 2 ^ n

/-- Bit `i`. -/
def bit (v i : Nat) : Bool := (v >>> i) % 2 = 1

/-- A truth value as a number. -/
def b2n (b : Bool) : Nat := if b then 1 else 0

/-- Two's-complement value of the low `n` bits. -/
def signed (n v : Nat) : Int := if 2 * (v % 2 ^ n) < 2 ^ n then (v % 2 ^ n : Nat) else ((v % 2 ^ n : Nat) : Int) - 2 ^ n

/-- Wrap an integer to `n` bits. -/
def wrap (n : Nat) (x : Int) : Nat := (x % (2 ^ n : Nat)).toNat

/-- Sign-extend a 32-bit immediate to 64 bits. -/
def sext64 (imm : BitVec 32) : W64 := imm.signExtend 64

/-- The `n` bytes of a value, lowest first (R4). -/
def toBytes (n v : Nat) : List Byte :=
  match n with
  | 0 => []
  | n + 1 => BitVec.ofNat 8 v :: toBytes n (v >>> 8)

/-- The value of bytes, lowest first (R4). -/
def ofBytes (bs : List Byte) : Nat :=
  match bs with
  | [] => 0
  | b :: r => b.toNat + 256 * ofBytes r

/-- The line whose word at position w is `f w` (R236). -/
def lineOfWords (f : Nat → W32) : Line :=
  BitVec.ofNat 2048 ((List.range 64).foldl (fun acc w => acc + (f w).toNat <<< (32 * w)) 0)

/-- Word at position `w` of a line (R236). -/
def lineWord (l : Line) (w : Nat) : W32 := BitVec.ofNat 32 (l.toNat >>> (32 * w))

/-- Element `e` of width `b` bits of a line (R237). -/
def lineElem (b : Nat) (l : Line) (e : Nat) : Nat := bits l.toNat (b * e) b

/-- The line of elements of width `b` (R237), element e being `f e`; `n` elements. -/
def lineOfElems (b n : Nat) (f : Nat → Nat) : Line :=
  BitVec.ofNat 2048 ((List.range n).foldl (fun acc e => acc + (f e % 2 ^ b) <<< (b * e)) 0)

/-- A line from its bytes. -/
def lineOfBytes (bs : List Byte) : Line := BitVec.ofNat 2048 (ofBytes bs)

/-- The 256 bytes of a line. -/
def lineBytes (l : Line) : List Byte := toBytes 256 l.toNat

/-- The offset field of an address (R177). -/
def addrOff (a : W80) : Nat := a.toNat % 2 ^ 48

/-- The home field of an address (R177). -/
def addrHome (a : W80) : Nat := bits a.toNat 65 15

/-- Bits [64:48], which must be 0 (R177). -/
def addrMid (a : W80) : Nat := bits a.toNat 48 17

/-- Replace the offset, modulo 2^48, keeping bits [79:48] (R230). -/
def addrWithOff (a : W80) (o : Int) : W80 := BitVec.ofNat 80 (bits a.toNat 48 32 <<< 48 + wrap 48 o)

/-- Replace the home field (R230). -/
def addrWithHome (a : W80) (h : Nat) : W80 := BitVec.ofNat 80 ((h % 2 ^ 15) <<< 65 + a.toNat % 2 ^ 65)

/-- The compact form of an address (R178). -/
def addrCompact (a : W80) : W64 := BitVec.ofNat 64 (addrHome a <<< 48 + addrOff a)

/-- The address of a compact form (R178); bit 63 of the compact form has no place in the home field. -/
def addrOfCompact (w : W64) : W80 := BitVec.ofNat 80 (bits w.toNat 48 15 <<< 65 + w.toNat % 2 ^ 48)

/-- The self alias (R183). -/
def selfHome : Nat := 0x7FFF

/-- Insert into a list sorted by a key, before equal keys. -/
def insertBy {α : Type} (key : α → Nat) (x : α) (l : List α) : List α :=
  match l with
  | [] => [x]
  | y :: r => if key x ≤ key y then x :: y :: r else y :: insertBy key x r

/-- Stable insertion sort by a key. -/
def sortBy {α : Type} (key : α → Nat) (l : List α) : List α :=
  match l with
  | [] => []
  | x :: r => insertBy key x (sortBy key r)

/-- The first element that a test accepts and is least by a key; earlier elements win ties. -/
def leastBy {α : Type} (key : α → Nat) (l : List α) : Option α :=
  match l with
  | [] => none
  | x :: r =>
    match leastBy key r with
    | none => some x
    | some y => if key y < key x then some y else some x

/-- Replace the first element that passes a test. -/
def replaceFirst {α : Type} (p : α → Bool) (f : α → α) (l : List α) : List α :=
  match l with
  | [] => []
  | x :: r => if p x then f x :: r else x :: replaceFirst p f r

end Sys2Proof.Machine
end

