-- ==== Sys2Proof/Machine/Types.lean ====
section
/-! DEFINITION. Codes and sizes of element types, formats, slots and conditions (R38, R102, R108, R113, R129, R263). -/

namespace Sys2Proof

/-- The type code of R108. -/
def Ty.code : Ty → Nat
  | .f32 => 0 | .bf16 => 1 | .f16 => 2 | .f8e4 => 3 | .f8e5 => 4 | .ln6 => 5
  | .i8 => 6 | .i16 => 7 | .i32 => 8 | .n8 => 9 | .n16 => 10 | .n32 => 11

/-- The type of a code of R108; 12 to 15 are reserved. -/
def Ty.ofCode : Nat → Option Ty
  | 0 => some .f32 | 1 => some .bf16 | 2 => some .f16 | 3 => some .f8e4 | 4 => some .f8e5 | 5 => some .ln6
  | 6 => some .i8 | 7 => some .i16 | 8 => some .i32 | 9 => some .n8 | 10 => some .n16 | 11 => some .n32
  | _ => none

/-- Element width b in bits (R237). -/
def Ty.bits : Ty → Nat
  | .f32 | .i32 | .n32 => 32
  | .bf16 | .f16 | .i16 | .n16 => 16
  | .f8e4 | .f8e5 | .ln6 | .i8 | .n8 => 8

/-- Element count E of a line (R237). -/
def Ty.elems (t : Ty) : Nat := 2048 / t.bits

/-- Class F (R108). -/
def Ty.isF : Ty → Bool
  | .f32 | .bf16 | .f16 => true
  | _ => false

/-- Class F8 (R108). -/
def Ty.isF8 : Ty → Bool
  | .f8e4 | .f8e5 => true
  | _ => false

/-- Class I (R108). -/
def Ty.isI : Ty → Bool
  | .i8 | .i16 | .i32 | .n8 | .n16 | .n32 => true
  | _ => false

/-- The signed integer types (R77, R245). -/
def Ty.isSigned : Ty → Bool
  | .i8 | .i16 | .i32 => true
  | _ => false

/-- The types a matrix plane may have (R262). -/
def Ty.isM : Ty → Bool
  | .f32 | .bf16 | .f16 | .f8e4 | .f8e5 | .ln6 => true
  | _ => false

/-- Weight columns N of a stationary block (R263). -/
def Ty.mN : Ty → Nat
  | .f32 => 8
  | .ln6 => 32
  | _ => 16

/-- Pipeline depth P of a stream (R263). -/
def Ty.mP : Ty → Nat
  | .f32 => 8
  | .bf16 | .f16 => 9
  | _ => 10

/-- The element format code of R38. -/
def EFmt.code : EFmt → Nat
  | .f32 => 0 | .f16 => 1 | .bf16 => 2 | .f8e4 => 3 | .f8e5 => 4 | .ln6 => 5 | .ln6x => 6
  | .i8 => 8 | .i16 => 9 | .i32 => 10 | .n8 => 12 | .n16 => 13 | .n32 => 14
  | .bs4 => 16 | .sb1 => 17 | .q8s => 18 | .q8u => 19

/-- The format of a code of R38; codes not listed are reserved. -/
def EFmt.ofCode : Nat → Option EFmt
  | 0 => some .f32 | 1 => some .f16 | 2 => some .bf16 | 3 => some .f8e4 | 4 => some .f8e5 | 5 => some .ln6
  | 6 => some .ln6x | 8 => some .i8 | 9 => some .i16 | 10 => some .i32 | 12 => some .n8 | 13 => some .n16
  | 14 => some .n32 | 16 => some .bs4 | 17 => some .sb1 | 18 => some .q8s | 19 => some .q8u
  | _ => none

/-- Element bits of a format (R38). -/
def EFmt.bits : EFmt → Nat
  | .f32 | .i32 | .n32 => 32
  | .f16 | .bf16 | .i16 | .n16 => 16
  | .f8e4 | .f8e5 | .ln6 | .ln6x | .i8 | .n8 | .q8s | .q8u => 8
  | .bs4 => 4
  | .sb1 => 1

/-- The element type of a non-block format (R287): codes 0x00 to 0x05, 0x08 to 0x0A and 0x0C to 0x0E. -/
def EFmt.ty? : EFmt → Option Ty
  | .f32 => some .f32 | .f16 => some .f16 | .bf16 => some .bf16 | .f8e4 => some .f8e4 | .f8e5 => some .f8e5
  | .ln6 => some .ln6 | .i8 => some .i8 | .i16 => some .i16 | .i32 => some .i32
  | .n8 => some .n8 | .n16 => some .n16 | .n32 => some .n32
  | .ln6x | .bs4 | .sb1 | .q8s | .q8u => none

/-- The element format of a type (R38, R108). -/
def Ty.efmt : Ty → EFmt
  | .f32 => .f32 | .bf16 => .bf16 | .f16 => .f16 | .f8e4 => .f8e4 | .f8e5 => .f8e5 | .ln6 => .ln6
  | .i8 => .i8 | .i16 => .i16 | .i32 => .i32 | .n8 => .n8 | .n16 => .n16 | .n32 => .n32

/-- Elements of a block and bytes of its scale; none for a format without blocks (R38). -/
def EFmt.block? : EFmt → Option (Nat × Nat)
  | .ln6x | .bs4 => some (32, 1)
  | .q8s | .q8u => some (64, 4)
  | _ => none

/-- Column multiple of a format (R38). -/
def EFmt.colMul : EFmt → Nat
  | .ln6x | .bs4 => 32
  | .q8s | .q8u => 64
  | _ => 8

/-- Slot numbers (R102). -/
def Slot.num : Slot → Nat
  | .sy => 0 | .s => 1 | .v0 => 2 | .v1 => 3 | .m => 4 | .ld => 5 | .st => 6 | .e0 => 7 | .e1 => 8

/-- Slot of a number (R102). -/
def Slot.ofNum : Nat → Option Slot
  | 0 => some .sy | 1 => some .s | 2 => some .v0 | 3 => some .v1 | 4 => some .m | 5 => some .ld | 6 => some .st
  | 7 => some .e0 | 8 => some .e1 | _ => none

/-- Condition codes (R113). -/
def Cond.code : Cond → Nat
  | .eq => 0 | .ne => 1 | .lt => 2 | .le => 3 | .gt => 4 | .ge => 5 | .ltu => 6 | .leu => 7 | .gtu => 8 | .geu => 9

/-- Condition of a code (R113); 10 to 15 are reserved. -/
def Cond.ofCode : Nat → Option Cond
  | 0 => some .eq | 1 => some .ne | 2 => some .lt | 3 => some .le | 4 => some .gt | 5 => some .ge
  | 6 => some .ltu | 7 => some .leu | 8 => some .gtu | 9 => some .geu | _ => none

/-- The conditions ACMP accepts (R113). -/
def Cond.forAcmp : Cond → Bool
  | .eq | .ne | .ltu | .leu | .gtu | .geu => true
  | _ => false

/-- The conditions VCMP accepts (R117). -/
def Cond.forVcmp : Cond → Bool
  | .eq | .ne | .lt | .le | .gt | .ge => true
  | _ => false

/-- Scope codes (R109). -/
def Scope.code : Scope → Nat
  | .ctx => 0 | .core => 1 | .die => 2 | .pkg => 3 | .dom => 4

/-- Scope of a code (R109); 5 to 7 are reserved. -/
def Scope.ofCode : Nat → Option Scope
  | 0 => some .ctx | 1 => some .core | 2 => some .die | 3 => some .pkg | 4 => some .dom | _ => none

/-- Direction codes 00, 01, 10 (R106). -/
def Dir.code : Dir → Nat
  | .h => 0 | .v => 1 | .d => 2

/-- Refusal codes (R129). -/
def SealCode.code : SealCode → Nat
  | .imgSize => 1 | .opcode => 2 | .rsvField => 3 | .type => 4 | .opDir => 5 | .range => 6 | .fmtCode => 7
  | .privOp => 8 | .ports => 9 | .pairing => 10 | .dstDup => 11 | .target => 12 | .brDelay => 13 | .loopLen => 14
  | .noEntry => 15 | .genOvf => 16

/-- The predicate that always holds (R105). -/
def Pred.always : Pred := { neg := false, flag := 0 }

/-- Staging registers a data command reads (R334). -/
def cpyRegs (mask : Bool) (nd : Nat) : Nat := if mask then 7 + nd else 3 + nd

/-- The declared block limit B of XEXP (R291). -/
def xrBytes : Nat → Nat
  | 0 => 1 | 1 => 5 | 2 => 9 | _ => 17

/-- The line `j` lines after another, in its direction. -/
def LineRef.plus (r : LineRef) (j : Nat) : LineRef := { r with idx := r.idx + BitVec.ofNat 6 j }

/-- Round a quotient up. -/
def ceilDiv (a b : Nat) : Nat := (a + b - 1) / b

end Sys2Proof
end

