-- ==== Sys2Proof/Machine/Num.lean ====
section
/-! DEFINITION. Numbers (R69 to R101): exact values, one rounding, conversions, stochastic bits, LNS6, block formats.
An exact finite value is a sign, a natural number and a power of two; a value that is no dyadic number is given by the
digits below it and a mark that something remains. -/

namespace Sys2Proof

namespace Machine

/-- An exact value: NaN, an infinity, or (−1)^neg × n × 2^e, with the sign of a zero kept (R72, R73, R76). -/
inductive Num where
  | nan
  | inf (neg : Bool)
  | fin (neg : Bool) (n : Nat) (e : Int)
deriving DecidableEq, Repr

/-- How an operation rounds: mode (R69), flush (R70), and the inputs of the random bits of R80. -/
structure Rnd where
  mode : Nat
  ftz  : Bool
  seed : W64
  rank : W64
  ref  : W64
  /-- idx of element 0 -/
  base : W64
deriving DecidableEq, Repr

/-- Round to nearest even, nothing flushed. -/
def Rnd.ne : Rnd := { mode := 0, ftz := false, seed := 0, rank := 0, ref := 0, base := 0 }

/-- The mixing function of R80. -/
def mix (z : W64) : W64 :=
  let z := (z ^^^ (z >>> 30)) * 0xBF58476D1CE4E5B9
  let z := (z ^^^ (z >>> 27)) * 0x94D049BB133111EB
  z ^^^ (z >>> 31)

/-- The 24 random bits of R80. -/
def rsBits (seed rank ref idx : W64) : Nat :=
  let h := mix (seed ^^^ 0x9E3779B97F4A7C15)
  let h := mix (h ^^^ rank)
  let h := mix (h ^^^ ref)
  let h := mix (h ^^^ idx)
  bits h.toNat 40 24

/-- The random bits of element `i` (R80, R81); only mode RS needs them. -/
def Rnd.u (r : Rnd) (i : Nat) : Nat :=
  if r.mode = 4 then rsBits r.seed r.rank r.ref (r.base + BitVec.ofNat 64 i) else 0

end Machine

/-- Mantissa width of a floating-point type (R72). -/
def Ty.man : Ty → Nat
  | .f32 => 23 | .f16 => 10 | .bf16 => 7 | .f8e4 => 3 | .f8e5 => 2
  | .ln6 | .i8 | .i16 | .i32 | .n8 | .n16 | .n32 => 0

/-- Exponent bias (R72). -/
def Ty.bias : Ty → Nat
  | .f32 | .bf16 => 127 | .f16 | .f8e5 => 15 | .f8e4 => 7
  | .ln6 | .i8 | .i16 | .i32 | .n8 | .n16 | .n32 => 0

/-- Width of the exponent field (R72). -/
def Ty.expBits : Ty → Nat
  | .f32 | .bf16 => 8 | .f16 | .f8e5 => 5 | .f8e4 => 4
  | .ln6 | .i8 | .i16 | .i32 | .n8 | .n16 | .n32 => 0

/-- Whether a type is one of the five floating-point formats of R72. -/
def Ty.isFloat : Ty → Bool
  | .f32 | .f16 | .bf16 | .f8e4 | .f8e5 => true
  | .ln6 | .i8 | .i16 | .i32 | .n8 | .n16 | .n32 => false

/-- The canonical NaN (R73). -/
def Ty.nan : Ty → Nat
  | .f32 => 0x7FC00000 | .f16 => 0x7E00 | .bf16 => 0x7FC0 | .f8e4 => 0x7F | .f8e5 => 0x7E
  | .ln6 => 0x10 | .i8 | .i16 | .i32 | .n8 | .n16 | .n32 => 0

/-- The code of +infinity; E4M3 has none (R73). -/
def Ty.infCode (t : Ty) : Nat := (2 ^ t.expBits - 1) <<< t.man

/-- The code of the largest finite value (R72): 448 for E4M3. -/
def Ty.maxCode (t : Ty) : Nat := if t = .f8e4 then 0x7E else t.infCode - 1

/-- Largest exponent of a finite value (R72). -/
def Ty.emax (t : Ty) : Int := if t = .f8e4 then 8 else (2 ^ t.expBits - 2 : Nat) - (t.bias : Int)

namespace Machine

/-- The exact value of a floating-point pattern (R72, R73). -/
def decodeFloat (t : Ty) (v : Nat) : Num :=
  let m := bits v 0 t.man
  let x := bits v t.man t.expBits
  let s := bit v (t.man + t.expBits)
  let top := 2 ^ t.expBits - 1
  if t = .f8e4 then
    if x = top ∧ m = 7 then .nan
    else if x = 0 then .fin s m (1 - (t.bias : Int) - t.man) else .fin s (m + 2 ^ t.man) ((x : Int) - t.bias - t.man)
  else if x = top then (if m = 0 then .inf s else .nan)
  else if x = 0 then .fin s m (1 - (t.bias : Int) - t.man)
  else .fin s (m + 2 ^ t.man) ((x : Int) - t.bias - t.man)

/-- FP32 patterns of 2^0, 2^0.25, 2^0.5, 2^0.75 (R84). -/
def lnTab (k : Nat) : Nat :=
  match k with
  | 0 => 0x3F800000 | 1 => 0x3F9837F0 | 2 => 0x3FB504F3 | _ => 0x3FD744FD

/-- Thresholds of R86 before scaling. -/
def lnThr (k : Nat) : Nat :=
  match k with
  | 0 => 0x3F8B95C2 | 1 => 0x3FA5FED7 | 2 => 0x3FC5672A | _ => 0x3FEAC0C7

/-- The log q of a LNS6 code (R83). -/
def lnQ (v : Nat) : Int := signed 5 v

/-- (−1)^s × tab[q mod 4] × 2^⌊q/4⌋ (R84, R87). -/
def lnValue (s : Bool) (q : Int) : Num :=
  match decodeFloat .f32 (lnTab (q % 4).toNat) with
  | .fin _ n e => .fin s n (e + q / 4)
  | x => x

/-- The exact value of a LNS6 code (R83, R84). -/
def decodeLn6 (v : Nat) : Num := if lnQ v = -16 then .fin (bit v 5) 0 0 else lnValue (bit v 5) (lnQ v)

/-- The exact value of an element of any type (R72, R77, R84). -/
def decodeNum (t : Ty) (v : Nat) : Num :=
  match t with
  | .ln6 => decodeLn6 v
  | .f32 | .f16 | .bf16 | .f8e4 | .f8e5 => decodeFloat t v
  | .i8 | .i16 | .i32 => let x := signed t.bits v; .fin (decide (x < 0)) x.natAbs 0
  | .n8 | .n16 | .n32 => .fin false (v % 2 ^ t.bits) 0

/-- A subnormal pattern is read, or written, as zero of its sign when `ftz` holds (R70). -/
def flushPat (t : Ty) (ftz : Bool) (v : Nat) : Nat :=
  if ftz && t.isFloat && bits v t.man t.expBits = 0 then v - bits v 0 t.man else v

/-- Integer quotient and whether something remains. -/
def shiftDown (n sh : Nat) : Nat × Nat := (n >>> sh, n % 2 ^ sh)

/-- Whether a magnitude with integer part `q`, remainder `r` of `2^sh` and sticky rest is rounded away from zero
(R69, R79). -/
def roundsUp (mode u : Nat) (neg : Bool) (q r sh : Nat) (sticky : Bool) : Bool :=
  let inexact := r != 0 || sticky
  match mode with
  | 0 => decide (2 ^ sh < 2 * r) || (decide (2 * r = 2 ^ sh ∧ 0 < sh) && (sticky || q % 2 = 1))
  | 1 => false
  | 2 => inexact && !neg
  | 3 => inexact && neg
  | _ => inexact && decide (2 ^ 24 ≤ (r * 2 ^ 24) / 2 ^ sh + u)

/-- The pattern of a magnitude n × 2^e (with a rest when sticky) rounded to a floating-point type, without its sign
(R71, R75). -/
def roundMag (t : Ty) (mode u : Nat) (neg : Bool) (n : Nat) (e : Int) (sticky : Bool) : Nat :=
  if n = 0 ∧ !sticky then 0
  else
    let ex : Int := (Nat.log2 n : Int) + e
    let emin : Int := 1 - (t.bias : Int)
    let q : Int := (if ex < emin then emin else ex) - t.man
    let sh := (q - e).toNat
    let (sig, r) := if e < q then shiftDown n sh else (n <<< (e - q).toNat, 0)
    let sig := if roundsUp mode u neg sig r sh sticky then sig + 1 else sig
    if t.emax < ex then
      if t = .f8e4 then t.maxCode
      else match mode with
        | 0 => t.infCode
        | 1 => t.maxCode
        | 2 => if neg then t.maxCode else t.infCode
        | 3 => if neg then t.infCode else t.maxCode
        | _ => t.infCode
    else
      let code := if ex < emin then sig else ((ex + t.bias - 1).toNat <<< t.man) + sig
      if t.maxCode < code then (if t = .f8e4 then t.maxCode else t.infCode) else code

/-- Put the sign on a pattern. -/
def withSign (t : Ty) (neg : Bool) (v : Nat) : Nat := if neg then v + 2 ^ (t.man + t.expBits) else v

/-- Round an exact value, or one with a rest, to a floating-point type (R71 to R76, R79); element `i` of its line. -/
def Rnd.float (r : Rnd) (t : Ty) (i : Nat) (x : Num) (sticky : Bool) : Nat :=
  match x with
  | .nan => t.nan
  | .inf s => withSign t s (if t = .f8e4 then t.maxCode else t.infCode)
  | .fin s n e => flushPat t r.ftz (withSign t s (roundMag t r.mode (r.u i) s n e sticky))

/-- Round an exact value to an integer (R69, R79). -/
def roundInt (mode u : Nat) (neg : Bool) (n : Nat) (e : Int) (sticky : Bool) : Int :=
  let sh := (-e).toNat
  let (q, r) := if e < 0 then shiftDown n sh else (n <<< e.toNat, 0)
  let q := if roundsUp mode u neg q r sh sticky then q + 1 else q
  if neg then -(q : Int) else q

end Machine

/-- Least and greatest value of an integer type (R77). -/
def Ty.lo (t : Ty) : Int := if t.isSigned then -(2 ^ (t.bits - 1) : Nat) else 0
def Ty.hi (t : Ty) : Int := if t.isSigned then (2 ^ (t.bits - 1) : Nat) - 1 else (2 ^ t.bits : Nat) - 1

namespace Machine

/-- sat of R10. -/
def sat (x lo hi : Int) : Int := if x < lo then lo else if hi < x then hi else x

/-- Compare magnitudes n × 2^e and m × 2^f. -/
def magLt (n : Nat) (e : Int) (m : Nat) (f : Int) : Bool :=
  if e ≤ f then decide (n < m <<< (f - e).toNat) else decide (n <<< (e - f).toNat < m)

/-- Equal magnitudes. -/
def magEq (n : Nat) (e : Int) (m : Nat) (f : Int) : Bool :=
  if e ≤ f then n == m <<< (f - e).toNat else n <<< (e - f).toNat == m

/-- The loop of R86 from q on, `k` thresholds left. -/
def ln6Search (n : Nat) (e : Int) (q : Int) (k : Nat) : Int :=
  match k with
  | 0 => q
  | k + 1 =>
    match decodeFloat .f32 (lnThr (q % 4).toNat) with
    | .fin _ m f =>
      let f := f + q / 4
      if magLt m f n e || (magEq m f n e && q % 2 == 1) then ln6Search n e (q + 1) k else q
    | _ => q

/-- Conversion to LNS6 (R86). -/
def toLn6 (x : Num) : Nat :=
  match x with
  | .nan => 0x10
  | .inf s => b2n s <<< 5 + 15
  | .fin s n e => b2n s <<< 5 + wrap 5 (ln6Search n e (-16) 31)

/-- Convert an exact value to any type (R78, R86); element `i` of its line. -/
def Rnd.conv (r : Rnd) (t : Ty) (i : Nat) (x : Num) : Nat :=
  match t with
  | .ln6 => toLn6 x
  | .f32 | .f16 | .bf16 | .f8e4 | .f8e5 => r.float t i x false
  | .i8 | .i16 | .i32 | .n8 | .n16 | .n32 =>
    match x with
    | .nan => 0
    | .inf s => wrap t.bits (if s then t.lo else t.hi)
    | .fin s n e => wrap t.bits (sat (roundInt r.mode (r.u i) s n e false) t.lo t.hi)

/-- Convert an element of one type to another (R78, R86), subnormal operands read as zero when ftz holds (R70).
Between integer types no rounding takes place: a wider target takes the extended source, a narrower one the saturated value. R78 has no
row for a signed and an unsigned type of one width; the model saturates there too (log entry 105). A float converts to its own type with
a canonical NaN (R253). -/
def Rnd.convElem (r : Rnd) (src dst : Ty) (i v : Nat) : Nat :=
  if src.isI && dst.isI && decide (src.bits < dst.bits) then wrap dst.bits (if src.isSigned then signed src.bits v else v % 2 ^ src.bits)
  else r.conv dst i (decodeNum src (flushPat src r.ftz v))

/-- Negate. -/
def Num.neg : Num → Num
  | .nan => .nan
  | .inf s => .inf (!s)
  | .fin s n e => .fin (!s) n e

/-- Magnitude. -/
def Num.abs : Num → Num
  | .nan => .nan
  | .inf _ => .inf false
  | .fin _ n e => .fin false n e

/-- Exact product (R74): zero times infinity has no value. -/
def Num.mul (a b : Num) : Num :=
  match a, b with
  | .nan, _ | _, .nan => .nan
  | .inf s, .inf t => .inf (s != t)
  | .inf s, .fin t n _ => if n = 0 then .nan else .inf (s != t)
  | .fin s n _, .inf t => if n = 0 then .nan else .inf (s != t)
  | .fin s n e, .fin t m f => .fin (s != t) (n * m) (e + f)

/-- Signed integer of a value at exponent `f`, which is not above its own. -/
def Num.at (x : Num) (f : Int) : Int :=
  match x with
  | .fin s n e => if s then -((n <<< (e - f).toNat : Nat) : Int) else (n <<< (e - f).toNat : Nat)
  | _ => 0

/-- Least exponent of a list of values. -/
def minExp (xs : List Num) (f : Int) : Int :=
  xs.foldl (fun f x => match x with | .fin _ n e => if n = 0 then f else min f e | _ => f) f

/-- Whether a value is NaN, an infinity of a sign, a zero of a sign. -/
def Num.isNan : Num → Bool | .nan => true | _ => false
def Num.isInf (neg : Bool) : Num → Bool | .inf s => s == neg | _ => false
def Num.isZero (neg : Bool) : Num → Bool | .fin s n _ => s == neg && n == 0 | _ => false

/-- The exact sum of terms (R74, R76, R95); `rd` says that an exact zero of cancelled terms is −0 (mode RD). -/
def sumNums (rd : Bool) (xs : List Num) : Num :=
  if xs.any Num.isNan || (xs.any (Num.isInf true) && xs.any (Num.isInf false)) then .nan
  else if xs.any (Num.isInf true) then .inf true
  else if xs.any (Num.isInf false) then .inf false
  else if xs.all (Num.isZero true) then .fin true 0 0
  else if xs.all (Num.isZero false) then .fin false 0 0
  else
    let f := minExp xs 1024
    let v : Int := xs.foldl (fun a x => a + (match x with | .fin _ 0 _ => 0 | y => y.at f)) 0
    if v = 0 then .fin rd 0 0 else .fin (decide (v < 0)) v.natAbs f

/-- Value order, with −0 below +0 (R249); false when either is NaN. -/
def Num.lt (a b : Num) : Bool :=
  match a, b with
  | .nan, _ | _, .nan => false
  | .inf s, .inf t => s && !t
  | .inf s, .fin _ _ _ => s
  | .fin _ _ _, .inf t => !t
  | .fin s n e, .fin t m f =>
    match s, t with
    | false, false => magLt n e m f
    | true, true => magLt m f n e
    | true, false => true
    | false, true => false

/-- Equal values, −0 equal to +0; false when either is NaN (R257). -/
def Num.eqv (a b : Num) : Bool :=
  match a, b with
  | .inf s, .inf t => s == t
  | .fin s n e, .fin t m f => (n == 0 && m == 0) || (s == t && magEq n e m f)
  | _, _ => false

/-- Strictly less as values, −0 equal to +0 (R257). -/
def Num.below (a b : Num) : Bool := a.lt b && !a.eqv b

/-- The integer square root of `n`, bits `k − 1` to 0 of it to be found. -/
def isqrt (n r k : Nat) : Nat :=
  match k with
  | 0 => r
  | k + 1 =>
    let c := r + 2 ^ k
    if c * c ≤ n then isqrt n c k else isqrt n r k

/-- A value with a rest: the value of its digits and whether something remains. -/
abbrev Digits := Num × Bool

/-- 1/x to 160 binary digits (R251). -/
def recip (x : Num) : Digits :=
  match x with
  | .nan => (.nan, false)
  | .inf s => (.fin s 0 0, false)
  | .fin s 0 _ => (.inf s, false)
  | .fin s n e => (.fin s (2 ^ 200 / n) (-e - 200), 2 ^ 200 % n != 0)

/-- √x (R251). -/
def sqrtNum (x : Num) : Digits :=
  match x with
  | .nan => (.nan, false)
  | .inf s => (if s then .nan else .inf false, false)
  | .fin s 0 e => (.fin s 0 e, false)
  | .fin true _ _ => (.nan, false)
  | .fin false n e =>
    let (n, e) := if e % 2 = 0 then (n, e) else (2 * n, e - 1)
    let m := n * 2 ^ 200
    let r := isqrt m 0 128
    (.fin false r (e / 2 - 100), r * r != m)

/-- 1/√x (R251). -/
def rsqNum (x : Num) : Digits :=
  match x with
  | .nan => (.nan, false)
  | .inf s => (if s then .nan else .fin false 0 0, false)
  | .fin s 0 _ => (.inf s, false)
  | .fin true _ _ => (.nan, false)
  | .fin false n e =>
    let (n, e) := if e % 2 = 0 then (n, e) else (2 * n, e - 1)
    let m := 2 ^ 300 / n
    let r := isqrt m 0 151
    (.fin false r (-(e / 2) - 150), r * r * n != 2 ^ 300)

/-- 2^F × 2^192 below F = f/2^128, by the factors 2^(2^−i): `c` is the current one, bit `i − 1` of f is next. -/
def exp2Frac (f c acc i : Nat) : Nat :=
  match i with
  | 0 => acc
  | i + 1 =>
    let c := isqrt (c * 2 ^ 192) 0 194
    exp2Frac f c (if bit f i then (acc * c) >>> 192 else acc) i

/-- 2^x (R251); beyond the range of every format the result only says on which side it lies. -/
def exp2Num (x : Num) : Digits :=
  match x with
  | .nan => (.nan, false)
  | .inf s => (if s then .fin false 0 0 else .inf false, false)
  | .fin _ 0 _ => (.fin false 1 0, false)
  | .fin s n e =>
    if magLt 1 10 n e then (if s then .fin false 1 (-2000) else .fin false 1 2000, true)
    else
      -- x = v / 2^128 with what is below 2^-128 as a rest
      let (q, r) := if e < -128 then shiftDown n (-128 - e).toNat else (n <<< (e + 128).toNat, 0)
      let v : Int := if s then -(q : Int) - b2n (r != 0) else q
      let i := v / (2 ^ 128 : Nat)
      let f := (v % (2 ^ 128 : Nat)).toNat
      if f = 0 ∧ r = 0 then (.fin false 1 i, false)
      else (.fin false (exp2Frac f (2 ^ 193) (2 ^ 192) 128) (i - 192), true)

/-- The next `k` binary digits of log2 of y/2^320, 1 ≤ y/2^320 < 2, after `acc`. -/
def log2Frac (y acc k : Nat) : Nat :=
  match k with
  | 0 => acc
  | k + 1 =>
    let y := (y * y) >>> 320
    if 2 ^ 321 ≤ y then log2Frac (y >>> 1) (2 * acc + 1) k else log2Frac y (2 * acc) k

/-- log2 x (R251). -/
def log2Num (x : Num) : Digits :=
  match x with
  | .nan => (.nan, false)
  | .inf s => (if s then .nan else .inf false, false)
  | .fin _ 0 _ => (.inf true, false)
  | .fin true _ _ => (.nan, false)
  | .fin false n e =>
    let l := Nat.log2 n
    let ex : Int := (l : Int) + e
    if n = 2 ^ l then (.fin (decide (ex < 0)) ex.natAbs 0, false)
    else
      let f := log2Frac (n <<< (320 - l)) 0 128
      let v : Int := ex * (2 ^ 128 : Nat) + f
      if v < 0 then (.fin true (-v - 1).toNat (-128), true) else (.fin false v.toNat (-128), true)

/-- Exponent of a nonzero magnitude: ⌊log2⌋. -/
def Num.log2 : Num → Int
  | .fin _ n e => (Nat.log2 n : Int) + e
  | _ => 0

/-- Scale by a power of two. -/
def Num.scale (x : Num) (k : Int) : Num :=
  match x with
  | .fin s n e => .fin s n (e + k)
  | y => y

/-- The exact quotient of two values to 200 digits; the divisor is not zero (R94). -/
def Num.quot (a : Num) (d : Num) : Digits :=
  match a, d with
  | .fin s n e, .fin t m f => (.fin (s != t) (n * 2 ^ 200 / m) (e - f - 200), n * 2 ^ 200 % m != 0)
  | _, _ => (.nan, false)

/-- The value of an E2M1 code without scale (R92). -/
def bs4Value (v : Nat) : Num :=
  let s := bit v 3
  match v % 8 with
  | 0 => .fin s 0 0 | 1 => .fin s 1 (-1) | 2 => .fin s 1 0 | 3 => .fin s 3 (-1)
  | 4 => .fin s 2 0 | 5 => .fin s 3 0 | 6 => .fin s 4 0 | _ => .fin s 6 0

/-- The E2M1 code of a finite value, round_ne, saturating at ±6.0 (R91, R92). -/
def toBs4 (x : Num) : Nat :=
  match x with
  | .fin s n e =>
    let h := roundInt 0 0 false n (e + 1) false       -- halves, for values up to 2
    let one := roundInt 0 0 false n e false            -- ones, for 2 to 4
    let two := roundInt 0 0 false n (e - 1) false      -- twos, above 4
    let c : Nat := if magLt n e 2 0 then h.toNat else if magLt n e 4 0 then (one + 2).toNat else min 7 (two + 4).toNat
    b2n s <<< 3 + c
  | .inf s => b2n s <<< 3 + 7
  | .nan => 0

/-- An FP32 line element as a value. -/
def f32 (v : Nat) : Num := decodeFloat .f32 v

end Machine

end Sys2Proof
end

