-- ==== Sys2Proof/Machine/Flags.lean ====
section
/-! DEFINITION. The conditions that CMP, ACMP and VCMP write (R113, R229, R230, R257): the AX4 keeps no arithmetic
flags beside f1 to f15, which these and the flag operations write whole. -/

namespace Sys2Proof.Machine

/-- A condition between two 64-bit values (R229). -/
def condW64 (c : Cond) (a b : W64) : Bool :=
  match c with
  | .eq => a == b | .ne => a != b
  | .lt => BitVec.slt a b | .le => BitVec.sle a b | .gt => BitVec.slt b a | .ge => BitVec.sle b a
  | .ltu => BitVec.ult a b | .leu => BitVec.ule a b | .gtu => BitVec.ult b a | .geu => BitVec.ule b a

/-- A condition between two 80-bit unsigned values (R230); the signed conditions are refused at sealing. -/
def condW80 (c : Cond) (a b : W80) : Bool :=
  match c with
  | .eq => a == b | .ne => a != b
  | .lt | .ltu => BitVec.ult a b | .le | .leu => BitVec.ule a b
  | .gt | .gtu => BitVec.ult b a | .ge | .geu => BitVec.ule b a

/-- A condition between two elements (R257): integers by their signedness, floats by value, false with a NaN but for
ne. -/
def condElem (c : Cond) (t : Ty) (ftz : Bool) (a b : Nat) : Bool :=
  let x := decodeNum t (flushPat t ftz a)
  let y := decodeNum t (flushPat t ftz b)
  match c with
  | .eq => x.eqv y | .ne => !x.eqv y
  | .lt | .ltu => x.below y | .gt | .gtu => y.below x
  | .le | .leu => x.below y || x.eqv y | .ge | .geu => y.below x || x.eqv y

end Sys2Proof.Machine
end

