-- ==== Sys2Proof/Machine/Mem.lean ====
section
/-! DEFINITION. The parts of State by name, and memory: the die-local map and the window map (R179, R180), byte and
word reads and writes, the dirty bitmap (R189) and bad lines (R545). -/

namespace Sys2Proof.Machine

/-- Context `n` (4 × physical core index + context number). -/
def State.ctx (s : State) (n : Nat) : Ctx := Sparse.get Ctx.reset s.ctxs n

/-- Replace context `n`. -/
def State.setCtx (s : State) (n : Nat) (c : Ctx) : State := { s with ctxs := Sparse.set s.ctxs n c }

/-- Change context `n`. -/
def State.updCtx (s : State) (n : Nat) (f : Ctx → Ctx) : State := s.setCtx n (f (s.ctx n))

/-- Core `n` by physical core index. -/
def State.core (s : State) (n : Nat) : Core := Sparse.get Core.reset s.cores n

/-- Change core `n`. -/
def State.updCore (s : State) (n : Nat) (f : Core → Core) : State :=
  { s with cores := Sparse.set s.cores n (f (s.core n)) }

/-- Die `d` of the package. -/
def State.die (s : State) (d : Nat) : Die := Sparse.get Die.reset s.dies d

/-- Change die `d`. -/
def State.updDie (s : State) (d : Nat) (f : Die → Die) : State :=
  { s with dies := Sparse.set s.dies d (f (s.die d)) }

/-- The context whose operations run. -/
def State.me (s : State) : Ctx := s.ctx s.cur

/-- Replace the context whose operations run. -/
def State.setMe (s : State) (c : Ctx) : State := s.setCtx s.cur c

/-- Change the context whose operations run. -/
def State.updMe (s : State) (f : Ctx → Ctx) : State := s.setMe (f s.me)

/-- Physical core index of a context. -/
def coreOf (n : Nat) : Nat := n / 4

/-- Die of a physical core index (R173). -/
def dieOf (core : Nat) : Nat := core / 256

/-- The core of the running context. -/
def State.myCore (s : State) : Core := s.core (coreOf s.cur)

/-- The die of the running context. -/
def State.myDie (s : State) : Nat := dieOf (coreOf s.cur)

/-- The count of cycles by which arrivals at a point are told apart. -/
def State.cycleAt (s : State) : Spot → Nat
  | .attempt c | .burst c => (s.core c).cycle
  | _ => s.clock

/-- Nothing has arrived at a point in this cycle. -/
def State.fresh (s : State) (p : Spot) : Bool := s.stamps.all (fun x => !(x.spot == p && x.cycle == s.cycleAt p))

/-- An arrival of rank `k` may come to a point now: no arrival of this cycle ranks above it. -/
def State.mayCome (s : State) (p : Spot) (k : Nat) : Bool :=
  s.stamps.all (fun x => !(x.spot == p && x.cycle == s.cycleAt p) || decide (x.rank ≤ k))

/-- Note an arrival of rank `k` at a point. -/
def State.come (s : State) (p : Spot) (k : Nat) : State :=
  { s with stamps := { spot := p, cycle := s.cycleAt p, rank := k } ::
    s.stamps.filter (fun x => x.spot != p && x.cycle == s.cycleAt x.spot) }

/-- The byte at an address; a byte nothing has written reads 0 (log entry 2). -/
def Memory.get (m : Memory) (a : Nat) : Byte := Sparse.get 0 m a

/-- Write one byte, keeping the canonical form. -/
def Memory.put (m : Memory) (a : Nat) (b : Byte) : Memory := Sparse.put 0 m a b

/-- Write bytes from an address on. -/
def Memory.putAll (m : Memory) (a : Nat) (bs : List Byte) : Memory :=
  match bs with
  | [] => m
  | b :: r => Memory.putAll (Memory.put m a b) (a + 1) r

/-- The `n` bytes from an address on. -/
def Memory.getAll (m : Memory) (a n : Nat) : List Byte :=
  match n with
  | 0 => []
  | n + 1 => Memory.get m a :: Memory.getAll m (a + 1) n

/-- A number of `k` bytes of an image. -/
def imgNat (m : Memory) (o k : Nat) : Nat := ofBytes (Memory.getAll m o k)

/-- The part of a memory within [lo, hi). -/
def Memory.within (m : Memory) (lo hi : Nat) : Memory :=
  m.filter (fun c => decide (lo ≤ c.1) && decide (c.1 < hi))

/-- A field of 1,024 bytes or more is zero from byte `o` on for `k` bytes. -/
def imgZero (m : Memory) (o k : Nat) : Bool := (Memory.within m o (o + k)).isEmpty

/-- A list of cells in canonical form; a list that is not is put into it, the first of two cells of one address kept. -/
def Memory.canon (b : Memory) : Memory :=
  if Sparse.sorted b && b.all (fun c => c.2 != 0) then b else b.foldr (fun c m => Memory.put m c.1 c.2) []

/-- Replace the whole of [lo, hi) by the bytes of `b` that lie there; every other byte of the range becomes 0. -/
def Memory.splice (m : Memory) (lo hi : Nat) (b : Memory) : Memory :=
  m.filter (fun c => decide (c.1 < lo)) ++ Memory.canon (Memory.within b lo hi) ++ m.filter (fun c => decide (hi ≤ c.1))

/-- Where a package-local physical address lies (R179, R180). Contexts are numbered 4 × physical core index + context. -/
inductive Place where
  /-- HBM of a die -/
  | hbm (die : Nat)
  /-- the tile window of a core: the window offset -/
  | tile (core off : Nat)
  /-- a plain working area: the offset in it -/
  | plain (ctx off : Nat)
  /-- a grid: byte in it -/
  | grid (ctx off : Nat)
  /-- an accumulator plane: plane, byte in it -/
  | acc (ctx pl off : Nat)
  /-- landing slots: byte in them -/
  | land (ctx off : Nat)
  /-- reserved (R179, R180) -/
  | hole
deriving DecidableEq, Repr

/-- Base of the window of physical core `c`, package-local (R179). -/
def windowBase (c : Nat) : Nat := (c / 256) <<< 44 + 0x80000000000 + (c % 256) * 0x1000000

/-- Base of the plain working area of a context (R180). -/
def plainBase (n : Nat) : Nat := windowBase (coreOf n) + 0x180000 + (n % 4) * 0x20000

/-- The place of an offset of a core's window (R180). -/
def windowPlace (core o : Nat) : Place :=
  if o < 0x180000 then .tile core o
  else if o < 0x200000 then .plain (4 * core + (o - 0x180000) / 0x20000) ((o - 0x180000) % 0x20000)
  else if o < 0x400000 then .hole
  else if o < 0x440000 then
    let x := 4 * core + (o - 0x400000) / 0x10000
    let r := (o - 0x400000) % 0x10000
    if r < 0x4000 then .grid x r
    else if r < 0x6000 then .acc x 0 (r - 0x4000)
    else if r < 0x8000 then .acc x 1 (r - 0x6000)
    else if r < 0x9000 then .land x (r - 0x8000)
    else .hole
  else .hole

/-- The place of a package-local physical address (R179, R180). -/
def placeOf (pa : Nat) : Place :=
  let d := bits pa 44 2
  let a := pa % 2 ^ 44
  if a < 0x3000000000 then .hbm d
  else if a < 0x80000000000 then .hole
  else if a < 0x80100000000 then windowPlace (256 * d + (a - 0x80000000000) / 0x1000000) (a % 0x1000000)
  else .hole

/-- The physical core whose window holds the address, if one does. -/
def windowCore (pa : Nat) : Option Nat :=
  let a := pa % 2 ^ 44
  if 0x80000000000 ≤ a ∧ a < 0x80100000000 then some (256 * bits pa 44 2 + (a - 0x80000000000) / 0x1000000) else none

/-- The bank of a byte of a core's scratchpad (R340): tile window 0 to 23, plain areas 24 to 31. -/
def bankOf (pa : Nat) : Option Nat :=
  match placeOf pa with
  | .tile _ o => some (o / 0x10000)
  | .plain n o => some (24 + 2 * (n % 4) + o / 0x10000)
  | _ => none

/-- The granule of the dirty bitmap of a byte (R189, R439), with its die. -/
def granuleOf (pa : Nat) : Option (Nat × Nat) :=
  match placeOf pa with
  | .hbm d => some (d, (pa % 2 ^ 44) / 0x10000)
  | .tile c o => some (c / 256, 3145728 + 32 * (c % 256) + o / 0x10000)
  | .plain n o => some (n / 1024, 3145728 + 32 * (n / 4 % 256) + 24 + 2 * (n % 4) + o / 0x10000)
  | _ => none

/-- Row `i` of a grid. -/
def Regs.row (r : Regs) (i : Nat) : Line := Sparse.get 0 r.grid i

/-- Row `i` of accumulator plane `pl`: 32 FP32 elements. -/
def Planes.accRow (p : Planes) (pl i : Nat) : BitVec 1024 := Sparse.get 0 p.acc (64 * pl + i)

/-- Replace byte `o` of a value of `n` bits. -/
def setByte {n : Nat} (v : BitVec n) (o : Nat) (b : Byte) : BitVec n :=
  BitVec.ofNat n (v.toNat - (bits v.toNat (8 * o) 8) <<< (8 * o) + b.toNat <<< (8 * o))

/-- One byte of memory, by physical address: grids, accumulators and landing slots are read in their contexts
(R180). -/
def State.readByte (s : State) (pa : Nat) : Byte :=
  match placeOf pa with
  | .hbm _ | .tile _ _ | .plain _ _ => Memory.get s.mem pa
  | .grid n o => BitVec.ofNat 8 (((s.ctx n).regs.row (o / 256)).toNat >>> (8 * (o % 256)))
  | .acc n pl o => BitVec.ofNat 8 (((s.ctx n).planes.accRow pl (o / 128)).toNat >>> (8 * (o % 128)))
  | .land n o => BitVec.ofNat 8 ((Sparse.get 0 (s.ctx n).regs.land (o / 256)).toNat >>> (8 * (o % 256)))
  | .hole => 0

/-- Mark a granule dirty (R189). -/
def State.touch (s : State) (pa : Nat) : State :=
  match granuleOf pa with
  | some (d, g) => s.updDie d (fun x => { x with dirty := Sparse.set x.dirty g true })
  | none => s

/-- Mark every granule of `k` granules from an address on. -/
def State.touchAll (s : State) (pa k : Nat) : State :=
  match k with
  | 0 => s
  | k + 1 => (s.touch pa).touchAll (pa + 0x10000) k

/-- Mark the granules of [pa, pa + n) dirty (R189). -/
def State.touchRange (s : State) (pa n : Nat) : State :=
  if n = 0 then s else s.touchAll (pa - pa % 0x10000) ((pa + n - 1) / 0x10000 - pa / 0x10000 + 1)

/-- Write one byte of memory. Writes to landing slots and to holes are discarded (R181). -/
def State.writeByte (s : State) (pa : Nat) (b : Byte) : State :=
  match placeOf pa with
  | .hbm _ | .tile _ _ | .plain _ _ => { s with mem := Memory.put s.mem pa b }
  | .grid n o => s.updCtx n (fun c => { c with regs := { c.regs with
      grid := Sparse.set c.regs.grid (o / 256) (setByte (c.regs.row (o / 256)) (o % 256) b) } })
  | .acc n pl o => s.updCtx n (fun c => { c with planes := { c.planes with
      acc := Sparse.set c.planes.acc (64 * pl + o / 128) (setByte (c.planes.accRow pl (o / 128)) (o % 128) b) } })
  | .land _ _ | .hole => s

/-- Write bytes from an address on, one by one. -/
def State.writeBytesRaw (s : State) (pa : Nat) (bs : List Byte) : State :=
  match bs with
  | [] => s
  | b :: r => State.writeBytesRaw (s.writeByte pa b) (pa + 1) r

/-- Clear the bad mark of every line that [pa, pa + n) covers whole (R545). -/
def State.mendLines (s : State) (pa n : Nat) : State :=
  s.updDie (bits pa 44 2) (fun d => { d with bad := d.bad.filter (fun l => !(pa ≤ 256 * l ∧ 256 * l + 256 ≤ pa + n)) })

/-- Whether a byte range meets a line marked bad (R545). -/
def State.badAt (s : State) (pa n : Nat) : Bool :=
  (s.die (bits pa 44 2)).bad.any (fun l => decide (256 * l < pa + n ∧ pa < 256 * l + 256))

/-- Write bytes to memory: the bytes, the dirty bits of the granules touched (R189), bad lines mended (R545). -/
def State.writeMem (s : State) (pa : Nat) (bs : List Byte) : State :=
  let s := (s.writeBytesRaw pa bs).touchRange pa bs.length
  if (s.die (bits pa 44 2)).bad.isEmpty then s else s.mendLines pa bs.length

/-- Read `n` bytes of memory. -/
def State.readMem (s : State) (pa n : Nat) : List Byte :=
  match n with
  | 0 => []
  | n + 1 => s.readByte pa :: s.readMem (pa + 1) n

/-- A little-endian value of `n` bytes of memory (R4). -/
def State.readNat (s : State) (pa n : Nat) : Nat := ofBytes (s.readMem pa n)

/-- Replace [pa, pa + n) of one plain area or tile region by sparse bytes, the rest of it zero; used for frames and
zero-fills. -/
def State.fill (s : State) (pa n : Nat) (b : Memory) : State :=
  let s := { s with mem := Memory.splice s.mem pa (pa + n) b }
  let s := s.touchRange pa n
  if (s.die (bits pa 44 2)).bad.isEmpty then s else s.mendLines pa n

/-- Sparse bytes of a table of fields: offset, byte count, value. Zero bytes are left out. -/
def layout (base : Nat) (fs : List (Nat × Nat × Nat)) : Memory :=
  fs.foldl (fun m f => if f.2.2 = 0 then m else Memory.putAll m (base + f.1) (toBytes f.2.1 f.2.2)) []

end Sys2Proof.Machine
end

