-- ==== Sys2Proof/Machine/Regs.lean ====
section
/-! DEFINITION. The named operations over registers, results in flight and events: predicates, reading and writing the
registers, scheduling a result (R197), letting results and landings reach their destinations (R200, R240), engine flags
(R200), buffer-ring fills (R386), event records (R457, R537). -/

namespace Sys2Proof.Machine

/-- The value of flag `f`; f0 reads 1 (R12). -/
def Ctx.flag (c : Ctx) (f : BitVec 4) : Bool := f == 0 || c.regs.f.getLsbD f.toNat

/-- Whether a predicate holds (R105). -/
def Ctx.holds (c : Ctx) (p : Pred) : Bool := c.flag p.flag != p.neg

/-- Scalar register. -/
def Ctx.g (c : Ctx) (i : BitVec 6) : W64 := Sparse.get 0 c.regs.g i.toNat

/-- Address register. -/
def Ctx.a (c : Ctx) (i : BitVec 5) : W80 := Sparse.get 0 c.regs.a i.toNat

/-- Landing slot. -/
def Ctx.l (c : Ctx) (i : BitVec 4) : Line := Sparse.get 0 c.regs.land i.toNat

/-- Staging register k. -/
def Ctx.k (c : Ctx) (i : BitVec 4) : W64 := Sparse.get 0 c.regs.k i.toNat

/-- Staging register z. -/
def Ctx.z (c : Ctx) (i : BitVec 3) : W64 := Sparse.get 0 c.regs.z i.toNat

/-- Loop counter. -/
def Ctx.lc (c : Ctx) (i : BitVec 3) : W32 := Sparse.get 0 c.regs.lc i.toNat

/-- Amax register. -/
def Ctx.mx (c : Ctx) (i : BitVec 2) : W32 := Sparse.get 0 c.regs.mx i.toNat

/-- Grid word (i, j) (R235). -/
def Regs.word (r : Regs) (i j : Nat) : W32 := lineWord (r.row i) j

/-- A grid line (R236). -/
def Regs.line (r : Regs) (x : LineRef) : Line :=
  match x.dir with
  | .h => r.row x.idx.toNat
  | .v => lineOfWords (fun w => r.word w x.idx.toNat)
  | .d => lineOfWords (fun w => r.word w ((w + x.idx.toNat) % 64))

/-- Replace word `j` of a line. -/
def setLineWord (l : Line) (j : Nat) (w : W32) : Line :=
  BitVec.ofNat 2048 (l.toNat - (lineWord l j).toNat <<< (32 * j) + w.toNat <<< (32 * j))

/-- Write the 64 words `f i` at columns `col i` of rows i below `n`. -/
def writeColumn (grid : Sparse Line) (col : Nat → Nat) (f : Nat → W32) (n : Nat) : Sparse Line :=
  match n with
  | 0 => grid
  | n + 1 =>
    let g := writeColumn grid col f n
    Sparse.set g n (setLineWord (Sparse.get 0 g n) (col n) (f n))

/-- Write a grid line (R236, R239). -/
def Regs.setLine (r : Regs) (x : LineRef) (v : Line) : Regs :=
  match x.dir with
  | .h => { r with grid := Sparse.set r.grid x.idx.toNat v }
  | .v => { r with grid := writeColumn r.grid (fun _ => x.idx.toNat) (lineWord v) 64 }
  | .d => { r with grid := writeColumn r.grid (fun w => (w + x.idx.toNat) % 64) (lineWord v) 64 }

/-- Set a flag; writes to f0 are discarded (R12). -/
def Regs.setFlag (r : Regs) (f : BitVec 4) (v : Bool) : Regs :=
  if f = 0 then r
  else { r with f := if v then r.f ||| (1#16 <<< f.toNat) else r.f &&& ~~~(1#16 <<< f.toNat) }

/-- Write a result to its destination (R197, R200): an amax register keeps the larger value (R98, R100), a half of fmt
its half (R217). -/
def Regs.write (r : Regs) (d : Dest) (v : Line) : Regs :=
  match d with
  | .g i => { r with g := Sparse.set r.g i.toNat (v.truncate 64) }
  | .a i => { r with a := Sparse.set r.a i.toNat (v.truncate 80) }
  | .f i => r.setFlag i (v.getLsbD 0)
  | .lc i => { r with lc := Sparse.set r.lc i.toNat (v.truncate 32) }
  | .mx i =>
    let old := Sparse.get 0 r.mx i.toNat
    { r with mx := Sparse.set r.mx i.toNat (if old.toNat < (v.truncate 32 : W32).toNat then v.truncate 32 else old) }
  | .land i => { r with land := Sparse.set r.land i.toNat v }
  | .line x => r.setLine x v
  | .fmtHalf false => { r with fmt := (r.fmt &&& 0xFFFF0000) ||| (v.truncate 16 : BitVec 16).zeroExtend 32 }
  | .fmtHalf true => { r with fmt := (r.fmt &&& 0x0000FFFF) ||| (v.truncate 16 : BitVec 16).zeroExtend 32 <<< 16 }
  | .k i => { r with k := Sparse.set r.k i.toNat (v.truncate 64) }
  | .z i => { r with z := Sparse.set r.z i.toNat (v.truncate 64) }
  | .view _ | .none => r

/-- Write registers of a context. -/
def Ctx.write (c : Ctx) (d : Dest) (v : Line) : Ctx := { c with regs := c.regs.write d v }

/-- Add a result that an operation of `slot` issued now writes `lat` cycles later (R197). -/
def Ctx.result (c : Ctx) (slot : Slot) (lat : Nat) (d : Dest) (v : Line) : Ctx :=
  { c with sched := { c.sched with
      pend := c.sched.pend ++ [{ due := c.sched.time + lat, ord := c.sched.ord + slot.num, slot := slot, dest := d,
                                 val := v }] } }

/-- As `Ctx.result`, for the running context. -/
def State.result (s : State) (slot : Slot) (lat : Nat) (d : Dest) (v : Line) : State :=
  s.updMe (fun c => c.result slot lat d v)

/-- A scalar result (R197). -/
def State.resultG (s : State) (slot : Slot) (lat : Nat) (d : BitVec 6) (v : W64) : State :=
  s.result slot lat (.g d) (v.zeroExtend 2048)

/-- An address result. -/
def State.resultA (s : State) (slot : Slot) (lat : Nat) (d : BitVec 5) (v : W80) : State :=
  s.result slot lat (.a d) (v.zeroExtend 2048)

/-- A flag result. -/
def State.resultF (s : State) (slot : Slot) (lat : Nat) (f : BitVec 4) (v : Bool) : State :=
  s.result slot lat (.f f) (if v then 1 else 0)

/-- Rank of a slot where results meet in the grid (R240). -/
def slotRank : Slot → Nat
  | .v1 => 5 | .v0 => 4 | .m => 3 | .ld => 2 | .e1 => 1 | .sy | .s | .st | .e0 => 0

/-- The order in which results of one cycle are written, so that the one to keep comes last (R200, R240). -/
def Pend.key (p : Pend) : Nat :=
  match p.dest with
  | .line _ => slotRank p.slot * 2 ^ 64 + p.ord
  | _ => p.ord

/-- Change the results in flight. -/
def Ctx.updPend (c : Ctx) (f : List Pend → List Pend) : Ctx := { c with sched := { c.sched with pend := f c.sched.pend } }

/-- Write results in order. -/
def Ctx.writeAll (c : Ctx) (ps : List Pend) : Ctx := ps.foldl (fun c p => c.write p.dest p.val) c

/-- The results that a landed latch gives: its destination and a STEAL's flag (R169, R205). -/
def Latch.results (l : Latch) : List Pend :=
  { due := l.due, ord := l.ord, slot := l.slot, dest := l.dest, val := l.data } ::
  (match l.flag with
   | some (f, v) => [{ due := l.due, ord := l.ord, slot := l.slot, dest := .f f, val := if v then 1 else 0 }]
   | none => [])

/-- The grid line that a result writes. -/
def Pend.line? (p : Pend) : Option LineRef := match p.dest with | .line x => some x | _ => none

/-- The results and landings that reach their destinations at context time `t`. -/
def Ctx.dueAt (c : Ctx) (t : Nat) : List Pend :=
  c.sched.pend.filter (fun p => p.due ≤ t) ++
  (c.sched.latches.filter (fun l => decide (l.due ≤ t) && l.stat == .arrived && l.pad == 0)).flatMap Latch.results

/-- Let every exposed result and every arrived landing due at context time `t` or earlier reach its destination
(R197, R200, R205, R240). -/
def Ctx.settleRegs (c : Ctx) (t : Nat) : Ctx :=
  let d := c.writeAll (sortBy Pend.key (c.dueAt t))
  { d with sched := { d.sched with
      pend := d.sched.pend.filter (fun p => !(p.due ≤ t))
      latches := d.sched.latches.filter (fun l => !(decide (l.due ≤ t) && l.stat == .arrived && l.pad == 0)) } }

/-- Note the grid lines that results write in core cycle `cyc` (R181, R240). -/
def Ctx.noteLines (c : Ctx) (cyc : Nat) (ps : List Pend) : Ctx :=
  { c with sched := { c.sched with wrote := c.sched.wrote ++ (ps.filterMap Pend.line?).map (fun x => (cyc, x)) } }

/-- An engine writes a flag of context `n` (R200); during a trap's shadow ERET keeps it (R411). -/
def State.engineFlag (s : State) (n : Nat) (f : BitVec 4) (v : Bool) : State :=
  s.updCtx n (fun c => { c with
    regs := c.regs.setFlag f v
    shadow := c.shadow.map (fun h => { h with engine := h.engine ||| (1#16 <<< f.toNat) }) })

/-- Ring `r` of a core. -/
def Core.ring (c : Core) (r : Nat) : Ring := Sparse.get Ring.reset c.rings r

/-- A ring as a BACQ or BREL of core cycle `cyc` sees it: with the tags before a change that performed writes make in that cycle
(R386). -/
def Ring.seen (r : Ring) (cyc : Nat) : Ring :=
  match r.was with
  | some (c, t) => if c = cyc then { r with tags := t } else r
  | none => r

/-- Tag state of a slot (R382): 0 EMPTY, 1 FILLING, 2 FULL, 3 DRAINING. -/
def Ring.st (r : Ring) (slot : Nat) : Nat := (Sparse.get 0 r.tags slot).toNat % 4

/-- Number of slots of a ring (R381). -/
def Ring.slots (r : Ring) : Nat := bits r.desc.toNat 24 4 + 1

/-- Slot size in bytes (R381). -/
def Ring.slotBytes (r : Ring) : Nat := 256 * (bits r.desc.toNat 16 8 + 1)

/-- Self-alias offset of a slot (R381). -/
def Ring.slotOff (r : Ring) (slot : Nat) : Nat := 256 * bits r.desc.toNat 0 14 + slot * r.slotBytes

/-- A tag (R382). -/
def mkTag (st : Nat) (err : Bool) (cnt exp : Nat) : W64 :=
  BitVec.ofNat 64 (st + b2n err <<< 2 + cnt <<< 8 + exp <<< 32)

/-- Count of a tag. -/
def tagCnt (t : W64) : Nat := bits t.toNat 8 17

/-- Expected bytes of a tag. -/
def tagExp (t : W64) : Nat := bits t.toNat 32 17

/-- Write a ring and its flag: 1 while slot ci is FULL (R383). -/
def State.setRing (s : State) (core r : Nat) (x : Ring) : State :=
  let s := s.updCore core (fun c => { c with rings := Sparse.set c.rings r x })
  if x.conf then s.engineFlag x.owner (BitVec.ofNat 4 (bits x.desc.toNat 28 4)) (x.st x.ci == 2) else s

/-- Bytes of [a, a + n) that lie in [b, b + m). -/
def overlap (a n b m : Nat) : Nat := min (a + n) (b + m) - max a b

/-- Count `n` bytes written at tile-window offset `o` into the automatic fills of slots below `k` of a ring (R386). -/
def Ring.fill (x : Ring) (o n k : Nat) : Ring :=
  match k with
  | 0 => x
  | k + 1 =>
    let x := x.fill o n k
    let t := Sparse.get 0 x.tags k
    let w := overlap (o + 0x100000) n (x.slotOff k) x.slotBytes
    if x.st k = 1 ∧ tagExp t ≠ 0 ∧ w ≠ 0 then
      let cnt := tagCnt t + w
      let t' := if tagExp t ≤ cnt then mkTag 2 false cnt (tagExp t) else mkTag 1 false cnt (tagExp t)
      { x with tags := Sparse.set x.tags k t' }
    else x

/-- Count a write to the tile window of a core into the rings below `k` (R386). -/
def State.fillRings (s : State) (core o n k : Nat) : State :=
  match k with
  | 0 => s
  | k + 1 =>
    let s := s.fillRings core o n k
    let x := (s.core core).ring k
    if x.conf then
      let y := x.fill o n x.slots
      let cyc := (s.core core).cycle
      let was := if x.was.any (fun w => w.1 == cyc) then x.was else some (cyc, x.tags)
      if y = x then s else s.setRing core k { y with was := was }
    else s

/-- The line holds grid word (i, j) (R236). -/
def LineRef.holds (x : LineRef) (i j : Nat) : Bool :=
  match x.dir with
  | .h => i == x.idx.toNat
  | .v => j == x.idx.toNat
  | .d => (i + x.idx.toNat) % 64 == j

/-- A byte of a grid whose word a result of the owner reaches in this cycle (R181, R240). -/
def State.shielded (s : State) (pa : Nat) : Bool :=
  match placeOf pa with
  | .grid n o => (s.ctx n).sched.wrote.any (fun x => LineRef.holds x.2 (o / 256) (o % 256 / 4))
  | _ => false

/-- Write bytes through a window onto a context's grid or accumulators: where the owner's result reaches the word in the same
cycle, the window write to it is discarded (R181, R240). -/
def State.windowStore (s : State) (pa : Nat) (bs : List Byte) : State :=
  match bs with
  | [] => s
  | b :: r => State.windowStore (if s.shielded pa then s else s.writeByte pa b) (pa + 1) r

/-- The place a physical address belongs to is a context's grid, accumulators or landing slots (R180). -/
def inWindow (pa : Nat) : Bool :=
  match placeOf pa with
  | .grid .. | .acc .. | .land .. => true
  | _ => false

/-- The image store of die `d` as a package-local range (R127). -/
def State.storeRange (s : State) (d : Nat) : Nat × Nat := (d <<< 44 + (s.die d).store.1, (s.die d).store.2)

/-- An address in an image store of this package, which only Signet writes (R127; log entry 63). -/
def State.inStore (s : State) (pa : Nat) : Bool :=
  let r := s.storeRange (bits pa 44 2)
  decide (pa < 2 ^ 46 ∧ r.1 ≤ pa ∧ pa < r.1 + r.2)

/-- Perform a write: its bytes and, in a tile window, the ring fills it counts for (R352, R386). -/
def State.store (s : State) (pa : Nat) (bs : List Byte) : State :=
  if inWindow pa then s.windowStore pa bs
  else
    let s := s.writeMem pa bs
    match placeOf pa with
    | .tile core o => s.fillRings core o bs.length 8
    | _ => s

/-- First cycle in which a plane (0 c0, 1 c1, 2 wa, 3 ws) is free (R266). -/
def Planes.freeAt (p : Planes) (pl : Nat) : Nat := max (Sparse.get 0 p.busyStream pl) (Sparse.get 0 p.busyOther pl)

/-- The accumulator plane a window address belongs to is free (R181, R272). -/
def State.windowFree (s : State) (a : Nat) : Bool :=
  match placeOf a with
  | .acc m pl _ => decide ((s.ctx m).planes.freeAt pl ≤ (s.core (coreOf m)).cycle)
  | _ => true

/-- Find the first slot in ring order from `i` on, among `k`, that is in state `st`. -/
def Ring.oldest (x : Ring) (st i k : Nat) : Option Nat :=
  match k with
  | 0 => none
  | k + 1 => if x.st (i % x.slots) = st then some (i % x.slots) else x.oldest st (i + 1) k

/-- A BREL takes effect (R384): the oldest FILLING slot in producer order becomes FULL, or the oldest DRAINING slot
EMPTY. -/
def State.brelAct (s : State) (core r : Nat) (consumer err : Bool) (cnt : Nat) : State :=
  let x := (s.core core).ring r
  if consumer then
    match x.oldest 3 x.ci x.slots with
    | some k =>
      let t := Sparse.get 0 x.tags k &&& ~~~3
      s.setRing core r { x with tags := Sparse.set x.tags k t }
    | none => s
  else
    match x.oldest 1 x.pi x.slots with
    | some k =>
      let t := mkTag 2 err cnt (tagExp (Sparse.get 0 x.tags k))
      s.setRing core r { x with tags := Sparse.set x.tags k t }
    | none => s

/-- Perform an own-scratchpad store or a BREL of context `n` (R319, R384). -/
def State.ownStore (s : State) (n : Nat) (o : OwnStore) : State :=
  match o.brel with
  | some (r, consumer, err, cnt) => s.brelAct (coreOf n) r consumer err cnt
  | none => s.store o.addr o.data

/-- An own store that reaches a grid or an accumulator plane. -/
def OwnStore.window (o : OwnStore) : Bool := o.brel.isNone && inWindow o.addr

/-- The order in which own stores are performed (R358). -/
def OwnStore.rank (o : OwnStore) : Nat := 2 * o.step * 2 ^ 64 + o.ord

/-- A load or store that may still reach the own scratchpad: a page of it is not translated yet, or a piece of it in the
scratchpad is not performed. -/
def Req.ownWaits (r : Req) (pkg core : Nat) : Bool :=
  (match r.op with | .load _ | .store | .puth => true | _ => false) && r.fault.isNone && !r.performed &&
  r.pieces.any (fun p => !p.done && p.bad.isNone && (match p.pa with
    | some a => decide (a < 2 ^ 46) && windowCore a == some core && (bankOf a).isSome
    | none => r.home / 4 == pkg))

/-- The order in which such an access is performed: a load in the cycle of its issue, a store two cycles on (R319, R358). -/
def Req.ownRank (r : Req) : Nat :=
  (match r.op with | .load _ => 2 * (r.ord / 16) + 1 | _ => 2 * (r.ord / 16 + 2)) * 2 ^ 64 + r.ord

/-- An access of the context whose rank is below `k` may still reach the own scratchpad. -/
def Ctx.ownBefore (c : Ctx) (pkg core k : Nat) : Bool := c.mem.reqs.any (fun r => r.ownWaits pkg core && decide (r.ownRank < k))

/-- Everything due in context `n` at time `t` or earlier: results, landings, and own stores in their order, but for those of
windows, which follow the bundle's reads, and those that an untranslated access comes before (R181, R192, R319, R358). -/
def State.settle (s : State) (n t : Nat) : State :=
  let c := s.ctx n
  let due (o : OwnStore) : Bool := decide (o.due ≤ t) && !o.window && !c.ownBefore s.pkg (coreOf n) o.rank
  let st := c.sched.stores.filter due
  let c := (c.settleRegs t).noteLines (s.core (coreOf n)).cycle (c.dueAt t)
  let c := { c with sched := { c.sched with stores := c.sched.stores.filter (fun o => !due o) } }
  (sortBy OwnStore.rank st).foldl (fun s o => s.ownStore n o) (s.setCtx n c)

/-- Own stores of context `n` to windows that are due at time `t` or earlier, once the plane they reach is free (R181, R272). -/
def State.settleWindows (s : State) (n t : Nat) : State :=
  let c := s.ctx n
  let due (o : OwnStore) : Bool := decide (o.due ≤ t) && o.window && s.windowFree o.addr
  let st := c.sched.stores.filter due
  if st.isEmpty then s
  else
    let s := s.setCtx n { c with sched := { c.sched with stores := c.sched.stores.filter (fun o => !due o) } }
    (sortBy OwnStore.rank st).foldl (fun s o => s.ownStore n o) s

/-- Keep the last `n` elements. -/
def lastN {α : Type} (n : Nat) (l : List α) : List α := l.drop (l.length - n)

/-- Forward an event record to the host ring and to the management queue (R537). -/
def State.forward (s : State) (r : BitVec 256) : State :=
  let h := s.host
  let h := { h with events := lastN 1024 (h.events ++ [r]) }
  if 0 < h.eqsize.toNat ∧ (h.eqtail + 2 ^ 32 - h.eqhead) % 2 ^ 32 < h.eqsize.toNat then
    { s with
      host := { h with eqtail := (h.eqtail + 1) % 2 ^ 32 }
      out := s.out ++ [.host (h.eqbase.toNat + 32 * (h.eqtail % h.eqsize.toNat)) (toBytes 32 r.toNat), .msix 0] }
  else { s with host := { h with ringFull := true } }

/-- Write an event record (R457, R526) and forward it. -/
def State.event (s : State) (type die link : Nat) (rx : Bool) (mask t0 t1 det : Nat) : State :=
  let r : BitVec 256 := BitVec.ofNat 256 (type + s.pkg <<< 16 + die <<< 29 + link <<< 32 + b2n rx <<< 41 + mask <<< 48 +
    (t0 % 2 ^ 64) <<< 64 + (t1 % 2 ^ 64) <<< 128 + (det % 2 ^ 32) <<< 192 + (s.host.seqno % 2 ^ 32) <<< 224)
  { s with host := { s.host with seqno := (s.host.seqno + 1) % 2 ^ 32 } }.forward r

/-- An event to a die's control core (R537, type 0x20; log entry 110): core, context, cause and detail. -/
def State.controlEvent (s : State) (die core ctx cause det : Nat) : State :=
  let d := core + ctx <<< 10 + cause <<< 12 + det <<< 20
  let s' := s.event 0x20 die 0 false 0 s.clock s.clock d
  { s' with out := s'.out ++ [.control die (BitVec.ofNat 256 d)] }

end Sys2Proof.Machine
end

