-- ==== Sys2Proof/Machine/Frame.lean ====
section
/-! DEFINITION. The trap frame (R407, R408): its fields, its records, and how a frame in memory is read back
(R410, R411, R412). -/

namespace Sys2Proof.Machine

/-- The operand byte of a grid line (R106). -/
def LineRef.code (r : LineRef) : Nat := r.dir.code * 64 + r.idx.toNat

/-- The grid line of an operand byte in direction 00, 01 or 10 (R106). -/
def lineOfCode (n : Nat) : LineRef :=
  { dir := if bits n 6 2 = 0 then .h else if bits n 6 2 = 1 then .v else .d, idx := BitVec.ofNat 6 n }

/-- dkind and dest of a destination (R408). -/
def Dest.code : Dest → Nat × Nat
  | .g i => (0, i.toNat) | .a i => (1, i.toNat) | .f i => (2, i.toNat) | .lc i => (3, i.toNat) | .mx i => (4, i.toNat)
  | .land i => (5, i.toNat) | .line r => (6, LineRef.code r) | .fmtHalf h => (7, b2n h) | .k i => (8, i.toNat)
  | .z i => (9, i.toNat) | .view i => (10, i.toNat) | .none => (10, 255)

/-- The destination of dkind and dest (R408). -/
def Dest.ofCode (kind d : Nat) : Option Dest :=
  match kind with
  | 0 => some (.g (BitVec.ofNat 6 d)) | 1 => some (.a (BitVec.ofNat 5 d)) | 2 => some (.f (BitVec.ofNat 4 d))
  | 3 => some (.lc (BitVec.ofNat 3 d)) | 4 => some (.mx (BitVec.ofNat 2 d)) | 5 => some (.land (BitVec.ofNat 4 d))
  | 6 => some (.line (lineOfCode d)) | 7 => some (.fmtHalf (d % 2 = 1)) | 8 => some (.k (BitVec.ofNat 4 d))
  | 9 => some (.z (BitVec.ofNat 3 d)) | 10 => some (if d = 255 then .none else .view (BitVec.ofNat 4 d))
  | _ => none

/-- A frame record (R408): descriptor fields, the key that orders it, the value and the payload. -/
structure FrameRec where
  key   : Nat
  kind  : Nat
  stat  : Nat
  cause : Nat
  rem   : Nat
  dist  : Nat
  dkind : Nat
  dest  : Nat
  slot  : Nat
  val   : Nat
  payload : Option Line
  /-- what a request descriptor in the payload stands for -/
  descr : Option Descr
  /-- the request of a latch -/
  req   : Option Nat
deriving DecidableEq, Repr

/-- Codes of latch states (R408). -/
def LatchStat.code : LatchStat → Nat
  | .arrived => 0 | .pending => 1 | .poisoned => 2 | .retry => 3

/-- Whether a destination takes a line. -/
def Dest.isLine : Dest → Bool
  | .land _ | .line _ => true
  | _ => false

/-- The payload of a value for a destination: lines whole, an a register in bytes 0 to 9, a STEAL's flag in bytes 0 and
1, none for other scalars (R408). -/
def valuePayload (d : Dest) (v : Line) (flag : Option (BitVec 4 × Bool)) : Option Line :=
  match d, flag with
  | _, some (f, b) => some (BitVec.ofNat 2048 (f.toNat + 256 * b2n b))
  | .land _, _ | .line _, _ | .a _, _ => some v
  | _, _ => none

/-- The request descriptor of a latch, opaque (log entry 7). -/
def latchDescr (n : Nat) (l : Latch) : Line :=
  Config.requestDescriptor [n, l.req, l.ord, l.dist]

/-- The record of a latch at time `t` (R408, R409). -/
def Latch.record (n t : Nat) (rs : List Req) (l : Latch) : FrameRec :=
  let r := rs.find? (fun r => r.id == l.req)
  let arrived := l.stat == .arrived
  { key := l.ord, kind := 0, stat := l.stat.code, cause := if l.stat == .poisoned then l.cause else 0,
    rem := l.due - t, dist := l.dist, dkind := l.dest.code.1, dest := l.dest.code.2, slot := l.slot.num,
    val := if arrived then (if l.dest.isLine then 0 else l.data.toNat % 2 ^ 64) else l.taddr.toNat
    payload := if arrived then valuePayload l.dest l.data l.flag else some (latchDescr n l)
    descr := if arrived then none else r.map (fun r => .req r l)
    req := if arrived then none else some l.req }

/-- The record of an exposed result (R408). -/
def Pend.record (t : Nat) (p : Pend) : FrameRec :=
  { key := p.ord, kind := 1, stat := 0, cause := 0, rem := p.due - t, dist := 0, dkind := p.dest.code.1,
    dest := p.dest.code.2, slot := p.slot.num, val := if p.dest.isLine then 0 else p.val.toNat % 2 ^ 64,
    payload := valuePayload p.dest p.val none, descr := none, req := none }

/-- The lines that a transform operation holds and that have records: the last 8; the others stand in the payload of its own record
(R408). -/
def Xform.buffered (x : Xform) : Sparse Line := x.held.drop (x.held.length - 8)

/-- The records of a transform operation: itself and the lines it holds (R286, R408). -/
def Xform.records (n t : Nat) (x : Xform) : List FrameRec :=
  { key := x.ord, kind := 2, stat := 0, cause := 0, rem := x.t0 + x.beat - t, dist := 0, dkind := 10, dest := 255,
    slot := 8, val := 0, payload := some (Config.requestDescriptor [n, x.t0, x.ord, x.beat]),
    descr := some (.xform ({ x with held := x.held.take (x.held.length - 8) } : Xform)), req := none } ::
  x.buffered.map (fun h => { key := x.ord, kind := 3, stat := 0, cause := 0, rem := 0, dist := 0, dkind := 10,
                             dest := h.1, slot := 8, val := 0, payload := some h.2, descr := none, req := none })

/-- The record of an own store; none for a BREL, which the hardware keeps (R403, R408). -/
def OwnStore.record? (t : Nat) (o : OwnStore) : Option FrameRec :=
  match o.brel with
  | some _ => none
  | none => some { key := o.ord, kind := 5, stat := 0, cause := 0, rem := o.due - t, dist := 0, dkind := 11,
                   dest := o.data.length / 4 - 1, slot := 6, val := o.va.toNat, payload := some (lineOfBytes o.data),
                   descr := none, req := none }

/-- Every record that a trap at time `t` saves, in issue order, at most 128 (R403 item 2, R408). -/
def Ctx.records (c : Ctx) (n t : Nat) : List FrameRec :=
  let surr : List FrameRec :=
    match c.fit.invoc with
    | some i => if c.sched.empty = 0 then [] else
        [{ key := i.t * 16 + 8, kind := 4, stat := 0, cause := 0, rem := c.sched.empty, dist := 0, dkind := 10,
           dest := i.rg, slot := 8, val := 0, payload := none, descr := none, req := none }]
    | none => []
  (sortBy FrameRec.key
    (c.sched.latches.map (Latch.record n t c.mem.reqs) ++ c.sched.pend.map (Pend.record t) ++
     c.sched.xforms.flatMap (Xform.records n t) ++ c.sched.stores.filterMap (OwnStore.record? t) ++ surr)).take 128

/-- The 128-bit descriptor of record number `i` (R408). -/
def FrameRec.word (r : FrameRec) (i : Nat) : Nat :=
  r.kind + r.stat <<< 4 + r.cause <<< 8 + (min r.rem 4095) <<< 16 + r.dist <<< 28 + r.dkind <<< 40 + r.dest <<< 44 +
  r.slot <<< 52 + i <<< 56 + r.val <<< 64

/-- Fields of the records, from record number `i` on: offset from the frame, bytes, value (R407). -/
def recordFields (i : Nat) (rs : List FrameRec) : List (Nat × Nat × Nat) :=
  match rs with
  | [] => []
  | r :: rest =>
    (5120 + 16 * i, 16, r.word i) :: (7168 + 256 * i, 256, (r.payload.getD 0).toNat) :: recordFields (i + 1) rest

/-- A view word (R301). -/
def View.word (v : View) : W64 :=
  BitVec.ofNat 64 (v.state + b2n (v.wref != 0) <<< 3 + b2n v.served <<< 4 + v.nsamp <<< 8 + v.npass <<< 16 +
    v.nfail <<< 24 + v.inv.toNat <<< 32)

/-- View of region `i`. -/
def FitSide.view (f : FitSide) (i : Nat) : View := Sparse.get View.reset f.views i

/-- A pending comparison's word (R407), 64 bits, remaining count to c. -/
def Cmp.word (x : Cmp) (t : Nat) : Nat :=
  x.rg + 1 <<< 4 + b2n x.known <<< 5 + b2n x.pass <<< 6 + (min (x.c - t) 4095) <<< 7

/-- An active loop's word (R407). -/
def LoopRec.word (l : LoopRec) : Nat := l.n.toNat + l.first <<< 3 + l.last <<< 27 + 1 <<< 51

/-- Number a list from `i` on. -/
def number {α : Type} (i : Nat) (l : List α) : List (Nat × α) :=
  match l with
  | [] => []
  | x :: r => (i, x) :: number (i + 1) r

/-- The fields of a frame's header and landing slots (R407): offset, bytes, value. -/
def Ctx.frameHeader (c : Ctx) (t nrec : Nat) : List (Nat × Nat × Nat) :=
  let r := c.regs
  let q := c.seq
  [(0, 8, c.sys.tcause.toNat), (8, 8, c.sys.taddr.toNat), (16, 3, c.sched.pc), (19, 3, c.sched.rtgt),
   (22, 1, c.sched.dly + b2n c.sched.tskip <<< 2), (24, 2, (r.f &&& 0xFFFE).toNat), (28, 4, r.fmt.toNat),
   (32, 8, r.rsn.toNat), (40, 8, r.xst.toNat)] ++
  r.mx.map (fun p => (48 + 4 * p.1, 4, p.2.toNat)) ++
  (r.g.filter (fun p => p.1 < 8)).map (fun p => (64 + 8 * p.1, 8, p.2.toNat)) ++
  (r.a.filter (fun p => p.1 < 4)).map (fun p => (128 + 16 * p.1, 16, p.2.toNat)) ++
  r.k.map (fun p => (192 + 8 * p.1, 8, p.2.toNat)) ++
  r.z.map (fun p => (320 + 8 * p.1, 8, p.2.toNat)) ++
  r.lc.map (fun p => (384 + 4 * p.1, 4, p.2.toNat)) ++
  (number 0 c.sched.loops).map (fun p => (408 + 8 * p.1, 8, LoopRec.word p.2)) ++
  [(456, 8, b2n q.conf + b2n q.bad <<< 1 + (q.addr.toNat % 2 ^ 17) <<< 2), (464, 8, q.cur), (472, 8, q.hi),
   (480, 32, q.desc.toNat)] ++
  c.fit.views.map (fun p => (512 + 8 * p.1, 8, p.2.word.toNat)) ++
  (number 0 (c.fit.cmps.take 16)).map (fun p => (640 + 8 * p.1, 8, p.2.word t)) ++
  [(768, 1, nrec)] ++
  r.land.map (fun p => (1024 + 256 * p.1, 256, p.2.toNat))

/-- tframe names a place where a frame fits (R402). -/
def frameFits (off : Nat) : Bool := decide (off % 1024 = 0 ∧ off + 0xA000 ≤ 0x20000)

/-- Read back one record descriptor of a frame in memory (R408). -/
def State.frameRec (s : State) (base i : Nat) : FrameRec :=
  let w := s.readNat (base + 5120 + 16 * i) 16
  { key := bits w 56 8, kind := bits w 0 4, stat := bits w 4 2, cause := bits w 8 8, rem := bits w 16 12,
    dist := bits w 28 12, dkind := bits w 40 4, dest := bits w 44 8, slot := bits w 52 4, val := bits w 64 64,
    payload := some (lineOfBytes (s.readMem (base + 7168 + 256 * i) 256)), descr := none, req := none }

/-- Whether a record still names what a descriptor was written for. -/
def FrameRec.agrees (r : FrameRec) (d : Descr) : Bool :=
  match d with
  | .req _ l => decide (l.dest.code = (r.dkind, r.dest) ∧ l.slot.num = r.slot ∧ l.dist = r.dist ∧
      (r.stat ≠ 2 → l.taddr.toNat = r.val))
  | .xform _ => r.kind == 2

/-- What the hardware wrote the descriptor payload of a record for (R408); none when a handler changed it. Of descriptors with
equal lines the newest that the record names (log entry 7). -/
def State.descrOf (s : State) (r : FrameRec) : Option Descr :=
  let ds := s.descs.filter (fun d => some d.1 == r.payload)
  ((ds.find? (fun d => r.agrees d.2)).or ds.head?).map Prod.snd

/-- A record that R410 calls malformed. -/
def State.recBad (s : State) (r : FrameRec) : Bool :=
  decide (5 < r.kind) || (Dest.ofCode r.dkind r.dest == none && !(r.kind == 5 && r.dkind == 11)) ||
  (r.kind != 0 && r.stat != 0) ||
  (r.kind == 0 && r.stat != 0 && s.descrOf r == none) ||
  (r.kind == 2 && s.descrOf r == none)

/-- The value that a record delivers to its destination (R408). -/
def FrameRec.value (r : FrameRec) : Line :=
  match Dest.ofCode r.dkind r.dest with
  | some (.land _) | some (.line _) | some (.a _) => r.payload.getD 0
  | _ => BitVec.ofNat 2048 r.val

end Sys2Proof.Machine
end

