-- ==== Sys2Proof/Machine/Ops.lean ====
section
/-! DEFINITION. Taking a trap, stopping a context and returning from a handler (R399 to R416), and the self alias
(R183). -/

namespace Sys2Proof.Machine

/-- Physical address of a self-alias offset of context `n` (R183). -/
def selfAddr (n off : Nat) : Option Nat :=
  if off < 0x20000 then some (plainBase n + off)
  else if 0x100000 ≤ off ∧ off < 0x280000 then some (windowBase (coreOf n) + (off - 0x100000))
  else none

/-- Compact form of a self-alias offset (R178, R183). -/
def selfCompact (off : Nat) : W64 := BitVec.ofNat 64 (selfHome <<< 48 + off)

/-- Cause codes (R401). -/
def cTRAP : Nat := 0x01
def cTIMER : Nat := 0x02
def cPCRANGE : Nat := 0x03
def cDETVIOL : Nat := 0x04
def cNOTASK : Nat := 0x05
def cOUTOPEN : Nat := 0x06
def cLPSDESC : Nat := 0x07
def cMFMT : Nat := 0x08
def cAPXCFG : Nat := 0x09
def cBARSPACE : Nat := 0x0A
def cBARSTATE : Nat := 0x0B
def cBRSTATE : Nat := 0x0C
def cHNDLCTX : Nat := 0x0D
def cSYSNUM : Nat := 0x0E
def cERETCTX : Nat := 0x0F
def cVAFMT : Nat := 0x10
def cXNV : Nat := 0x11
def cXPERM : Nat := 0x12
def cPTEFMT : Nat := 0x13
def cALIGN : Nat := 0x14
def cWINPROT : Nat := 0x15
def cIMGPROT : Nat := 0x16
def cPUTHDST : Nat := 0x17
def cUNREACH : Nat := 0x18
def cMEMERR : Nat := 0x19
def cCPYARG : Nat := 0x1A
def cTLSTATE : Nat := 0x20
def cTLSHAPE : Nat := 0x21
def cTLVEROVF : Nat := 0x22
def cTLSPACE : Nat := 0x23
def cTLRANGE : Nat := 0x24
def cFUTEMPTY : Nat := 0x25
def cTILELOST : Nat := 0x26
def cDOUBLE : Nat := 0x30
def cFRAMEBAD : Nat := 0x31
def cHALT : Nat := 0x32

/-- What a trap reports (R400, R401). -/
structure TrapInfo where
  cause : Nat
  taddr : W64
  slot  : Nat
  async : Bool
  land  : Bool
  rep   : Bool
  efl   : Nat
  /-- issue order of the faulting latch -/
  key   : Nat
  /-- the stopped command or failed fitting operation at a WAIT -/
  cmd   : Option Nat
deriving DecidableEq, Repr

/-- A trap raised at issue by an operation of `slot`. -/
def TrapInfo.issue (slot : Slot) (cause : Nat) (taddr : W64) : TrapInfo :=
  { cause := cause, taddr := taddr, slot := slot.num, async := false, land := false, rep := false, efl := 0, key := 0,
    cmd := none }

/-- tcause (R400). -/
def TrapInfo.word (i : TrapInfo) (code rec bix prior : Nat) (inh : Bool) : W64 :=
  BitVec.ofNat 64 (code + i.slot <<< 8 + b2n i.async <<< 12 + b2n i.land <<< 13 + b2n i.rep <<< 14 + b2n inh <<< 15 +
    rec <<< 16 + bix <<< 24 + prior <<< 48 + i.efl <<< 56)

/-- Stop context `n` with a stop record (R414): its state is kept, the control core gets an event. -/
def State.stop (s : State) (n code : Nat) (tcause taddr : W64) : State :=
  (s.updCtx n (fun c => { c with mode := .stopped, sys := { c.sys with tcause := tcause, taddr := taddr } })).controlEvent
    (dieOf (coreOf n)) (coreOf n) (n % 4) 4 code

/-- Index of the record of the latch with issue order `key`. -/
def recIndex (rs : List FrameRec) (key : Nat) : Nat := rs.findIdx (fun r => r.kind == 0 && r.key == key)

/-- Latches whose fault is FUTEMPTY are saved as RETRY (R409). -/
def retryFutures (ls : List Latch) : List Latch :=
  ls.map (fun l => if l.stat == .poisoned && l.cause == cFUTEMPTY then { l with stat := .retry } else l)

/-- The descriptors that a frame's records carry, for the table of request descriptors (R408). -/
def newDescrs (rs : List FrameRec) : List (Line × Descr) :=
  rs.filterMap (fun r => match r.payload, r.descr with | some p, some d => some (p, d) | _, _ => none)

/-- The handler word that a cause starts: the future-empty word for FUTEMPTY while it is enabled, else the trap word
(R393, R402, R403). -/
def SysRegs.handlerFor (y : SysRegs) (cause : Nat) : W64 :=
  if cause = cFUTEMPTY ∧ bit y.futWord.toNat 63 then y.futWord else y.trapWord

/-- Write the frame of context `n` (R407): header, landing slots and records, the rest of the 40 KiB zero. -/
def State.writeFrame (s : State) (n t : Nat) (rs : List FrameRec) : State :=
  let c := s.ctx n
  let base := plainBase n + c.sys.tframe.toNat
  let s := s.fill base 40960 (layout base (c.frameHeader t rs.length ++ recordFields 0 rs))
  { s with descs := newDescrs rs ++ s.descs }

/-- Dead cycles between a trap or an ERET in this cycle and the next bundle: 12 core cycles and one for each payload
record (R405, R411). -/
def trapDelay (rs : List FrameRec) : Nat := 11 + (rs.filter (fun r => r.payload.isSome)).length

/-- The due faults without the earliest one, when a report point raised it (R368). -/
def MemSide.withoutReported (m : MemSide) (rep : Bool) : List (Nat × Slot × FaultRec) :=
  match rep, leastBy (fun d : Nat × Slot × FaultRec => d.1) m.due with
  | true, some d => m.due.erase d
  | _, _ => m.due

/-- Take a trap in the running context before its presented bundle (R403): results due are written, everything else in
flight goes into the frame, tcause and taddr are set and the handler starts; without an enabled handler, or with a
handler already running, the context stops (R413, R414). -/
def State.takeTrap (s : State) (i : TrapInfo) : State :=
  let n := s.cur
  let t := s.me.sched.time
  let bix := s.me.sched.pc
  match s.me.mode, s.me.shadow with
  | .handler, some h =>
    if h.readCause && h.readAddr then s.stop n i.cause (i.word i.cause 0 bix h.cause true) i.taddr
    else s.stop n cDOUBLE (i.word cDOUBLE 0 bix h.cause false) i.taddr
  | _, _ =>
    let s := (s.settle n t).settleWindows n t
    let c := s.me
    let c := { c with sched := { c.sched with latches := retryFutures c.sched.latches } }
    let rs := c.records (n + 4096 * (s.core (coreOf n)).cycle) t
    if !frameFits c.sys.tframe.toNat then
      s.stop n cDOUBLE (i.word cDOUBLE 0 bix i.cause false) (selfCompact c.sys.tframe.toNat)
    else
      let rec_ := if i.land then recIndex rs i.key else 0
      let skip := i.cause == cTRAP
      let c := { c with
        sys := { c.sys with tcause := i.word i.cause rec_ bix 0 false, taddr := i.taddr }
        sched := { c.sched with tskip := c.sched.tskip || skip } }
      let s := (s.setCtx n c).writeFrame n t rs
      let h : Shadow :=
        { t := t, readCause := false, readAddr := false, engine := 0
          parked := (number 0 rs).filterMap (fun r => match r.2.req with
            | some q => if r.2.stat == 1 then some (q, r.1) else none
            | none => none)
          base := c.sys.tframe.toNat, cause := i.cause, invoc := c.fit.invoc
          keep := c.sched.stores.map (fun o => { o with due := o.due - t })
          ref := if i.cause = cFUTEMPTY then some i.taddr else none
          inline := false, cmd := i.cmd, seq := if c.seq.ready = 0 then none else some c.seq }
      let w := c.sys.handlerFor i.cause
      let c := { s.me with
        shadow := some h
        seq := { s.me.seq with ready := 0 }
        fit := { s.me.fit with
          invoc := none, want := none, answer := none
          ops := s.me.fit.ops.filter (fun o => !(decide (o.err = some (FaultRec.mk i.cause i.taddr)) &&
            o.fl.toNat == i.efl)) }
        mem := { s.me.mem with due := s.me.mem.withoutReported i.rep }
        sched := { Sched.reset with pc := w.toNat % 2 ^ 24, time := t, ord := c.sched.ord } }
      if bit w.toNat 63 then
        (s.setCtx n { c with mode := .handler }).updCore (coreOf n) (fun k => { k with switch := trapDelay rs })
      else (s.setCtx n { c with sched := { c.sched with pc := bix } }).stop n i.cause c.sys.tcause i.taddr

/-- The registers that ERET restores from a frame (R407, R411): `get off len` reads the frame. Values in reserved bits of fmt (R216)
and xst (R285) are discarded (R9). -/
def Regs.fromFrame (r : Regs) (engine : BitVec 16) (get : Nat → Nat → Nat) : Regs :=
  let fill (off size count width : Nat) : Sparse (BitVec width) :=
    (List.range count).map (fun i => (i, BitVec.ofNat width (get (off + size * i) size)))
  { r with
    g := fill 64 8 8 64 ++ r.g.filter (fun p => 8 ≤ p.1)
    a := fill 128 16 4 80 ++ r.a.filter (fun p => 4 ≤ p.1)
    f := (r.f &&& engine) ||| (BitVec.ofNat 16 (get 24 2) &&& ~~~engine &&& 0xFFFE)
    land := fill 1024 256 16 2048
    k := fill 192 8 16 64
    z := fill 320 8 8 64
    lc := fill 384 4 6 32
    mx := fill 48 4 4 32
    fmt := BitVec.ofNat 32 (bits (get 28 4) 0 4)
    rsn := BitVec.ofNat 64 (get 32 8)
    xst := BitVec.ofNat 64 (get 40 8) &&& 0x8000007F00FFFFFF }

/-- A view as the frame gives it; its binding and buffer are the hardware's (R301, R411). -/
def View.fromFrame (v : View) (w : Nat) : View :=
  { v with
    state := bits w 0 3, served := bit w 4, nsamp := bits w 8 8, npass := bits w 16 8, nfail := bits w 24 8
    inv := BitVec.ofNat 32 (bits w 32 32) }

/-- Active loops of a frame (R407). -/
def loopsFromFrame (get : Nat → Nat → Nat) : List LoopRec :=
  (List.range 6).filterMap (fun i =>
    let w := get (408 + 8 * i) 8
    if bit w 51 then some { n := BitVec.ofNat 3 w, first := bits w 3 24, last := bits w 27 24 } else none)

/-- Pending comparisons of a frame (R407, R412). -/
def cmpsFromFrame (t : Nat) (get : Nat → Nat → Nat) : List Cmp :=
  (List.range 16).filterMap (fun i =>
    let w := get (640 + 8 * i) 8
    if bit w 4 then some { rg := bits w 0 4, c := t + bits w 7 12, known := bit w 5, pass := bit w 6 } else none)

/-- The latch that a LATCH record puts back at time `t` (R412); a RETRY takes request number `id`. -/
def FrameRec.latch (r : FrameRec) (t id : Nat) (d : Option Descr) : Latch :=
  let dest := (Dest.ofCode r.dkind r.dest).getD .none
  let l0 : Latch := { req := id, due := t + r.rem, dist := r.dist, ord := r.key, slot := (Slot.ofNum r.slot).getD .ld,
                      dest := dest, flag := none, stat := .arrived, ready := 0, pad := 0, born := 0, worst := 0, data := r.value, cause := 0,
                      taddr := 0 }
  let p := (r.payload.getD 0).toNat
  let stealFlag : Option (BitVec 4 × Bool) :=
    if r.dkind = 0 ∧ r.slot = Slot.s.num ∧ p / 512 = 0 ∧ 0 < p % 256 ∧ p % 256 < 16 then some (BitVec.ofNat 4 p, bit p 8) else none
  match r.stat, d with
  | 0, _ => { l0 with flag := stealFlag }
  | 1, some (.req _ l) => { l0 with req := l.req, stat := .pending, flag := l.flag, taddr := BitVec.ofNat 64 r.val, ready := l.ready }
  | 2, some (.req _ l) => { l0 with req := l.req, stat := .poisoned, cause := r.cause, taddr := BitVec.ofNat 64 r.val }
  | 3, some (.req _ l) =>
    { l0 with due := t + max r.rem r.dist, stat := .pending, flag := l.flag, taddr := BitVec.ofNat 64 r.val }
  | _, _ => l0

/-- A request to be sent again: nothing of it performed (R412). -/
def Req.again (r : Req) (id : Nat) : Req :=
  { r with id := id, performed := false, acked := false, fault := none
           pieces := r.pieces.map (fun p => { p with done := false, pa := none }) }

/-- Put one record of a frame back into the schedule (R412). -/
def Ctx.reinject (c : Ctx) (h : Shadow) (n : Nat) (r : FrameRec) (d : Option Descr) : Ctx :=
  let t := h.t
  match r.kind with
  | 0 =>
    let id := c.mem.nextId
    let c := { c with sched := { c.sched with latches := c.sched.latches ++ [r.latch t id d] } }
    match r.stat, d with
    | 3, some (.req q _) =>
      { c with mem := { c.mem with nextId := id + 1, reqs := c.mem.reqs.filter (fun x => x.id != q.id) ++ [q.again id] } }
    | _, _ => c
  | 1 =>
    match Dest.ofCode r.dkind r.dest with
    | some x => { c with sched := { c.sched with
        pend := c.sched.pend ++ [{ due := t + r.rem, ord := r.key, slot := (Slot.ofNum r.slot).getD .s, dest := x,
                                   val := r.value }] } }
    | none => c
  | 2 =>
    match d with
    | some (.xform x) => { c with sched := { c.sched with xforms := c.sched.xforms ++ [{ x with ord := r.key }] } }
    | _ => c
  | 3 =>
    match c.sched.xforms.reverse with
    | x :: rest => { c with sched := { c.sched with
        xforms := (({ x with held := Sparse.set x.held r.dest (r.payload.getD 0) } : Xform) :: rest).reverse } }
    | [] => c
  | 4 => { c with sched := { c.sched with empty := r.rem }, fit := { c.fit with invoc := h.invoc } }
  | _ =>
    let va := BitVec.ofNat 64 r.val
    let pa :=
      match h.keep.find? (fun o => o.va == va) with
      | some o => some o.addr
      | none => if bits r.val 48 16 = selfHome then selfAddr n (r.val % 2 ^ 48) else none
    match pa with
    | some a => { c with sched := { c.sched with
        stores := c.sched.stores ++ [{ due := t + r.rem, ord := r.key, step := c.sched.ord / 16 + r.rem, addr := a, va := va,
                                       data := (lineBytes (r.payload.getD 0)).take (4 * (r.dest + 1)), brel := none }] } }
    | none => c

/-- Resume a stopped copy command: it restarts at its offset, with its bank reservation (R344, R422). -/
def Cmd.resume (m : Cmd) : Cmd := { m with stat := .queued, cause := 0, trap := 0, resv := m.hdr.banks != 0 }

/-- Restore context `n` from its frame and present the saved bundle again (R411, R412); a malformed frame stops the
context with FRAMEBAD (R410, R414). -/
def State.restoreFrame (s : State) (n : Nat) : State :=
  match (s.ctx n).shadow with
  | none => s
  | some h =>
    let base := plainBase n + h.base
    let get := fun off len => s.readNat (base + off) len
    let c := s.ctx n
    let nrec := get 768 1
    let recs := (List.range (min nrec 128)).map (s.frameRec base)
    let badAt := recs.findIdx s.recBad
    let bix := c.sched.pc
    let info := TrapInfo.issue .s cFRAMEBAD 0
    if 128 < nrec then
      s.stop n cFRAMEBAD (info.word cFRAMEBAD 0 bix h.cause false) (BitVec.ofNat 64 (h.base + 768))
    else if badAt < recs.length then
      s.stop n cFRAMEBAD (info.word cFRAMEBAD 0 bix h.cause false) (BitVec.ofNat 64 (h.base + 5120 + 16 * badAt))
    else
      let seqw := get 456 8
      let c := { c with
        mode := if c.task.isSome then .task else .wake
        shadow := none
        regs := c.regs.fromFrame h.engine get
        seq := h.seq.getD { c.seq with conf := bit seqw 0, bad := bit seqw 1, addr := selfCompact (bits seqw 2 17),
                                       cur := get 464 8, hi := get 472 8, desc := BitVec.ofNat 256 (get 480 32) }
        fit := { c.fit with
          views := (List.range 16).map (fun i => (i, (c.fit.view i).fromFrame (get (512 + 8 * i) 8)))
          cmps := cmpsFromFrame h.t get, invoc := h.invoc }
        sched := { Sched.reset with
          pc := get 16 3, rtgt := get 19 3, dly := bits (get 22 1) 0 2, tskip := bit (get 22 1) 2,
          time := h.t, ord := c.sched.ord + 256, loops := loopsFromFrame get
          stores := (h.keep.filter (fun o => o.brel.isSome)).map (fun o => { o with due := h.t + o.due }) }
        mem := { c.mem with
          cmds := match h.cmd with
            | some q => c.mem.cmds.map (fun m => if m.id = q ∧ m.stat = .stopped then m.resume else m)
            | none => c.mem.cmds } }
      let c := recs.foldl (fun c r => c.reinject h n { r with key := c.sched.ord - 256 + r.key }
        (s.descrOf r)) c
      (s.setCtx n c).updCore (coreOf n) (fun k => { k with switch := trapDelay recs })

/-- The flag that the record of a parked STEAL carries (R408). -/
def State.parkedFlag (s : State) (base rec_ : Nat) : Option (BitVec 4) :=
  match s.descrOf (s.frameRec base rec_) with
  | some (.req _ l) => l.flag.map Prod.fst
  | _ => none

/-- Data of a parked request arrived during the shadow: the record becomes ARRIVED; a STEAL's flag stands in the first bytes of
its payload (R408, R409). -/
def State.parkArrive (s : State) (n rec_ : Nat) (dest : Dest) (data : Line) (flag : Option Bool) : State :=
  match (s.ctx n).shadow with
  | none => s
  | some h =>
    let base := plainBase n + h.base
    let d := base + 5120 + 16 * rec_
    let b0 := s.readNat d 1
    let pay := (s.parkedFlag base rec_).bind (fun f => flag.map (fun b => BitVec.ofNat 2048 (f.toNat + 256 * b2n b)))
    let s := s.writeMem d (toBytes 1 (b0 % 16))
    let s := match pay with | some v => s.writeMem (base + 7168 + 256 * rec_) (lineBytes v) | none => s
    let s := if dest.isLine || (match dest with | .a _ => true | _ => false) then
        s.writeMem (base + 7168 + 256 * rec_) (lineBytes data)
      else s.writeMem (d + 8) (toBytes 8 data.toNat)
    s.updCtx n (fun c => { c with shadow := some { h with parked := h.parked.filter (fun p => p.2 != rec_) } })

/-- A fault of a parked request arrived during the shadow: the record becomes POISONED, or RETRY for FUTEMPTY
(R409). -/
def State.parkFault (s : State) (n rec_ : Nat) (f : FaultRec) : State :=
  match (s.ctx n).shadow with
  | none => s
  | some h =>
    let d := plainBase n + h.base + 5120 + 16 * rec_
    let b0 := s.readNat d 1
    let st := if f.cause = cFUTEMPTY then 3 else 2
    let s := s.writeMem d (toBytes 2 (b0 % 16 + st <<< 4 + f.cause <<< 8))
    let s := s.writeMem (d + 8) (toBytes 8 f.taddr.toNat)
    s.updCtx n (fun c => { c with shadow := some { h with parked := h.parked.filter (fun p => p.2 != rec_) } })

end Sys2Proof.Machine
end

