-- ==== Sys2Proof/Machine/Operands.lean ====
section
/-! DEFINITION. Operand forms: grid operands, landing slots and broadcasts (R106, R238), successive lines (R264, R284),
effective addresses (R316), tile pointers (R324), the rounding inputs of an operation (R81). -/

namespace Sys2Proof.Machine

/-- The line that a source supplies for elements of width `b` (R236, R238). -/
def Ctx.src (c : Ctx) (b : Nat) (x : Src) : Line :=
  match x with
  | .line r => c.regs.line r
  | .land l => c.l l
  | .bcast g => lineOfElems b (2048 / b) (fun _ => (c.g (g.zeroExtend 6)).toNat)

/-- Effective address of a load or store: the offset moves by a signed count of units, modulo 2^48 (R316). -/
def effAddr (a : W80) (off : Int) (size : Nat) : W80 := addrWithOff a ((addrOff a : Int) + off * size)

/-- An address `k` bytes on, modulo 2^48 (R230). -/
def addrPlus (a : W80) (k : Int) : W80 := addrWithOff a ((addrOff a : Int) + k)

/-- Effective level of the running task; a wake handler runs at level 0 (R58, R391). -/
def Ctx.level (c : Ctx) : Nat := match c.task with | some t => t.level | none => 0

/-- Seed of the random bits: out0, or 0 (R80). -/
def Ctx.seed (c : Ctx) : W64 := match c.task with | some t => t.desc.outs.headD 0 | none => 0

/-- Team rank for the random bits (R80). -/
def Ctx.rank64 (c : Ctx) : W64 := match c.task with
  | some t => if t.desc.team = 0 then 0 else BitVec.ofNat 64 t.desc.rank
  | none => 0

/-- The rounding mode of a format register (R216). -/
def fmtMode (f : W32) : Nat := bits f.toNat 0 3

/-- The flush bit of a format register (R216). -/
def fmtFtz (f : W32) : Bool := bit f.toNat 3

/-- Rounding by fmt into a grid line or plain memory, with rsn as it stands (R81, R243). -/
def Ctx.rnd (c : Ctx) : Rnd :=
  { mode := fmtMode c.regs.fmt, ftz := fmtFtz c.regs.fmt, seed := c.seed, rank := c.rank64, ref := c.seed,
    base := c.regs.rsn * 256 }

/-- The same rounding with the mode fixed to RNE (R251, R254). -/
def Ctx.rndNe (c : Ctx) : Rnd := { c.rnd with mode := 0 }

/-- RS taken as RNE (R96). -/
def Ctx.rndTree (c : Ctx) : Rnd := { c.rnd with mode := if fmtMode c.regs.fmt = 4 then 0 else fmtMode c.regs.fmt }

/-- Advance rsn past `k` values when the mode is RS (R81). -/
def Ctx.takeRsn (c : Ctx) (k : Nat) : Ctx :=
  if fmtMode c.regs.fmt = 4 then { c with regs := { c.regs with rsn := c.regs.rsn + BitVec.ofNat 64 k } } else c

/-- The second operand of an immediate form (R227). -/
def immOp (imm : BitVec 32) : W64 := sext64 imm

end Sys2Proof.Machine
end

