-- ==== Sys2Proof/Machine/Act.lean ====
section
/-! DEFINITION. How an operation of a bundle comes to act (R197, R201, R207, R210, R212, R370, R403): its verdict, the
freeze counters, declining, giving up the issue width. -/

namespace Sys2Proof.Machine

/-- Why a core freezes (R210, R226, R372). -/
inductive Why where
  | late | busy | bank | pwr | sync
  /-- a fence's wait, and the wait after an LPSCFG (R171, R361) -/
  | fence | lps
  /-- the walk of a page that SYSWR 0x040 asks for (R193) -/
  | walk (a : W64)
  /-- leave in the classes of mask `m` is missing (R223); `busy`: a plane is busy as well, which counts first -/
  | sage (m : Nat) (busy : Bool)
  /-- a weight version is not loaded yet (R313): it, its region, whether it is new -/
  | load (ref : W64) (rg : Nat) (new : Bool)
  /-- TEND waits (R168) -/
  | tend
deriving DecidableEq, Repr

/-- What becomes of a presented operation. -/
inductive Verdict where
  /-- it issues -/
  | issue
  /-- it raises a trap -/
  | trap (i : TrapInfo)
  /-- the core freezes for this cycle -/
  | freeze (w : Why)
  /-- the bundle is declined (R212) -/
  | decline (a : Await)
  /-- an empty bundle issues in its place (R370) -/
  | hold
deriving DecidableEq, Repr

/-- Count a freeze cycle in the running context (R210, R226, R372). -/
def Counters.freeze (k : Counters) (w : Why) : Counters :=
  match w with
  | .late | .load .. | .tend | .fence | .lps | .walk _ => { k with late := k.late + 1 }
  | .busy => { k with busy := k.busy + 1 }
  | .bank => { k with bank := k.bank + 1 }
  | .pwr => { k with pwr := k.pwr + 1 }
  | .sage _ true => { k with busy := k.busy + 1 }
  | .sage _ false => { k with pwr := k.pwr + 1, sage := k.sage + 1 }
  | .sync => { k with late := k.late + 1, sync := k.sync + 1 }

/-- One more cycle for the first cause of a freeze; a cycle in which no wait has failed ends a run of failures (R371). -/
def Waits.first (q : Waits) (w : Why) : Waits :=
  match w with
  | .sync => { q with sync := q.sync + 1 }
  | .bank => { q with bank := q.bank + 1, sync := 0 }
  | .fence => { q with fence := q.fence + 1, sync := 0 }
  | .lps => { q with lps := q.lps + 1, sync := 0 }
  | _ => { q with sync := 0 }

/-- One more cycle for a cause that holds beside the first. -/
def Waits.also (q : Waits) (w : Why) : Waits :=
  match w with
  | .bank => { q with bank := q.bank + 1 }
  | .fence => { q with fence := q.fence + 1 }
  | .lps => { q with lps := q.lps + 1 }
  | _ => q

/-- Ask Sage for the leases of a mask that the core lacks and has not asked for (R223). -/
def State.askLeave (s : State) (core m : Nat) : State :=
  let cls := [1, 2, 3].filter (fun k => bit m k && decide (Sparse.get 0 (s.core core).leases k ≤ (s.core core).cycle) &&
    !s.sage.queue.contains (core, k))
  { s with sage := { s.sage with queue := s.sage.queue ++ cls.map (fun k => (core, k)) } }

/-- What a freeze asks for: leave, the end of the task, a weight version. -/
def State.askFor (s : State) (w : Why) : State :=
  match w with
  | .sage m _ => s.askLeave (coreOf s.cur) m
  | .tend => s.updMe (fun c => { c with sync := { c.sync with tending := true } })
  | .load r g b => s.updMe (fun c => { c with fit := { c.fit with want := some (r, g, b) } })
  | _ => s

/-- A freeze cycle is counted (R210), and what it waits for is asked for. -/
def State.freeze (s : State) (w : Why) : State :=
  (s.updMe (fun c => { c with cnt := c.cnt.freeze w, sched := { c.sched with
    held := c.sched.held + 1, waits := c.sched.waits.first w } })).askFor w

/-- A further cause of a freeze cycle that is counted under another (R210). -/
def State.alsoFreeze (s : State) (w : Why) : State :=
  (s.updMe (fun c => { c with sched := { c.sched with waits := c.sched.waits.also w } })).askFor w

/-- The bundle is declined: nothing of it takes effect, the context gives up the width and waits (R212, R213). -/
def State.decline (s : State) (a : Await) : State :=
  let s := s.updMe (fun c => { c with
    sync := { c.sync with await := some a, yielded := true }, fit := { c.fit with want := none, answer := none }, sched := { c.sched with held := 0, waits := .reset } })
  match a with
  | .leases m => s.askLeave (coreOf s.cur) m
  | _ => s

/-- An empty bundle issues: context time advances (R370). -/
def State.emptyBundle (s : State) : State :=
  s.updMe (fun c => { c with
    sched := { c.sched with time := c.sched.time + 1, ord := c.sched.ord + 16, held := 0, waits := .reset }
    cnt := { c.cnt with issued := c.cnt.issued + 1 } })

/-- Act on a verdict: the effect when the operation issues, or when its whole bundle was found to issue. -/
def State.onVerdict (s : State) (v : Verdict) (eff : State → State) : State :=
  match (if s.me.sched.granted then .issue else v : Verdict) with
  | .issue => eff s
  | .trap i => s.takeTrap i
  | .freeze w => s.freeze w
  | .decline a => s.decline a
  | .hold => s.emptyBundle

/-- An operation with predicate `p`, verdict `v` and effect `eff`: under a false predicate it changes nothing
(R201). -/
def act (s : State) (p : Pred) (v : Verdict) (eff : State → State) : Host.Outcome State Fault Refusal :=
  .next (if s.me.holds p then s.onVerdict v eff else s)

/-- An operation that always issues. -/
def always (s : State) (p : Pred) (eff : State → State) : Host.Outcome State Fault Refusal := act s p .issue eff

/-- The first verdict, unless it is to issue. -/
def Verdict.andThen (a b : Verdict) : Verdict := match a with | .issue => b | x => x

/-- A trap when a condition holds. -/
def trapIf (b : Bool) (i : TrapInfo) : Verdict := if b then .trap i else .issue

/-- A freeze while a condition holds. -/
def freezeIf (b : Bool) (w : Why) : Verdict := if b then .freeze w else .issue

/-- NOTASK for operations that need a task (R166, R391). -/
def State.needTask (s : State) (slot : Slot) : Verdict :=
  trapIf s.me.task.isNone (.issue slot cNOTASK 0)

end Sys2Proof.Machine
end

