-- ==== Sys2Proof/Machine/Inject.lean ====
section
/-! DEFINITION. Packets as they are injected (R462, R465, R466, R469). -/

namespace Sys2Proof.Machine

/-- End-to-end key of a destination or source die. -/
def dieKey (pkg die : Nat) : Nat := 4 * pkg + die

/-- A sequence number may be sent: below the highest acknowledged number plus 256 (R466). -/
def E2E.open_ (e : E2E) (key seq : Nat) : Bool := decide (seq < Sparse.get 0 e.acked key + 256) && decide (e.store.length < 32768)

/-- The key of a packet's destination die. -/
def destKey (p : Packet) : Nat := dieKey p.dpkg.toNat p.ddie.toNat

/-- A message between homes, buddy homes and shards. -/
def homeMessage (p : Packet) : Bool := p.op == 5 && p.cls == 1

/-- A message that brings the buddy home's mirror a change of an entry (R510; log entry 5). -/
def mirrorMessage (p : Packet) : Bool := homeMessage p && [0, 18, 20].contains (p.aux.toNat % 256)

/-- A change of a version's entry that the mirror has not acknowledged (R510). -/
def E2E.unmirrored (e : E2E) (r : W64) : Bool := (e.store ++ e.waiting).any (fun p => mirrorMessage p && p.addr == r)

/-- The answer to an operation on a version, or one that brings a new version, waits until the mirror has acknowledged the changes made
before it (R510). -/
def E2E.behind (e : E2E) (p : Packet) : Bool :=
  p.cls == 2 && (p.op == 7 || p.op == 8) &&
    (let ahead := { e with waiting := e.waiting.takeWhile (fun q => q != p) }
     ahead.unmirrored p.addr || p.body.length == 8 && ahead.unmirrored (BitVec.ofNat 64 (ofBytes p.body)))

/-- A packet may be sent now: its pair's window is open, a message between homes once the one before it about its version is
acknowledged, an answer once the mirror holds what was done, and during a RECONF none of this package's own accesses is (R466, R469,
R475, R488, R510). -/
def State.maySend (s : State) (d : Nat) (p : Packet) : Bool :=
  let e := (s.die d).e2e
  !(s.fab.rcf.isSome && p.cls == 0) && !e.behind p &&
    !(homeMessage p && e.store.any (fun q => homeMessage q && q.addr == p.addr && destKey q == destKey p)) && e.open_ (destKey p) (Sparse.get 0 e.next (destKey p))

/-- Send a packet of die `d`: it takes the next sequence number of its pair and the active route version, and is kept until
it is acknowledged (R465, R466). -/
def State.sendNew (s : State) (d : Nat) (p : Packet) : State :=
  let e := (s.die d).e2e
  let q := Sparse.get 0 e.next (destKey p)
  let p := { p with seq := BitVec.ofNat 32 q, ver := s.fab.active.ver }
  let s := s.updDie d (fun x => { x with e2e := { e with next := Sparse.set e.next (destKey p) (q + 1), store := e.store ++ [p] } })
  { s with fab := { s.fab with transit := s.fab.transit ++ [⟨p, none, false⟩] } }

/-- Inject a packet at die `d` towards a die of another package, or let it wait in its off-core queue (R465, R466). -/
def State.inject (s : State) (d dpkg ddie : Nat) (cls op : Nat) (ord : Bool) (addr aux : W64) (body : List Byte) : State :=
  let p : Packet :=
    { dpkg := BitVec.ofNat 13 dpkg, ddie := BitVec.ofNat 2 ddie, spkg := BitVec.ofNat 13 s.pkg, sdie := BitVec.ofNat 2 d,
      cls := BitVec.ofNat 2 cls, vc := 0, ver := 0, mc := false, dl := 0, ord := ord, seq := 0, op := BitVec.ofNat 8 op,
      addr := addr, aux := aux, body := body }
  let e := (s.die d).e2e
  if s.maySend d p && (s.fab.rcf.isSome || e.waiting.all (fun q => destKey q != destKey p || homeMessage q && q.addr != p.addr)) then s.sendNew d p
  else s.updDie d (fun x => { x with e2e := { e with waiting := e.waiting ++ [p] } })

/-- Send a multicast packet of die `d` to the destination dies `set` by entry `idx` of the multicast tables: it takes the next number
of the die's multicast stream and is kept until every one has acknowledged (R466, R470). No agent that the manual describes sends
one. -/
def State.injectMulticast (s : State) (d idx ddie : Nat) (set : List Nat) (cls op : Nat) (addr aux : W64) (body : List Byte) : State :=
  let e := (s.die d).e2e
  let p : Packet :=
    { dpkg := BitVec.ofNat 13 idx, ddie := BitVec.ofNat 2 ddie, spkg := BitVec.ofNat 13 s.pkg, sdie := BitVec.ofNat 2 d,
      cls := BitVec.ofNat 2 cls, vc := 0, ver := s.fab.active.ver, mc := true, dl := 0, ord := false, seq := BitVec.ofNat 32 e.mnext,
      op := BitVec.ofNat 8 op, addr := addr, aux := aux, body := body }
  let s := s.updDie d (fun x => { x with e2e := { e with mnext := e.mnext + 1, sets := e.sets ++ [(e.mnext, set)], store := e.store ++ [p] } })
  { s with fab := { s.fab with transit := s.fab.transit ++ [⟨p, none, false⟩] } }

/-- Whether a message between homes carries ord: mirror writes, record sets and their counts, recovery and replication carry none, the
directory operations of tasks do (R356, R469). -/
def messageOrd (aux : Nat) : Bool := !([0, 1, 2, 3, 4, 7, 9, 18, 19, 20].contains (aux % 256))

/-- The tag by which the answer to request `id` of context `n` finds it (log entry 5). -/
def reqTag (n id size : Nat) : W64 := BitVec.ofNat 64 (2 ^ 63 + (size % 512) <<< 44 + n <<< 32 + id % 2 ^ 32)

/-- The tag by which the acknowledgement of a copy command's write finds the command (log entry 5). -/
def cmdTag (n id size : Nat) : W64 := BitVec.ofNat 64 (2 ^ 61 + (size % 512) <<< 44 + n <<< 32 + id % 2 ^ 32)

/-- A write of a copy command (log entry 5). -/
def isCopyTag (w : W64) : Bool := bits w.toNat 61 3 == 1

/-- The size that a tag carries (R462). -/
def tagSize (w : W64) : Nat := bits w.toNat 44 9

/-- The placement word of context `n` (R174). -/
def State.placement (s : State) (n : Nat) : W64 := BitVec.ofNat 64 (coreOf n + (n % 4) <<< 10 + s.pkg <<< 12)

/-- The tag of a part of a tile's content on its way to a buddy home: its offset and size (log entry 5). -/
def partTag (off size : Nat) : W64 := BitVec.ofNat 64 (2 ^ 60 + (size % 512) <<< 44 + off % 2 ^ 32)

/-- Send a tile's content to its buddy home on another package, 256 bytes a packet (R66, R332, R462). -/
def State.injectTile (s : State) (d dpkg ddie : Nat) (r : W64) (bs : List Byte) : State :=
  (List.range ((bs.length + 255) / 256)).foldl (fun s i =>
    let part := (bs.drop (256 * i)).take 256
    s.inject d dpkg ddie 1 2 false r (partTag (256 * i) part.length) part) s

/-- Packets that waited and may be sent now. -/
def State.release (s : State) (d : Nat) : State :=
  (s.die d).e2e.waiting.foldl (fun s p =>
    if s.maySend d p then
      (s.updDie d (fun x => { x with e2e := { x.e2e with waiting := x.e2e.waiting.erase p } })).sendNew d p
    else s) s

end Sys2Proof.Machine
end

