-- ==== Sys2Proof/Machine/Access.lean ====
section
/-! DEFINITION. How a context reaches memory: translation (R177 to R195), requests and their pieces (R316 to R319,
R353), in-flight latches (R205, R206, R209), the order in which pieces may be performed (R357 to R360), what fences wait
for (R361) and the faults they report (R368). -/

namespace Sys2Proof.Machine

/-- A die that is online (R141, R185). -/
def State.online (s : State) (d : Nat) : Bool := !(s.die d).offline

/-- A package the active route table reaches (R464, R473). -/
def State.reaches (s : State) (p : Nat) : Bool :=
  p == s.pkg || bit (Sparse.get 0 s.fab.active.tab p).toNat 9

/-- What becomes of an address. -/
inductive Trans where
  | hit (pa : Nat) (kind : OrdKind)
  /-- no cached translation: a walk is needed (R192) -/
  | miss
  /-- homed on another package of the group, with its place there once translated -/
  | remote (at_ : Option (Nat × OrdKind))
  | fault (cause : Nat)
deriving DecidableEq, Repr

/-- An entry translates an offset of a home. -/
def TlbEntry.covers (e : TlbEntry) (home off : Nat) : Bool := e.home == home && e.page == off >>> e.size

/-- The set of a die TLB, of 1,024, that holds a page (R191; log entry 13). -/
def TlbEntry.set (e : TlbEntry) : Nat := e.page % 1024

/-- Drop the last unpinned entry of set `k`. -/
def dropVictim (k : Nat) (l : List TlbEntry) : List TlbEntry :=
  match l with
  | [] => []
  | e :: r =>
    if e.set = k ∧ !e.pn ∧ r.all (fun x => decide (x.set ≠ k) || x.pn) then r else e :: dropVictim k r

/-- Load an entry into the 64 places of a micro-TLB, most recent first (R191). -/
def loadMicro (l : List TlbEntry) (e : TlbEntry) : List TlbEntry :=
  (e :: l.filter (fun x => !(x.home == e.home && x.page == e.page && x.size == e.size))).take 64

/-- Load an entry into a die TLB of 16 ways and 16,384 places, at most 4,096 of them pinned; a set whose ways are all pinned takes
no further entry (R191; log entry 13). -/
def loadDie (l : List TlbEntry) (e : TlbEntry) : List TlbEntry :=
  let l := l.filter (fun x => !(x.home == e.home && x.page == e.page && x.size == e.size))
  let e := { e with pn := e.pn && decide ((l.filter TlbEntry.pn).length < 4096) }
  let mates := l.filter (fun x => x.set == e.set)
  if mates.length < 16 then e :: l else if mates.all TlbEntry.pn then l else e :: dropVictim e.set l

/-- Use an entry for an access that reads, writes or both (R187, R188, R195). -/
def TlbEntry.use (e : TlbEntry) (off : Nat) (rd wr : Bool) : Trans :=
  if (rd && !e.r) || (wr && !e.w) then .fault cXPERM
  else if wr && !e.d then .miss
  else .hit (e.frame + off % 2 ^ e.size) e.kind

/-- Translate through the TLBs of a core and its die (R191). A die-TLB hit loads the micro-TLB. -/
def State.tlb (s : State) (core home off : Nat) (rd wr : Bool) : Trans × State :=
  match (s.core core).utlb.find? (fun e => e.covers home off) with
  | some e => (e.use off rd wr, s.updCore core (fun c => { c with utlb := loadMicro c.utlb e }))
  | none =>
    match (s.die (dieOf core)).tlb.find? (fun e => e.covers home off) with
    | some e => (e.use off rd wr, s.updCore core (fun c => { c with utlb := loadMicro c.utlb e }))
    | none => (.miss, s)

/-- A byte range that meets a reserved offset (R179, R180). -/
def inHole (pa : Nat) : Bool := match placeOf pa with | .hole => true | _ => false

/-- A physical address of another package, told apart from the package-local ones below 2^46. -/
def farAddr (pkg pa : Nat) : Nat := 2 ^ 60 + pkg <<< 46 + pa

/-- Translate an address for context `n` (R178, R183, R186, R473). -/
def State.locate (s : State) (n home off : Nat) (rd wr : Bool) : Trans × State :=
  if home = selfHome then
    (match selfAddr n off with | some pa => .hit pa .o | none => .fault cVAFMT, s)
  else if 24576 ≤ home then (.fault cVAFMT, s)
  else if home / 4 = s.pkg then
    if s.online (home % 4) then
      match s.tlb (coreOf n) home off rd wr with
      | (.hit pa k, s) => (if inHole pa then .fault cXNV else .hit pa k, s)
      | x => x
    else (.fault cUNREACH, s)
  else if s.reaches (home / 4) && !s.fab.gone.contains home then
    match s.tlb (coreOf n) home off rd wr with
    | (.hit pa k, s) => (if inHole pa then .fault cXNV else .remote (some (farAddr (home / 4) pa, k)), s)
    | (.fault c, s) => (.fault c, s)
    | (_, s) => (.remote none, s)
  else (.fault cUNREACH, s)

/-- The tag of a walk request to another package: its core, its bit for a write, the count of invalidations (log entry 5). -/
def State.walkTag (s : State) (core : Nat) (wr : Bool) : W64 :=
  BitVec.ofNat 64 (2 ^ 62 + b2n wr <<< 40 + core + (s.epoch % 2 ^ 16) <<< 41)

/-- Two walk requests for one page. -/
def Walk.same (w x : Walk) : Bool := x.home == w.home && x.off == w.off

/-- Walks in flight: pages, each with the requests that joined it. -/
def walkPages (l : List Walk) : List Walk :=
  match l with
  | [] => []
  | w :: r => if r.any w.same then walkPages r else w :: walkPages r

/-- One request, whenever it arrived. -/
def Walk.twin (w x : Walk) : Bool := { w with cycle := 0 } == { x with cycle := 0 }

/-- Enter a walk queue: arrivals of one cycle in ascending order of package, then core (R192). -/
def enterWalk (w : Walk) (l : List Walk) : List Walk :=
  match l with
  | [] => [w]
  | x :: r =>
    if x.cycle = w.cycle ∧ 1024 * w.pkg + w.core < 1024 * x.pkg + x.core then w :: x :: r else x :: enterWalk w r

/-- A request reaches the walk queue of a die: it joins a walk in flight, takes one of the 32 walkers, or enters the queue, which
holds 1,024 (R192). -/
def Die.addWalk (d : Die) (w : Walk) : Die :=
  if d.walking.any w.twin || d.walks.any w.twin then d
  else if d.walking.any w.same then { d with walking := d.walking ++ [w] }
  else if d.walks.isEmpty && decide ((walkPages d.walking).length < 32) then { d with walking := d.walking ++ [w] }
  else if 1024 ≤ d.walks.length then d
  else { d with walks := enterWalk w d.walks }

/-- Free walkers take requests in queue order; requests of the pages taken join them (R192). `n` bounds the number taken. -/
def Die.takeWalks (d : Die) (n : Nat) : Die :=
  match n, d.walks with
  | n + 1, w :: _ =>
    if (walkPages d.walking).length < 32 then
      ({ d with walking := d.walking ++ d.walks.filter w.same, walks := d.walks.filter (fun x => !w.same x) } : Die).takeWalks n
    else d
  | _, _ => d

/-- A request of the page finds no place in the queue (R192). -/
def Die.walkFull (d : Die) (home page : Nat) : Bool :=
  decide (1024 ≤ d.walks.length) && !d.walking.any (fun w => w.home == home && w.off == page)

/-- Send a walk request for a page to the walk queue of its home die; to another package it travels as a packet (R192, R462). -/
def State.walkFor (s : State) (core home off : Nat) (wr : Bool) : State :=
  let page := off - off % 0x10000
  if home / 4 = s.pkg then
    s.updDie (home % 4) (fun d => d.addWalk { home := home, off := page, write := wr, pkg := s.pkg, core := core,
                                                   tag := 0, cycle := (s.core core).cycle })
  else
    let a : W64 := BitVec.ofNat 64 (home <<< 48 + page)
    let tag := s.walkTag core wr
    if s.walksOut.contains (a, tag) then s
    else { (s.inject (dieOf core) (home / 4) (home % 4) 0 6 true a tag []) with walksOut := s.walksOut ++ [(a, tag)] }

/-- The word accesses of `len` bytes at offset `off`, aligned words whole and others byte by byte (R353); `n` bounds
their number. -/
def pieces (off pos len : Nat) (n : Nat) : List Piece :=
  match n with
  | 0 => []
  | n + 1 =>
    if len = 0 then []
    else
      let k := if off % 4 = 0 ∧ 4 ≤ len then 4 else 1
      { off := off % 2 ^ 48, pos := pos, len := k, pa := none, kind := .o, done := false, held := false, bad := none } ::
        pieces (off + k) (pos + k) (len - k) n

/-- What a request asks of memory pages: reads, writes (R195). -/
def ReqOp.mode : ReqOp → Bool × Bool
  | .load _ => (true, false)
  | .store | .puth => (false, true)
  | .atomic .. => (true, true)
  | _ => (true, false)

/-- Load-type operations of R318. -/
def ReqOp.isLoad : ReqOp → Bool
  | .load _ | .tlnew _ | .tlrd _ | .tlqry | .tlrep | .atomic .. => true
  | _ => false

/-- Store-type operations of R318. -/
def ReqOp.isStore : ReqOp → Bool
  | .store | .puth | .tlwr .. | .tlfin => true
  | _ => false

/-- Requests that name a tile (R326). -/
def ReqOp.isTile : ReqOp → Bool
  | .tlnew _ | .tlrd _ | .tlwr .. | .tlfin | .tlqry | .tlrep => true
  | _ => false

/-- Requests to a queue (R166, R170). -/
def ReqOp.isQueue : ReqOp → Bool
  | .launch _ | .launchm _ | .qlvl .. | .qstat _ | .prio .. => true
  | _ => false

/-- Team operations and RECONF (R442, R477). -/
def ReqOp.isTeam : ReqOp → Bool
  | .team .. => true
  | _ => false

/-- The alignment a memory request needs (R317); checked after translation (log entry 14). -/
def Req.align (r : Req) : Nat :=
  match r.op with
  | .puth => 256
  | .atomic _ wide _ _ _ => if wide then 8 else 4
  | .load false => if r.data.length = 256 then 256 else 1
  | .store => if r.data.length ≤ 8 then 1 else r.data.length
  | _ => 1

/-- Translate the pieces of a request that are not translated yet: each finds its place, its fault or a walk; whether a walk is
needed. -/
def State.translatePieces (s : State) (n home : Nat) (rd wr : Bool) (ps : List Piece) : List Piece × Bool × State :=
  match ps with
  | [] => ([], false, s)
  | p :: rest =>
    let (p, m, s) : Piece × Bool × State :=
      if p.pa.isSome || p.bad.isSome then (p, false, s)
      else
        match s.locate n home p.off rd wr with
        | (.hit pa k, s) => ({ p with pa := some pa, kind := k }, false, s)
        | (.remote (some (a, k)), s) => ({ p with pa := some a, kind := k }, false, s)
        | (.fault c, s) => ({ p with bad := some c }, false, s)
        | (.miss, s) | (.remote none, s) => (p, true, s.walkFor (coreOf n) home p.off wr)
    let (q, m', s) := s.translatePieces n home rd wr rest
    (p :: q, m || m', s)

/-- The home field with bits that must be 0 (R178). -/
def badFormat (a : W80) : Bool := addrMid a != 0

/-- The plain area that holds an address. -/
def plainOf (pa : Nat) : Option Nat := match placeOf pa with | .plain n _ => some n | _ => none

/-- Faults of a translated request: alignment, protection of windows and of the image store, the destination of a PUTH (R127, R181,
R317, R347, R350). -/
def State.placeFault (s : State) (r : Req) : Option Nat :=
  let pas := r.pieces.filterMap Piece.pa
  if addrOff r.base % r.align != 0 then some cALIGN
  else
    match r.op with
    | .puth => if pas.any s.inStore then some cIMGPROT else if pas.all (fun a => (plainOf a).isSome && plainOf a == plainOf (pas.headD 0)) then none else some cPUTHDST
    | .atomic .. => if pas.any inWindow then some cWINPROT else if pas.any s.inStore then some cIMGPROT else none
    | .store => if pas.any s.inStore then some cIMGPROT else if pas.any (fun a => match placeOf a with | .land .. => true | _ => false) then some cWINPROT else none
    | _ => none

/-- 64 word accesses: LDLS and LDG (R321). -/
def Req.gathers (r : Req) : Bool := match r.op with | .load true => true | _ => false

/-- The fault that a request reports: of the lowest word of LDLS and LDG, else of the lowest address (R190, R321). -/
def Req.pieceFault (r : Req) : Option FaultRec :=
  let bad := r.pieces.filter (fun p => p.bad.isSome)
  (if r.gathers then bad.head? else leastBy Piece.off bad).bind (fun p => p.bad.map (fun c =>
    { cause := c, taddr := BitVec.ofNat 64 (addrHome r.base <<< 48 + p.off) }))

/-- Once every piece is performed or has met a fault, the request is performed, with its fault (R321). -/
def Req.close (r : Req) : Req :=
  if !r.pieces.isEmpty && r.pieces.all (fun p => p.done || p.bad.isSome ||
      (r.gathers && r.pieces.any (fun q => q.bad.isSome && q.pos / 4 == p.pos / 4))) then
    { r with performed := true, fault := r.fault.or r.pieceFault }
  else r

/-- Every piece has its place or its fault. -/
def Req.located (r : Req) : Bool := r.pieces.all (fun p => p.pa.isSome || p.bad.isSome)

/-- Translate a request as far as the TLBs allow. A fault of one page of an access stops all of it, once every page is known; the
words of LDLS and LDG are accesses of their own (R190, R321). -/
def State.translateReq (s : State) (n : Nat) (r : Req) : Req × State :=
  let m := r.op.mode
  if r.pieces.isEmpty || r.fault.isSome then (r, s)
  else if badFormat r.base then ({ r with fault := some { cause := cVAFMT, taddr := addrCompact r.base } }, s)
  else
    let (ps, miss, s) := s.translatePieces n (addrHome r.base) m.1 m.2 r.pieces
    let r := { r with pieces := ps }
    if miss then (r, s)
    else if r.gathers then (r.close, s)
    else match r.pieceFault with
      | some f => ({ r with pieces := ps.map (fun p => { p with pa := none }), fault := some f }, s)
      | none => match s.placeFault r with
        | some c => ({ r with fault := some { cause := c, taddr := addrCompact r.base } }, s)
        | none => (r, s)

/-- Worst case of R208 of a physical address for context `n`; another package's is not bounded. -/
def srcWorst (n pa : Nat) : Nat :=
  if 2 ^ 46 ≤ pa then 0 else
  match windowCore pa with
  | some c => if c = coreOf n then 6 else if dieOf c = dieOf (coreOf n) then 40 else 1600
  | none => if bits pa 44 2 = dieOf (coreOf n) then 1200 else 1600

/-- Worst case of a directory operation (R320). -/
def dirWorst (n home : Nat) : Nat := if home % 4 = dieOf (coreOf n) then 96 else 160

/-- Every piece is translated and lies on this package; a word of a gather may have met its fault. -/
def Req.near (r : Req) : Bool :=
  r.pieces.all (fun p => (r.gathers && p.bad.isSome) || (match p.pa with | some a => decide (a < 2 ^ 46) | none => false))

/-- The request is translated and homed on another package. -/
def Req.far (r : Req) : Bool :=
  r.pieces.any (fun p => p.pa.isSome) && r.pieces.all (fun p => (r.gathers && p.bad.isSome) || (match p.pa with
    | some a => decide (2 ^ 46 ≤ a)
    | none => false))

/-- Worst case of a translated request. -/
def Req.worst (n : Nat) (r : Req) : Nat := (r.pieces.filterMap Piece.pa).foldl (fun m a => max m (srcWorst n a)) 0

/-- Freeze cycles of level-2 padding (R209). -/
def padOf (level w dist : Nat) : Nat := if level = 2 ∧ dist < w then w - dist else 0

/-- Data of a read in the issuer's own window, in its issue cycle (R319); also any read of a piece. -/
def State.readPiece (s : State) (data : List Byte) (p : Piece) : List Byte :=
  match p.pa with
  | some a => data.take p.pos ++ s.readMem a p.len ++ data.drop (p.pos + p.len)
  | none => data

/-- A piece in the own window of context `n` that no busy accumulator plane holds (R181, R319). -/
def State.ownPiece (s : State) (n : Nat) (p : Piece) : Bool :=
  match p.pa with
  | some a => decide (a < 2 ^ 46 ∧ windowCore a = some (coreOf n)) && s.windowFree a
  | none => false

/-- A read that meets a line marked bad (R401, R545). -/
def State.pieceBad (s : State) (p : Piece) : Bool :=
  match p.pa with | some a => s.badAt a p.len | none => false

/-- Bytes from address `a` on, with the bytes of `o` in their places. -/
def OwnStore.over (o : OwnStore) (a : Nat) (bs : List Byte) : List Byte :=
  bs.mapIdx (fun i b => if o.addr ≤ a + i then o.data.getD (a + i - o.addr) b else b)

/-- What an own load reads for a piece: memory, with the own window stores that are due, which this cycle's bundle still reads
around (R181, R319). -/
def State.ownBytes (s : State) (n : Nat) (data : List Byte) (p : Piece) : List Byte :=
  match p.pa with
  | some a =>
    let c := s.ctx n
    let st := sortBy OwnStore.rank (c.sched.stores.filter (fun o => o.window && decide (o.due ≤ c.sched.time)))
    data.take p.pos ++ st.foldl (fun bs o => o.over a bs) (s.readMem a p.len) ++ data.drop (p.pos + p.len)
  | none => data

/-- Read the own-window pieces of a load at once (R319). -/
def State.ownReads (s : State) (n : Nat) (r : Req) : Req :=
  r.pieces.foldl (fun r p =>
    if !s.ownPiece n p then r
    else if s.pieceBad p then { r with pieces := r.pieces.map (fun q => if q = p then { q with bad := some cMEMERR } else q) }
    else { r with data := s.ownBytes n r.data p }) r

/-- Mark pieces as performed. -/
def Req.markDone (r : Req) (f : Piece → Bool) : Req :=
  ({ r with pieces := r.pieces.map (fun p => if f p && p.bad.isNone then { p with done := true } else p) } : Req).close

/-- Pieces that follow one another physically. -/
def contiguous (ps : List Piece) : Bool :=
  match ps with
  | p :: q :: r => decide (q.pa = p.pa.map (· + p.len)) && contiguous (q :: r)
  | _ => true

/-- The own-scratchpad stores of a request, performed at t + 2 (R319). -/
def Req.ownStores (r : Req) (t : Nat) (own : List Piece) : List OwnStore :=
  let one (p : Piece) (d : List Byte) : OwnStore :=
    { due := t + 2, ord := r.ord, step := r.ord / 16 + 2, addr := p.pa.getD 0, va := BitVec.ofNat 64 (addrHome r.base <<< 48 + p.off),
      data := d, brel := none }
  match own with
  | [] => []
  | p :: rest =>
    if contiguous own then [one p ((r.data.drop p.pos).take ((own.map Piece.len).foldl (· + ·) 0))]
    else (p :: rest).map (fun q => one q ((r.data.drop q.pos).take q.len))

/-- The latch of a request issued by context `c` (R205, R206). -/
def Ctx.newLatch (c : Ctx) (slot : Slot) (id dist : Nat) (dest : Dest) : Latch :=
  { req := id, due := c.sched.time + max dist 1, dist := dist, ord := c.sched.ord + slot.num, slot := slot, dest := dest,
    flag := none, stat := .pending, ready := 0, pad := 0, born := 0, worst := 0, data := 0, cause := 0, taddr := 0 }

/-- Change request `id` of context `n`. -/
def State.updReq (s : State) (n id : Nat) (f : Req → Req) : State :=
  s.updCtx n (fun c => { c with mem := { c.mem with reqs := c.mem.reqs.map (fun r => if r.id = id then f r else r) } })

/-- Change the latch of request `id` of context `n`. -/
def State.updLatch (s : State) (n id : Nat) (f : Latch → Latch) : State :=
  s.updCtx n (fun c => { c with sched := { c.sched with
    latches := c.sched.latches.map (fun l => if l.req = id then f l else l) } })

/-- A request is forgotten once acknowledged and past its level-2 bound (R361). -/
def Req.ended (r : Req) (t : Nat) : Bool :=
  r.acked && (match r.bound with | some b => decide (b ≤ t) | none => true)

/-- A latch still needs a request: its data has not come, or its fault has not been raised (R393, R409). -/
def Sched.needs (q : Sched) (id : Nat) : Bool := q.latches.any (fun l => l.req == id && l.stat != .arrived)

/-- Forget finished requests. -/
def Ctx.prune (c : Ctx) : Ctx :=
  { c with mem := { c.mem with reqs := c.mem.reqs.filter (fun r => !r.ended c.sched.time || c.sched.needs r.id) } }

/-- A faulting load: its latch is poisoned (R409). -/
def FaultRec.poison (f : FaultRec) (l : Latch) : Latch := { l with stat := .poisoned, cause := f.cause, taddr := f.taddr }

/-- Context whose plain area a PUTH writes (R350). -/
def Req.wakes (r : Req) : Option Nat := (r.pieces.head?.bind Piece.pa).bind plainOf

/-- Payloads on their way to a context's wake queue: begun and not delivered. -/
def State.wakesComing (s : State) (x : Nat) : Nat :=
  (s.ctxs.map (fun c => (c.2.mem.reqs.filter (fun r =>
    (match r.op with | .puth => true | _ => false) && r.wakes == some x && r.pieces.any Piece.done)).length)).foldl
      (· + ·) 0

/-- Whether a wake queue has room for a PUTH's payload (R390); an unarmed context takes no entry. -/
def State.wakeRoom (s : State) (r : Req) : Bool :=
  match r.wakes with
  | none => true
  | some x => !(s.ctx x).sys.armed || r.pieces.any Piece.done ||
      decide ((s.ctx x).sync.wakes.length + s.wakesComing x < 16)

/-- The pieces that a request performs in the own window by its own timing (R319): of a load at once, unless an access before it
waits for its translation; of a store at t + 2; of a PUTH when its wake has room. Nothing of an access is performed before all
of it is translated, but for the words of LDLS and LDG (R190; log entry 107). -/
def State.ownPart (s : State) (n : Nat) (r : Req) : List Piece :=
  let c := s.ctx n
  let own := r.pieces.filter (fun p => p.bad.isNone && s.ownPiece n p)
  if r.fault.isSome || !(r.located || r.gathers) then []
  else
    match r.op with
    | .load _ =>
      if c.ownBefore s.pkg (coreOf n) r.ownRank || c.sched.stores.any (fun o => !o.window && decide (o.rank < r.ownRank)) then [] else own
    | .store => own
    | .puth => if own.length = r.pieces.length ∧ s.wakeRoom r then own else []
    | _ => []

/-- Issue a memory request of the running context: translate it, do its own-window part (R319), leave the rest to the
off-core queues; `dest` and `dist` make a latch for a load-type request. -/
def State.memRequest (s : State) (slot : Slot) (op : ReqOp) (cls : Nat) (base : W80) (ps : List Piece)
    (data : List Byte) (land : Option (Dest × Nat)) : State :=
  let n := s.cur
  let c := s.me
  let id := c.mem.nextId
  let t := c.sched.time
  let cyc := (s.core (coreOf n)).cycle
  let r0 : Req := { id := id, ord := c.sched.ord + slot.num, t := t, slot := slot, op := op, cls := cls, home := addrHome base,
                    base := base, pieces := ps, data := data, fault := none, performed := false, acked := false,
                    bound := none, remote := none, place := none }
  let (r, s) := s.translateReq n r0
  let own := s.ownPart n r
  let r := if op.isLoad ∧ !own.isEmpty then s.ownReads n r else r
  let r := r.markDone (fun p => own.any (fun q => q.pos == p.pos))
  let r := { r with bound := if c.level = 2 ∧ r.near then some (t + r.worst n) else none }
  let s := s.updCtx n (fun c => { c with mem := { c.mem with nextId := id + 1 } })
  match land with
  | some (dest, dist) =>
    let l := { c.newLatch slot id dist dest with
      pad := padOf c.level (r.worst n) dist, taddr := addrCompact base, born := cyc, worst := if r.near then r.worst n else 0 }
    let put (l : Latch) (rs : List Req) : State :=
      s.updCtx n (fun c => { c with
        sched := { c.sched with latches := c.sched.latches ++ [l] }, mem := { c.mem with reqs := c.mem.reqs ++ rs } })
    match r.fault with
    | some f => put (f.poison l) [{ r with performed := true, acked := true }]
    | none =>
      if r.performed then put { l with stat := .arrived, data := lineOfBytes r.data, ready := cyc + 6 } []
      else put l [r]
  | none =>
    match r.fault with
    | some f => s.updCtx n (fun c => { c with mem := { c.mem with due := c.mem.due ++ [(r.ord, slot, f)] } })
    | none =>
      let s := s.updCtx n (fun c => { c with sched := { c.sched with stores := c.sched.stores ++ r.ownStores t own } })
      if r.performed ∧ op ≠ .puth then s
      else s.updCtx n (fun c => { c with mem := { c.mem with reqs := c.mem.reqs ++ [r] } })

/-- Byte ranges that meet. -/
def meets (a n b m : Nat) : Bool := decide (a < b + m ∧ b < a + n)

/-- A piece touches a byte of another request's unperformed S or O pieces; an untranslated piece may (R359; log entry
15). -/
def Req.blocks (q : Req) (p : Piece) : Bool :=
  q.pieces.any (fun x => !x.done && x.kind != .n && (match x.pa, p.pa with
    | some a, some b => meets a x.len b p.len
    | _, _ => true))

/-- Two requests of one bundle (R360). -/
def sameBundle (a b : Nat) : Bool := a / 16 == b / 16

/-- A memory request: not of a tile and not of a queue. -/
def Req.isMem (r : Req) : Bool := !r.op.isTile && !r.op.isQueue && !r.op.isTeam

/-- Whether piece `p` of request `r` may be performed now: S accesses in program order, where an earlier access that is not
translated may be one (R357, R360), common bytes by queue and
class 0 (R359), own-scratchpad stores that a fence released (R361). -/
def Ctx.mayPerform (c : Ctx) (r : Req) (p : Piece) : Bool :=
  (p.kind != .s || c.mem.reqs.all (fun q => !(q.isMem && decide (q.ord < r.ord) && q.fault.isNone &&
      q.pieces.any (fun x => x.kind == .s || (x.pa.isNone && x.bad.isNone))) || q.acked)) &&
  (p.kind == .n || c.mem.reqs.all (fun q =>
    !(q.isMem && decide (q.ord < r.ord) && !sameBundle q.ord r.ord && !q.performed && q.fault.isNone &&
      (q.cls % 4 == r.cls % 4 || q.cls == 0 || r.cls == 0) && q.blocks p))) &&
  c.sched.stores.all (fun o => !(decide (o.ord < r.ord) &&
    (p.kind == .s || (decide (o.ord < c.sched.fence) && decide (c.sched.fence ≤ r.ord)) ||
     (match p.pa with | some a => meets o.addr o.data.length a p.len | none => true))))

/-- Whether a piece in the own scratchpad of context `n` may be performed: the cycle of its issue has come, of a store its second
cycle, and nothing that goes before it is left (R319, R358). -/
def Ctx.ownTurn (c : Ctx) (pkg core : Nat) (r : Req) : Bool :=
  !c.ownBefore pkg core r.ownRank && c.sched.stores.all (fun o => o.window || decide (r.ownRank < o.rank)) &&
  (r.op.isLoad || c.sync.yielded || decide (r.ord / 16 + 2 ≤ c.sched.ord / 16))

/-- Every access that a context issued below `ord` to its own scratchpad is performed (R363, R364). -/
def Ctx.ownDone (c : Ctx) (pkg core ord : Nat) : Bool :=
  c.sched.stores.all (fun o => decide (ord ≤ o.ord) || o.brel.isSome) &&
  c.mem.reqs.all (fun r => decide (ord ≤ r.ord) || r.op.isLoad || !r.ownWaits pkg core)

/-- Whether a physical address lies within a scope of context `n` (R355). -/
def inScope (n : Nat) (sc : Scope) (pa : Nat) : Bool :=
  match sc with
  | .ctx => plainOf pa == some n
  | .core => windowCore pa == some (coreOf n)
  | .die => bits pa 44 2 == dieOf (coreOf n)
  | .pkg | .dom => true

/-- A request touches locations within a scope (R355): a tile request where the directory has the storage, one whose version the
directory does not have at the home's die. One whose place is not yet known may touch any, and a request to another package lies
in dom only. -/
def Req.within (r : Req) (n pkg : Nat) (sc : Scope) : Bool :=
  if r.home != selfHome && r.home / 4 != pkg then sc == .dom
  else if r.op.isTile && r.place.isSome then inScope n sc (r.place.getD 0)
  else if r.op.isTile && r.pieces.isEmpty then
    (match sc with | .ctx | .core => false | .die => r.home % 4 == dieOf (coreOf n) | .pkg | .dom => true)
  else r.pieces.any (fun p => match p.pa with | some a => inScope n sc a | none => true)

/-- The ordering kinds of a request (R356). -/
def Req.hasKind (r : Req) (all : Bool) : Bool :=
  all || r.op.isTile || r.pieces.any (fun p => p.kind != .n || p.pa.isNone)

/-- What a fence waits for (R361): loads only for an acquire, loads and stores otherwise; kind N only for FENCE.ALL. -/
inductive FenceKind where
  | acq | rel | all
deriving DecidableEq, Repr

/-- A fence of a kind and scope awaits a request. -/
def Req.awaited (r : Req) (n pkg ord : Nat) (k : FenceKind) (sc : Scope) : Bool :=
  decide (r.ord < ord) && (r.op.isLoad || (k != .acq && r.op.isStore)) && r.within n pkg sc && r.hasKind (k == .all)

/-- A fence's wait (R361): the freeze lasts at least to the level-2 bounds, then until every awaited request is
complete. -/
def State.fenceWait (s : State) (k : FenceKind) (sc : Scope) : Verdict :=
  let c := s.me
  let rs := c.mem.reqs.filter (fun r => r.awaited s.cur s.pkg c.sched.ord k sc)
  let pad := rs.foldl (fun m r => match r.bound with | some b => max m (b - c.sched.time) | none => m) 0
  freezeIf (decide (c.sched.waits.fence < pad) || rs.any (fun r => !r.acked)) .fence

/-- The earliest store-type fault that has been reported (R195, R368). -/
def MemSide.firstDue (m : MemSide) (ord : Nat) : Option (Nat × Slot × FaultRec) :=
  leastBy (fun d => d.1) (m.due.filter (fun d => d.1 < ord))

/-- A report point raises the earliest store-type fault (R368, R400). -/
def State.report (s : State) (slot : Slot) : Verdict :=
  match s.me.mem.firstDue s.me.sched.ord with
  | some (_, _, f) => .trap { TrapInfo.issue slot f.cause f.taddr with rep := true }
  | none => .issue

/-- Every off-core write of the context is acknowledged, every copy command of it done (R168, R330). -/
def Ctx.writesAcked (c : Ctx) (ord : Nat) : Bool :=
  c.mem.reqs.all (fun r => !(decide (r.ord < ord) && (r.op.isStore || (match r.op with | .atomic .. => true | _ => false)))
    || r.acked)

/-- No latch is free (R206); an access that leaves the core finds the off-core queue of its class full (R466), or, where its
translation misses, its home's walk queue (R192). -/
def State.roomFor (s : State) (latch : Bool) (cls : Nat) (base : W80) (ps : List Piece) : Verdict :=
  let c := s.me
  let home := addrHome base
  let at_ (p : Piece) : Trans := (s.locate s.cur home p.off false false).1
  let off := ps.isEmpty || ps.any (fun p => match at_ p with | .hit a _ => windowCore a != some (coreOf s.cur) | _ => true)
  let full := decide (home / 4 = s.pkg) && ps.any (fun p => match at_ p with
    | .miss => (s.die (home % 4)).walkFull home (p.off - p.off % 0x10000)
    | _ => false)
  freezeIf ((latch && decide (64 ≤ c.sched.latches.length)) ||
    (off && decide (32 ≤ (c.mem.reqs.filter (fun r => !r.op.isQueue && !r.op.isTeam && !r.acked && r.cls % 4 == cls % 4)).length)) ||
    full) .late

/-- The place of a piece in its request is known: of a gather, every byte of its word. -/
def Req.placed (r : Req) (p : Piece) : Bool :=
  if r.gathers then r.pieces.all (fun q => q.pos / 4 != p.pos / 4 || (q.bad.isNone && q.pa.isSome)) else r.near

/-- Commands of a core's contexts with a standing bank reservation (R340): context and command. -/
def State.reservations (s : State) (core : Nat) : List (Nat × Cmd) :=
  (List.range 4).flatMap (fun i =>
    ((s.ctx (4 * core + i)).mem.cmds.filter Cmd.resv).map (fun m => (4 * core + i, m)))

/-- Banks of the own scratchpad that an access touches, as far as its translation is known. -/
def State.banks (s : State) (home : Nat) (ps : List Piece) : List Nat :=
  ps.filterMap (fun p => match (s.locate s.cur home p.off false false).1 with
    | .hit pa _ => if windowCore pa = some (coreOf s.cur) then bankOf pa else none
    | _ => none)

/-- An access to a reserved bank freezes (R340); at level 2 the context's own commands hold it by R341. -/
def State.bankVerdict (s : State) (home : Nat) (ps : List Piece) : Verdict :=
  let rs := s.reservations (coreOf s.cur)
  if rs.isEmpty ∧ s.me.level ≠ 2 then .issue
  else
    let bs := s.banks home ps
    let hit (m : Cmd) : Bool := bs.any (fun b => m.hdr.banks.getLsbD b)
    let held := rs.filter (fun x => hit x.2)
    if s.me.level = 2 then
      let mine := s.me.mem.cmds.filter (fun m => hit m && decide (s.me.sched.time < m.tc + m.rl))
      let need := mine.foldl (fun a m => max a (m.tc + m.rl - s.me.sched.time)) 0
      if s.me.sched.waits.bank < need then .freeze .bank else freezeIf (!held.isEmpty) .late
    else freezeIf (!held.isEmpty) .bank

end Sys2Proof.Machine
end

