-- ==== Sys2Proof/Machine/Scalar.lean ====
section
/-! DEFINITION. The S slot's integer, address, control, flag and staging operations (R227 to R234). -/

namespace Sys2Proof.Machine

/-- Number of leading zero bits of the low `n` bits (R227, R256). -/
def clzN (n v : Nat) : Nat := if v % 2 ^ n = 0 then n else n - 1 - Nat.log2 (v % 2 ^ n)

/-- Number of one bits among the low `n` (R227, R256). -/
def popcN (n v : Nat) : Nat :=
  match n with
  | 0 => 0
  | k + 1 => popcN k v + b2n (bit v k)

/-- Quotient of DIV, every case defined (R228). -/
def divQ (u : Bool) (a b : W64) : W64 :=
  if b = 0 then BitVec.allOnes 64
  else if u then a / b
  else if a = BitVec.intMin 64 ∧ b = BitVec.allOnes 64 then BitVec.intMin 64
  else BitVec.ofInt 64 (a.toInt.tdiv b.toInt)

/-- Remainder of REM (R228). -/
def divR (u : Bool) (a b : W64) : W64 :=
  if b = 0 then a
  else if u then a % b
  else if a = BitVec.intMin 64 ∧ b = BitVec.allOnes 64 then 0
  else BitVec.ofInt 64 (a.toInt.tmod b.toInt)

/-- High half of the 128-bit product (R227). -/
def mulHigh (u : Bool) (a b : W64) : W64 :=
  if u then BitVec.ofNat 64 ((a.toNat * b.toNat) >>> 64) else BitVec.ofInt 64 ((a.toInt * b.toInt) / (2 ^ 64 : Nat))

/-- The shift amount (R227). -/
def shAmt (b : W64) : Nat := b.toNat % 64

/-- The smaller of two values (R227). -/
def minW (u : Bool) (a b : W64) : W64 := if u then (if a.ult b then a else b) else (if a.slt b then a else b)

/-- The larger of two values (R227). -/
def maxW (u : Bool) (a b : W64) : W64 := if u then (if b.ult a then a else b) else (if b.slt a then a else b)

/-- Scalar operation of two registers with latency `l` (R227). -/
def State.aluRR (s : State) (l : Nat) (d a b : BitVec 6) (f : W64 → W64 → W64) : State :=
  s.resultG .s l d (f (s.me.g a) (s.me.g b))

/-- Scalar operation of a register and an immediate (R227). -/
def State.aluRI (s : State) (l : Nat) (d a : BitVec 6) (imm : BitVec 32) (f : W64 → W64 → W64) : State :=
  s.resultG .s l d (f (s.me.g a) (immOp imm))

/-- ADD (R227). -/
def execAdd (p : Pred) (d a b : BitVec 6) (s : State) : Host.Outcome State Fault Refusal :=
  always s p (fun s => s.aluRR 1 d a b (· + ·))

/-- ADD with an immediate (R227). -/
def execAddImm (p : Pred) (d a : BitVec 6) (imm : BitVec 32) (s : State) : Host.Outcome State Fault Refusal :=
  always s p (fun s => s.aluRI 1 d a imm (· + ·))

/-- SUB (R227). -/
def execSub (p : Pred) (d a b : BitVec 6) (s : State) : Host.Outcome State Fault Refusal :=
  always s p (fun s => s.aluRR 1 d a b (· - ·))

/-- SUB with an immediate (R227). -/
def execSubImm (p : Pred) (d a : BitVec 6) (imm : BitVec 32) (s : State) : Host.Outcome State Fault Refusal :=
  always s p (fun s => s.aluRI 1 d a imm (· - ·))

/-- MUL (R227). -/
def execMul (p : Pred) (d a b : BitVec 6) (s : State) : Host.Outcome State Fault Refusal :=
  always s p (fun s => s.aluRR 3 d a b (· * ·))

/-- MUL with an immediate (R227). -/
def execMulImm (p : Pred) (d a : BitVec 6) (imm : BitVec 32) (s : State) : Host.Outcome State Fault Refusal :=
  always s p (fun s => s.aluRI 3 d a imm (· * ·))

/-- AND (R227). -/
def execAnd (p : Pred) (d a b : BitVec 6) (s : State) : Host.Outcome State Fault Refusal :=
  always s p (fun s => s.aluRR 1 d a b (· &&& ·))

/-- AND with an immediate (R227). -/
def execAndImm (p : Pred) (d a : BitVec 6) (imm : BitVec 32) (s : State) : Host.Outcome State Fault Refusal :=
  always s p (fun s => s.aluRI 1 d a imm (· &&& ·))

/-- OR (R227). -/
def execOr (p : Pred) (d a b : BitVec 6) (s : State) : Host.Outcome State Fault Refusal :=
  always s p (fun s => s.aluRR 1 d a b (· ||| ·))

/-- OR with an immediate (R227). -/
def execOrImm (p : Pred) (d a : BitVec 6) (imm : BitVec 32) (s : State) : Host.Outcome State Fault Refusal :=
  always s p (fun s => s.aluRI 1 d a imm (· ||| ·))

/-- XOR (R227). -/
def execXor (p : Pred) (d a b : BitVec 6) (s : State) : Host.Outcome State Fault Refusal :=
  always s p (fun s => s.aluRR 1 d a b (· ^^^ ·))

/-- XOR with an immediate (R227). -/
def execXorImm (p : Pred) (d a : BitVec 6) (imm : BitVec 32) (s : State) : Host.Outcome State Fault Refusal :=
  always s p (fun s => s.aluRI 1 d a imm (· ^^^ ·))

/-- SHL (R227). -/
def execShl (p : Pred) (d a b : BitVec 6) (s : State) : Host.Outcome State Fault Refusal :=
  always s p (fun s => s.aluRR 1 d a b (fun x y => x <<< shAmt y))

/-- SHL with an immediate (R227). -/
def execShlImm (p : Pred) (d a : BitVec 6) (imm : BitVec 32) (s : State) : Host.Outcome State Fault Refusal :=
  always s p (fun s => s.aluRI 1 d a imm (fun x y => x <<< shAmt y))

/-- SHR (R227). -/
def execShr (p : Pred) (d a b : BitVec 6) (s : State) : Host.Outcome State Fault Refusal :=
  always s p (fun s => s.aluRR 1 d a b (fun x y => x >>> shAmt y))

/-- SHR with an immediate (R227). -/
def execShrImm (p : Pred) (d a : BitVec 6) (imm : BitVec 32) (s : State) : Host.Outcome State Fault Refusal :=
  always s p (fun s => s.aluRI 1 d a imm (fun x y => x >>> shAmt y))

/-- SAR (R227). -/
def execSar (p : Pred) (d a b : BitVec 6) (s : State) : Host.Outcome State Fault Refusal :=
  always s p (fun s => s.aluRR 1 d a b (fun x y => x.sshiftRight (shAmt y)))

/-- SAR with an immediate (R227). -/
def execSarImm (p : Pred) (d a : BitVec 6) (imm : BitVec 32) (s : State) : Host.Outcome State Fault Refusal :=
  always s p (fun s => s.aluRI 1 d a imm (fun x y => x.sshiftRight (shAmt y)))

/-- ROT (R227). -/
def execRot (p : Pred) (d a b : BitVec 6) (s : State) : Host.Outcome State Fault Refusal :=
  always s p (fun s => s.aluRR 1 d a b (fun x y => x.rotateLeft (shAmt y)))

/-- ROT with an immediate (R227). -/
def execRotImm (p : Pred) (d a : BitVec 6) (imm : BitVec 32) (s : State) : Host.Outcome State Fault Refusal :=
  always s p (fun s => s.aluRI 1 d a imm (fun x y => x.rotateLeft (shAmt y)))

/-- MULH, unsigned when `u` (R227, R228). -/
def execMulh (p : Pred) (d a b : BitVec 6) (u : Bool) (s : State) : Host.Outcome State Fault Refusal :=
  always s p (fun s => s.aluRR 3 d a b (mulHigh u))

/-- DIV, unsigned when `u` (R227, R228). -/
def execDiv (p : Pred) (d a b : BitVec 6) (u : Bool) (s : State) : Host.Outcome State Fault Refusal :=
  always s p (fun s => s.aluRR 18 d a b (divQ u))

/-- REM, unsigned when `u` (R227, R228). -/
def execRem (p : Pred) (d a b : BitVec 6) (u : Bool) (s : State) : Host.Outcome State Fault Refusal :=
  always s p (fun s => s.aluRR 18 d a b (divR u))

/-- MIN, unsigned when `u` (R227, R228). -/
def execMin (p : Pred) (d a b : BitVec 6) (u : Bool) (s : State) : Host.Outcome State Fault Refusal :=
  always s p (fun s => s.aluRR 1 d a b (minW u))

/-- MAX, unsigned when `u` (R227, R228). -/
def execMax (p : Pred) (d a b : BitVec 6) (u : Bool) (s : State) : Host.Outcome State Fault Refusal :=
  always s p (fun s => s.aluRR 1 d a b (maxW u))

/-- MIN with an immediate (R227). -/
def execMinImm (p : Pred) (d a : BitVec 6) (imm : BitVec 32) (u : Bool) (s : State) :
    Host.Outcome State Fault Refusal :=
  always s p (fun s => s.aluRI 1 d a imm (minW u))

/-- MAX with an immediate (R227). -/
def execMaxImm (p : Pred) (d a : BitVec 6) (imm : BitVec 32) (u : Bool) (s : State) :
    Host.Outcome State Fault Refusal :=
  always s p (fun s => s.aluRI 1 d a imm (maxW u))

/-- CLZ (R227). -/
def execClz (p : Pred) (d a : BitVec 6) (s : State) : Host.Outcome State Fault Refusal :=
  always s p (fun s => s.resultG .s 1 d (BitVec.ofNat 64 (clzN 64 (s.me.g a).toNat)))

/-- POPC (R227). -/
def execPopc (p : Pred) (d a : BitVec 6) (s : State) : Host.Outcome State Fault Refusal :=
  always s p (fun s => s.resultG .s 1 d (BitVec.ofNat 64 (popcN 64 (s.me.g a).toNat)))

/-- CMP: the flag is the condition's truth (R229). -/
def execCmp (p : Pred) (f : BitVec 4) (a b : BitVec 6) (c : Cond) (s : State) : Host.Outcome State Fault Refusal :=
  always s p (fun s => s.resultF .s 1 f (condW64 c (s.me.g a) (s.me.g b)))

/-- CMP with an immediate (R229). -/
def execCmpImm (p : Pred) (f : BitVec 4) (a : BitVec 6) (imm : BitVec 32) (c : Cond) (s : State) :
    Host.Outcome State Fault Refusal :=
  always s p (fun s => s.resultF .s 1 f (condW64 c (s.me.g a) (immOp imm)))

/-- SEL (R229). -/
def execSel (p : Pred) (d a b : BitVec 6) (f : BitVec 4) (s : State) : Host.Outcome State Fault Refusal :=
  always s p (fun s => s.resultG .s 1 d (if s.me.flag f then s.me.g a else s.me.g b))

/-- MOV (R227). -/
def execMov (p : Pred) (d a : BitVec 6) (s : State) : Host.Outcome State Fault Refusal :=
  always s p (fun s => s.resultG .s 1 d (s.me.g a))

/-- MOV of an immediate (R227). -/
def execMovImm (p : Pred) (d : BitVec 6) (imm : BitVec 32) (s : State) : Host.Outcome State Fault Refusal :=
  always s p (fun s => s.resultG .s 1 d (immOp imm))

/-- MOVH: the low half is the one read at issue (R227). -/
def execMovh (p : Pred) (d : BitVec 6) (imm : BitVec 32) (s : State) : Host.Outcome State Fault Refusal :=
  always s p (fun s => s.resultG .s 1 d (imm ++ (s.me.g d).truncate 32))

/-- AADD (R230). -/
def execAadd (p : Pred) (d a : BitVec 5) (b : BitVec 6) (s : State) : Host.Outcome State Fault Refusal :=
  always s p (fun s => s.resultA .s 1 d (addrPlus (s.me.a a) (s.me.g b).toInt))

/-- AADDI (R230). -/
def execAaddi (p : Pred) (d a : BitVec 5) (imm : BitVec 32) (s : State) : Host.Outcome State Fault Refusal :=
  always s p (fun s => s.resultA .s 1 d (addrPlus (s.me.a a) imm.toInt))

/-- AIDX: the product is exact before the wrap (R230). -/
def execAidx (p : Pred) (d a : BitVec 5) (b : BitVec 6) (j : BitVec 24) (s : State) :
    Host.Outcome State Fault Refusal :=
  always s p (fun s => s.resultA .s 3 d (addrPlus (s.me.a a) ((s.me.g b).toInt * j.toInt)))

/-- ACMP (R230). -/
def execAcmp (p : Pred) (f : BitVec 4) (a b : BitVec 5) (c : Cond) (s : State) : Host.Outcome State Fault Refusal :=
  always s p (fun s => s.resultF .s 1 f (condW80 c (s.me.a a) (s.me.a b)))

/-- AMOV: x = 0 a to a, x = 1 g to a, x = 2 a[63:0] to g (R230). -/
def execAmov (p : Pred) (x : BitVec 2) (d a : BitVec 6) (s : State) : Host.Outcome State Fault Refusal :=
  always s p (fun s =>
    if x = 0 then s.resultA .s 1 (d.truncate 5) (s.me.a (a.truncate 5))
    else if x = 1 then s.resultA .s 1 (d.truncate 5) ((s.me.g a).zeroExtend 80)
    else s.resultG .s 1 d ((s.me.a (a.truncate 5)).truncate 64))

/-- AMOVH: a[79:64] to g (R230). -/
def execAmovh (p : Pred) (d : BitVec 6) (a : BitVec 5) (s : State) : Host.Outcome State Fault Refusal :=
  always s p (fun s => s.resultG .s 1 d (((s.me.a a) >>> 64).truncate 64))

/-- AHOME (R230). -/
def execAhome (p : Pred) (d a : BitVec 5) (b : BitVec 6) (s : State) : Host.Outcome State Fault Refusal :=
  always s p (fun s => s.resultA .s 1 d (addrWithHome (s.me.a a) (s.me.g b).toNat))

/-- Redirect issue to `target` after the two delay bundles (R203). -/
def State.branch (s : State) (target : Nat) : State :=
  s.updMe (fun c => { c with sched := { c.sched with rtgt := target % 2 ^ 24, dly := 3 } })

/-- Static target of a branch (R231). -/
def Ctx.target (c : Ctx) (off : BitVec 25) : Nat := ((c.sched.pc : Int) + off.toInt).toNat

/-- BR (R231). -/
def execBr (p : Pred) (off : BitVec 25) (s : State) : Host.Outcome State Fault Refusal :=
  always s p (fun s => s.branch (s.me.target off))

/-- BRC: taken while gd is not 0, which it counts down (R231). -/
def execBrc (p : Pred) (d : BitVec 6) (off : BitVec 25) (s : State) : Host.Outcome State Fault Refusal :=
  always s p (fun s =>
    if s.me.g d = 0 then s else (s.branch (s.me.target off)).resultG .s 1 d (s.me.g d - 1))

/-- CALL: gd receives the index after the delay bundles (R231). -/
def execCall (p : Pred) (d : BitVec 6) (off : BitVec 25) (s : State) : Host.Outcome State Fault Refusal :=
  always s p (fun s => (s.branch (s.me.target off)).resultG .s 1 d (BitVec.ofNat 64 (s.me.sched.pc + 3)))

/-- The image whose bundles the context issues (R203, R391). -/
def Ctx.imageHandle (c : Ctx) : W64 := match c.task with | some t => t.desc.image | none => c.sys.himg

/-- A sealed image in a die's image store (R127). -/
def State.image? (s : State) (die : Nat) (h : W64) : Option Image :=
  (s.die die).images.find? (fun i => i.handle == h && i.ready)

/-- The running context's image. -/
def State.myImage? (s : State) : Option Image := s.image? s.myDie s.me.imageHandle

/-- Bundle count of the running image; 0 when there is none. -/
def State.bundleCount (s : State) : Nat := match s.myImage? with | some i => i.bundles.length | none => 0

/-- RET's test: an index outside the image traps with PCRANGE (R231). -/
def State.retVerdict (s : State) (a : BitVec 6) : Verdict :=
  trapIf (decide (s.bundleCount ≤ (s.me.g a).toNat)) (.issue .s cPCRANGE (s.me.g a))

/-- RET (R231). -/
def execRet (p : Pred) (a : BitVec 6) (s : State) : Host.Outcome State Fault Refusal :=
  act s p (s.retVerdict a) (fun s => s.branch (s.me.g a).toNat)

/-- LOOP: the count comes from ga[31:0] or the immediate; a count of 0 skips the body (R232). -/
def execLoop (p : Pred) (lc : BitVec 3) (im : Bool) (a : BitVec 6) (len : BitVec 6) (cnt : BitVec 24) (s : State) :
    Host.Outcome State Fault Refusal :=
  always s p (fun s =>
    let n : W32 := if im then cnt.zeroExtend 32 else (s.me.g a).truncate 32
    let pc := s.me.sched.pc
    if n = 0 then s.updMe (fun c => { c with sched := { c.sched with jump := some (.inl (pc + len.toNat)) } })
    else
      (s.updMe (fun c => { c with sched := { c.sched with
        jump := some (.inr { n := lc, first := pc + 1, last := pc + len.toNat }) } })).result .s 1 (.lc lc)
        (n.zeroExtend 2048))

/-- FSET (R233). -/
def execFset (p : Pred) (f : BitVec 4) (v : Bool) (s : State) : Host.Outcome State Fault Refusal :=
  always s p (fun s => s.resultF .s 1 f v)

/-- FMOV, inverted when `inv` (R233). -/
def execFmov (p : Pred) (f a : BitVec 4) (inv : Bool) (s : State) : Host.Outcome State Fault Refusal :=
  always s p (fun s => s.resultF .s 1 f (s.me.flag a != inv))

/-- KWR (R234). -/
def execKwr (p : Pred) (k : BitVec 4) (a : BitVec 6) (s : State) : Host.Outcome State Fault Refusal :=
  always s p (fun s => s.result .s 1 (.k k) ((s.me.g a).zeroExtend 2048))

/-- KWR of an immediate (R234). -/
def execKwrImm (p : Pred) (k : BitVec 4) (imm : BitVec 32) (s : State) : Host.Outcome State Fault Refusal :=
  always s p (fun s => s.result .s 1 (.k k) ((immOp imm).zeroExtend 2048))

/-- ZWR (R234). -/
def execZwr (p : Pred) (z : BitVec 3) (a : BitVec 6) (s : State) : Host.Outcome State Fault Refusal :=
  always s p (fun s => s.result .s 1 (.z z) ((s.me.g a).zeroExtend 2048))

/-- ZWR of an immediate (R234). -/
def execZwrImm (p : Pred) (z : BitVec 3) (imm : BitVec 32) (s : State) : Host.Outcome State Fault Refusal :=
  always s p (fun s => s.result .s 1 (.z z) ((immOp imm).zeroExtend 2048))

end Sys2Proof.Machine
end

