-- ==== Sys2Proof/Machine/Vector.lean ====
section
/-! DEFINITION. The vector slots V0 and V1 (R242 to R261). -/

namespace Sys2Proof.Machine

/-- The slot of `w`: V0 or V1. -/
def vslot (w : Bool) : Slot := if w then .v1 else .v0

/-- Element `e` of type `t` of a line, subnormals flushed, as a value (R70, R243). -/
def elemNum (t : Ty) (ftz : Bool) (l : Line) (e : Nat) : Num := decodeNum t (flushPat t ftz (lineElem t.bits l e))

/-- Signed or unsigned value of element `e` of an integer line (R245). -/
def elemInt (t : Ty) (l : Line) (e : Nat) : Int :=
  if t.isSigned then signed t.bits (lineElem t.bits l e) else lineElem t.bits l e

/-- The line of type `t` whose element e is `f e`. -/
def vline (t : Ty) (f : Nat → Nat) : Line := lineOfElems t.bits t.elems f

/-- Write a line `lat` cycles later (R197). -/
def State.vresult (s : State) (w : Bool) (lat : Nat) (d : LineRef) (v : Line) : State :=
  s.result (vslot w) lat (.line d) v

/-- Write a line that rounds by fmt: rsn advances once in mode RS (R81, R243). -/
def State.vround (s : State) (w : Bool) (lat : Nat) (d : LineRef) (v : Line) : State :=
  (s.vresult w lat d v).updMe (fun c => c.takeRsn 1)

/-- Latency of FP add, multiply and FMA by type (R246). -/
def fmaLat (t : Ty) : Nat := if t = .f32 then 4 else 3

/-- The operations that VADD, VSUB and VMUL name. -/
inductive Arith where
  | add | sub | mul
deriving DecidableEq, Repr

/-- Integer result before wrapping or saturation. -/
def Arith.int (o : Arith) (a b : Int) : Int :=
  match o with
  | .add => a + b | .sub => a - b | .mul => a * b

/-- Exact float result (R76). -/
def Arith.num (o : Arith) (rd : Bool) (a b : Num) : Num :=
  match o with
  | .add => sumNums rd [a, b] | .sub => sumNums rd [a, b.neg] | .mul => a.mul b

/-- LNS6 product in the vector slots (R87). -/
def ln6Mul (a b : Nat) : Nat :=
  let s := b2n (bit a 5 != bit b 5) <<< 5
  if lnQ a = -16 ∨ lnQ b = -16 then s + 16
  else
    let q := lnQ a + lnQ b
    if 15 < q then s + 15 else if q < -15 then s + 16 else s + wrap 5 q

/-- LNS6 sum (R88, R247): an exact zero is −0 only when both terms are. -/
def ln6Add (x y : Num) : Nat :=
  match sumNums false [x, y] with
  | .fin s 0 _ => if s then 0x30 else 0x10
  | z => toLn6 z

/-- Element of VADD, VSUB or VMUL (R247). -/
def arithElem (o : Arith) (t : Ty) (r : Rnd) (sat_ : Bool) (a b : Line) (e : Nat) : Nat :=
  if t.isF then r.float t e (o.num (r.mode = 3) (elemNum t r.ftz a e) (elemNum t r.ftz b e)) false
  else if t = .ln6 then
    match o with
    | .mul => ln6Mul (lineElem 8 a e) (lineElem 8 b e)
    | .add => ln6Add (decodeLn6 (lineElem 8 a e)) (decodeLn6 (lineElem 8 b e))
    | .sub => ln6Add (decodeLn6 (lineElem 8 a e)) (decodeLn6 (lineElem 8 b e)).neg
  else if sat_ then wrap t.bits (sat (o.int (elemInt t a e) (elemInt t b e)) t.lo t.hi)
  else wrap t.bits (o.int (elemInt t a e) (elemInt t b e))

/-- Latency of VADD, VSUB and VMUL (R246). -/
def arithLat (o : Arith) (t : Ty) : Nat :=
  if t.isF then fmaLat t else if t = .ln6 then (if o = .mul then 2 else 3) else 2

/-- VADD, VSUB or VMUL (R247): only class F rounds by fmt. -/
def State.arith (s : State) (o : Arith) (w : Bool) (t : Ty) (d : LineRef) (a b : Src) (sat_ : Bool) : State :=
  let v := vline t (arithElem o t s.me.rnd sat_ (s.me.src t.bits a) (s.me.src t.bits b))
  if t.isF then s.vround w (arithLat o t) d v else s.vresult w (arithLat o t) d v

/-- Element of VFMA and VFMS: one rounding; the product is one term (R248). -/
def fmaElem (neg : Bool) (t : Ty) (r : Rnd) (a b c : Line) (e : Nat) : Nat :=
  let z := elemNum t r.ftz c e
  r.float t e (sumNums (r.mode = 3) [(elemNum t r.ftz a e).mul (elemNum t r.ftz b e), if neg then z.neg else z]) false

/-- VFMA or VFMS. -/
def State.vfma (s : State) (neg w : Bool) (t : Ty) (d : LineRef) (a b c : Src) : State :=
  let x := s.me
  s.vround w (fmaLat t) d (vline t (fmaElem neg t x.rnd (x.src t.bits a) (x.src t.bits b) (x.src t.bits c)))

/-- The lesser of two elements (R249): −0 below +0, NaN canonical. -/
def minElem (t : Ty) (ftz : Bool) (x y : Nat) : Nat :=
  if t.isF then
    let x := flushPat t ftz x
    let y := flushPat t ftz y
    if (decodeNum t x).isNan || (decodeNum t y).isNan then t.nan
    else if (decodeNum t y).lt (decodeNum t x) then y else x
  else if t.isSigned then (if signed t.bits y < signed t.bits x then y else x) else min x y

/-- The greater of two elements (R249). -/
def maxElem (t : Ty) (ftz : Bool) (x y : Nat) : Nat :=
  if t.isF then
    let x := flushPat t ftz x
    let y := flushPat t ftz y
    if (decodeNum t x).isNan || (decodeNum t y).isNan then t.nan
    else if (decodeNum t x).lt (decodeNum t y) then y else x
  else if t.isSigned then (if signed t.bits x < signed t.bits y then y else x) else max x y

/-- VABS of an element (R249). -/
def absElem (t : Ty) (ftz : Bool) (x : Nat) : Nat :=
  if t.isF then
    let x := flushPat t ftz x
    if (decodeNum t x).isNan then t.nan else bits x 0 (t.man + t.expBits)
  else if t.isSigned then wrap t.bits (signed t.bits x).natAbs else x

/-- VNEG of an element (R249). -/
def negElem (t : Ty) (ftz : Bool) (x : Nat) : Nat :=
  if t.isF then
    let x := flushPat t ftz x
    if (decodeNum t x).isNan then t.nan
    else if bit x (t.man + t.expBits) then x - 2 ^ (t.man + t.expBits) else x + 2 ^ (t.man + t.expBits)
  else wrap t.bits (-(x : Int))

/-- An operation of one source, element by element, on patterns. -/
def State.vmap1 (s : State) (w : Bool) (lat : Nat) (t : Ty) (d : LineRef) (a : Src) (f : Nat → Nat) : State :=
  let x := s.me.src t.bits a
  s.vresult w lat d (vline t (fun e => f (lineElem t.bits x e)))

/-- An operation of two sources, element by element, on patterns. -/
def State.vmap2 (s : State) (w : Bool) (lat : Nat) (t : Ty) (d : LineRef) (a b : Src) (f : Nat → Nat → Nat) : State :=
  let x := s.me.src t.bits a
  let y := s.me.src t.bits b
  s.vresult w lat d (vline t (fun e => f (lineElem t.bits x e) (lineElem t.bits y e)))

/-- An operation of three sources, element by element, on patterns. -/
def State.vmap3 (s : State) (w : Bool) (lat : Nat) (t : Ty) (d : LineRef) (a b c : Src) (f : Nat → Nat → Nat → Nat) :
    State :=
  let x := s.me.src t.bits a
  let y := s.me.src t.bits b
  let z := s.me.src t.bits c
  s.vresult w lat d (vline t (fun e => f (lineElem t.bits x e) (lineElem t.bits y e) (lineElem t.bits z e)))

/-- Whether the running context flushes subnormals (R70). -/
def State.ftz (s : State) : Bool := fmtFtz s.me.regs.fmt

/-- VRCP or VSQRT: a function of one element with a rest, rounded with fmt.rm (R251). -/
def State.vfnRm (s : State) (w : Bool) (t : Ty) (d : LineRef) (a : Src) (f : Num → Digits) : State :=
  let x := s.me.src t.bits a
  let r := s.me.rnd
  s.vround w 8 d (vline t (fun e => let y := f (elemNum t r.ftz x e); r.float t e y.1 y.2))

/-- VRSQ, VEXP2 or VLOG2: rounded to nearest even whatever rm holds (R251). -/
def State.vfnNe (s : State) (w : Bool) (t : Ty) (d : LineRef) (a : Src) (f : Num → Digits) : State :=
  let x := s.me.src t.bits a
  let r := s.me.rndNe
  s.vresult w 8 d (vline t (fun e => let y := f (elemNum t r.ftz x e); r.float t e y.1 y.2))

/-- A VCVT between these types rounds by fmt.rm (R78): not into LNS6, not between integers. -/
def convRounds (t u : Ty) : Bool := u != .ln6 && !(t.isI && u.isI)

/-- The line that VCVT writes (R252). -/
def vcvtLine (r : Rnd) (t u : Ty) (part : Nat) (x : Line) : Line :=
  let es := t.elems
  let ed := u.elems
  vline u (fun e =>
    if ed = es then r.convElem t u e (lineElem t.bits x e)
    else if es < ed then
      (if part * es ≤ e ∧ e < (part + 1) * es then r.convElem t u e (lineElem t.bits x (e - part * es)) else 0)
    else r.convElem t u e (lineElem t.bits x (part * ed + e)))

/-- Greatest magnitude of values, as an FP32 pattern; NaN ignored (R98). -/
def amax (xs : List Num) : Nat :=
  xs.foldl (fun m x => match x with | .nan => m | y => max m (Rnd.ne.float .f32 0 y.abs false)) 0

/-- Elements of a line as flushed values. -/
def lineNums (t : Ty) (ftz : Bool) (l : Line) : List Num := (List.range t.elems).map (elemNum t ftz l)

/-- Scale of a q8 block (R94). -/
def q8Scale (xs : List Num) (sgn ftz : Bool) : Nat :=
  if xs.any (fun x => x.isNan || x.isInf true || x.isInf false) then 0x7FC00000
  else
    let q := (f32 (amax xs)).quot (.fin false (if sgn then 127 else 255) 0)
    flushPat .f32 ftz (Rnd.ne.float .f32 0 q.1 q.2)

/-- Code of an element of a q8 block (R94). -/
def q8Code (scale : Nat) (sgn : Bool) (x : Num) : Nat :=
  match f32 scale with
  | .fin _ 0 _ => 0
  | .fin s n e =>
    match x.quot (.fin s n e) with
    | (.fin t m f, st) =>
      let v := roundInt 0 0 t m f st
      if sgn then wrap 8 (sat v (-127) 127) else wrap 8 (sat v 0 255)
    | _ => 0
  | _ => 0

/-- The line that VQ8 writes (R254): codes byte by byte, scales from word 32 on. -/
def vq8Line (t : Ty) (ftz sgn : Bool) (x : Line) : Line :=
  let nb := t.elems / 64
  let xs := lineNums t ftz x
  let scales := (List.range nb).map (fun k => q8Scale ((xs.drop (64 * k)).take 64) sgn ftz)
  let codes := (number 0 xs).map (fun p => q8Code (scales.getD (p.1 / 64) 0) sgn p.2)
  BitVec.ofNat 2048 (ofBytes (codes.map (BitVec.ofNat 8)) +
    ofBytes (scales.flatMap (toBytes 4)) <<< 1024)

/-- The line that VDQ8 writes (R255). -/
def vdq8Line (t : Ty) (ftz sgn : Bool) (x y : Line) : Line :=
  let r : Rnd := { Rnd.ne with ftz := ftz }
  vline t (fun e =>
    let c := lineElem 8 x e
    let v : Num := if sgn then .fin (decide (128 ≤ c)) (signed 8 c).natAbs 0 else .fin false c 0
    r.float t e (v.mul (f32 (flushPat .f32 ftz (lineElem 32 y (32 + e / 64))))) false)

/-- One level of the pairwise tree (R96). -/
def treeLevel (f : Nat → Nat → Nat) (xs : List Nat) : List Nat :=
  match xs with
  | a :: b :: r => f a b :: treeLevel f r
  | l => l

/-- tree_sum (R96), at most `k` levels. -/
def treeSum (f : Nat → Nat → Nat) (xs : List Nat) (k : Nat) : Nat :=
  match k with
  | 0 => xs.headD 0
  | k + 1 =>
    match xs with
    | [] => 0
    | [x] => x
    | l => treeSum f (treeLevel f l) k

/-- One addition of a reduction (R96, R97, R260). -/
def redAdd (t : Ty) (r : Rnd) (a b : Nat) : Nat :=
  if t.isF then
    r.float t 0 (sumNums (r.mode = 3) [decodeNum t (flushPat t r.ftz a), decodeNum t (flushPat t r.ftz b)]) false
  else (a + b) % 2 ^ t.bits

/-- Patterns of a line's elements. -/
def linePats (t : Ty) (l : Line) : List Nat := (List.range t.elems).map (lineElem t.bits l)

/-- VREDSUM, VREDMAX or VREDMIN: one value to every element (R260). -/
def State.vreduce (s : State) (w : Bool) (t : Ty) (d : LineRef) (v : Nat) : State :=
  s.vresult w 6 d (vline t (fun _ => v))

/-- Fold a nonempty list of patterns. -/
def foldPats (f : Nat → Nat → Nat) (xs : List Nat) : Nat := xs.tail.foldl f (xs.headD 0)

/-- VADD (R247). -/
def execVadd (p : Pred) (w : Bool) (ty : Ty) (d : LineRef) (a b : Src) (sb : Bool) (s : State) :
    Host.Outcome State Fault Refusal :=
  always s p (fun s => s.arith .add w ty d a b sb)

/-- VSUB (R247). -/
def execVsub (p : Pred) (w : Bool) (ty : Ty) (d : LineRef) (a b : Src) (sb : Bool) (s : State) :
    Host.Outcome State Fault Refusal :=
  always s p (fun s => s.arith .sub w ty d a b sb)

/-- VMUL (R247). -/
def execVmul (p : Pred) (w : Bool) (ty : Ty) (d : LineRef) (a b : Src) (sb : Bool) (s : State) :
    Host.Outcome State Fault Refusal :=
  always s p (fun s => s.arith .mul w ty d a b sb)

/-- VFMA (R248). -/
def execVfma (p : Pred) (w : Bool) (ty : Ty) (d : LineRef) (a b c : Src) (s : State) :
    Host.Outcome State Fault Refusal :=
  always s p (fun s => s.vfma false w ty d a b c)

/-- VFMS (R248). -/
def execVfms (p : Pred) (w : Bool) (ty : Ty) (d : LineRef) (a b c : Src) (s : State) :
    Host.Outcome State Fault Refusal :=
  always s p (fun s => s.vfma true w ty d a b c)

/-- VMIN (R249). -/
def execVmin (p : Pred) (w : Bool) (ty : Ty) (d : LineRef) (a b : Src) (s : State) :
    Host.Outcome State Fault Refusal :=
  always s p (fun s => s.vmap2 w 2 ty d a b (minElem ty s.ftz))

/-- VMAX (R249). -/
def execVmax (p : Pred) (w : Bool) (ty : Ty) (d : LineRef) (a b : Src) (s : State) :
    Host.Outcome State Fault Refusal :=
  always s p (fun s => s.vmap2 w 2 ty d a b (maxElem ty s.ftz))

/-- VABS (R249). -/
def execVabs (p : Pred) (w : Bool) (ty : Ty) (d : LineRef) (a : Src) (s : State) :
    Host.Outcome State Fault Refusal :=
  always s p (fun s => s.vmap1 w 2 ty d a (absElem ty s.ftz))

/-- VNEG (R249). -/
def execVneg (p : Pred) (w : Bool) (ty : Ty) (d : LineRef) (a : Src) (s : State) :
    Host.Outcome State Fault Refusal :=
  always s p (fun s => s.vmap1 w 2 ty d a (negElem ty s.ftz))

/-- VCLAMP (R249). -/
def execVclamp (p : Pred) (w : Bool) (ty : Ty) (d : LineRef) (a b c : Src) (s : State) :
    Host.Outcome State Fault Refusal :=
  always s p (fun s => s.vmap3 w 2 ty d a b c (fun x y z => minElem ty s.ftz (maxElem ty s.ftz x y) z))

/-- High product of two elements (R250). -/
def mulhElem (t : Ty) (a b : Nat) : Nat :=
  let x : Int := if t.isSigned then signed t.bits a else a
  let y : Int := if t.isSigned then signed t.bits b else b
  wrap t.bits ((x * y) / (2 ^ t.bits : Nat))

/-- VMULH (R250). -/
def execVmulh (p : Pred) (w : Bool) (ty : Ty) (d : LineRef) (a b : Src) (s : State) :
    Host.Outcome State Fault Refusal :=
  always s p (fun s => s.vmap2 w 2 ty d a b (mulhElem ty))

/-- VRCP (R251). -/
def execVrcp (p : Pred) (w : Bool) (ty : Ty) (d : LineRef) (a : Src) (s : State) :
    Host.Outcome State Fault Refusal :=
  always s p (fun s => s.vfnRm w ty d a recip)

/-- VRSQ (R251). -/
def execVrsq (p : Pred) (w : Bool) (ty : Ty) (d : LineRef) (a : Src) (s : State) :
    Host.Outcome State Fault Refusal :=
  always s p (fun s => s.vfnNe w ty d a rsqNum)

/-- VEXP2 (R251). -/
def execVexp2 (p : Pred) (w : Bool) (ty : Ty) (d : LineRef) (a : Src) (s : State) :
    Host.Outcome State Fault Refusal :=
  always s p (fun s => s.vfnNe w ty d a exp2Num)

/-- VLOG2 (R251). -/
def execVlog2 (p : Pred) (w : Bool) (ty : Ty) (d : LineRef) (a : Src) (s : State) :
    Host.Outcome State Fault Refusal :=
  always s p (fun s => s.vfnNe w ty d a log2Num)

/-- VSQRT (R251). -/
def execVsqrt (p : Pred) (w : Bool) (ty : Ty) (d : LineRef) (a : Src) (s : State) :
    Host.Outcome State Fault Refusal :=
  always s p (fun s => s.vfnRm w ty d a sqrtNum)

/-- VCVT from `ty` to `tx` (R252). -/
def execVcvt (p : Pred) (w : Bool) (ty tx : Ty) (d : LineRef) (a : Src) (part : BitVec 8) (s : State) :
    Host.Outcome State Fault Refusal :=
  always s p (fun s =>
    let v := vcvtLine s.me.rnd ty tx part.toNat (s.me.src ty.bits a)
    if convRounds ty tx then s.vround w 3 d v else s.vresult w 3 d v)

/-- VQ8 (R254). -/
def execVq8 (p : Pred) (w : Bool) (ty : Ty) (d : LineRef) (a : Src) (signed : Bool) (s : State) :
    Host.Outcome State Fault Refusal :=
  always s p (fun s => s.vresult w 6 d (vq8Line ty s.ftz signed (s.me.src ty.bits a)))

/-- VDQ8: codes are bytes of a, scales words of b (R255). -/
def execVdq8 (p : Pred) (w : Bool) (ty : Ty) (d : LineRef) (a b : Src) (signed : Bool) (s : State) :
    Host.Outcome State Fault Refusal :=
  always s p (fun s => s.vresult w 3 d (vdq8Line ty s.ftz signed (s.me.src ty.bits a) (s.me.src ty.bits b)))

/-- VAND (R256). -/
def execVand (p : Pred) (w : Bool) (ty : Ty) (d : LineRef) (a b : Src) (s : State) :
    Host.Outcome State Fault Refusal :=
  always s p (fun s => s.vmap2 w 2 ty d a b (· &&& ·))

/-- VOR (R256). -/
def execVor (p : Pred) (w : Bool) (ty : Ty) (d : LineRef) (a b : Src) (s : State) :
    Host.Outcome State Fault Refusal :=
  always s p (fun s => s.vmap2 w 2 ty d a b (· ||| ·))

/-- VXOR (R256). -/
def execVxor (p : Pred) (w : Bool) (ty : Ty) (d : LineRef) (a b : Src) (s : State) :
    Host.Outcome State Fault Refusal :=
  always s p (fun s => s.vmap2 w 2 ty d a b (· ^^^ ·))

/-- VNOT (R256). -/
def execVnot (p : Pred) (w : Bool) (ty : Ty) (d : LineRef) (a : Src) (s : State) :
    Host.Outcome State Fault Refusal :=
  always s p (fun s => s.vmap1 w 2 ty d a (fun x => 2 ^ ty.bits - 1 - x))

/-- VSHL (R256). -/
def execVshl (p : Pred) (w : Bool) (ty : Ty) (d : LineRef) (a : Src) (n : BitVec 8) (s : State) :
    Host.Outcome State Fault Refusal :=
  always s p (fun s => s.vmap1 w 2 ty d a (fun x => (x <<< n.toNat) % 2 ^ ty.bits))

/-- VSHR: zeros shifted in for every type (R256). -/
def execVshr (p : Pred) (w : Bool) (ty : Ty) (d : LineRef) (a : Src) (n : BitVec 8) (s : State) :
    Host.Outcome State Fault Refusal :=
  always s p (fun s => s.vmap1 w 2 ty d a (fun x => x >>> n.toNat))

/-- VSAR: copies of the top bit for every type (R256). -/
def execVsar (p : Pred) (w : Bool) (ty : Ty) (d : LineRef) (a : Src) (n : BitVec 8) (s : State) :
    Host.Outcome State Fault Refusal :=
  always s p (fun s => s.vmap1 w 2 ty d a (fun x => wrap ty.bits (Machine.signed ty.bits x / (2 ^ n.toNat : Nat))))

/-- VPOPC (R256). -/
def execVpopc (p : Pred) (w : Bool) (ty : Ty) (d : LineRef) (a : Src) (s : State) :
    Host.Outcome State Fault Refusal :=
  always s p (fun s => s.vmap1 w 2 ty d a (popcN ty.bits))

/-- VCLZ (R256). -/
def execVclz (p : Pred) (w : Bool) (ty : Ty) (d : LineRef) (a : Src) (s : State) :
    Host.Outcome State Fault Refusal :=
  always s p (fun s => s.vmap1 w 2 ty d a (clzN ty.bits))

/-- VCMP: all ones where the condition holds (R257). -/
def execVcmp (p : Pred) (w : Bool) (ty : Ty) (c : Cond) (d : LineRef) (a b : Src) (s : State) :
    Host.Outcome State Fault Refusal :=
  always s p (fun s => s.vmap2 w 2 ty d a b (fun x y => if condElem c ty s.ftz x y then 2 ^ ty.bits - 1 else 0))

/-- VSEL: patterns copied unchanged (R258). -/
def execVsel (p : Pred) (w : Bool) (ty : Ty) (d : LineRef) (a b c : Src) (s : State) :
    Host.Outcome State Fault Refusal :=
  always s p (fun s => s.vmap3 w 2 ty d a b c (fun x y z => if z = 0 then y else x))

/-- VMOV (R259). -/
def execVmov (p : Pred) (w : Bool) (ty : Ty) (d : LineRef) (a : Src) (s : State) :
    Host.Outcome State Fault Refusal :=
  always s p (fun s => s.vmap1 w 2 ty d a id)

/-- A permutation of the elements of a line (R259). -/
def State.vpick (s : State) (w : Bool) (ty : Ty) (d : LineRef) (x : Line) (f : Nat → Nat) : State :=
  s.vresult w 3 d (vline ty (fun e => lineElem ty.bits x (f e % ty.elems)))

/-- VBCAST (R259). -/
def execVbcast (p : Pred) (w : Bool) (ty : Ty) (d : LineRef) (a : Src) (n : BitVec 8) (s : State) :
    Host.Outcome State Fault Refusal :=
  always s p (fun s => s.vpick w ty d (s.me.src ty.bits a) (fun _ => n.toNat))

/-- VPERM (R259). -/
def execVperm (p : Pred) (w : Bool) (ty : Ty) (d : LineRef) (a b : Src) (s : State) :
    Host.Outcome State Fault Refusal :=
  always s p (fun s => let y := s.me.src ty.bits b; s.vpick w ty d (s.me.src ty.bits a) (fun e => lineElem ty.bits y e))

/-- VIOTA (R259). -/
def execViota (p : Pred) (w : Bool) (ty : Ty) (d : LineRef) (n : BitVec 8) (s : State) :
    Host.Outcome State Fault Refusal :=
  always s p (fun s => s.vresult w 2 d (vline ty (fun e => (n.toNat + e) % 2 ^ ty.bits)))

/-- VROT (R259). -/
def execVrot (p : Pred) (w : Bool) (ty : Ty) (d : LineRef) (a : Src) (n : BitVec 8) (s : State) :
    Host.Outcome State Fault Refusal :=
  always s p (fun s => s.vpick w ty d (s.me.src ty.bits a) (fun e => e + n.toNat))

/-- VREDSUM: the pairwise tree, RS taken as RNE (R96, R260). -/
def execVredsum (p : Pred) (w : Bool) (ty : Ty) (d : LineRef) (a : Src) (s : State) :
    Host.Outcome State Fault Refusal :=
  always s p (fun s => s.vreduce w ty d (treeSum (redAdd ty s.me.rndTree) ((linePats ty (s.me.src ty.bits a)).map (flushPat ty s.ftz)) 9))

/-- VREDMAX (R260). -/
def execVredmax (p : Pred) (w : Bool) (ty : Ty) (d : LineRef) (a : Src) (s : State) :
    Host.Outcome State Fault Refusal :=
  always s p (fun s => s.vreduce w ty d (foldPats (maxElem ty s.ftz) (linePats ty (s.me.src ty.bits a))))

/-- VREDMIN (R260). -/
def execVredmin (p : Pred) (w : Bool) (ty : Ty) (d : LineRef) (a : Src) (s : State) :
    Host.Outcome State Fault Refusal :=
  always s p (fun s => s.vreduce w ty d (foldPats (minElem ty s.ftz) (linePats ty (s.me.src ty.bits a))))

/-- VAMAX: the amax register takes the larger value at t+6 (R98, R99, R261). -/
def execVamax (p : Pred) (w : Bool) (ty : Ty) (mx : BitVec 2) (a : Src) (s : State) :
    Host.Outcome State Fault Refusal :=
  always s p (fun s => s.result (vslot w) 6 (.mx mx) (BitVec.ofNat 2048 (amax (lineNums ty s.ftz (s.me.src ty.bits a)))))

end Sys2Proof.Machine
end

