-- ==== Sys2Proof/Machine/LoadStore.lean ====
section
/-! DEFINITION. The loads, stores, atomics and remote put of the LD and ST slots (R316 to R323, R347 to R350), as they
issue. What off-core requests do at their homes stands in Ports. -/

namespace Sys2Proof.Machine

/-- Issue or hold a load-type memory operation: latches, queues, reserved banks. -/
def State.loadVerdict (s : State) (ac : BitVec 3) (ea : W80) (ps : List Piece) : Verdict :=
  (s.roomFor true ac.toNat ea ps).andThen (s.bankVerdict (addrHome ea) ps)

/-- Issue or hold a store-type memory operation. -/
def State.storeVerdict (s : State) (ac : BitVec 3) (ea : W80) (ps : List Piece) : Verdict :=
  (s.roomFor false ac.toNat ea ps).andThen (s.bankVerdict (addrHome ea) ps)

/-- `n` bytes of zeros. -/
def zeros (n : Nat) : List Byte := List.replicate n 0

/-- Effective address of a load with a signed 10-bit offset (R316, R321). -/
def Ctx.loadEa (c : Ctx) (a : BitVec 5) (off : BitVec 10) (size : Nat) : W80 := effAddr (c.a a) off.toInt size

/-- Effective address of a store with a signed 14-bit offset (R316, R322). -/
def Ctx.storeEa (c : Ctx) (a : BitVec 5) (off : BitVec 14) (size : Nat) : W80 := effAddr (c.a a) off.toInt size

/-- Pieces of a contiguous access. -/
def spanPieces (ea : W80) (size : Nat) : List Piece := pieces (addrOff ea) 0 size size

/-- A contiguous load into a destination (R321). -/
def State.load (s : State) (p : Pred) (dest : Dest) (a : BitVec 5) (ac : BitVec 3) (dist : BitVec 12)
    (off : BitVec 10) (size : Nat) : Host.Outcome State Fault Refusal :=
  let ea := s.me.loadEa a off size
  let ps := spanPieces ea size
  act s p (s.loadVerdict ac ea ps) (fun s =>
    s.memRequest .ld (.load false) ac.toNat ea ps (zeros size) (some (dest, dist.toNat)))

/-- LDW (R321). -/
def execLdw (p : Pred) (d : BitVec 6) (a : BitVec 5) (ac : BitVec 3) (dist : BitVec 12) (off : BitVec 10) (s : State) :
    Host.Outcome State Fault Refusal :=
  s.load p (.g d) a ac dist off 4

/-- LDD (R321). -/
def execLdd (p : Pred) (d : BitVec 6) (a : BitVec 5) (ac : BitVec 3) (dist : BitVec 12) (off : BitVec 10) (s : State) :
    Host.Outcome State Fault Refusal :=
  s.load p (.g d) a ac dist off 8

/-- LDL (R321). -/
def execLdl (p : Pred) (l : BitVec 4) (a : BitVec 5) (ac : BitVec 3) (dist : BitVec 12) (off : BitVec 10) (s : State) :
    Host.Outcome State Fault Refusal :=
  s.load p (.land l) a ac dist off 256

/-- Pieces of 64 word accesses, word w at `off w` modulo 2^48 (R321). -/
def wordPieces (off : Nat → Int) : List Piece :=
  (List.range 64).flatMap (fun w => pieces (wrap 48 (off w)) (4 * w) 4 4)

/-- 64 word accesses into a landing slot (R321). -/
def State.loadWords (s : State) (p : Pred) (l : BitVec 4) (a : BitVec 5) (ac : BitVec 3) (dist : BitVec 12)
    (off : Nat → Int) : Host.Outcome State Fault Refusal :=
  let ea := s.me.a a
  let ps := wordPieces (fun w => (addrOff ea : Int) + off w)
  act s p (s.loadVerdict ac ea ps) (fun s =>
    s.memRequest .ld (.load true) ac.toNat ea ps (zeros 256) (some (.land l, dist.toNat)))

/-- LDLS: words a signed stride apart (R321). -/
def execLdls (p : Pred) (l : BitVec 4) (a : BitVec 5) (ac : BitVec 3) (dist : BitVec 12) (s : BitVec 6) (s_ : State) :
    Host.Outcome State Fault Refusal :=
  s_.loadWords p l a ac dist (fun w => w * (s_.me.g s).toInt)

/-- LDG: words at signed indices of a line (R321). -/
def execLdg (p : Pred) (l : BitVec 4) (a : BitVec 5) (ac : BitVec 3) (dist : BitVec 12) (x : Src) (s : State) :
    Host.Outcome State Fault Refusal :=
  let idx := s.me.src 32 x
  s.loadWords p l a ac dist (fun w => (lineWord idx w).toInt * 4)

/-- A contiguous store of bytes (R322). -/
def State.storeBytes (s : State) (p : Pred) (op : ReqOp) (ac : BitVec 3) (ea : W80) (data : List Byte)
    (eff : State → State) : Host.Outcome State Fault Refusal :=
  let ps := spanPieces ea data.length
  act s p (s.storeVerdict ac ea ps) (fun s => eff (s.memRequest .st op ac.toNat ea ps data none))

/-- STW (R322). -/
def execStw (p : Pred) (s : BitVec 6) (a : BitVec 5) (ac : BitVec 3) (off : BitVec 14) (s_ : State) :
    Host.Outcome State Fault Refusal :=
  s_.storeBytes p .store ac (s_.me.storeEa a off 4) (toBytes 4 (s_.me.g s).toNat) id

/-- STD (R322). -/
def execStd (p : Pred) (s : BitVec 6) (a : BitVec 5) (ac : BitVec 3) (off : BitVec 14) (s_ : State) :
    Host.Outcome State Fault Refusal :=
  s_.storeBytes p .store ac (s_.me.storeEa a off 8) (toBytes 8 (s_.me.g s).toNat) id

/-- STL (R322). -/
def execStl (p : Pred) (s : Src) (a : BitVec 5) (ac : BitVec 3) (off : BitVec 14) (s_ : State) :
    Host.Outcome State Fault Refusal :=
  s_.storeBytes p .store ac (s_.me.storeEa a off 256) (lineBytes (s_.me.src 32 s)) id

/-- The elements of a line of FP32 converted one by one (R323): `64 × eb` bytes. -/
def convLine (r : Rnd) (tt : Ty) (x : Line) : List Byte :=
  (List.range 64).flatMap (fun w => toBytes (tt.bits / 8) (r.convElem .f32 tt w (lineElem 32 x w)))

/-- Largest magnitude of a line of FP32 as the amax update takes it (R98). -/
def lineAmax (ftz : Bool) (x : Line) : Line := BitVec.ofNat 2048 (amax (lineNums .f32 ftz x))

/-- STLX: the converted line is stored, mx takes the largest magnitude at t+3, rsn advances by one in mode RS (R323);
the amax update is made by issue, whether or not the write faults. -/
def execStlx (p : Pred) (tt : Ty) (mx : BitVec 2) (s : Src) (a : BitVec 5) (ac : BitVec 3) (off : BitVec 14)
    (s_ : State) : Host.Outcome State Fault Refusal :=
  let x := s_.me.src 32 s
  let r := s_.me.rnd
  s_.storeBytes p .store ac (s_.me.storeEa a off (8 * tt.bits)) (convLine r tt x) (fun s =>
    (s.result .st 3 (.mx mx) (lineAmax r.ftz x)).updMe (fun c => c.takeRsn 1))

/-- PUTH (R350). -/
def execPuth (p : Pred) (s : Src) (a : BitVec 5) (ac : BitVec 3) (off : BitVec 14) (s_ : State) :
    Host.Outcome State Fault Refusal :=
  s_.storeBytes p .puth ac (s_.me.storeEa a off 256) (lineBytes (s_.me.src 32 s)) id

/-- The request of an atomic (R347): its operand and, for CAS, gd are read at issue. -/
def State.amoReq (s : State) (op : BitVec 8) (m : Amo) : State :=
  let ea := s.me.a m.a
  let n := if m.wide then 8 else 4
  s.memRequest .ld (.atomic op m.wide m.u (s.me.g m.v) (s.me.g m.d)) m.ac.toNat ea
    [{ off := addrOff ea, pos := 0, len := n, pa := none, kind := .o, done := false, held := false, bad := none }] (zeros n)
    (some (.g m.d, m.dist.toNat))

/-- An atomic issues when a latch and its queue have room (R206, R466). -/
def State.amoVerdict (s : State) (m : Amo) : Verdict := 
  s.loadVerdict m.ac (s.me.a m.a) (spanPieces (s.me.a m.a) (if m.wide then 8 else 4))

/-- AMO.ADD (R347). -/
def execAmoAdd (p : Pred) (m : Amo) (s : State) : Host.Outcome State Fault Refusal :=
  act s p (s.amoVerdict m) (fun s => s.amoReq 0x20 m)

/-- AMO.MAX (R347). -/
def execAmoMax (p : Pred) (m : Amo) (s : State) : Host.Outcome State Fault Refusal :=
  act s p (s.amoVerdict m) (fun s => s.amoReq 0x21 m)

/-- AMO.MIN (R347). -/
def execAmoMin (p : Pred) (m : Amo) (s : State) : Host.Outcome State Fault Refusal :=
  act s p (s.amoVerdict m) (fun s => s.amoReq 0x22 m)

/-- AMO.AND (R347). -/
def execAmoAnd (p : Pred) (m : Amo) (s : State) : Host.Outcome State Fault Refusal :=
  act s p (s.amoVerdict m) (fun s => s.amoReq 0x23 m)

/-- AMO.OR (R347). -/
def execAmoOr (p : Pred) (m : Amo) (s : State) : Host.Outcome State Fault Refusal :=
  act s p (s.amoVerdict m) (fun s => s.amoReq 0x24 m)

/-- AMO.XCH (R347). -/
def execAmoXch (p : Pred) (m : Amo) (s : State) : Host.Outcome State Fault Refusal :=
  act s p (s.amoVerdict m) (fun s => s.amoReq 0x25 m)

/-- AMO.CAS (R347). -/
def execAmoCas (p : Pred) (m : Amo) (s : State) : Host.Outcome State Fault Refusal :=
  act s p (s.amoVerdict m) (fun s => s.amoReq 0x26 m)

/-- The verdict of AMO.FADD: at levels 1 and 2 it traps with DETVIOL (R349). -/
def State.faddVerdict (s : State) (m : Amo) : Verdict :=
  (trapIf (decide (1 ≤ s.me.level)) (.issue .ld cDETVIOL (addrCompact (s.me.a m.a)))).andThen (s.amoVerdict m)

/-- AMO.FADD (R347, R349). -/
def execAmoFadd (p : Pred) (m : Amo) (s : State) : Host.Outcome State Fault Refusal :=
  act s p (s.faddVerdict m) (fun s => s.amoReq 0x27 m)

end Sys2Proof.Machine
end

