-- ==== Sys2Proof/Machine/Matrix.lean ====
section
/-! DEFINITION. The matrix engine (R262 to R282): the M operations and their hidden effects. -/

namespace Sys2Proof.Machine

/-- A plane is free in the running core's cycle. -/
def State.planeFree (s : State) (pl : Nat) : Bool := decide (s.me.planes.freeAt pl ≤ s.myCore.cycle)

/-- The array is free: no stream of the core has a line still to enter (R268). -/
def Core.arrayFree (c : Core) : Bool := c.drawing.all (fun d => decide (d.1 + d.2.1 ≤ c.cycle))

/-- Format of a plane. -/
def Planes.fmt (p : Planes) (pl : Nat) : Ty := match pl with | 0 => p.fc0 | 1 => p.fc1 | 2 => p.fwa | _ => p.fws

/-- Planes of a mask. -/
def planesOf (pm : Nat) : List Nat := (List.range 4).filter (bit pm)

/-- Number of an accumulator plane. -/
def accNo (pl : Bool) : Nat := b2n pl

/-- Open a busy window until before cycle `e`; windows only grow. -/
def Planes.busy (p : Planes) (stream : Bool) (pl e : Nat) : Planes :=
  if stream then { p with busyStream := Sparse.set p.busyStream pl (max e (Sparse.get 0 p.busyStream pl)) }
  else { p with busyOther := Sparse.set p.busyOther pl (max e (Sparse.get 0 p.busyOther pl)) }

/-- Change the planes of the running context. -/
def State.updPlanes (s : State) (f : Planes → Planes) : State := s.updMe (fun c => { c with planes := f c.planes })

/-- An M operation: the busy tests hold under a false predicate too, and its windows open (R270). `live` says that
the predicate holds. -/
def actM (s : State) (v : Verdict) (eff : State → State) : Host.Outcome State Fault Refusal := .next (s.onVerdict v eff)

/-- Freeze while a plane of a list is busy (R267). -/
def State.waitPlanes (s : State) (pls : List Nat) : Verdict := freezeIf (pls.any (fun p => !s.planeFree p)) .busy

/-- MFMT for the planes of a list whose format is not `ty` (R269). -/
def State.mfmt (s : State) (ty : Ty) (pls : List Nat) : Verdict :=
  let bad := pls.filter (fun p => decide (s.me.planes.fmt p ≠ ty))
  trapIf (!bad.isEmpty) (.issue .m cMFMT (BitVec.ofNat 64 (bad.foldl (fun a p => a + 2 ^ p) 0)))

/-- Clear a plane to +0. -/
def Planes.clear (p : Planes) (pl : Nat) : Planes :=
  match pl with
  | 0 => { p with acc := p.acc.filter (fun e => 64 ≤ e.1) }
  | 1 => { p with acc := p.acc.filter (fun e => e.1 < 64) }
  | 2 => { p with wa := [] }
  | _ => { p with ws := [] }

/-- Set the format of a plane. -/
def Planes.setFmt (p : Planes) (pl : Nat) (ty : Ty) : Planes :=
  match pl with
  | 0 => { p with fc0 := ty }
  | 1 => { p with fc1 := ty }
  | 2 => { p with fwa := ty }
  | _ => { p with fws := ty }

/-- Verdict of MCFG and MWAITP: every named plane free (R267). -/
def State.mcfgVerdict (s : State) (pm : BitVec 4) : Verdict := s.waitPlanes (planesOf pm.toNat)

/-- MCFG: set the format of the named planes and clear them (R274). -/
def execMcfg (p : Pred) (ty : Ty) (pm : BitVec 4) (s : State) : Host.Outcome State Fault Refusal :=
  actM s (s.mcfgVerdict pm) (fun s =>
    if s.me.holds p then s.updPlanes (fun x => (planesOf pm.toNat).foldl (fun x k => (x.setFmt k ty).clear k) x) else s)

/-- Successive lines of a stream, as operand vectors (R264). -/
def Ctx.lines (c : Ctx) (gl : LineRef) (n : Nat) : List Line := (List.range n).map (fun j => c.regs.line (gl.plus j))

/-- Verdict of MLDW: ws free, then its format (R267, R269). -/
def State.mldwVerdict (s : State) (p : Pred) (ty : Ty) : Verdict :=
  (s.waitPlanes [3]).andThen (if s.me.holds p then s.mfmt ty [3] else .issue)

/-- MLDW: the lines are read now, ws receives the block at c + N (R265, R266, R275). -/
def execMldw (p : Pred) (ty : Ty) (gl : LineRef) (s : State) : Host.Outcome State Fault Refusal :=
  actM s (s.mldwVerdict p ty) (fun s =>
    let c := s.myCore.cycle
    let live := s.me.holds p
    let cols := s.me.lines gl ty.mN
    s.updPlanes (fun x =>
      let x := x.busy false 3 (c + ty.mN + 1)
      if live then { x with hidden := x.hidden ++ [.wload (c + ty.mN) cols] } else x))

/-- Verdict of MSWAP (R267). -/
def State.mswapVerdict (s : State) : Verdict := s.waitPlanes [2, 3]

/-- MSWAP (R276). -/
def execMswap (p : Pred) (s : State) : Host.Outcome State Fault Refusal :=
  actM s s.mswapVerdict (fun s =>
    if s.me.holds p then s.updPlanes (fun x => { x with wa := x.ws, ws := x.wa, fwa := x.fws, fws := x.fwa }) else s)

/-- Formats that need leave in class H1 (R221). -/
def needsH1 (ty : Ty) : Bool := ty.isF8 || decide (ty = .ln6)

/-- The core holds a lease of a class (R222). -/
def Core.hasLease (c : Core) (k : Nat) : Bool := decide (c.cycle < Sparse.get 0 c.leases k)

/-- Leave for the classes of a mask that the core lacks (R223): a decline with yf = 1, else a freeze. -/
def State.leave (s : State) (m : Nat) (yf busy : Bool) : Verdict :=
  let lack := [1, 2, 3].filter (fun k => bit m k && !s.myCore.hasLease k)
  let mask := lack.foldl (fun a k => a + 2 ^ k) 0
  if lack.isEmpty then .issue else if yf then .decline (.leases mask) else .freeze (.sage mask busy)

/-- Verdict of MSTRM: leave, then the array and the planes, then the formats (R267, R269, R277). -/
def State.mstrmVerdict (s : State) (p : Pred) (ty : Ty) (pl yf : Bool) : Verdict :=
  let c := s.myCore
  let other (k : Nat) : Bool := decide (c.cycle < Sparse.get 0 s.me.planes.busyOther k)
  let busy := !c.arrayFree || other 2 || other (accNo pl)
  let live := s.me.holds p
  (if live && needsH1 ty then s.leave 2 yf busy else .issue).andThen
    ((freezeIf busy .busy).andThen (if live then s.mfmt ty [accNo pl, 2] else .issue))

/-- Weight of a streaming line (R218). -/
def streamWeight (ty : Ty) : Nat :=
  if ty = .f32 then 8 else if ty.isF8 then 20 else if ty = .ln6 then 24 else 12

/-- MSTRM: the lines are read now; line m enters at c + m and row arow + m is written at c + m + P (R265, R266,
R277). -/
def execMstrm (p : Pred) (ty : Ty) (gl : LineRef) (n : BitVec 6) (pl : Bool) (cb : BitVec 2) (arow : BitVec 6) (yf : Bool)
    (s : State) : Host.Outcome State Fault Refusal :=
  actM s (s.mstrmVerdict p ty pl yf) (fun s =>
    let c := s.myCore.cycle
    let k := n.toNat + 1
    let live := s.me.holds p
    let st : Stream := { cyc := c, pl := accNo pl, row := arow.toNat, cb := cb.toNat, ty := ty, n := k, live := live,
                         lines := s.me.lines gl k, wa := s.me.planes.wa, entered := 0, written := 0 }
    let s := s.updPlanes (fun x =>
      let x := (x.busy true 2 (c + k)).busy true (accNo pl) (c + n.toNat + ty.mP + 1)
      { x with streams := x.streams ++ [st] })
    s.updCore (coreOf s.cur) (fun q => { q with
      drawing := q.drawing ++ [(c, k, streamWeight ty)]
      lastUse := if live && needsH1 ty then Sparse.set q.lastUse 1 c else q.lastUse }))

/-- Verdict of MZERO (R267). -/
def State.mzeroVerdict (s : State) (pm : BitVec 2) : Verdict := s.waitPlanes (planesOf pm.toNat)

/-- MZERO (R278). -/
def execMzero (p : Pred) (pm : BitVec 2) (s : State) : Host.Outcome State Fault Refusal :=
  actM s (s.mzeroVerdict pm) (fun s =>
    if s.me.holds p then s.updPlanes (fun x => (planesOf pm.toNat).foldl Planes.clear x) else s)

/-- Verdict of MRDACC and MADDACC (R267). -/
def State.accVerdict (s : State) (pl : Bool) : Verdict := s.waitPlanes [accNo pl]

/-- Element `j` of an accumulator row. -/
def accElem (r : BitVec 1024) (j : Nat) : Nat := bits r.toNat (32 * j) 32

/-- The line that MRDACC writes (R279). -/
def mrdaccLine (r : Rnd) (tt : Ty) (row : BitVec 1024) (part : Nat) : Line :=
  vline tt (fun e => if 32 * part ≤ e ∧ e < 32 * part + 32 then r.convElem .f32 tt e (accElem row (e - 32 * part)) else 0)

/-- MRDACC: an exposed result at t+4 (R279). -/
def execMrdacc (p : Pred) (tt : Ty) (gl : LineRef) (row : BitVec 6) (pl : Bool) (part : BitVec 6) (s : State) :
    Host.Outcome State Fault Refusal :=
  actM s (s.accVerdict pl) (fun s =>
    if s.me.holds p then
      let v := mrdaccLine s.me.rnd tt (s.me.planes.accRow (accNo pl) row.toNat) part.toNat
      (s.result .m 4 (.line gl) v).updMe (fun c => c.takeRsn 1)
    else s)

/-- MADDACC: the line is read now, the row is written at c + 4 (R266, R280). -/
def execMaddacc (p : Pred) (ty : Ty) (gl : LineRef) (row : BitVec 6) (pl : Bool) (part : BitVec 6) (s : State) :
    Host.Outcome State Fault Refusal :=
  actM s (s.accVerdict pl) (fun s =>
    let c := s.myCore.cycle
    let live := s.me.holds p
    let x := s.me.regs.line gl
    s.updPlanes (fun q =>
      let q := q.busy false (accNo pl) (c + 5)
      if live then { q with hidden := q.hidden ++ [.madd (c + 4) (accNo pl) row.toNat ty part.toNat x] } else q))

/-- MWAITP (R281). -/
def execMwaitp (_p : Pred) (pm : BitVec 4) (s : State) : Host.Outcome State Fault Refusal :=
  actM s (s.mcfgVerdict pm) id

/-- Product of an activation and a weight in the engine (R87, R95). -/
def engineProd (ty : Ty) (x w : Nat) : Num :=
  if ty = .ln6 then
    if lnQ x = -16 ∨ lnQ w = -16 then .fin (bit x 5 != bit w 5) 0 0 else lnValue (bit x 5 != bit w 5) (lnQ x + lnQ w)
  else (decodeNum ty x).mul (decodeNum ty w)

/-- Sum of the previous value and the products of a line and a weight column, rounded once (R95). -/
def passElem (ty : Ty) (prev : Nat) (x w : Line) : Nat :=
  let ps := (List.range ty.elems).map (fun k => engineProd ty (lineElem ty.bits x k) (lineElem ty.bits w k))
  Rnd.ne.float .f32 0 (sumNums false (f32 prev :: ps)) false

/-- The accumulator row whose element j is `f j`. -/
def accRowOf (f : Nat → Nat) : BitVec 1024 :=
  BitVec.ofNat 1024 ((List.range 32).foldl (fun a j => a + (f j % 2 ^ 32) <<< (32 * j)) 0)

/-- The accumulator row that line `m` of a stream writes (R277). -/
def Stream.rowOf (st : Stream) (old : BitVec 1024) (m : Nat) : BitVec 1024 :=
  let x := st.lines.getD m 0
  let lo := st.cb * st.ty.mN
  accRowOf (fun j => if lo ≤ j ∧ j < lo + st.ty.mN then passElem st.ty (accElem old j) x (Sparse.get 0 st.wa (j - lo))
    else accElem old j)

/-- The accumulator row that an MADDACC writes (R280). -/
def maddRow (old : BitVec 1024) (ty : Ty) (part : Nat) (x : Line) : BitVec 1024 :=
  accRowOf (fun j => Rnd.ne.float .f32 0
    (sumNums false [f32 (accElem old j), decodeNum ty (lineElem ty.bits x (32 * part + j))]) false)

/-- Write accumulator row `r` of plane `pl`. -/
def Planes.setAcc (p : Planes) (pl r : Nat) (v : BitVec 1024) : Planes := { p with acc := Sparse.put 0 p.acc (64 * pl + r) v }

/-- The lines of a stream that have entered by core cycle `c` (R266). -/
def Stream.enter (st : Stream) (c : Nat) : Stream :=
  if st.cyc ≤ c then { st with entered := min st.n (c - st.cyc + 1) } else st

/-- The rows a stream has to write by core cycle `c`. -/
def Stream.dueRows (st : Stream) (c : Nat) : Nat :=
  if st.cyc + st.ty.mP ≤ c then min st.n (c - st.cyc - st.ty.mP + 1) else 0

/-- Write the next `k` rows of a stream. -/
def Planes.streamRows (p : Planes) (st : Stream) (k : Nat) : Planes :=
  match k with
  | 0 => p
  | k + 1 =>
    let p := p.streamRows st k
    if st.live then p.setAcc st.pl (st.row + st.written + k)
      (st.rowOf (p.accRow st.pl (st.row + st.written + k)) (st.written + k))
    else p

/-- Streams' accumulator rows due by core cycle `c` (R266, R277). -/
def Planes.advanceStreams (p : Planes) (c : Nat) : Planes :=
  let step (q : Planes × List Stream) (st : Stream) : Planes × List Stream :=
    let k := st.dueRows c - st.written
    let p := q.1.streamRows st k
    let st := { st with written := st.written + k }
    (p, if st.written = st.n then q.2 else q.2 ++ [st])
  let r := p.streams.foldl step (p, [])
  { r.1 with streams := r.2 }

/-- Streams' lines that enter by core cycle `c`. -/
def Planes.enterLines (p : Planes) (c : Nat) : Planes := { p with streams := p.streams.map (fun st => st.enter c) }

/-- Perform a hidden write. -/
def Planes.hide (p : Planes) (h : Hidden) : Planes :=
  match h with
  | .wload _ cols => { p with ws := (number 0 cols).filter (fun x => x.2 != 0) }
  | .madd _ pl row ty part x => p.setAcc pl row (maddRow (p.accRow pl row) ty part x)

/-- Core cycle of a hidden write. -/
def Hidden.cyc : Hidden → Nat
  | .wload c _ => c
  | .madd c .. => c

/-- Whether a hidden write is an MLDW's. -/
def Hidden.isLoad : Hidden → Bool
  | .wload .. => true
  | .madd .. => false

/-- Hidden writes of a kind due by core cycle `c`. -/
def Planes.hideDue (p : Planes) (c : Nat) (load : Bool) : Planes :=
  let now := p.hidden.filter (fun h => decide (h.cyc ≤ c) && h.isLoad == load)
  { now.foldl Planes.hide p with hidden := p.hidden.filter (fun h => !(decide (h.cyc ≤ c) && h.isLoad == load)) }

/-- All hidden effects due by core cycle `c`, in the order of the rules. -/
def Planes.advance (p : Planes) (c : Nat) : Planes :=
  (((p.enterLines c).advanceStreams c).hideDue c true).hideDue c false

/-- A step of the planes of context `evt.n` at its core's cycle, when it changes anything. -/
def State.planeStep (s : State) (f : Planes → Nat → Planes) : Host.Outcome State Fault Refusal :=
  let n := s.evt.n
  let p := (s.ctx n).planes
  let q := f p (s.core (coreOf n)).cycle
  if q = p then .refused .notEnabled else .next (s.updCtx n (fun c => { c with planes := q }))

/-- WEIGHT_BLOCK_LOAD (R266, R275). -/
def execWeightBlockLoad (s : State) : Host.Outcome State Fault Refusal := s.planeStep (fun p c => p.hideDue c true)

/-- ACCUMULATOR_ROW_WRITE (R266, R277). -/
def execAccumulatorRowWrite (s : State) : Host.Outcome State Fault Refusal :=
  s.planeStep (fun p c => p.advanceStreams c)

/-- MADDACC_ROW_WRITE (R266, R280). -/
def execMaddaccRowWrite (s : State) : Host.Outcome State Fault Refusal := s.planeStep (fun p c => p.hideDue c false)

/-- STREAM_LINE_ENTRY (R266). -/
def execStreamLineEntry (s : State) : Host.Outcome State Fault Refusal := s.planeStep (fun p c => p.enterLines c)

end Sys2Proof.Machine
end

