-- ==== Sys2Proof/WellFormed.lean ====
section
/-! DEFINITION. The checks Signet makes on one slot operation at sealing (R128 item 2), as far as an operation's fields
can break them: `Instr.check` answers the refusal code of the first check that fails, in the order field values, types,
directions, ranges. -/

namespace Sys2Proof

/-- The first failing check of a list, in order. -/
def firstFail : List (Bool × SealCode) → Option SealCode
  | [] => none
  | (ok, c) :: r => if ok then firstFail r else some c

/-- The bundle header mark hk that the SY slot word carries is not the reserved 11 (R110). -/
def hkOk (k : BitVec 2) : Bool := decide (k ≠ 3)

/-- A shift or rotate immediate lies in 0 to 63 (R112). -/
def shiftOk (imm : BitVec 32) : Bool := decide (imm.toNat ≤ 63)

/-- The checks of a copy data command: sc (R109, R124), nd (R123), the staging range (R124). -/
def cpyChecks (mask : Bool) (h : CpyHdr) : List (Bool × SealCode) :=
  [ (decide (h.sc.toNat ≤ 4), .rsvField),
    (h.acq || h.rel || decide (h.sc = 0), .rsvField),
    (decide (1 ≤ h.nd.toNat ∧ h.nd.toNat ≤ 6), .rsvField),
    (decide (h.kb.toNat + cpyRegs mask h.nd.toNat ≤ 16), .range) ]

/-- Destination lines D of an XCVT of L lines (R287), with the narrowing check. -/
def xcvtLines (s d : Ty) (l : Nat) : Nat :=
  if s.elems ≤ d.elems then l / (d.elems / s.elems) else (s.elems / d.elems) * l

/-- The last line of a range stays within 63 (R126). -/
def lineRange (r : LineRef) (n : Nat) : Bool := decide (r.idx.toNat + n ≤ 64)

/-- The checks of XCVT (R287). -/
def xcvtChecks (x : Xf) : List (Bool × SealCode) :=
  match x.tf.ty?, x.tt.ty? with
  | some s, some d =>
    let l := x.n.toNat + 1
    [ (decide (l % (d.elems / s.elems) = 0 ∨ d.elems ≤ s.elems), .range),
      (lineRange x.a l, .range), (lineRange x.d (xcvtLines s d l), .range) ]
  | _, _ => [(false, .type)]

/-- The checks of XTRN (R288). -/
def xtrnChecks (x : Xf) : List (Bool × SealCode) :=
  let l := x.n.toNat + 1
  [ (x.tf.ty?.isSome && decide (x.tf = x.tt), .type), (decide (l % 8 = 0), .range),
    (lineRange x.a l, .range), (lineRange x.d l, .range) ]

/-- The formats bs4 packs from and expands to (R290, R291). -/
def bs4Ok : EFmt → Bool
  | .f32 | .f16 | .bf16 | .f8e4 | .f8e5 => true
  | _ => false

/-- Destination lines of XPACK (R290). -/
def xpackLines (tf tt : EFmt) (l : Nat) : Nat :=
  ceilDiv (l * (2048 / tf.bits / 32) * (if tt = .bs4 then 17 else 5)) 256

/-- The checks of XPACK (R290). -/
def xpackChecks (x : Xf) : List (Bool × SealCode) :=
  let l := x.n.toNat + 1
  [ ((decide (x.tt = .bs4) && bs4Ok x.tf) || (decide (x.tt = .sb1) && x.tf.ty?.isSome), .type),
    (lineRange x.a l, .range), (lineRange x.d (xpackLines x.tf x.tt l), .range) ]

/-- Source lines S of XEXP (R291). -/
def xexpLines (tt : EFmt) (d b : Nat) : Nat := ceilDiv (d * (2048 / tt.bits / 32) * b) 256

/-- The checks of XEXP (R291). -/
def xexpChecks (x : Xf) (xr : BitVec 4) : List (Bool × SealCode) :=
  let d := x.n.toNat + 1
  [ (decide (xr.toNat ≤ 3), .rsvField),
    ((decide (x.tf = .bs4) && bs4Ok x.tt) || (decide (x.tf = .sb1) && x.tt.ty?.isSome), .type),
    (lineRange x.d d, .range), (lineRange x.a (xexpLines x.tt d (xrBytes xr.toNat)), .range) ]

/-- An imm8 names an element of the line (R117). -/
def immElem (ty : Ty) (n : BitVec 8) : Bool := decide (n.toNat < ty.elems)

/-- The part range of VCVT (R253). -/
def vcvtPartOk (ty tx : Ty) (p : BitVec 8) : Bool :=
  decide (p.toNat < Nat.max (tx.elems / ty.elems) (ty.elems / tx.elems))

/-- The saturating form is for class I only (R242). -/
def satOk (ty : Ty) (s : Bool) : Bool := !s || ty.isI

/-- Classes F, I and L (R117). -/
def Ty.isFIL (t : Ty) : Bool := t.isF || t.isI || decide (t = .ln6)

/-- The narrow types of STLX (R122). -/
def Ty.isStlx : Ty → Bool
  | .bf16 | .f16 | .f8e4 | .f8e5 | .ln6 => true
  | _ => false

/-- The checks of one operation, in Signet's order. -/
def Instr.checks : Instr → List (Bool × SealCode)
  | .nop k => [(hkOk k, .rsvField)]
  | .wait k f pol _ => [(hkOk k, .rsvField), (decide (f ≠ 0) || !pol, .rsvField)]
  | .arv k _ _ => [(hkOk k, .rsvField)]
  | .bwt k _ _ => [(hkOk k, .rsvField)]
  | .fmt k h v => [(hkOk k, .rsvField), (if h then decide (v = 0) else decide (v.toNat < 16 ∧ v.toNat % 8 ≤ 4), .fmtCode)]
  | .fenceAcq k _ => [(hkOk k, .rsvField)]
  | .fenceRel k _ => [(hkOk k, .rsvField)]
  | .fenceAll k _ => [(hkOk k, .rsvField)]
  | .join k n => [(hkOk k, .rsvField), (decide (n ≠ 0), .rsvField)]
  | .leave k n => [(hkOk k, .rsvField), (decide (n ≠ 0), .rsvField)]
  | .yield k => [(hkOk k, .rsvField)]
  | .hndl k => [(hkOk k, .rsvField)]
  | .shlImm _ _ _ i => [(shiftOk i, .rsvField)]
  | .shrImm _ _ _ i => [(shiftOk i, .rsvField)]
  | .sarImm _ _ _ i => [(shiftOk i, .rsvField)]
  | .rotImm _ _ _ i => [(shiftOk i, .rsvField)]
  | .acmp _ _ _ _ c => [(c.forAcmp, .rsvField)]
  | .amov _ x d a =>
    [ (decide (x.toNat ≤ 2), .rsvField), (decide (x.toNat = 2 ∨ d.toNat < 32), .rsvField),
      (decide (x.toNat = 1 ∨ a.toNat < 32), .rsvField) ]
  | .loop _ lc im a _ cnt =>
    [ (decide (lc.toNat ≤ 5), .rsvField), (if im then decide (a = 0) else decide (cnt = 0), .rsvField) ]
  | .prioSelf _ _ i => [(decide (i.toNat ≤ 7), .rsvField)]
  | .prioTask _ _ _ i => [(decide (i.toNat ≤ 7), .rsvField)]
  | .qlvl _ _ _ i => [(decide (i.toNat ≤ 2), .rsvField)]
  | .vadd _ _ ty _ _ _ s => [(satOk ty s, .rsvField), (ty.isFIL, .type)]
  | .vsub _ _ ty _ _ _ s => [(satOk ty s, .rsvField), (ty.isFIL, .type)]
  | .vmul _ _ ty _ _ _ s => [(satOk ty s, .rsvField), (ty.isFIL, .type)]
  | .vfma _ _ ty _ _ _ _ => [(ty.isF, .type)]
  | .vfms _ _ ty _ _ _ _ => [(ty.isF, .type)]
  | .vmin _ _ ty _ _ _ => [(ty.isF || ty.isI, .type)]
  | .vmax _ _ ty _ _ _ => [(ty.isF || ty.isI, .type)]
  | .vabs _ _ ty _ _ => [(ty.isF || ty.isI, .type)]
  | .vneg _ _ ty _ _ => [(ty.isF || ty.isI, .type)]
  | .vclamp _ _ ty _ _ _ _ => [(ty.isF || ty.isI, .type)]
  | .vmulh _ _ ty _ _ _ => [(ty.isI, .type)]
  | .vrcp _ _ ty _ _ => [(ty.isF, .type)]
  | .vrsq _ _ ty _ _ => [(ty.isF, .type)]
  | .vexp2 _ _ ty _ _ => [(ty.isF, .type)]
  | .vlog2 _ _ ty _ _ => [(ty.isF, .type)]
  | .vsqrt _ _ ty _ _ => [(ty.isF, .type)]
  | .vcvt _ _ ty tx _ _ p => [(vcvtPartOk ty tx p, .range)]
  | .vq8 _ _ ty _ _ _ => [(decide (ty = .f32 ∨ ty = .bf16), .type)]
  | .vdq8 _ _ ty _ _ _ _ => [(decide (ty = .f32 ∨ ty = .bf16), .type)]
  | .vand _ _ ty _ _ _ => [(ty.isI, .type)]
  | .vor _ _ ty _ _ _ => [(ty.isI, .type)]
  | .vxor _ _ ty _ _ _ => [(ty.isI, .type)]
  | .vnot _ _ ty _ _ => [(ty.isI, .type)]
  | .vshl _ _ ty _ _ n => [(ty.isI, .type), (decide (n.toNat < ty.bits), .range)]
  | .vshr _ _ ty _ _ n => [(ty.isI, .type), (decide (n.toNat < ty.bits), .range)]
  | .vsar _ _ ty _ _ n => [(ty.isI, .type), (decide (n.toNat < ty.bits), .range)]
  | .vpopc _ _ ty _ _ => [(ty.isI, .type)]
  | .vclz _ _ ty _ _ => [(ty.isI, .type)]
  | .vcmp _ _ ty c _ _ _ => [(c.forVcmp, .rsvField), (ty.isF || ty.isI, .type)]
  | .vbcast _ _ ty _ _ n => [(immElem ty n, .range)]
  | .viota _ _ ty _ n => [(ty.isI, .type), (immElem ty n, .range)]
  | .vrot _ _ ty _ _ n => [(immElem ty n, .range)]
  | .vredsum _ _ ty _ _ => [(ty.isF || ty.isI, .type)]
  | .vredmax _ _ ty _ _ => [(ty.isF || ty.isI, .type)]
  | .vredmin _ _ ty _ _ => [(ty.isF || ty.isI, .type)]
  | .vamax _ _ ty _ _ => [(ty.isF || ty.isF8 || decide (ty = .ln6), .type)]
  | .mcfg _ ty pm => [(ty.isM, .type), (decide (pm ≠ 0), .range)]
  | .mldw _ ty gl => [(ty.isM, .type), (lineRange gl ty.mN, .range)]
  | .mstrm _ ty gl n _ cb arow _ =>
    [ (ty.isM, .type), (lineRange gl (n.toNat + 1), .range), (decide (arow.toNat + n.toNat ≤ 63), .range),
      (decide (cb.toNat * ty.mN ≤ 31), .range) ]
  | .mzero _ pm => [(decide (pm ≠ 0), .range)]
  | .mrdacc _ tt _ _ _ part => [(decide (part.toNat < tt.elems / 32), .range)]
  | .maddacc _ ty _ _ _ part => [(ty.isM, .type), (decide (part.toNat < ty.elems / 32), .range)]
  | .mwaitp _ pm => [(decide (pm ≠ 0), .range)]
  | .amoAdd _ m => [(!m.u, .rsvField)]
  | .amoAnd _ m => [(!m.u, .rsvField)]
  | .amoOr _ m => [(!m.u, .rsvField)]
  | .amoXch _ m => [(!m.u, .rsvField)]
  | .amoCas _ m => [(!m.u, .rsvField)]
  | .amoFadd _ m => [(!m.u, .rsvField), (!m.wide, .rsvField)]
  | .stlx _ tt _ _ _ _ _ => [(tt.isStlx, .type)]
  | .tlwr _ tt mx _ _ _ => [(decide (tt ≠ .f32 ∨ mx = 0), .rsvField), (tt.isStlx || decide (tt = .f32), .type)]
  | .cpy _ h => cpyChecks false h
  | .cred _ h => cpyChecks false h
  | .cmc _ h => cpyChecks true h
  | .cgat _ h => cpyChecks true h
  | .xcvt _ x => xcvtChecks x
  | .xtrn _ x => xtrnChecks x
  | .xexp _ x xr => xexpChecks x xr
  | .xpack _ x => xpackChecks x
  | .apxb _ _ len => [(decide (len ≠ 0), .range)]
  | .apxe p _ => [(decide (p = Pred.always), .rsvField)]
  | .ftcfg _ _ zb => [(decide (zb.toNat ≤ 6), .range)]
  | .ftcfgNew _ _ zb => [(decide (zb.toNat ≤ 6), .range)]
  | .ftstep _ _ zb _ => [(decide (zb.toNat ≤ 6), .range)]
  | .ftsamp _ _ zb _ => [(decide (zb.toNat ≤ 6), .range)]
  | .ftst _ _ mask _ => [(decide (mask ≠ 0), .rsvField)]
  | _ => []

/-- The refusal code of an operation's first failing check, if any. -/
def Instr.check (i : Instr) : Option SealCode := firstFail i.checks

/-- An operation passes Signet's slot checks. -/
def Instr.wf (i : Instr) : Bool := i.check.isNone

end Sys2Proof
end

