-- ==== Sys2Proof/Machine/Transform.lean ====
section
/-! DEFINITION. The transform unit (R283 to R292): XCVT, XTRN, XEXP, XPACK and their beats. -/

namespace Sys2Proof.Machine

/-- The element type of the source lines, where the format is no stash. -/
def Xform.src (x : Xform) : Ty := (x.x.tf.ty?).getD .f32

/-- The element type of the destination lines. -/
def Xform.dst (x : Xform) : Ty := (x.x.tt.ty?).getD .f32

/-- Count of the assembly operand (R284). -/
def Xform.count (x : Xform) : Nat := x.x.n.toNat + 1

/-- Beats of an operation (R284): XCVT widening takes r beats a source line. -/
def Xform.beats (x : Xform) : Nat :=
  if x.op = 1 then x.count * max 1 (x.src.elems / x.dst.elems) else x.count

/-- Context time after the last beat. -/
def Xform.idle (x : Xform) : Nat := x.t0 + x.beats

/-- Destination lines of an XPACK (R290). -/
def Xform.packLines (x : Xform) : Nat :=
  ceilDiv (x.count * (x.src.elems / 32) * (if x.x.tt = .bs4 then 17 else 5)) 256

/-- Context time of the last destination write of an operation that runs to its end (R287 to R291). -/
def Xform.last (x : Xform) : Nat :=
  match x.op.toNat with
  | 1 => x.t0 + 2 + x.beats
  | 2 => x.t0 + 7 + x.count
  | 3 => x.t0 + 4 + x.count
  | _ => x.t0 + x.count + 3 + x.packLines

/-- Rounding of a transform operation: fmt and rsn as taken at issue, destination line `i` (R286, R287). -/
def Xform.rnd (x : Xform) (c : Ctx) (i : Nat) : Rnd :=
  { mode := fmtMode x.fmt, ftz := fmtFtz x.fmt, seed := c.seed, rank := c.rank64, ref := c.seed,
    base := (x.rsn + BitVec.ofNat 64 i) * 256 }

/-- The operation reads source line `j` at its beat `b` (R287, R288, R290, R291). -/
def Xform.reads (x : Xform) (b : Nat) : List Nat :=
  match x.op.toNat with
  | 1 => let r := max 1 (x.src.elems / x.dst.elems)
         if b % r = 0 then [b / r] else []
  | 3 =>
    let w := x.dst.elems / 32 * xrBytes x.xr.toNat
    let s := ceilDiv (x.count * w) 256
    (List.range s).filter (fun j => 256 * j / w = b)
  | _ => [b]

/-- A held source line. -/
def Xform.line (x : Xform) (j : Nat) : Line := Sparse.get 0 x.held j

/-- Destination line `i` of an XCVT (R287). -/
def Xform.cvtLine (x : Xform) (c : Ctx) (i : Nat) : Line :=
  let s := x.src
  let d := x.dst
  let r := x.rnd c i
  vline d (fun e =>
    if d.elems ≤ s.elems then
      let k := s.elems / d.elems
      r.convElem s d e (lineElem s.bits (x.line (i / k)) (i % k * d.elems + e))
    else
      let k := d.elems / s.elems
      r.convElem s d e (lineElem s.bits (x.line (k * i + e / s.elems)) (e % s.elems)))

/-- Destination line `8g + j` of an XTRN (R288). -/
def Xform.trnLine (x : Xform) (g j : Nat) : Line :=
  let s := x.src
  vline s (fun e => lineElem s.bits (x.line (8 * g + e % 8)) (8 * (e / 8) + j))

/-- Bytes of a bs4 record (R289 to R291): header and 16 code bytes. -/
def packBs4 (xs : List Num) : List Byte :=
  if xs.any (fun x => x.isNan || x.isInf true || x.isInf false) then [0xFF]
  else if xs.all (fun x => x.isZero true || x.isZero false) then [0]
  else
    let m := (xs.filter (fun x => !(x.isZero true || x.isZero false))).map Num.log2
    let e := sat (m.foldl max (m.headD 0) - 2 + 127) 0 254
    if e ≤ 0 then [0]
    else
      let codes := xs.map (fun x => toBs4 (x.scale (127 - e)))
      BitVec.ofInt 8 e :: (List.range 16).map (fun k => BitVec.ofNat 8 (codes.getD (2 * k) 0 + 16 * codes.getD (2 * k + 1) 0))

/-- Greater than +0 (R93). -/
def Num.positive : Num → Bool
  | .fin s n _ => !s && n != 0
  | .inf s => !s
  | .nan => false

/-- Bytes of an sb1 record, the shortest that holds (R289, R290). -/
def packSb1 (xs : List Num) : List Byte :=
  if xs.all (fun x => !x.positive) then [0]
  else if xs.all Num.positive then [1]
  else 2 :: toBytes 4 ((number 0 xs).foldl (fun a p => a + (b2n p.2.positive) <<< p.1) 0)

/-- The stash stream of an XPACK (R290). -/
def Xform.stream (x : Xform) : List Byte :=
  let t := x.src
  let ftz := fmtFtz x.fmt
  (List.range x.count).flatMap (fun j =>
    (List.range (t.elems / 32)).flatMap (fun q =>
      let xs := (List.range 32).map (fun k => elemNum t ftz (x.line j) (32 * q + k))
      if x.x.tt = .bs4 then packBs4 xs else packSb1 xs))

/-- Length of a record from its header; none for a reserved header (R289). -/
def recordLen (bs4 : Bool) (h : Nat) : Option Nat :=
  if bs4 then some (if h = 0 ∨ h = 255 then 1 else 17)
  else match h with | 0 | 1 => some 1 | 2 => some 5 | _ => none

/-- Byte `y` of the source window (R289). -/
def Xform.byte (x : Xform) (y : Nat) : Nat := bits (x.line (y / 256)).toNat (8 * (y % 256)) 8

/-- Start of block `k` of the stream, blocks checked against the limit from the start; none when an earlier block or
this one is a decode error (R292). -/
def Xform.blockAt (x : Xform) (k : Nat) : Option Nat :=
  match k with
  | 0 => some 0
  | k + 1 =>
    match x.blockAt k with
    | some y =>
      match recordLen (decide (x.x.tf = .bs4)) (x.byte y) with
      | some l => if l ≤ xrBytes x.xr.toNat then some (y + l) else none
      | none => none
    | none => none

/-- The pattern of one element of the record that starts at byte `y` (R289, R291). -/
def Xform.blockElem (x : Xform) (y e : Nat) : Nat :=
  let t := x.dst
  let h := x.byte y
  if x.x.tf = .bs4 then
    if h = 0 then 0
    else if h = 255 then t.nan
    else
      let code := bits (x.byte (y + 1 + e / 2)) (4 * (e % 2)) 4
      ({ Rnd.ne with ftz := fmtFtz x.fmt } : Rnd).float t 0 ((bs4Value code).scale ((h : Int) - 127)) false
  else
    let one := match h with | 0 => false | 1 => true | _ => bit (x.byte (y + 1 + e / 8)) (e % 8)
    if t.isI then b2n one
    else if t = .ln6 then (if one then 0x00 else 0x10)
    else if one then Rnd.ne.float t 0 (.fin false 1 0) false else 0

/-- Destination line `i` of an XEXP; none when one of its blocks, or an earlier one, is a decode error (R291, R292). -/
def Xform.expLine (x : Xform) (i : Nat) : Option Line :=
  let b := x.dst.elems / 32
  match x.blockAt (b * (i + 1)) with
  | none => none
  | some _ =>
    let starts := (List.range b).map (fun k => (x.blockAt (b * i + k)).getD 0)
    some (vline x.dst (fun e => x.blockElem (starts.getD (e / 32) 0) (e % 32)))

/-- An exposed write of a transform operation at context time `due`. -/
def Xform.out (x : Xform) (due : Nat) (d : Dest) (v : Line) : Pend :=
  { due := due, ord := x.ord, slot := .e1, dest := d, val := v }

/-- A flag write, when the operation names a flag (R284). -/
def Xform.flagOut (x : Xform) (due : Nat) (v : Bool) : List Pend :=
  if x.x.fl = 0 then [] else [x.out due (.f x.x.fl) (if v then 1 else 0)]

/-- A destination line write. -/
def Xform.lineOut (x : Xform) (due i : Nat) (v : Line) : Pend := x.out due (.line (x.x.d.plus i)) v

/-- xst as an XPACK of a stream of `n` bytes leaves it (R285, R290). -/
def xstPack (old : W64) (n : Nat) : W64 := (old &&& ~~~0xFFFFFF) ||| BitVec.ofNat 64 (n % 2 ^ 24)

/-- xst as an XEXP leaves it (R285, R292). -/
def xstExp (old : W64) (lines : Nat) (err : Bool) : W64 :=
  (old &&& 0x7FFFFF80FFFFFFFF) ||| BitVec.ofNat 64 (lines <<< 32 + b2n err <<< 63)

/-- What beat `b` of an operation at context time `t` sends on its way, with its lines held (R284, R287 to R292). -/
def Xform.emit (x : Xform) (c : Ctx) (b t : Nat) : Xform × List Pend :=
  match x.op.toNat with
  | 1 =>
    let r := x.dst.elems / x.src.elems
    if r ≤ 1 then (x, [x.lineOut (t + 3) b (x.cvtLine c b)])
    else if b % r + 1 = r then (x, [x.lineOut (t + 3) (b / r) (x.cvtLine c (b / r))]) else (x, [])
  | 2 =>
    if b % 8 = 7 then (x, (List.range 8).map (fun j => x.lineOut (t + 1 + j) (b - 7 + j) (x.trnLine (b / 8) j)))
    else (x, [])
  | 3 =>
    if x.err then (x, [])
    else
      match x.expLine b with
      | some v =>
        let x := { x with done := x.done + 1 }
        if b + 1 = x.count then
          ({ x with fin := some (t + 5, BitVec.ofNat 64 x.done) }, x.lineOut (t + 5) b v :: x.flagOut (t + 5) true)
        else (x, [x.lineOut (t + 5) b v])
      | none =>
        let x := { x with err := true, fin := some (t + 5, BitVec.ofNat 64 x.done) }
        (x, x.flagOut (t + 5) true)
  | _ =>
    if b + 1 = x.count then
      let bs := x.stream
      let ps := (List.range x.packLines).map (fun i => x.lineOut (t + 5 + i) i (lineOfBytes ((bs.drop (256 * i)).take 256)))
      ({ x with fin := some (x.last, BitVec.ofNat 64 bs.length) }, ps)
    else (x, [])

/-- Run the beat of context time `t`: read source lines, send destination lines and flags on their way. A false
operation occupies its beats only (R286). -/
def Xform.run (x : Xform) (c : Ctx) (t : Nat) : Xform × List Pend :=
  if t < x.t0 + x.beat ∨ x.idle ≤ t ∨ !x.live then (x, [])
  else
    let b := t - x.t0
    let x := { x with
      beat := b + 1
      held := (x.reads b).foldl (fun h j => Sparse.set h j (c.regs.line (x.x.a.plus j))) x.held }
    let fl := if b = 0 then x.flagOut (t + 1) false ++ (if x.op = 3 then [] else x.flagOut x.last true) else []
    let (x, ps) := x.emit c b t
    (x, fl ++ ps)

/-- Run every operation's beat of context time `t`, the earliest operation first. -/
def Ctx.beats (c : Ctx) (t : Nat) : Ctx :=
  let step (q : List Xform × List Pend) (x : Xform) : List Xform × List Pend :=
    let r := x.run c t
    (q.1 ++ [r.1], q.2 ++ r.2)
  let r := c.sched.xforms.foldl step ([], [])
  { c with sched := { c.sched with xforms := r.1, pend := c.sched.pend ++ r.2 } }

/-- The closing write of xst that has fallen due by context time `t` (R285). -/
def Xform.close (x : Xform) (t : Nat) (xst : W64) : W64 :=
  match x.fin with
  | some (d, v) => if d ≤ t then (if x.op = 3 then xstExp xst v.toNat x.err else xstPack xst v.toNat) else xst
  | none => xst

/-- An operation whose beats have run and whose xst write is done. -/
def Xform.done? (x : Xform) (t : Nat) : Bool :=
  decide (x.idle ≤ t) && (match x.fin with | some (d, _) => decide (d ≤ t) | none => true)

/-- Close operations at context time `t`: xst is written in the cycle of the flag write (R285). -/
def Ctx.closeXforms (c : Ctx) (t : Nat) : Ctx :=
  { c with
    regs := { c.regs with xst := c.sched.xforms.foldl (fun v x => x.close t v) c.regs.xst }
    sched := { c.sched with xforms := (c.sched.xforms.filter (fun x => !x.done? t)).map (fun x =>
      match x.fin with
      | some (d, _) => if d ≤ t then { x with fin := none } else x
      | none => x) } }

/-- The time origin of an operation that issues now (R283). -/
def Ctx.origin (c : Ctx) : Nat := c.sched.xforms.foldl (fun t x => max t x.idle) c.sched.time

/-- Issue a transform operation; under a false predicate it occupies its beats (R286). XCVT takes an rsn value for each
destination line (R287). -/
def State.xform (s : State) (p : Pred) (op : BitVec 4) (xf : Xf) (xr : BitVec 4) (rsn : Nat) :
    Host.Outcome State Fault Refusal :=
  let live := s.me.holds p
  .next (s.updMe (fun c =>
    let x : Xform := { t0 := c.origin, ord := c.sched.ord + Slot.num .e1, op := op, x := xf, xr := xr,
                       fmt := c.regs.fmt, rsn := c.regs.rsn, live := live, beat := 0, held := [], done := 0, err := false,
                       fin := none }
    let c := if live then c.takeRsn rsn else c
    { c with sched := { c.sched with xforms := c.sched.xforms ++ [x] } }))

/-- Destination lines of an XCVT, each of which takes an rsn value, whatever its types (R81, R287). -/
def xcvtRsn (x : Xf) : Nat :=
  match x.tf.ty?, x.tt.ty? with
  | some t, some u => xcvtLines t u (x.n.toNat + 1)
  | _, _ => 0

/-- XCVT (R287). -/
def execXcvt (p : Pred) (x : Xf) (s : State) : Host.Outcome State Fault Refusal := s.xform p 1 x 0 (xcvtRsn x)

/-- XTRN (R288). -/
def execXtrn (p : Pred) (x : Xf) (s : State) : Host.Outcome State Fault Refusal := s.xform p 2 x 0 0

/-- XEXP (R291). -/
def execXexp (p : Pred) (x : Xf) (xr : BitVec 4) (s : State) : Host.Outcome State Fault Refusal := s.xform p 3 x xr 0

/-- XPACK (R290). -/
def execXpack (p : Pred) (x : Xf) (s : State) : Host.Outcome State Fault Refusal := s.xform p 4 x 0 0

/-- Everything due in context `n` by context time `t`, before the cycle's reads: results, landings, closing writes (R197, R283). -/
def State.settleAll (s : State) (n t : Nat) : State := (s.settle n t).updCtx n (fun c => c.closeXforms t)

/-- TRANSFORM_BEAT: the unit of context `evt.n` runs the beats that stand at its context time, once everything due then has been
written (R283, R284). -/
def execTransformBeat (s : State) : Host.Outcome State Fault Refusal :=
  let n := s.evt.n
  let q := (s.ctx n).sched
  let t := q.time
  if q.xforms.any (fun x => x.live && decide (x.t0 ≤ t ∧ t < x.idle) && decide (x.t0 + x.beat = t)) &&
      q.latches.all (fun l => decide (t < l.due) || l.stat == .arrived && l.pad == 0) then
    .next ((s.settleAll n t).updCtx n (fun c => c.beats t))
  else .refused .notEnabled

end Sys2Proof.Machine
end

