-- ==== Sys2Proof/Machine/Drain.lean ====
section
/-! DEFINITION. Draining a context at a yield point (R213): the results and landings of its bundles reach their
destinations in the order of their context times, though the context issues nothing. -/

namespace Sys2Proof.Machine

/-- The least number of a list. -/
def least? (l : List Nat) : Option Nat :=
  match l with
  | [] => none
  | x :: r => match least? r with | none => some x | some y => some (min x y)

/-- A latch whose data can be written at its landing cycle, in core cycle `cyc`: it is there, and the time that level 2 pads the access
to has passed (R205, R209). -/
def Latch.there (cyc : Nat) (l : Latch) : Bool :=
  l.stat == .arrived && decide (l.ready ≤ cyc) && (l.pad == 0 || decide (l.born + l.worst ≤ cyc))

/-- The context time from which nothing may be written yet: the landing cycle of the first latch still waiting. -/
def Sched.barrier (q : Sched) (cyc : Nat) : Option Nat := least? ((q.latches.filter (fun l => !l.there cyc)).map Latch.due)

/-- The next context time, not before `t`, at which a schedule has something to do. -/
def Sched.nextDue (q : Sched) (cyc t : Nat) : Option Nat :=
  least? ((q.pend.map Pend.due ++ (q.latches.filter (Latch.there cyc)).map Latch.due ++
    q.xforms.flatMap (fun (x : Xform) => (if t < x.idle then [max t (x.t0 + x.beat)] else []) ++
      (match x.fin with | some (d, _) => [d] | none => []))).map (max t) ++
    (q.stores.map OwnStore.due).filter (fun d => t ≤ d))

/-- One context time of a drain: results and landings, closing writes, transform beats, own stores to windows. -/
def State.drainAt (s : State) (n t : Nat) : State :=
  let s := s.updCtx n (fun c => { c with sched := { c.sched with
    latches := c.sched.latches.map (fun l => if l.due ≤ t then { l with pad := 0 } else l) } })
  ((s.settleAll n t).updCtx n (fun c => c.beats t)).settleWindows n t

/-- Drain context `n` from context time `t` on, up to the first landing still waited for (R213); `fuel` bounds the number
of context times at which something happens. -/
def State.drainFrom (s : State) (n t fuel : Nat) : State :=
  match fuel with
  | 0 => s
  | fuel + 1 =>
    let q := (s.ctx n).sched
    let cyc := (s.core (coreOf n)).cycle
    match q.nextDue cyc t with
    | none => s
    | some u =>
      match q.barrier cyc with
      | some b => if b ≤ u then s else (s.drainAt n u).drainFrom n (u + 1) fuel
      | none => (s.drainAt n u).drainFrom n (u + 1) fuel

/-- Drain context `n` as far as its arrived data allows. Results that are there are written at once: a drain takes core cycles only
while a landing is waited for (log entry 89). -/
def State.drain (s : State) (n : Nat) : State :=
  let t := (s.ctx n).sched.time
  let s := if (s.ctx n).sched.stores.any (fun o => o.due < t) then (s.settle n (t - 1)).settleWindows n (t - 1) else s
  s.drainFrom n t 8192

/-- Nothing of the context's schedule is in flight (R213). -/
def Ctx.drained (c : Ctx) : Bool :=
  c.sched.pend.isEmpty && c.sched.latches.isEmpty && c.sched.stores.isEmpty && c.sched.xforms.isEmpty

/-- The context time of the last thing a drain without waiting landings does. -/
def Sched.lastDue (q : Sched) (t : Nat) : Nat :=
  (q.pend.map Pend.due ++ q.stores.map OwnStore.due ++ q.latches.map Latch.due ++
    q.xforms.flatMap (fun (x : Xform) => [x.idle, x.last])).foldl max t

/-- The planes of a core's contexts, and the lines that results have written, as a cycle of the core begins (R181, R266). -/
def State.planeCycle (s : State) (core : Nat) : State :=
  let cyc := (s.core core).cycle
  ([0, 1, 2, 3].map (fun i => 4 * core + i)).foldl (fun s n =>
    match Sparse.find? s.ctxs n with
    | none => s
    | some c => s.setCtx n { c with
        planes := c.planes.advance cyc, sched := { c.sched with wrote := c.sched.wrote.filter (fun x => cyc ≤ x.1) } }) s

end Sys2Proof.Machine
end

