-- ==== Sys2Proof/Machine/Ports.lean ====
section
/-! DEFINITION. What happens to off-core requests away from their context: page walks (R186 to R195), performing at the
memory ports (R348, R351 to R353), windows (R181), acknowledgements, the arrival of data in latches and in parked frame
records (R206, R409), wakes (R390). -/

namespace Sys2Proof.Machine

/-! ### Page walks -/

/-- Size in bits of a page at a level (R186). -/
def pageBits : Nat → Nat
  | 1 => 30 | 2 => 24 | _ => 16

/-- Byte offset of an entry in its table (R186). -/
def tableIndex (level off : Nat) : Nat :=
  match level with
  | 1 => 8 * bits off 30 18
  | 2 => 8 * bits off 24 6
  | _ => 8 * bits off 16 8

/-- A range of R179 that is reserved, whatever the reserved offsets of a core's window (R179, R180). -/
def noPlace (pa : Nat) : Bool := inHole pa && (windowCore pa).isNone

/-- The entry that a leaf gives, or its format fault (R187). -/
def leafEntry (home off level w : Nat) : Except Nat TlbEntry :=
  let frame := bits w 11 35 <<< 11
  let kind? : Option OrdKind := match bits w 4 2 with | 0 => some .s | 1 => some .o | 2 => some .n | _ => none
  match kind? with
  | none => .error cPTEFMT
  | some k =>
    if frame % 2 ^ pageBits level != 0 || noPlace frame then .error cPTEFMT
    else .ok { home := home, page := off >>> pageBits level, size := pageBits level, frame := frame, r := bit w 2,
               w := bit w 3, kind := k, d := bit w 6, pn := bit w 7 }

/-- Walk from the table at `table` of level `level`, with `n` levels left: the entry, and the address of its PTE
(R186, R187). -/
def State.walkFrom (s : State) (home off level table n : Nat) : Except Nat (TlbEntry × Nat) :=
  match n with
  | 0 => .error cPTEFMT
  | n + 1 =>
    let a := table + tableIndex level off
    let w := s.readNat a 8
    if !bit w 0 then .error cXNV
    else if bits w 8 3 != 0 || bits w 46 18 != 0 then .error cPTEFMT
    else if bit w 1 then (leafEntry home off level w).map (fun e => (e, a))
    else if bits w 2 6 != 0 || bits w 44 2 != home % 4 || level == 3 then .error cPTEFMT
    else s.walkFrom home off (level + 1) (bits w 11 35 <<< 11) n

/-- Walk the page table of a home of this package; a write through a leaf sets its d bit in memory (R186, R188). -/
def State.walk (s : State) (home off : Nat) (wr : Bool) : Except Nat TlbEntry × State :=
  let root := (s.die (home % 4)).root.toNat
  if !bit root 63 then (.error cXNV, s)
  else
    match s.walkFrom home off 1 (root % 2 ^ 46) 3 with
    | .error c => (.error c, s)
    | .ok (e, a) =>
      if wr && e.w && !e.d then
        (.ok { e with d := true }, s.writeMem a (toBytes 8 (s.readNat a 8 ||| 0x40)))
      else (.ok e, s)

/-- Load a translation into a core's micro-TLB and its die's TLB (R191). -/
def State.loadTlb (s : State) (core : Nat) (e : TlbEntry) : State :=
  (s.updDie (dieOf core) (fun d => { d with tlb := loadDie d.tlb e })).updCore core (fun c =>
    { c with utlb := loadMicro c.utlb e })

/-- Level-2 padding and completion bound of a request whose translation is known; a walk's time comes before both (R209,
R361). -/
def State.settleBound (s : State) (n : Nat) (r : Req) : State :=
  let c := s.ctx n
  if c.level = 2 ∧ r.near then
    (s.updReq n r.id (fun r => { r with bound := some (r.t + r.worst n) })).updLatch n r.id (fun l =>
      { l with pad := padOf 2 (r.worst n) l.dist, born := (s.core (coreOf n)).cycle, worst := r.worst n })
  else s

/-- A piece waits for the translation of an offset's page. -/
def Piece.waitsFor (p : Piece) (off : Nat) : Bool := p.pa.isNone && p.bad.isNone && p.off >>> 16 == off >>> 16

/-- A request waits for a translation of an offset's page. -/
def Req.waitsFor (r : Req) (home off : Nat) : Bool :=
  r.fault.isNone && addrHome r.base == home && r.pieces.any (fun p => p.waitsFor off)

/-- The requests of context `n` that wait for a page are translated again; where the walk met a fault, their pieces of the page
have it (R190, R192, R195). -/
def State.afterWalk (s : State) (home off : Nat) (res : Except Nat TlbEntry) (n : Nat) : State :=
  ((s.ctx n).mem.reqs.filter (fun r => r.waitsFor home off)).foldl (fun s r =>
    let r := match res with
      | .error c => { r with pieces := r.pieces.map (fun p => if p.waitsFor off then { p with bad := some c } else p) }
      | .ok _ => r
    let (r, s) := s.translateReq n r
    (s.updReq n r.id (fun _ => r)).settleBound n r) s

/-- The page that SYSWR 0x040 of context `n` asked for has been walked (R193). -/
def State.preloaded (s : State) (home off n : Nat) : State :=
  match (s.ctx n).mem.preload with
  | some (a, _) =>
    if bits a.toNat 48 16 = home ∧ a.toNat % 2 ^ 48 / 0x10000 = off / 0x10000 then
      s.updCtx n (fun c => { c with mem := { c.mem with preload := some (a, true) } })
    else s
  | none => s

/-- The result of a walk reaches a core: its TLBs, the requests that wait, a page asked for ahead (R191 to R195). -/
def State.walked (s : State) (core home off : Nat) (res : Except Nat TlbEntry) : State :=
  let s := match res with | .ok e => s.loadTlb core e | .error _ => s
  ([0, 1, 2, 3].map (fun i => 4 * core + i)).foldl (fun s n => (s.afterWalk home off res n).preloaded home off n) s

/-- A PTE that says what a translation says, and the size of its page (log entry 5). -/
def TlbEntry.pte (e : TlbEntry) : List Byte :=
  let k := match e.kind with | .s => 0 | .o => 1 | .n => 2
  toBytes 8 (3 + b2n e.r <<< 2 + b2n e.w <<< 3 + k <<< 4 + b2n e.d <<< 6 + b2n e.pn <<< 7 + e.frame) ++ toBytes 1 e.size

/-- One walk request: its page is walked for it; its core is served, or the result returns in class RSP (R192). -/
def State.serveWalk (s : State) (w : Walk) : State :=
  let (res, s) := s.walk w.home w.off w.write
  if w.pkg = s.pkg then s.walked w.core w.home w.off res
  else
    let a : W64 := BitVec.ofNat 64 (w.home <<< 48 + w.off)
    match res with
    | .ok e => s.inject (w.home % 4) w.pkg (dieOf w.core) 2 7 false a w.tag e.pte
    | .error c =>
      s.inject (w.home % 4) w.pkg (dieOf w.core) 2 7 false a (w.tag ||| 0x0800000000000000) (toBytes 1 c ++ toBytes 8 a.toNat)

/-- Requests of a context whose walk requests found no entry of a queue ask again (R192). -/
def State.askWalks (s : State) (n : Nat) : State :=
  (s.ctx n).mem.reqs.foldl (fun s r =>
    if r.fault.isNone && r.pieces.any (fun p => p.pa.isNone && p.bad.isNone) then
      let (r, s) := s.translateReq n r
      s.updReq n r.id (fun _ => r)
    else s) s

/-- PAGE_WALK: a walker of die `evt.n` ends the walk of the page that stands at place `evt.m` among those in flight, for every request
that joined it; walkers take the next requests (R192). -/
def execPageWalk (s : State) : Host.Outcome State Fault Refusal :=
  let d := s.evt.n
  match (walkPages (s.die d).walking)[s.evt.m]? with
  | none => .refused .notEnabled
  | some w =>
    let l := (s.die d).walking.filter w.same
    let full := decide (1024 ≤ (s.die d).walks.length)
    let s := s.updDie d (fun x => ({ x with walking := x.walking.filter (fun y => !w.same y) } : Die).takeWalks 32)
    let s := l.foldl State.serveWalk s
    .next (if full then (s.ctxs.map Prod.fst).foldl State.askWalks s else s)

/-- Translate an offset for an engine of context `n`, with a walk when no TLB holds it (R191, R192, R195). -/
def State.translateNow (s : State) (n home off : Nat) (rd wr : Bool) : Trans × State :=
  match s.locate n home off rd wr with
  | (.miss, s) =>
    match s.walk home off wr with
    | (.error c, s) => (.fault c, s)
    | (.ok e, s) => (s.loadTlb (coreOf n) e).locate n home off rd wr
  | x => x

/-! ### Performing -/

/-- Request `id` of context `n`. -/
def State.req? (s : State) (n id : Nat) : Option Req := (s.ctx n).mem.reqs.find? (fun r => r.id == id)

/-- A bank of the own scratchpad that a copy command issued before the request has reserved still holds it (R340). -/
def State.bankHeld (s : State) (n : Nat) (r : Req) (a : Nat) : Bool :=
  match bankOf a with
  | none => false
  | some b => (s.reservations (coreOf n)).any (fun x => x.2.hdr.banks.getLsbD b && (x.1 != n || decide (x.2.ord < r.ord)))

/-- Piece `k` of a request, when it may be performed now: the whole access is translated (R190), no fault stops it, nothing orders
it later; in the own scratchpad by the timing of R319. -/
def State.readyPiece (s : State) (n : Nat) (r : Req) (k : Nat) : Option (Piece × Nat) :=
  match r.pieces[k]? with
  | none => none
  | some p =>
    match p.pa with
    | none => none
    | some a =>
      let c := s.ctx n
      let own := (match r.op with | .load _ | .store | .puth => true | _ => false) && windowCore a == some (coreOf n) &&
        (bankOf a).isSome
      let turn := if own then c.ownTurn s.pkg (coreOf n) r && !s.bankHeld n r a else c.mayPerform r p
      if !p.done && p.bad.isNone && r.isMem && r.fault.isNone && decide (a < 2 ^ 46) && r.placed p && turn then some (p, a) else none

/-- Mark piece `k` of a request performed. -/
def Req.doneAt (r : Req) (k : Nat) : Req :=
  ({ r with pieces := r.pieces.mapIdx (fun i p => if i = k then { p with done := true, held := false } else p) } : Req).close

/-- The write queue of a memory port: that of an HBM stack, or of a core's scratchpad and windows (R179, R348). -/
def portOf (pa : Nat) : Spot :=
  match windowCore pa with
  | some c => .pad c
  | none => .stack (bits pa 44 2) (pa % 2 ^ 44 / 2 ^ 36)

/-- The order of same-cycle arrivals in a write queue: source package, physical core index, context (R348). -/
def sourceRank (pkg n : Nat) : Nat := 4096 * pkg + n

/-- The fault of a read that meets a bad line (R401, R545). -/
def memErr (r : Req) (p : Piece) : FaultRec :=
  { cause := cMEMERR, taddr := BitVec.ofNat 64 (addrHome r.base <<< 48 + p.off) }

/-- Perform piece `k` of a load or store (R351, R352): a read of a bad line meets MEMERR, a whole line written mends it
(R545). -/
def State.performPiece (s : State) (n : Nat) (r : Req) (k : Nat) (p : Piece) (a : Nat) : State :=
  match r.op with
  | .load _ =>
    if s.badAt a p.len then s.updReq n r.id (fun r =>
      ({ r with pieces := r.pieces.mapIdx (fun i p => if i = k then { p with bad := some cMEMERR } else p) } : Req).close)
    else s.updReq n r.id (fun r => { (r.doneAt k) with data := s.readPiece r.data p })
  | _ =>
    let s := ((s.store a ((r.data.drop p.pos).take p.len)).updReq n r.id (fun r => r.doneAt k)).come (portOf a) (sourceRank s.pkg n)
    let q := r.doneAt k
    if q.performed ∧ contiguous q.pieces then s.mendLines (((q.pieces.headD p).pa).getD a) r.data.length else s

/-- Arrivals of this cycle at the port of an address do not rank above a write of context `n` (R348). -/
def State.mayWrite (s : State) (n : Nat) (r : Req) (a : Nat) : Bool :=
  (match r.op with | .load _ => true | _ => false) || s.mayCome (portOf a) (sourceRank s.pkg n)

/-- Atomics and the plain loads and stores perform in different steps. -/
def Req.isAtomic (r : Req) : Bool := match r.op with | .atomic .. => true | _ => false

/-- The stretches of consecutive bytes that pieces form: offset, position and length. -/
def runs (ps : List Piece) : List (Nat × Nat × Nat) :=
  match ps with
  | [] => []
  | p :: rest =>
    match runs rest with
    | (o, q, l) :: r => if o = p.off + p.len ∧ q = p.pos + p.len then (p.off, p.pos, p.len + l) :: r else (p.off, p.pos, p.len) :: (o, q, l) :: r
    | [] => [(p.off, p.pos, p.len)]

/-- The packet's op and body for a stretch of a request (R462; log entry 5). -/
def State.packetOf (s : State) (n : Nat) (r : Req) (pos len : Nat) : Nat × List Byte :=
  let d := (r.data.drop pos).take len
  match r.op with
  | .load _ => (1, [])
  | .puth => (4, d ++ toBytes 8 (s.placement n).toNat)
  | .atomic op _ u v cmp => (3, toBytes 1 op.toNat ++ toBytes 1 (b2n u) ++ toBytes 8 v.toNat ++ toBytes 8 cmp.toNat)
  | _ => (2, d)

/-- A request homed on another package is sent, in program order of what its pages order (R357, R359, R465, R469). -/
def State.sendFar (s : State) (n : Nat) (r : Req) : State :=
  let d := dieOf (coreOf n)
  let ord := r.pieces.any (fun p => p.kind != .n)
  let s := (runs (r.pieces.filter (fun p => p.bad.isNone))).foldl (fun s x =>
    let (op, body) := s.packetOf n r x.2.1 x.2.2
    s.inject d (r.home / 4) (r.home % 4) 0 op ord (BitVec.ofNat 64 (r.home <<< 48 + x.1)) (reqTag n r.id x.2.2) body) s
  s.updReq n r.id (fun r => { r with remote := some 0 })

/-- A far request that may be sent now. -/
def State.mayFar (s : State) (n : Nat) (r : Req) : Bool :=
  r.isMem && r.far && r.fault.isNone && r.remote.isNone && s.fab.rcf.isNone && r.pieces.all (fun p => p.bad.isSome || (s.ctx n).mayPerform r p)

/-- Translate a compact address for an agent that is no core, with a walk of its home's table (R186 to R188); none where no
address of this package results. -/
def State.fwTranslate (s : State) (a : W64) (rd wr : Bool) : Option Nat × State :=
  let home := bits a.toNat 48 16
  let off := a.toNat % 2 ^ 48
  if home / 4 = s.pkg ∧ s.online (home % 4) then
    match s.walk home off wr with
    | (.ok e, s) =>
      match e.use off rd wr with
      | .hit pa _ => (if inHole pa then none else some pa, s)
      | _ => (none, s)
    | (.error _, s) => (none, s)
  else (none, s)

/-! ### The host side: limits and BAR0 -/

/-- A limit clamped to 600 to 3,400 W (R542). -/
def clampLimit (w : Nat) : Nat := max 600 (min w 3400)

/-- The coolant limit: the inlet in °C, the flow in tenths of a litre per minute (R27, R542). -/
def HostSide.coolantLimit (h : HostSide) : Nat := if h.inlet ≤ 40 ∧ 20 ≤ h.flow then 3400 else 2400

/-- The effective limit P (R542). -/
def HostSide.limit (h : HostSide) : Nat := min (clampLimit h.plim) (min (clampLimit h.mgmtLim) (clampLimit h.coolantLimit))

/-- ident (R533). -/
def identWord : W64 := BitVec.ofNat 64 (0x41 + 0x0004 <<< 8 + Config.stepping.toNat <<< 24)

/-- pstat (R533). -/
def HostSide.pstat (h : HostSide) : W64 :=
  BitVec.ofNat 64 (h.limit + b2n (decide (clampLimit h.mgmtLim < clampLimit h.plim)) <<< 12 +
    b2n (decide (h.coolantLimit < 3400)) <<< 13)

/-- bootst (R533). -/
def State.bootst (s : State) : W64 :=
  BitVec.ofNat 64 ((List.range 4).foldl (fun w d => w + ((s.die d).boot % 16) <<< (4 * d)) 0)

/-- A BAR0 register as the host reads it; every offset not listed reads 0, and so does the write-only jqtail (R533). -/
def State.bar0 (s : State) (off : Nat) : W64 :=
  let h := s.host
  let n (x : Nat) : W64 := BitVec.ofNat 64 x
  match off with
  | 0x00 => identWord
  | 0x08 => h.owner
  | 0x10 => h.jqbase
  | 0x18 => h.jqsize
  | 0x28 => n h.jqhead
  | 0x30 => h.eqbase
  | 0x38 => h.eqsize
  | 0x40 => n h.eqtail
  | 0x48 => n h.eqhead
  | 0x50 => n h.plim
  | 0x58 => h.pstat
  | 0x60 => s.bootst
  | o => if 0x100 ≤ o ∧ o < 0x200 then n (ofBytes ((List.range 8).map (fun i => Sparse.get 0 h.mbox (o - 0x100 + i)))) else 0

/-- An access of the host through BAR2 or of a control core, of bytes within one page (R367), or with `evt.k` 2 the host's read of the
BAR0 register at offset `evt.w` (R533): a write of `evt.data`, or a read of
`evt.m` bytes, whose answer leaves. A write that does not translate, or to the image store, is discarded, and a read then brings free bytes (log
entry 31). -/
def State.outsideAccess (s : State) : Host.Outcome State Fault Refusal :=
  let a : W64 := if s.evt.k = 0 then s.host.bar2 + BitVec.ofNat 64 (s.evt.w.toNat % 2 ^ 30) else s.evt.w
  let len := if s.evt.data.isEmpty then s.evt.m else s.evt.data.length
  if s.evt.k = 2 then .next { s with out := s.out ++ [.answer s.evt.w.toNat (toBytes 8 (s.bar0 s.evt.w.toNat).toNat)] }
  else if len = 0 ∨ 2 ^ 16 < a.toNat % 2 ^ 16 + len then .refused .notEnabled
  else
    let (pa, s) := s.fwTranslate a s.evt.data.isEmpty (!s.evt.data.isEmpty)
    let pa := pa.bind (fun x => if if s.evt.data.isEmpty then s.badAt x len else s.inStore x then none else some x)
    match pa, s.evt.data with
    | some pa, [] => .next { s with out := s.out ++ [.answer a.toNat (s.readMem pa len)] }
    | some pa, d => .next ((s.store pa d).mendLines pa len)
    | none, [] => .next { s with
        free := s.free + len
        out := s.out ++ [.answer a.toNat ((List.range len).map (fun i => (Config.freeWord (s.free + i)).truncate 8))] }
    | none, _ => .next s

/-- MEMORY_ACCESS_PERFORM: with `evt.flag`, an access of the host or of a control core (R367); else piece `evt.k` of request `evt.m` of context `evt.n` is performed at its home port (R351,
R353); a request homed on another package is sent there. -/
def execMemoryAccessPerform (s : State) : Host.Outcome State Fault Refusal :=
  if s.evt.flag then s.outsideAccess
  else
  match s.req? s.evt.n s.evt.m with
  | none => .refused .notEnabled
  | some r =>
    match s.readyPiece s.evt.n r s.evt.k with
    | some (p, a) =>
      let full := match r.op with | .puth => !s.wakeRoom r | _ => false
      if r.isAtomic || inWindow a || full || !s.mayWrite s.evt.n r a then .refused .notEnabled
      else .next (s.performPiece s.evt.n r s.evt.k p a)
    | none => if s.mayFar s.evt.n r then .next (s.sendFar s.evt.n r) else .refused .notEnabled

/-- The accumulator plane a window address belongs to was free in the cycle that its core has just played, whose operations come
before every window access of that cycle (R181, R272). -/
def State.windowOpen (s : State) (a : Nat) : Bool :=
  match placeOf a with
  | .acc m pl _ => decide ((s.ctx m).planes.freeAt pl < (s.core (coreOf m)).cycle)
  | _ => true

/-- WINDOW_ACCESS: piece `evt.k` of a request reaches a grid, accumulator or landing-slot window, after the operations that its owner
issued in that cycle; on a busy plane it is held at the core (R181, R272). -/
def execWindowAccess (s : State) : Host.Outcome State Fault Refusal :=
  match s.req? s.evt.n s.evt.m with
  | none => .refused .notEnabled
  | some r =>
    match s.readyPiece s.evt.n r s.evt.k with
    | some (p, a) =>
      if !inWindow a || p.held || !s.mayWrite s.evt.n r a then .refused .notEnabled
      else if s.windowOpen a then .next (s.performPiece s.evt.n r s.evt.k p a)
      else .next (s.updReq s.evt.n r.id (fun r => { r with
        pieces := r.pieces.mapIdx (fun i p => if i = s.evt.k then { p with held := true } else p) }))
    | none => .refused .notEnabled

/-- HELD_WINDOW_ACCESS: a held access is performed once the plane is free (R181, R272). -/
def execHeldWindowAccess (s : State) : Host.Outcome State Fault Refusal :=
  match s.req? s.evt.n s.evt.m with
  | none => .refused .notEnabled
  | some r =>
    match s.readyPiece s.evt.n r s.evt.k with
    | some (p, a) =>
      if p.held && s.windowOpen a then .next (s.performPiece s.evt.n r s.evt.k p a) else .refused .notEnabled
    | none => .refused .notEnabled

/-- Held accesses to the planes of a core that its cycle finds free are performed in it, after what its context issued (R272). -/
def State.heldPieces (s : State) (core : Nat) : State :=
  s.ctxs.foldl (fun s c => c.2.mem.reqs.foldl (fun s r =>
    if r.pieces.any Piece.held then
      (List.range r.pieces.length).foldl (fun s k =>
        match (s.req? c.1 r.id).bind (fun r => (s.readyPiece c.1 r k).map (fun x => (r, x))) with
        | some (r, p, a) =>
          if p.held && windowCore a == some core && s.windowFree a then s.performPiece c.1 r k p a else s
        | none => s) s
    else s) s) s

/-- The new value of an atomic (R347): width `n`, unsigned order `u`, old value, operand, comparand. -/
def atomicNew (op n : Nat) (u : Bool) (old v cmp : Nat) : Nat :=
  match op with
  | 0x20 => (old + v) % 2 ^ n
  | 0x21 => if u then max old v else if signed n old < signed n v then v else old
  | 0x22 => if u then min old v else if signed n v < signed n old then v else old
  | 0x23 => old &&& v
  | 0x24 => old ||| v
  | 0x25 => v
  | 0x26 => if old = cmp then v else old
  | _ => Rnd.ne.float .f32 0 (sumNums false [f32 old, f32 v]) false

/-- Apply an atomic to `len` bytes at an address (R347, R348): its old value. -/
def State.applyAtomic (s : State) (a len : Nat) (op : BitVec 8) (u : Bool) (v cmp : W64) : Nat × State :=
  let n := 8 * len
  let old := s.readNat a len
  (old, s.store a (toBytes len (atomicNew op.toNat n u old (v.toNat % 2 ^ n) (cmp.toNat % 2 ^ n))))

/-- ATOMIC_APPLY: request `evt.m` of context `evt.n` is applied at its home memory as one access (R347, R348, R365). -/
def execAtomicApply (s : State) : Host.Outcome State Fault Refusal :=
  match s.req? s.evt.n s.evt.m with
  | none => .refused .notEnabled
  | some r =>
    match r.op, s.readyPiece s.evt.n r 0 with
    | .atomic op _ u v cmp, some (p, a) =>
      if !s.mayCome (portOf a) (sourceRank s.pkg s.evt.n) then .refused .notEnabled
      else if s.badAt a p.len then
        .next (s.updReq s.evt.n r.id (fun r => { r with fault := some (memErr r p), performed := true }))
      else
        let (old, s) := s.applyAtomic a p.len op u v cmp
        let s := s.come (portOf a) (sourceRank s.pkg s.evt.n)
        .next (s.updReq s.evt.n r.id (fun r => { (r.doneAt 0) with data := toBytes p.len old }))
    | _, _ => .refused .notEnabled

/-! ### Reports back to the context -/

/-- A write has faulted: one of a background fitting operation is that operation's error (R315), any other waits for a report point
(R368). -/
def Ctx.failed (c : Ctx) (r : Req) (f : FaultRec) : Ctx :=
  if c.fit.ops.any (fun o => o.sent.contains r.id) then
    { c with fit := { c.fit with ops := c.fit.ops.map (fun o =>
        if o.sent.contains r.id && o.err.isNone then { o with err := some f } else o) } }
  else { c with mem := { c.mem with due := c.mem.due ++ [(r.ord, r.slot, f)] } }

/-- A tile request of this package is not answered yet: its home here waits for the mirror to acknowledge what it did (R510; log
entry 64). -/
def State.unmirrored (s : State) (r : Req) : Bool :=
  let ref : W64 := match r.op with
    | .tlnew _ => BitVec.ofNat 64 (ofBytes r.data)
    | _ => r.base.truncate 64
  r.op.isTile && s.dies.any (fun d => d.2.e2e.unmirrored ref)

/-- WRITE_ACKNOWLEDGE: the report of a performed write, or of its fault, reaches context `evt.n` (R351, R368). A PUTH is
acknowledged once its wake is delivered (R390), an operation on a version once its mirror holds the change (R510). -/
def execWriteAcknowledge (s : State) : Host.Outcome State Fault Refusal :=
  match s.req? s.evt.n s.evt.m with
  | none => .refused .notEnabled
  | some r =>
    let store := match r.op with | .store | .tlwr .. | .tlfin => true | .puth => r.fault.isSome | _ => false
    if !store || r.acked || !(r.performed || r.fault.isSome) || s.unmirrored r then .refused .notEnabled
    else
      let n := s.evt.n
      let s := s.updReq n r.id (fun r => { r with acked := true, performed := true })
      let s := match r.fault with
        | some f => s.updCtx n (fun c => c.failed r f)
        | none => s
      .next (s.updCtx n Ctx.prune)

/-- The destination that record `k` of context `n`'s frame names (R408). -/
def State.parkedDest (s : State) (n k : Nat) : Dest :=
  match (s.ctx n).shadow with
  | none => .none
  | some h =>
    let r := s.frameRec (plainBase n + h.base) k
    (Dest.ofCode r.dkind r.dest).getD .none

/-- Deliver the answer of request `r` of context `n`: into its latch, or into the record that parks it (R206, R409);
a yielded context drains on (R213). -/
def State.arrive (s : State) (n : Nat) (r : Req) (ans : Except FaultRec (Line × Option Bool)) : State :=
  let s := (s.updReq n r.id (fun r => { r with acked := true, performed := true }))
  let s :=
    match ((s.ctx n).shadow.bind (fun h => h.parked.find? (fun p => p.1 == r.id))), ans with
    | some (_, k), .ok (v, fl) => s.parkArrive n k (s.parkedDest n k) v fl
    | some (_, k), .error f => s.parkFault n k f
    | none, .ok (v, fl) => s.updLatch n r.id (fun l => { l with
        stat := .arrived, data := v, flag := match l.flag, fl with | some (f, _), some b => some (f, b) | x, _ => x })
    | none, .error f => s.updLatch n r.id f.poison
  let s := s.updCtx n Ctx.prune
  if (s.ctx n).sync.yielded then s.drain n else s

/-- LATCH_DATA_ARRIVAL of an access to memory or of a tile operation that its home has answered (R206, R318). Requests to
queues are answered in `Queues`. -/
def State.dataArrival (s : State) (n : Nat) (r : Req) : State :=
  match r.fault with
  | some f => s.arrive n r (.error f)
  | none => s.arrive n r (.ok (lineOfBytes r.data, none))

/-- WAKE_DELIVERY: the payload of request `evt.m` of context `evt.n` has been written; the destination's wake queue takes
an entry, or an unarmed destination's control core an event (R390). -/
def execWakeDelivery (s : State) : Host.Outcome State Fault Refusal :=
  match s.req? s.evt.n s.evt.m with
  | none => .refused .notEnabled
  | some r =>
    match r.op, r.performed, r.wakes with
    | .puth, true, some x =>
      let n := s.evt.n
      let own := (s.ctx n).sched.stores.any (fun o => o.ord == r.ord)
      let s := s.updReq n r.id (fun r => { r with op := .store })
      if own then .refused .notEnabled
      else if (s.ctx x).sys.armed then
        .next (s.updCtx x (fun c => { c with sync := { c.sync with wakes := c.sync.wakes ++ [(addrCompact r.base, s.placement n)] } }))
      else .next (s.controlEvent (dieOf (coreOf x)) (coreOf x) (x % 4) 3 0)
    | _, _, _ => .refused .notEnabled

end Sys2Proof.Machine
end

