-- ==== Sys2Proof/Machine/Directory.lean ====
section
/-! DEFINITION. The tile directory (R31 to R52), its storage (R33, R40, R41), homes and buddy homes (R184, R185, R510),
readiness of waiting tasks (R149, R59), lineage records and their trimming (R495 to R506), recovery (R507 to R524). -/

namespace Sys2Proof.Machine

/-! ### References and homes -/

/-- Home die of a tile reference (R34). -/
def refHome (r : W64) : Nat := bits r.toNat 49 15

/-- Tile number of a reference (R34). -/
def refNum (r : W64) : Nat := bits r.toNat 16 33

/-- Version of a reference (R34). -/
def refVer (r : W64) : Nat := r.toNat % 65536

/-- The reference of a home, a number and a version (R34). -/
def mkRef (home num ver : Nat) : W64 := BitVec.ofNat 64 (home <<< 49 + num <<< 16 + ver)

/-- The next online die of the package after `d` (R144, R185). -/
def State.nextOnline (s : State) (d : Nat) : Option Nat := [(d + 1) % 4, (d + 2) % 4, (d + 3) % 4].find? s.online

/-- The package after `p` in the buddy ring whose die `d` is online (R185). -/
def State.nextInRing (s : State) (p d : Nat) : Option Nat :=
  let others := sortBy id (s.fab.ring.filter (fun q => q != p && !s.fab.gone.contains (dieKey q d) && (q != s.pkg || s.online d)))
  (others.find? (fun q => decide (p < q))).orElse (fun _ => others.head?)

/-- The buddy home of die `d` of this package (R185). -/
def State.buddy (s : State) (d : Nat) : Option (Nat × Nat) :=
  match s.fab.ring.filter (fun p => p != s.pkg) with
  | [] => (s.nextOnline d).map (fun x => (s.pkg, x))
  | _ => (s.nextInRing s.pkg d).map (fun p => (p, d))

/-- The buddy home of a home of any package (R185). -/
def State.buddyOf (s : State) (home : Nat) : Option Nat :=
  if home / 4 = s.pkg then (s.buddy (home % 4)).map (fun b => dieKey b.1 b.2)
  else (s.nextInRing (home / 4) (home % 4)).map (fun p => dieKey p (home % 4))

/-- The lowest online die of the lowest-numbered online package of the domain (R511). -/
def State.lastDie (s : State) : Nat :=
  let up (k : Nat) : Bool := if k / 4 = s.pkg then s.online (k % 4) else !s.fab.gone.contains k
  (((sortBy id s.fab.ring).flatMap (fun p => [0, 1, 2, 3].map (dieKey p))).find? up).getD
    (dieKey s.pkg (((List.range 4).find? s.online).getD 0))

/-- The die that answers for a home: the home, or the acting home of a lost one; while the ring names no buddy home, the lowest
online die of the domain (R184, R510, R511). -/
def State.answers (s : State) (home : Nat) : Nat :=
  match (List.range 4).find? (fun d => s.online d && (s.die d).lin.acts.contains home) with
  | some d => dieKey s.pkg d
  | none =>
    if (home / 4 = s.pkg && !s.online (home % 4)) || s.fab.gone.contains home then (s.buddyOf home).getD s.lastDie
    else home

/-- A reference that a die of another package answers for. -/
def State.isRemote (s : State) (r : W64) : Bool := s.answers (refHome r) / 4 != s.pkg

/-- The die of this package that answers for a reference: its home, or the acting home of a lost home (R184, R510). -/
def State.refDie (s : State) (r : W64) : Option Nat :=
  if s.isRemote r then none else some (s.answers (refHome r) % 4)

/-- The directory entry of a reference (R42). -/
def State.tile? (s : State) (r : W64) : Option Tile :=
  if r = 0 ∨ refNum r = 0 ∨ refVer r = 0 then none
  else (s.refDie r).bind (fun d => Sparse.find? (s.die d).tiles r.toNat)

/-- The 32 bytes of a directory entry (R42). -/
def Tile.entry (t : Tile) (pkg : Nat) (r : W64) (parked : Nat) : List Byte :=
  toBytes 32 (r.toNat + t.rows8 <<< 64 + t.cols8 <<< 73 + t.efmt <<< 82 + t.state <<< 87 + b2n t.apx <<< 90 +
    b2n t.repl <<< 91 + b2n t.nolin <<< 92 + t.level <<< 93 + t.depth <<< 96 + t.wprio <<< 100 + t.usesinit <<< 104 +
    t.uses <<< 116 + (pkg <<< 46 + t.loc) <<< 128 + t.linrec <<< 192 + parked <<< 224)

/-- Pairs of a package and a task id, 8 bytes each. -/
def pairBytes (l : List (Nat × Nat)) : List Byte := l.flatMap (fun p => toBytes 2 p.1 ++ toBytes 6 p.2)

/-- The pairs that bytes carry. -/
def pairsOf (b : List Byte) : List (Nat × Nat) :=
  (List.range (b.length / 8)).map (fun i => let w := ofBytes ((b.drop (8 * i)).take 8); (bits w 0 16, bits w 16 48))

/-- A directory mirror write to another package: the entry, the dependant count, the job, the producer and the marks that the home
keeps beside it (R510; log entry 5). -/
def Tile.mirrorBody (t : Tile) (pkg : Nat) (r : W64) : List Byte :=
  t.entry pkg r 0 ++ toBytes 4 t.deps ++ toBytes 4 t.job ++
    (match t.prod with | some (p, tid) => toBytes 1 1 ++ toBytes 2 p ++ toBytes 6 tid | none => toBytes 9 0) ++
    toBytes 1 (b2n t.dead + 2 * b2n t.again + 4 * b2n t.kept)

/-- An entry with the fields that its 32 bytes give (R42). -/
def Tile.withEntry (t : Tile) (w : Nat) : Tile :=
  let f (lo n : Nat) : Nat := bits w lo n
  { t with
    rows8 := f 64 9, cols8 := f 73 9, efmt := f 82 5, state := f 87 3, apx := f 90 1 == 1, repl := f 91 1 == 1
    nolin := f 92 1 == 1, level := f 93 2, depth := f 96 4, wprio := f 100 3, usesinit := f 104 12, uses := f 116 12
    loc := f 128 46, linrec := f 192 32 }

/-- A version as TLNEW or a host load makes it from a shape word: FUTURE, without lineage, its storage not yet chosen (R36, R43,
R327). -/
def newTile (w job : Nat) : Tile :=
  { rows8 := bits w 0 9, cols8 := bits w 9 9, efmt := bits w 18 5, state := 1, apx := false, repl := false, nolin := true,
    level := 0, depth := 0, wprio := 0, usesinit := bits w 23 12, uses := bits w 23 12, loc := 0, linrec := 0xFFFFFFFF,
    deps := 0, prod := none, job := job, marked := [], dead := false, again := false, kept := false, parked := [], watch := [] }

/-- The entry that a mirror write carries. -/
def tileOfBody (b : List Byte) : Tile :=
  let w := ofBytes b
  { (newTile 0 (bits w 288 32)).withEntry w with
    deps := bits w 256 32, prod := if bits w 320 8 = 0 then none else some (bits w 328 16, bits w 344 48)
    dead := bit w 392, again := bit w 393, kept := bit w 394 }

/-- Send a message about a version from die `d` to the die that answers for it, when that lies on another package (log entry 5). -/
def State.tell (s : State) (d : Nat) (r : W64) (aux : Nat) (body : List Byte) : State :=
  s.inject d (s.answers (refHome r) / 4) (s.answers (refHome r) % 4) 1 0x05 (messageOrd aux) r (BitVec.ofNat 64 aux) body

/-- Send a message about a version from die `d` to its buddy home, when that lies on another package (log entry 5). -/
def State.tellBuddy (s : State) (d : Nat) (r : W64) (aux : Nat) (body : List Byte) : State :=
  match s.buddy d with
  | some (p, b) => if p = s.pkg then s else s.inject d p b 1 0x05 (messageOrd aux) r (BitVec.ofNat 64 aux) body
  | none => s

/-- A record set or a replica from which a version can be recovered, or the storage that its replica has become (R504, R510,
R512). -/
def Tile.recoverable (t : Tile) : Bool := !t.dead && (t.repl || (t.state == 6 && t.kept) || (!t.nolin && t.linrec != 0xFFFFFFFF))

/-- LOST without lineage (R50, R512). -/
def Tile.hopeless (t : Tile) : Bool := t.state == 4 && !t.recoverable

/-- The online die of package `p` that hears of its task `tid`: the die that accepted it, or the next (R144, R145). -/
def State.taskDie (s : State) (p tid : Nat) : Nat :=
  let d := bits tid 46 2
  (([d, d + 1, d + 2, d + 3].map (· % 4)).find? (fun x => !s.fab.gone.contains (dieKey p x))).getD d

/-- What a home tells another package of a version: state, apx, whether it is LOST without lineage, depth, whether it has a producer
(log entry 83). -/
def Tile.notice (t : Tile) : Nat := t.state + b2n t.apx <<< 3 + b2n t.hopeless <<< 4 + t.depth <<< 5 + b2n t.prod.isSome <<< 12

/-- Tell a package of a version (R149, R394; log entry 5). -/
def State.sendNotice (s : State) (d : Nat) (r : W64) (k p : Nat) : State :=
  s.inject d p (s.taskDie p 0) 1 0x05 (messageOrd 24) r (BitVec.ofNat 64 (24 + k <<< 8)) []

/-- Tell every package that watches a version of it. -/
def State.notify (s : State) (d : Nat) (r : W64) (t : Tile) : State := t.watch.foldl (fun s p => s.sendNotice d r t.notice p) s

/-- Write a directory entry, and its copy in the buddy home's mirror (R510); the marks that do not fit the first packet to another
package follow it. -/
def State.setTile (s : State) (r : W64) (t : Tile) : State :=
  match s.refDie r with
  | none => s
  | some d =>
    let old := Sparse.find? (s.die d).tiles r.toNat
    let s := s.updDie d (fun x => { x with tiles := Sparse.set x.tiles r.toNat t })
    let s := if old.map Tile.notice = some t.notice then s else s.notify d r t
    match s.buddy d with
    | some (p, b) =>
      if p = s.pkg then s.updDie b (fun x => { x with mirror := Sparse.set x.mirror r.toNat t })
      else (List.range (ceilDiv t.marked.length 30)).foldl
        (fun s i => s.tellBuddy d r 18 (pairBytes ((t.marked.drop (30 * i)).take 30))) (s.tellBuddy d r 0 (t.mirrorBody s.pkg r))
    | none => s

/-- Change a directory entry. -/
def State.updTile (s : State) (r : W64) (f : Tile → Tile) : State :=
  match s.tile? r with
  | some t => s.setTile r (f t)
  | none => s

/-- Package `p` watches a version from now, and hears how it is; one without an entry is LOST without lineage (R149, R394, R510). -/
def State.watch (s : State) (d : Nat) (r : W64) (p : Nat) : State :=
  match s.tile? r with
  | some t =>
    let t := { t with watch := t.watch.filter (fun q => q != p) ++ [p] }
    (s.setTile r t).sendNotice d r t.notice p
  | none => s.sendNotice d r 20 p

/-- Discard a directory entry, its mirror and its replica (R51, R504). -/
def State.dropTile (s : State) (r : W64) : State :=
  match s.refDie r with
  | none => s
  | some d =>
    let s := s.updDie d (fun x => { x with
      tiles := Sparse.erase x.tiles r.toNat, lin := { x.lin with copying := x.lin.copying.filter (fun y => y != r) } })
    (List.range 4).foldl (fun s b => s.updDie b (fun x => { x with
      mirror := Sparse.erase x.mirror r.toNat, replicas := Sparse.erase x.replicas r.toNat })) (s.tellBuddy d r 20 [])

/-! ### Shape and storage -/

/-- Format of an entry. -/
def Tile.fmt (t : Tile) : EFmt := (EFmt.ofCode t.efmt).getD .f32

/-- Rows of a version. -/
def Tile.rows (t : Tile) : Nat := 8 * (t.rows8 + 1)

/-- Columns of a version. -/
def Tile.cols (t : Tile) : Nat := 8 * (t.cols8 + 1)

/-- Bytes of one row of the element array (R40, R325). -/
def Tile.rowBytes (t : Tile) : Nat := t.cols * t.fmt.bits / 8

/-- Round up to whole lines. -/
def lineUp (n : Nat) : Nat := 256 * ceilDiv n 256

/-- Bytes of the storage region (R40). -/
def Tile.region (t : Tile) : Nat :=
  let e := ceilDiv (t.rows * t.cols * t.fmt.bits) 8
  match t.fmt.block? with
  | some (k, sc) => lineUp (lineUp e + t.rows * (t.cols / k) * sc)
  | none => lineUp e

/-- A shape request that TLNEW accepts (R38, R39, R327). -/
def shapeOk (w : W64) : Bool :=
  match EFmt.ofCode (bits w.toNat 18 5) with
  | some f => decide (8 * (bits w.toNat 9 9 + 1) % f.colMul = 0) && bits w.toNat 44 20 == 0
  | none => false

/-- A version holds storage: until it reaches FREED, or longer while its content is copied from there (R51, R510). -/
def Tile.stored (t : Tile) : Bool := t.state != 6 || t.kept

/-- Storage in use on die `d`: address and length of every live region (R51). -/
def State.regions (s : State) (d : Nat) : List (Nat × Nat) :=
  (List.range 4).flatMap (fun x => (s.die x).tiles.filterMap (fun p =>
    if p.2.stored ∧ bits p.2.loc 44 2 = d then some (p.2.loc, p.2.region) else none))

/-- A region [a, a + n) is free of the regions of a list. -/
def clear (rs : List (Nat × Nat)) (a n : Nat) : Bool := rs.all (fun r => !meets a n r.1 r.2)

/-- Storage for `n` bytes within [lo, hi): the directory's own choice among free lines (R41; log entry 8), else the lowest
free place. -/
def State.allocate (s : State) (d lo hi n : Nat) : Option Nat × State :=
  let rs := s.storeRange d :: s.regions d
  let pick := Config.storagePick s.free
  let s := { s with free := s.free + 1 }
  let ok (a : Nat) : Bool := decide (a % 256 = 0 ∧ lo ≤ a ∧ a + n ≤ hi) && clear rs a n
  if ok pick then (some pick, s)
  else (least? ((lo :: rs.map (fun r => r.1 + r.2)).filter ok), s)

/-- HBM of die `d`: first and last address (R179). -/
def hbmRange (d : Nat) : Nat × Nat := (d <<< 44, d <<< 44 + 0x3000000000)

/-- Fresh storage of `n` bytes in the HBM of die `d` (R41). -/
def State.hbmPlace (s : State) (d n : Nat) : Option Nat × State := s.allocate d (hbmRange d).1 (hbmRange d).2 n

/-- Zero-fill the storage of a version (R33, R46). -/
def State.zeroFill (s : State) (t : Tile) : State := s.fill t.loc t.region []

/-! ### States -/

/-- What a waiter needs to know of a version: state, apx, no lineage, depth. A reference without an entry answers as LOST without
lineage once its home is lost (R510, R511), else as nothing. -/
def State.verState (s : State) (r : W64) : Option (Nat × Bool × Bool × Nat) :=
  if s.isRemote r then
    (Sparse.find? s.fab.known r.toNat).map (fun k => (k % 8, bit k 3, bit k 4, bits k 5 4))
  else
    match s.tile? r with
    | some t => some (t.state, t.apx, t.hopeless, t.depth)
    | none => if s.answers (refHome r) != refHome r then some (4, false, true, 0) else none

/-- An input is settled (R149). -/
def State.settled (s : State) (r : W64) : Bool :=
  match s.verState r with
  | some (st, _, dead, _) => st == 3 || (st == 4 && dead)
  | none => false

/-- Cycles since a task's launch for which its team has been frozen in the freeze that is in progress (R150, R429). -/
def State.frozenFor (s : State) (t : Task) : Nat :=
  match s.teams.find? (fun x => t.desc.team != 0 && !t.rebuilt && x.key == t.desc.team) with
  | some x => if x.state = 0 then 0 else s.clock - max x.since t.born
  | none => 0

/-- Effective priority (R150). -/
def State.prio (s : State) (t : Task) : Nat := min 7 (t.base + (s.clock - t.born - t.slept - s.frozenFor t) / 2 ^ 20)

/-- An output of a withdrawn or lost task, at its home: it returns to the unassigned FUTURE state, zero-filled (R59, R144). -/
def State.released (s : State) (prod : Nat × Nat) (r : W64) : State :=
  match s.tile? r with
  | some t => if (t.state = 1 ∨ t.state = 2) ∧ t.prod = some prod then (s.zeroFill t).setTile r { t with state := 1, prod := none } else s
  | none => s

/-- Release an output of task `tid` of this package, held on die `d` (R59, R144). -/
def State.unassign (s : State) (d tid : Nat) (r : W64) : State :=
  if s.isRemote r then s.tell d r (11 + tid <<< 8) [] else s.released (s.pkg, tid) r

/-- Sequence number of a task within its queue (R145). -/
def Task.seq (t : Task) : Nat := t.tid % 2 ^ 40

/-- Recovery's tasks are not held and do not hold (R164, R516). -/
def QEntry.firstRun (e : QEntry) : Bool := e.queue != 64 && !e.task.redispatched && !e.task.rebuilt

/-- Remove the level-change entries whose earlier tasks have all ended (R163). -/
def Die.passChanges (x : Die) : Die :=
  { x with changes := x.changes.filter (fun c =>
      x.entries.any (fun e => e.firstRun && e.queue == c.queue && decide (e.task.seq < c.seq))) }

/-- Give free entries to what waits for one (R142). -/
def Die.refill (x : Die) : Die :=
  let k := 16384 - x.entries.length
  { x with entries := x.entries ++ x.waitEntry.take k, waitEntry := x.waitEntry.drop k }

/-- Remove entries of a die that pass a test: level changes that waited for them pass, waiters take their places (R142, R163). -/
def State.dropEntries (s : State) (d : Nat) (f : QEntry → Bool) : State :=
  s.updDie d (fun x => ({ x with entries := x.entries.filter (fun e => !f e) } : Die).passChanges.refill)

/-- An exact input of a task has become VALID and approximate (R59). -/
def State.apxBreach (s : State) (t : Task) : Bool :=
  (number 0 t.desc.ins).any (fun p => bit t.desc.exact p.1 && (match s.verState p.2 with
    | some (st, apx, _, _) => st == 3 && apx
    | none => false))

/-- Ready the waiting entries of die `d` whose inputs are settled, withdraw those whose exact input is approximate, free
the parked ones whose version is VALID or FREED (R149, R59, R394). -/
def State.readyDie (s : State) (d : Nat) : State :=
  let gone := (s.die d).entries.filter (fun e => decide (e.stat = .waiting) && !e.task.rebuilt && s.apxBreach e.task)
  let s := gone.foldl (fun s e => e.task.desc.outs.foldl (fun s r => s.unassign d e.task.tid r) s) s
  let s := if gone.isEmpty then s else (s.dropEntries d (fun e => gone.contains e)).updDie d (fun x => { x with
    withdrawn := x.withdrawn ++ gone.map (fun e => (e.task.tid, 6)) })
  let now := s.clock
  let step (e : QEntry) : QEntry :=
    match e.stat with
    | .waiting => if e.task.desc.ins.all s.settled then { e with stat := .ready now } else e
    | .parked c ref since =>
      (match s.verState ref with
       | some (st, _, dead, _) => if st == 3 || st == 6 || dead then { e with stat := .loc c since } else e
       | none => { e with stat := .loc c since })
    | _ => e
  s.updDie d (fun x => { x with entries := x.entries.map step })

/-- An image is named by a live record, a task here or a task set aside here, or may be by one of another package of the domain
(R55). -/
def State.named (s : State) (h : W64) : Bool :=
  s.fab.ring.any (fun p => p != s.pkg) ||
  s.dies.any (fun d => (d.2.entries ++ d.2.waitEntry).any (fun e => e.task.desc.image == h) ||
    d.2.lin.home.any (fun r => r.2.img == h) || d.2.lin.mirror.any (fun r => r.2.img == h)) ||
  s.ctxs.any (fun c => c.2.sys.himg == h || c.2.task.any (fun t => t.desc.image == h))

/-- An earlier generation of an image that was sealed here (R53, R137). -/
def State.resealed (s : State) (i : Image) : Bool :=
  let h := i.handle.toNat
  bits h 49 15 / 4 == s.pkg && decide (h % 65536 < Sparse.get 0 (s.die (bits h 49 15 % 4)).gens (bits h 16 33))

/-- Earlier generations of images that nothing names any more are released (R55; log entry 74). -/
def State.releaseImages (s : State) : State :=
  if s.dies.any (fun d => d.2.images.any s.resealed) then
    { s with dies := s.dies.map (fun d => (d.1, { d.2 with images := d.2.images.filter (fun i => !s.resealed i || s.named i.handle) })) }
  else s

/-- Ready what a change of the directory has settled, release what nothing names any more. -/
def State.readyAll (s : State) : State := ((List.range 4).foldl State.readyDie s).releaseImages

/-! ### Lineage records -/

/-- Records of a record set (R496). -/
def LinRec.size (r : LinRec) : Nat :=
  1 + b2n (decide (10 < r.ins.length + r.args.length)) + b2n (decide (1 < r.outs.length))

/-- Distinct elements of a list, first occurrences kept. -/
def distinct {α : Type} [DecidableEq α] (l : List α) : List α :=
  l.foldl (fun acc x => if acc.contains x then acc else acc ++ [x]) []

/-- Word `i` of a record, `lo` bits up. -/
def putWords (lo : Nat) (ws : List W64) : Nat := (ws.mapIdx (fun i w => w.toNat <<< (lo + 64 * i))).foldl (· + ·) 0

/-- The head record (R497). -/
def LinRec.head (r : LinRec) : List Byte :=
  let ops := r.ins ++ r.args
  toBytes 128 (r.ref.toNat + r.img.toNat <<< 64 + r.entry <<< 128 + r.level <<< 152 + b2n r.apx <<< 154 + r.oj <<< 155 +
    r.outs.length <<< 158 + r.ins.length <<< 162 + r.args.length <<< 166 + r.depth <<< 170 + (r.size - 1) <<< 174 +
    r.wmask <<< 179 + r.tid <<< 192 + r.rank <<< 240 + r.team <<< 256 + r.job <<< 288 + r.tsize <<< 320 + r.pkg <<< 333 +
    putWords 384 (ops.take 10))

/-- The operand record and the output-list record (R498). -/
def LinRec.tail (r : LinRec) : List Byte :=
  toBytes 128 (r.ref.toNat + 1 <<< 64 + putWords 128 ((r.ins ++ r.args).drop 10)) ++
  toBytes 128 (r.ref.toNat + 2 <<< 64 + putWords 128 r.outs)

/-- A record set from its head, with the words of its tail (R497, R498). -/
def linRecOf (head tail : List Byte) : LinRec :=
  let w := ofBytes head
  let t := ofBytes tail
  let f (lo n : Nat) : Nat := bits w lo n
  let word (v lo i : Nat) : W64 := BitVec.ofNat 64 (bits v (lo + 64 * i) 64)
  let ops := (List.range 10).map (word w 384) ++ (List.range 14).map (word t 128)
  let nin := f 162 4
  let ref : W64 := BitVec.ofNat 64 (f 0 64)
  { ref := ref, img := BitVec.ofNat 64 (f 64 64), entry := f 128 24, level := f 152 2, apx := f 154 1 == 1, oj := f 155 3,
    outs := if f 158 4 = 1 then [ref] else (List.range (f 158 4)).map (word t 1152), ins := ops.take nin,
    args := (ops.drop nin).take (f 166 4), depth := f 170 4, wmask := f 179 8, tid := f 192 48, rank := f 240 12,
    team := f 256 32, job := f 288 32, tsize := f 320 13, pkg := f 333 13, prio := 0 }

/-- A record is used: it stands first in the on-die cache of 65,536 entries (R496). -/
def Lineage.touch (l : Lineage) (mirror : Bool) (k : Nat) : Lineage :=
  { l with cache := ((mirror, k) :: l.cache.filter (fun x => x != (mirror, k))).take 65536 }

/-- A record is freed. -/
def Lineage.forget (l : Lineage) (mirror : Bool) (k : Nat) : Lineage := { l with cache := l.cache.filter (fun x => x != (mirror, k)) }

/-- The mirror area frees the record set of a version. -/
def Lineage.dropMirror (l : Lineage) (k : Nat) : Lineage := ({ l with mirror := Sparse.erase l.mirror k } : Lineage).forget true k

/-- The mirror area takes a record set. -/
def Lineage.putMirror (l : Lineage) (k : Nat) (r : LinRec) : Lineage := ({ l with mirror := Sparse.set l.mirror k r } : Lineage).touch true k

/-- The copy of a record set in the mirror area of the buddy home of die `d` (R499). -/
def State.mirrorRecord (s : State) (d : Nat) (r : LinRec) : State :=
  match s.buddy d with
  | some (p, b) =>
    if p = s.pkg then s.updDie b (fun x => { x with lin := x.lin.putMirror r.ref.toNat r })
    else (s.tellBuddy d r.ref 1 r.head).tellBuddy d r.ref 257 r.tail
  | none => s

/-- Write a record set at the home of its output and in the mirror area of the buddy home, and raise the dependant counts
of its inputs in one step (R499, R503). -/
def State.writeRecord (s : State) (r : LinRec) : State :=
  match s.refDie r.ref with
  | none => s
  | some d =>
    let i := (s.die d).lin.nextRec
    let s := s.updDie d (fun x => { x with lin := ({ x.lin with
      home := Sparse.set x.lin.home i r, nextRec := (i + 1) % 4194304, used := x.lin.used + r.size } : Lineage).touch false i })
    let s := s.mirrorRecord d r
    let s := s.updTile r.ref (fun t => { t with linrec := i })
    (distinct r.ins).foldl (fun s x =>
      if s.isRemote x then s.tell d x 2 []
      else s.updTile x (fun t => { t with deps := t.deps + 1 })) s

/-- The record set of a version. -/
def State.record? (s : State) (r : W64) : Option LinRec :=
  match s.tile? r, s.refDie r with
  | some t, some d => (Sparse.find? (s.die d).lin.home t.linrec).filter (fun x => x.ref == r)
  | _, _ => none

mutual
/-- Trim the record set of a version, which is no longer needed, and lower the dependant counts of its inputs (R504);
`fuel` bounds how far the trimming runs back. -/
def State.trim (s : State) (r : W64) (fuel : Nat) : State :=
  match fuel with
  | 0 => s
  | fuel + 1 =>
    match s.record? r, s.tile? r, s.refDie r with
    | some x, some t, some d =>
      let s := s.updDie d (fun y => { y with lin := ({ y.lin with
        home := Sparse.erase y.lin.home t.linrec, used := y.lin.used - x.size } : Lineage).forget false t.linrec })
      let s := (List.range 4).foldl (fun s b => s.updDie b (fun y => { y with lin := y.lin.dropMirror r.toNat })) (s.tellBuddy d r 19 [])
      let s := s.setTile r { t with linrec := 0xFFFFFFFF }
      State.lowerAll s (distinct x.ins) d fuel
    | _, _, _ => s

/-- Lower the dependant counts of versions; a FREED one that reaches 0 is discarded (R51, R504). -/
def State.lowerAll (s : State) (rs : List W64) (d : Nat) (fuel : Nat) : State :=
  match fuel with
  | 0 => s
  | fuel + 1 =>
    match rs with
    | [] => s
    | x :: rest =>
      let s :=
        if s.isRemote x then s.tell d x 3 []
        else
          match s.tile? x with
          | some t =>
            let s := s.setTile x { t with deps := t.deps - 1 }
            if t.state = 6 ∧ t.deps ≤ 1 then (s.trim x fuel).dropTile x else s
          | none => s
      s.lowerAll rest d fuel
end

/-- Trimming reaches at most as far as there are entries. -/
def trimFuel : Nat := 1000000

/-- Copies to the buddy home that are not acknowledged yet. -/
def State.copying (s : State) (r : W64) : Bool := (s.refDie r).any (fun d => (s.die d).lin.copying.contains r)

/-- A version reaches FREED: its storage is released, once a copy under way from it is acknowledged; its entry is discarded when no
live record names it (R51, R510). -/
def State.free_ (s : State) (r : W64) : State :=
  match s.tile? r with
  | some t =>
    let s := s.setTile r { t with state := 6, again := false, marked := [], uses := 0, kept := s.copying r && t.state == 3 }
    if t.deps = 0 then (s.trim r trimFuel).dropTile r else s
  | none => s

/-! ### Recovery -/

/-- Ask for the recovery of a version at its shard (R512). -/
def State.askRecovery (s : State) (r : W64) (p : Nat) : State :=
  match s.refDie r with
  | some d => s.updDie d (fun x => { x with lin := { x.lin with
      requests := x.lin.requests ++ [(r, p)]
      asked := if (Sparse.find? x.lin.rebuilds r.toNat).isSome then x.lin.asked else Sparse.set x.lin.asked r.toNat s.clock } })
  | none => s.tell s.myDie r (4 + p <<< 8) []

/-- Put an entry into a die's pool, or let it wait for one (R142). -/
def State.enqueue (s : State) (d : Nat) (e : QEntry) : State :=
  s.updDie d (fun x =>
    if x.entries.length < 16384 then { x with entries := x.entries ++ [e] } else { x with waitEntry := x.waitEntry ++ [e] })

/-- The task of a rebuild from a record set (R518). -/
def LinRec.task (r : LinRec) (s : State) (p : Nat) : Task :=
  { tid := r.tid, level := r.level, base := p, born := s.clock, slept := 0, rebuilt := true, redispatched := false,
    restored := false, target := r.ref, pin := none, dataSec := 0, apxIn := false, pkg := r.pkg
    desc := { image := r.img, entry := r.entry, prio := r.prio, lvl := r.level, exact := 0, ins := r.ins, outs := r.outs,
              args := r.args, team := r.team, rank := r.rank, tsize := r.tsize, job := r.job } }

/-- Raise the base priority of the rebuild task on die `d` that rebuilds a version (R517). -/
def State.raiseTask (s : State) (d : Nat) (r : W64) (p : Nat) : State :=
  let up (e : QEntry) : Bool := e.queue == 64 && e.task.desc.outs.contains r && decide (e.task.base < p)
  let lift (e : QEntry) : QEntry := if up e then { e with task := { e.task with base := p } } else e
  let s := (s.die d).entries.foldl (fun s e => match up e, e.stat with
    | true, .running n => s.updCtx n (fun c => { c with task := c.task.map (fun t =>
        if t.rebuilt ∧ t.tid = e.task.tid then { t with base := p } else t) })
    | _, _ => s) s
  s.updDie d (fun x => { x with entries := x.entries.map lift, waitEntry := x.waitEntry.map lift })

/-- A rise of rebuild priority goes to the home of an input on another package where the input is to be rebuilt: as a recovery request,
which raises a rebuild in progress (R513, R517; log entry 103). -/
def State.raiseFar (s : State) (d : Nat) (r : W64) (p : Nat) : State :=
  match s.verState r with
  | some (st, _, dead, _) => if st = 5 ∨ (st = 4 ∧ !dead) then s.tell d r (4 + p <<< 8) [] else s
  | none => s

/-- Raise the rebuild priority of a version, or of the request that waits for its shard, of its rebuild task and of the recoveries that
the task's inputs wait for (R517). -/
def State.raise (s : State) (r : W64) (p fuel : Nat) : State :=
  match fuel with
  | 0 => s
  | fuel + 1 =>
    match s.refDie r with
    | none => s
    | some d =>
      match Sparse.find? (s.die d).lin.rebuilds r.toNat with
      | some (k, q) =>
        if p ≤ q then s
        else
          let s := (s.updDie d (fun x => { x with
            lin := { x.lin with rebuilds := Sparse.set x.lin.rebuilds r.toNat (k, p) } })).raiseTask d r p
          match s.record? r with
          | some h => h.ins.foldl (fun s x => if s.isRemote x then s.raiseFar d x p else s.raise x p fuel) s
          | none => s
      | none => s.updDie d (fun x => { x with lin := { x.lin with
          requests := x.lin.requests.map (fun q => if q.1 = r then (r, max q.2 p) else q) } })

/-- Raise a version's wprio, and the rebuild priority that follows it (R149, R517). -/
def State.raiseWprio (s : State) (r : W64) (p : Nat) : State :=
  match s.tile? r with
  | some t => if t.wprio < p then (s.setTile r { t with wprio := p }).raise r p 16 else s
  | none => s

/-- The entry of the rebuild of a recorded task (R515). -/
def QEntry.isRebuild (e : QEntry) (h : LinRec) : Bool := e.queue == 64 && e.task.tid == h.tid && e.task.pkg == h.pkg

/-- A rebuild task enqueued with a version as an input is marked at its home where that was, or is about to be, rebuilt from FREED
(R520). -/
def State.markRebuild (s : State) (r : W64) (who : Nat × Nat) : State :=
  s.updTile r (fun y => if y.again || y.state == 6 then { y with marked := y.marked ++ [who], uses := y.uses + 1 } else y)

/-- Versions under rebuild whose record names `r` as an input and whose rebuild has not started (R514). -/
def State.walkersOn (s : State) (r : W64) : List W64 :=
  (List.range 4).flatMap (fun d => (s.die d).lin.rebuilds.filterMap (fun p =>
    let v := BitVec.ofNat 64 p.1
    match s.record? v with
    | some h =>
      let running := (s.die d).entries.any (fun e => e.isRebuild h && (match e.stat with
        | .running _ => true | _ => false))
      if h.ins.contains r && !running then some v else none
    | none => none))

/-- The greatest rebuild priority of the versions under rebuild on this package whose record names `r` as an input (R517). -/
def State.namedPrio (s : State) (r : W64) : Nat :=
  ((List.range 4).flatMap (fun d => (s.die d).lin.rebuilds)).foldl (fun m p =>
    if (s.record? (BitVec.ofNat 64 p.1)).any (fun h => h.ins.contains r) then max m p.2.2 else m) 0

/-- Mark versions that cannot be rebuilt, and every version whose walk waits on one (R522): how many were marked. -/
def State.unrecoverable (s : State) (rs : List W64) (k fuel : Nat) : Nat × State :=
  match fuel with
  | 0 => (k, s)
  | fuel + 1 =>
    match rs with
    | [] => (k, s)
    | r :: rest =>
      match s.tile? r, s.refDie r with
      | some t, some d =>
        let next := s.walkersOn r
        let h := s.record? r
        let s := s.setTile r { t with state := 4, dead := true }
        let s := s.updDie d (fun x => { x with lin := { x.lin with rebuilds := Sparse.erase x.lin.rebuilds r.toNat } })
        let s := match h with
          | some h => s.dropEntries d (fun e => e.isRebuild h && (match e.stat with
              | .running _ => false | _ => true))
          | none => s
        let s := (s.trim r trimFuel).updTile r (fun t => { t with linrec := 0xFFFFFFFF })
        s.unrecoverable (rest ++ next.filter (fun x => !rest.contains x)) (k + 1) fuel
      | _, _ => s.unrecoverable rest k fuel

/-- A version cannot be rebuilt: mark, record the event, settle its waiters (R522, R526). -/
def State.giveUp (s : State) (r : W64) : State :=
  let (k, s) := s.unrecoverable [r] 0 4096
  let d := (s.refDie r).getD 0
  (s.event 0x11 d 0 false 0 (Sparse.get s.clock (s.die d).lin.asked r.toNat) s.clock (min k (2 ^ 32 - 1))).readyAll

/-- A version is LOST and cannot be recovered: what waits for it is settled, and the versions whose rebuild needs it cannot be rebuilt
either (R149, R514, R522). -/
def State.hopelessNow (s : State) (r : W64) : State := ((s.walkersOn r).foldl State.giveUp s).readyAll

/-- The inputs of a record set can be had again: none has no entry or is LOST without lineage (R513). -/
def State.walkable (s : State) (h : LinRec) : Bool :=
  h.ins.all (fun x => match s.verState x with
    | some (st, _, dead, _) => !(st == 4 && dead)
    | none => s.isRemote x)

/-- A rebuild of a version would find no storage on its shard's die: the spec does not say what then; the request waits until
storage is free (log entry 91). -/
def State.noStorage (s : State) (r : W64) : Bool :=
  match s.tile? r, s.refDie r, s.record? r with
  | some t, some d, some h => (t.state == 4 || t.state == 6) && !t.repl && !t.kept && s.walkable h && (s.hbmPlace d t.region).1.isNone
  | _, _, _ => false

/-- Handle a recovery request at the version's shard (R513, R514); in fresh storage, without which the request waits (log
entry 91). -/
def State.recover (s : State) (r : W64) (p : Nat) : State :=
  match s.tile? r, s.refDie r with
  | some t, some d =>
    if (Sparse.find? (s.die d).lin.rebuilds r.toNat).isSome then s.raise r p 16
    else if t.state ≠ 4 ∧ t.state ≠ 6 then s
    else
      let p := max (max p t.wprio) (s.namedPrio r)
      let t' := { t with state := 5, again := t.again || t.state == 6 }
      let note (s : State) (k : Rebuild) : State := (s.setTile r t').updDie d (fun x => { x with lin := { x.lin with
        rebuilds := Sparse.set x.lin.rebuilds r.toNat (k, p) } })
      if t.repl || (t.state == 6 && t.kept) then note s .restore
      else
        match s.record? r, s.hbmPlace d t.region with
        | none, _ => (s.setTile r t').giveUp r
        | some h, (none, _) => if s.walkable h then s.askRecovery r p else (note s .rebuild).giveUp r
        | some h, (some a, s) =>
          if !s.walkable h then (note s .rebuild).giveUp r
          else
            let t' := { t' with loc := a }
            let s := (s.setTile r t').updDie d (fun x => { x with lin := ({ x.lin with
              rebuilds := Sparse.set x.lin.rebuilds r.toNat (.rebuild, p) } : Lineage).touch false t.linrec })
            let s := s.zeroFill t'
            let s := h.ins.foldl (fun s x =>
              match s.verState x with
              | some (st, _, _, _) =>
                if st = 4 ∨ st = 6 then s.askRecovery x p
                else if st = 5 then (if s.isRemote x then s.raiseFar d x p else s.raise x p 16)
                else s
              | none => s) s
            let there := ((s.die d).entries ++ (s.die d).waitEntry).any (fun e => e.isRebuild h)
            let s := if there then s.raiseTask d r p
              else
                let s := (distinct h.ins).foldl (fun s x =>
                  if s.isRemote x then s.tell d x (25 + h.tid <<< 8 + p <<< 56) (toBytes 2 h.pkg)
                  else s.markRebuild x (h.pkg, h.tid)) s
                s.enqueue d { queue := 64, task := h.task s p, stat := .waiting, image := none }
            s.readyAll
  | _, _ => s

/-- RECOVERY_REQUEST: the shard handles a request for the version `evt.w` (R513). -/
def execRecoveryRequest (s : State) : Host.Outcome State Fault Refusal :=
  match s.refDie s.evt.w with
  | none => .refused .notEnabled
  | some d =>
    match (s.die d).lin.requests.find? (fun q => q.1 == s.evt.w) with
    | none => .refused .notEnabled
    | some q =>
      if s.noStorage s.evt.w || !s.mayCome (.directory s.evt.w) 4 then .refused .notEnabled
      else
        let s := s.come (.directory s.evt.w) 4
        .next ((s.updDie d (fun x => { x with lin := { x.lin with requests := x.lin.requests.erase q } })).recover q.1 q.2)

/-- Bytes of a version's content. -/
def State.tileBytes (s : State) (t : Tile) : List Byte := s.readMem t.loc t.region

/-- Uses of a version as it becomes VALID after recovery (R520, R524): it may return to FREED at once. -/
def State.validAgain (s : State) (r : W64) : State :=
  match s.tile? r with
  | some t =>
    let t := if t.again then { t with uses := t.marked.length } else t
    let s := s.setTile r t
    if (t.again ∨ t.usesinit ≠ 0) ∧ t.uses = 0 then s.free_ r else s
  | none => s

/-- The replica of a version: held on this package, or what its buddy home on another package sends with the step (R332, R513). -/
def State.replica (s : State) (d : Nat) (r : W64) : Option (List Byte) :=
  match (List.range 4).findSome? (fun b => Sparse.find? (s.die b).replicas r.toNat) with
  | some c => some c
  | none => if (s.buddy d).any (fun b => b.1 != s.pkg) then some s.evt.data else none

/-- Begin the copy of a version to its buddy home, anew where one is under way; to another package its content is sent (R332). -/
def State.recopyTile (s : State) (r : W64) : State :=
  match s.refDie r, s.tile? r with
  | some d, some t =>
    let s := s.updDie d (fun x => { x with lin := { x.lin with copying := x.lin.copying.filter (fun y => y != r) ++ [r] } })
    (match s.buddy d with
     | some (p, b) => if p = s.pkg then s else s.injectTile d p b r (s.tileBytes t)
     | none => s)
  | _, _ => s

/-- RESTORE_COMPLETE: the replica of version `evt.w` is copied into fresh storage, which it waits for (log entry 91), or is its storage
already (R513); an acting home that held it replicates the version to its own buddy home again (R510). A lost replica leaves the version LOST; a record set that is still needed then serves (R514). -/
def execRestoreComplete (s : State) : Host.Outcome State Fault Refusal :=
  let r := s.evt.w
  match s.tile? r, s.refDie r with
  | some t, some d =>
    match Sparse.find? (s.die d).lin.rebuilds r.toNat with
    | some (.restore, _) =>
      let ended := s.updDie d (fun x => { x with lin := { x.lin with rebuilds := Sparse.erase x.lin.rebuilds r.toNat } })
      if t.kept then .next (((ended.setTile r { t with state := 3, depth := 0, kept := false }).validAgain r).readyAll)
      else
        match s.replica d r, ended.hbmPlace d t.region with
        | some c, (some a, s) =>
          let here := (Sparse.find? (s.die d).replicas r.toNat).isSome
          let t := { t with loc := a, state := 3, depth := 0, repl := t.repl && !here }
          let s := ((s.zeroFill t).writeMem a c).setTile r t
          .next (((if here then s.recopyTile r else s).validAgain r).readyAll)
        | some _, (none, _) => .refused .notEnabled
        | none, _ =>
          let t := { t with state := 4, repl := false }
          let s := ended.setTile r t
          .next (if t.recoverable then s.askRecovery r t.wprio else s.giveUp r)
    | _ => .refused .notEnabled
  | _, _ => .refused .notEnabled

/-- Whether a version's record set is needed (R504). -/
def Tile.needed (t : Tile) : Bool := !t.repl && !t.nolin

/-- Begin the copy of a version to its buddy home, unless it is under way (R332, R502). -/
def State.replicate (s : State) (r : W64) : State := if s.copying r then s else s.recopyTile r

/-- Parts of a version's content on their way to its buddy home, not yet acknowledged (R466). -/
def E2E.sending (e : E2E) (r : W64) : Bool :=
  (e.store ++ e.waiting).any (fun p => p.op == 2 && p.addr == r && bit p.aux.toNat 60)

/-- REPLICATION_COMPLETE: the buddy home has acknowledged a complete replica of version `evt.w`: repl reads 1, the depth
is 0, and the record set, no longer needed, is trimmed (R332, R66, R502, R504). A version that the host loads is VALID from now
(R66). -/
def execReplicationComplete (s : State) : Host.Outcome State Fault Refusal :=
  let r := s.evt.w
  match s.tile? r, s.refDie r with
  | some t, some d =>
    match (s.die d).lin.copying.contains r, s.buddy d with
    | true, some (p, b) =>
      if (s.die d).e2e.sending r then .refused .notEnabled
      else
        let s := s.updDie d (fun x => { x with lin := { x.lin with copying := x.lin.copying.erase r } })
        if t.state ≠ 3 ∧ !t.kept then .next s
        else
          let s := if p = s.pkg then s.updDie b (fun x => { x with
              replicas := Sparse.set x.replicas r.toNat (s.tileBytes t) }) else s
          let loaded := t.kept && t.state == 2
          let s := (s.setTile r { t with repl := true, depth := 0, kept := false, state := if loaded then 3 else t.state }).trim r trimFuel
          .next (if loaded then s.readyAll else s)
    | _, _ => .refused .notEnabled
  | _, _ => .refused .notEnabled

/-! ### Producers lost, content destroyed -/

/-- What stays with a context whose task or handler is gone: its handler word, its wake queue, the contents of its grid,
landing slots and planes, which no rule clears until a task starts there (R181, R388, R389). -/
def Ctx.freed (c : Ctx) : Ctx :=
  { Ctx.reset with
    regs := { Regs.reset with grid := c.regs.grid, land := c.regs.land }
    planes := { c.planes with streams := [], hidden := [], busyStream := [], busyOther := [] }
    sys := { SysRegs.reset with himg := c.sys.himg, hctl := c.sys.hctl, armed := bit c.sys.hctl.toNat 63 }
    sync := { SyncSide.reset with wakes := c.sync.wakes }
    cnt := c.cnt }

/-- A context that may start a task (R151, R389). -/
def Ctx.vacant (c : Ctx) : Bool := decide (c.mode = .free) && !c.sys.armed

/-- A context disarmed and without work discards its queued wakes, which are reported (R389). -/
def State.dropWakes (s : State) (n : Nat) : State :=
  let c := s.ctx n
  let k := c.sync.wakes.length
  if c.vacant && 0 < k then
    (s.setCtx n { c with sync := { c.sync with wakes := [] } }).controlEvent (dieOf (coreOf n)) (coreOf n) (n % 4) 2 (min k 255)
  else s

/-- Unconfigure the rings that a context owns (R380). -/
def State.dropRings (s : State) (n : Nat) : State :=
  s.updCore (coreOf n) (fun k => { k with rings := k.rings.filter (fun p => !(p.2.conf && p.2.owner == n)) })

/-- The quad of a core: four cores share a fitting engine (R16, R297). -/
def quadOf (core : Nat) : Nat := core / 4

/-- Region table of a quad (R298). -/
def State.quad (s : State) (q : Nat) : Sparse RegEntry := Sparse.get [] s.quads q

/-- One binding fewer of a weight version on a quad (R298, R314). -/
def State.unbind (s : State) (n : Nat) (ref : W64) : State :=
  let q := quadOf (coreOf n)
  { s with quads := Sparse.set s.quads q ((s.quad q).map (fun e =>
      (e.1, if e.2.wref = ref then { e.2 with refs := e.2.refs - 1, used := s.clock } else e.2))) }

/-- Release every loaded binding of a context: its task ends or leaves (R298, R421). -/
def State.unbindAll (s : State) (n : Nat) : State :=
  (s.ctx n).fit.views.foldl (fun s v => if v.2.wref != 0 && v.2.loaded then s.unbind n v.2.wref else s) s

/-- The context's bundles no longer hold lines of the bundle cache locked (R202). -/
def Core.unlock (k : Core) (n : Nat) : Core :=
  { k with cache := k.cache.map (fun l => if l.lock = some n then { l with lock := none } else l) }

/-- A context gives up its task or handler without its end: rings, weight bindings and locked lines are released (R298, R380,
R202). -/
def State.abandon (s : State) (n : Nat) : State :=
  let s := ((s.dropRings n).unbindAll n).updCore (coreOf n) (fun k => k.unlock n)
  (s.setCtx n (s.ctx n).freed).dropWakes n

/-- Whether a context runs a task with an id. -/
def State.runs (s : State) (n tid : Nat) : Bool :=
  match (s.ctx n).task with | some t => t.tid == tid && !t.rebuilt | none => false

/-- A producer is lost before TLFIN: the state change at one output (R45, R46). -/
def State.producerLost (s : State) (prod : Nat × Nat) (r : W64) : State :=
  match s.tile? r with
  | some t => if (t.state = 1 ∨ t.state = 2) ∧ t.prod = some prod then (s.zeroFill t).setTile r { t with state := 1 } else s
  | none => s

/-- The rebuild of a version is lost, or its content before TLFIN: LOST, and recovery is requested again (R45, R46, R514). -/
def State.rebuildLost (s : State) (r : W64) : State :=
  match s.tile? r, s.refDie r with
  | some t, some d =>
    if t.state = 5 then
      let p := match Sparse.find? (s.die d).lin.rebuilds r.toNat with | some (_, q) => max q t.wprio | none => t.wprio
      let s := s.updDie d (fun x => { x with lin := { x.lin with rebuilds := Sparse.erase x.lin.rebuilds r.toNat } })
      ((s.zeroFill t).setTile r { t with state := 4 }).askRecovery r p
    else s
  | _, _ => s

/-- The instance of an entry of die `d` is lost: what becomes of its outputs (R45, R46). Of a rebuild only one that was dispatched
loses anything, and only for the versions that its shard rebuilds (R514). -/
def State.outputsLost (s : State) (d : Nat) (e : QEntry) : State :=
  let started := match e.stat with | .waiting | .ready _ => false | _ => true
  e.task.desc.outs.foldl (fun s r =>
    if e.task.rebuilt then (if started && s.refDie r == some d then s.rebuildLost r else s)
    else if s.isRemote r then s.tell d r (10 + e.task.tid <<< 8) []
    else s.producerLost (s.pkg, e.task.tid) r) s

/-- An entry whose instance is lost, as it waits again: under its id, level, base priority and age (R144). -/
def QEntry.again (e : QEntry) : QEntry := { e with stat := .waiting, image := none, task := { e.task with redispatched := true } }

/-- Re-dispatch an entry: its outputs return to FUTURE, its running instance ends, and it waits in its queue again; it holds no level
change back any more (R45, R144, R164, R508). -/
def State.redispatch (s : State) (d : Nat) (e : QEntry) : State :=
  let s := s.outputsLost d e
  let s := match e.stat with
    | .running n => s.abandon n
    | _ => s
  s.updDie d (fun x => ({ x with entries := x.entries.map (fun y => if y = e then e.again else y) } : Die).passChanges)

/-- Re-dispatch the producer of a version, named by package and task id; one of another package is told (R45). -/
def State.redispatchTid (s : State) (r : W64) (prod : Option (Nat × Nat)) : State :=
  match prod with
  | none => s
  | some (p, tid) =>
    if p ≠ s.pkg then
      s.inject ((s.refDie r).getD 0) p (s.taskDie p tid) 1 0x05 true r (BitVec.ofNat 64 (12 + tid <<< 8)) []
    else (List.range 4).foldl (fun s d =>
      ((s.die d).entries.filter (fun e => e.task.tid == tid && !e.task.rebuilt)).foldl (fun s e => s.redispatch d e) s) s

/-- Content destroyed at a version's home (R45, R46, R512). -/
def State.destroyed (s : State) (r : W64) : State :=
  match s.tile? r with
  | none => s
  | some t =>
    if t.state = 2 then (((s.zeroFill t).setTile r { t with state := 1, kept := false }).redispatchTid r t.prod).readyAll
    else if t.state = 3 then
      let s := s.setTile r { t with state := 4 }
      if t.recoverable then s.askRecovery r t.wprio else s.hopelessNow r
    else if t.state = 5 then s.rebuildLost r
    else s

/-- CONTENT_DESTROYED: a report reaches the home of version `evt.w` (R45, R507). -/
def execContentDestroyed (s : State) : Host.Outcome State Fault Refusal :=
  match s.refDie s.evt.w with
  | none => .refused .notEnabled
  | some d =>
    if (s.die d).lin.reports.contains s.evt.w && s.mayCome (.directory s.evt.w) 3 then
      let s := s.come (.directory s.evt.w) 3
      .next ((s.updDie d (fun x => { x with lin := { x.lin with reports := x.lin.reports.erase s.evt.w } })).destroyed s.evt.w)
    else .refused .notEnabled

/-- USE_RELEASE: a release of version `evt.w` by task `evt.m` of package `evt.n` reaches its home (R52, R520). -/
def execUseRelease (s : State) : Host.Outcome State Fault Refusal :=
  let r := s.evt.w
  let q := (r, s.evt.n, s.evt.m)
  match s.refDie r with
  | none => .refused .notEnabled
  | some d =>
    if !(s.die d).lin.releases.contains q || !s.mayCome (.directory r) 5 then .refused .notEnabled
    else
      let s := s.come (.directory r) 5
      let s := s.updDie d (fun x => { x with lin := { x.lin with releases := x.lin.releases.erase q } })
      match s.tile? r with
      | none => .next s
      | some t =>
        let mark := t.marked.contains (s.evt.n, s.evt.m)
        if !mark && (t.usesinit == 0 || t.uses == 0) then .next s
        else
          let t := { t with uses := t.uses - 1, marked := t.marked.erase (s.evt.n, s.evt.m) }
          let s := s.setTile r t
          .next (if t.uses = 0 ∧ t.state = 3 then s.free_ r else s)

/-- The version whose region of storage holds an address (R507). -/
def State.versionAt (s : State) (pa : Nat) : Option W64 :=
  (List.range 4).findSome? (fun d => (s.die d).tiles.findSome? (fun p =>
    if p.2.stored ∧ p.2.loc ≤ pa ∧ pa < p.2.loc + p.2.region then some (BitVec.ofNat 64 p.1) else none))

/-- PATROL_SCRUB: the scrub of the die of physical address `evt.n` reads its line and finds an uncorrectable error: the
line is bad, and its version's home gets a report (R507, R545). -/
def execPatrolScrub (s : State) : Host.Outcome State Fault Refusal :=
  let a := s.evt.n
  match placeOf a with
  | .hbm _ | .tile .. | .plain .. =>
    let d := bits a 44 2
    let s := s.updDie d (fun x => if x.bad.contains (a / 256) then x else { x with bad := x.bad ++ [a / 256] })
    match s.versionAt (a / 256 * 256) with
    | some r =>
      (match s.refDie r with
       | some h => .next (s.updDie h (fun x => { x with lin := { x.lin with reports := x.lin.reports ++ [r] } }))
       | none => .next s)
    | none => .next s
  | _ => .refused .notEnabled

/-! ### Operations at the home (R327 to R332) -/

/-- The 32 bytes of a directory entry, with the number of contexts parked on the version, on any package (R42, R394). -/
def State.entryBytes (s : State) (r : W64) (t : Tile) : List Byte :=
  let parked := (s.ctxs.filter (fun c => c.2.sync.await == some (.tile r))).length + t.parked.length
  t.entry s.pkg r parked

/-- TLNEW at the home (R36, R41, R327): the new reference, or the failure that creates nothing. -/
def State.tlnew (s : State) (home : Nat) (shape num : W64) (job : Nat) : Except Nat W64 × State :=
  let d := home % 4
  let x := s.die d
  let w := shape.toNat
  let n := num.toNat
  if !shapeOk shape then (.error cTLSHAPE, s)
  else if n ≠ 0 ∧ (Sparse.find? x.versions n).isNone then (.error cTLSTATE, s)
  else if n ≠ 0 ∧ 65535 ≤ Sparse.get 0 x.versions n then (.error cTLVEROVF, s)
  else
    let t := newTile w job
    let core := 256 * d + bits w 36 8
    let range := if bit w 35 then (windowBase core, windowBase core + 0x180000) else hbmRange d
    match s.allocate d range.1 range.2 t.region with
    | (none, s) => (.error cTLSPACE, s)
    | (some a, s) =>
      let num := if n = 0 then x.nextTile else n
      let ver := Sparse.get 0 x.versions num + 1
      let r := mkRef home num ver
      let t := { t with loc := a }
      let s := s.updDie d (fun y => { y with
        versions := Sparse.set y.versions num ver, nextTile := if n = 0 then y.nextTile + 1 else y.nextTile })
      (.ok r, (s.zeroFill t).setTile r t)

/-- Whether the writer of task `t` of this package is the producer of a version (R45, R329, R518). -/
def Tile.producer (x : Tile) (pkg : Nat) (r : W64) (t : Option Task) : Bool :=
  match t with
  | none => false
  | some t => if x.state = 5 then t.rebuilt && t.desc.outs.contains r else !t.rebuilt && x.prod == some (pkg, t.tid)

/-- A rebuilt instance writes an output that is not in REBUILDING, or a restored one an output that is VALID: nothing
happens (R441, R518). -/
def Tile.discards (x : Tile) (r : W64) (t : Option Task) : Bool :=
  match t with
  | none => false
  | some t => t.desc.outs.contains r && ((t.rebuilt && x.state != 5) || (t.restored && !t.rebuilt && x.state == 3))

/-- Byte position of a tile access (R325): row of the pointer, offset, size of the unit; it may be negative. -/
def tilePos (x : Tile) (a : W80) (off : Int) (size : Nat) : Int :=
  ((bits a.toNat 68 12 * x.rowBytes : Nat) : Int) + off * size

/-- A byte range lies within a region (R325). -/
def inRegion (x : Tile) (p : Int) (n : Nat) : Bool := decide (0 ≤ p ∧ p + n ≤ x.region)

/-- How the directory answers an operation on a reference for which it holds no entry (R37, R510). -/
def State.noEntry (s : State) (r : W64) (read : Bool) : Nat :=
  if read && s.answers (refHome r) != refHome r then cTILELOST else cTLSTATE

/-- A reference of a lost home for which the acting home holds no entry: directory operations other than reads trap on it (R510,
R511). -/
def State.strange (s : State) (r : W64) : Bool := (s.tile? r).isNone && s.answers (refHome r) != refHome r

/-- TLRD at the home (R45, R48, R328): the 256 bytes, or a fault; an uncorrectable error makes the version LOST. -/
def State.tlrd (s : State) (a : W80) (off : BitVec 10) : Except Nat (List Byte) × State :=
  let r : W64 := a.truncate 64
  match s.tile? r with
  | none => (.error (s.noEntry r true), s)
  | some t =>
    let p := tilePos t a off.toInt 256
    if t.state = 6 then (.error cTLSTATE, s)
    else if !inRegion t p 256 then (.error cTLRANGE, s)
    else if t.state = 3 then
      let b := t.loc + p.toNat
      if s.badAt b 256 then (.error cFUTEMPTY, s.destroyed r) else (.ok (s.readMem b 256), s)
    else if t.hopeless then (.error cTILELOST, s)
    else (.error cFUTEMPTY, s)

/-- TLWR at the home by a task of package `wp` (R45, R329): the bytes of the write and its fault, if any. -/
def State.tlwr (s : State) (wp : Nat) (task : Option Task) (a : W80) (src : Line) (off : BitVec 14) (raw : Bool) (tt : Ty) (fmt : W32)
    (seed rank : W64) : Option Nat × State :=
  let r : W64 := a.truncate 64
  match s.tile? r with
  | none => (some cTLSTATE, s)
  | some t =>
    let eb := tt.bits / 8
    let n := if raw then 256 else 64 * eb
    let p := tilePos t a off.toInt n
    if t.discards r task then (none, s)
    else if !t.producer wp r task || !(t.state == 1 || t.state == 2 || t.state == 5) then (some cTLSTATE, s)
    else if !inRegion t p n then (some cTLRANGE, s)
    else if !raw && t.efmt != tt.efmt.code then (some cTLSHAPE, s)
    else
      let rnd : Rnd := { mode := fmtMode fmt, ftz := fmtFtz fmt, seed := seed, rank := rank, ref := r,
                         base := BitVec.ofNat 64 (p.toNat / eb) }
      let bytes := if raw then lineBytes src else convLine rnd tt src
      let s := s.store (t.loc + p.toNat) bytes
      (none, if t.state = 1 then s.setTile r { t with state := 2 } else s)

/-- Bytes that a copy command writes at position `p` of a version, at the home (R45, R337): the fault, if any. -/
def State.tileStore (s : State) (wp : Nat) (task : Option Task) (r : W64) (p : Nat) (bs : List Byte) : Option Nat × State :=
  match s.tile? r with
  | none => (some cTLSTATE, s)
  | some t =>
    if t.discards r task then (none, s)
    else if !t.producer wp r task || !(t.state == 1 || t.state == 2 || t.state == 5) then (some cTLSTATE, s)
    else if !inRegion t p bs.length then (some cTLRANGE, s)
    else
      let s := s.store (t.loc + p) bs
      (none, if t.state = 1 then s.setTile r { t with state := 2 } else s)

/-- TLFIN at the home (R45, R47, R60): apx as given, waiters readied; a rebuild ends (R514, R520). -/
def State.tlfin (s : State) (wp : Nat) (task : Option Task) (r : W64) (apx : Bool) : Option Nat × State :=
  match s.tile? r, s.refDie r with
  | some t, some d =>
    if t.discards r task then (none, s)
    else if !t.producer wp r task || !(t.state == 1 || t.state == 2 || t.state == 5) then (some cTLSTATE, s)
    else if t.state = 5 then
      let s := s.updDie d (fun x => { x with lin := { x.lin with rebuilds := Sparse.erase x.lin.rebuilds r.toNat } })
      (none, ((s.setTile r { t with state := 3 }).validAgain r).readyAll)
    else
      let s := s.setTile r { t with state := 3, apx := apx }
      (none, s.readyAll)
  | _, _ => (some cTLSTATE, s)

/-- TLREP at the home (R332). -/
def State.tlrep (s : State) (r : W64) : Nat × State :=
  match s.tile? r with
  | none => (2, s)
  | some t => if t.repl then (0, s) else if t.state ≠ 3 then (1, s) else (0, s.replicate r)

end Sys2Proof.Machine
end

