-- ==== Sys2Proof/Machine/Tiles.lean ====
section
/-! DEFINITION. The tile instructions (R324 to R332) as they issue, and their application at the home directory. -/

namespace Sys2Proof.Machine

/-- Issue or hold a tile operation. -/
def State.tileVerdict (s : State) (latch : Bool) (base : W80) : Verdict :=
  s.roomFor latch 0 ((addrWithHome base selfHome)) []

/-- Operations that a stale reference answers without a fault (R331, R332). -/
def ReqOp.asks : ReqOp → Bool
  | .tlqry | .tlrep => true
  | _ => false

/-- What answers a tile operation at once: a reserved home is stale, an unreachable package is UNREACH (R37, R473); a TLNEW on a lost
home makes no version there, so that none is made twice (R36; log entry 92). -/
def State.homeFault (s : State) (op : ReqOp) (home : Nat) (ref : W64) : Option FaultRec :=
  let new := match op with | .tlnew _ => true | _ => false
  if 24576 ≤ home then (if op.asks then none else some { cause := cTLSTATE, taddr := ref })
  else if (s.answers home / 4 ≠ s.pkg ∧ !s.reaches (s.answers home / 4)) || (new && s.answers home != home) then
    some { cause := cUNREACH, taddr := ref }
  else none

/-- The answer to a TLQRY or TLREP that presents a reference with a reserved home: the reference and zeros, or 2 (R37, R331,
R332). -/
def staleAnswer (op : ReqOp) (ref : W64) : List Byte := match op with | .tlrep => toBytes 8 2 | _ => toBytes 8 ref.toNat

/-- The place from which a TLRD reads, as the directory has it at issue (R184, R208). -/
def State.tilePlace (s : State) (op : ReqOp) (base : W80) : Option Nat :=
  (s.tile? (base.truncate 64)).map (fun t => match op with
    | .tlrd off => t.loc + (tilePos t base off.toInt 256).toNat
    | _ => t.loc)

/-- Worst case of a tile request: of a TLRD that of the version's storage, of others that of the directory (R208, R320, R328). -/
def State.tileWorst (s : State) (n : Nat) (op : ReqOp) (home : Nat) (base : W80) : Nat :=
  if s.answers home / 4 != s.pkg then 0
  else match op, s.tilePlace op base with
    | .tlrd _, some a => srcWorst n a
    | _, _ => dirWorst n home

/-- Issue a tile request of the running context (R318, R326). -/
def State.tileRequest (s : State) (slot : Slot) (op : ReqOp) (home : Nat) (base : W80) (ref : W64)
    (land : Option (Dest × Nat)) : State :=
  let n := s.cur
  let c := s.me
  let id := c.mem.nextId
  let t := c.sched.time
  let f := s.homeFault op home ref
  let stale := decide (24576 ≤ home) && op.asks
  let worst := s.tileWorst n op home base
  let bound := if c.level = 2 ∧ worst ≠ 0 then some (t + worst) else none
  let r : Req :=
    { id := id, ord := c.sched.ord + slot.num, t := t, slot := slot, op := op, cls := 0, home := home, base := base, pieces := [],
      data := if stale then staleAnswer op ref else [], fault := f, performed := stale, acked := false, bound := bound, remote := none
      place := s.tilePlace op base }
  let s := s.updCtx n (fun c => { c with mem := { c.mem with nextId := id + 1, reqs := c.mem.reqs ++ [r] } })
  match land with
  | some (dest, dist) =>
    let l := { c.newLatch slot id dist dest with
      taddr := ref, pad := padOf c.level worst dist, born := (s.core (coreOf n)).cycle, worst := worst }
    s.updCtx n (fun c => { c with sched := { c.sched with latches := c.sched.latches ++ [l] } })
  | none => s

/-- TLNEW (R327): aa[79:65] names the home die, 0x7FFF the issuer's own. -/
def execTlnew (p : Pred) (d : BitVec 6) (a : BitVec 5) (dist : BitVec 12) (n : BitVec 6) (s : State) :
    Host.Outcome State Fault Refusal :=
  let x := s.me.a a
  let home := if addrHome x = selfHome then dieKey s.pkg s.myDie else addrHome x
  act s p (s.tileVerdict true x) (fun s =>
    s.tileRequest .ld (.tlnew (s.me.g n)) home x (mkRef home (s.me.g n).toNat 0) (some (.g d, dist.toNat)))

/-- TLRD (R328). -/
def execTlrd (p : Pred) (l : BitVec 4) (a : BitVec 5) (dist : BitVec 12) (off : BitVec 10) (s : State) :
    Host.Outcome State Fault Refusal :=
  let x := s.me.a a
  let r : W64 := x.truncate 64
  act s p (s.tileVerdict true x) (fun s => s.tileRequest .ld (.tlrd off) (refHome r) x r (some (.land l, dist.toNat)))

/-- TLQRY (R331). -/
def execTlqry (p : Pred) (l : BitVec 4) (a : BitVec 5) (dist : BitVec 12) (s : State) : Host.Outcome State Fault Refusal :=
  let x := s.me.a a
  let r : W64 := x.truncate 64
  act s p (s.tileVerdict true x) (fun s => s.tileRequest .ld .tlqry (refHome r) x r (some (.land l, dist.toNat)))

/-- TLREP (R332). -/
def execTlrep (p : Pred) (d : BitVec 6) (a : BitVec 5) (dist : BitVec 12) (s : State) : Host.Outcome State Fault Refusal :=
  let x := s.me.a a
  let r : W64 := x.truncate 64
  act s p (s.tileVerdict true x) (fun s => s.tileRequest .ld .tlrep (refHome r) x r (some (.g d, dist.toNat)))

/-- TLWR (R329): raw with .f32, else converting; a converting write updates mx at t+3 and does not advance rsn. -/
def execTlwr (p : Pred) (tt : Ty) (mx : BitVec 2) (s : Src) (a : BitVec 5) (off : BitVec 14) (s_ : State) :
    Host.Outcome State Fault Refusal :=
  let x := s_.me.a a
  let r : W64 := x.truncate 64
  let v := s_.me.src 32 s
  act s_ p (s_.tileVerdict false x) (fun q =>
    let q := q.tileRequest .st (.tlwr v off (tt == .f32) tt q.me.regs.fmt) (refHome r) x r none
    if tt = .f32 then q else q.result .st 3 (.mx mx) (lineAmax q.me.rnd.ftz v))

/-- TLFIN: from its issue the version counts as finished for the task (R330, R61). -/
def execTlfin (p : Pred) (a : BitVec 5) (s : State) : Host.Outcome State Fault Refusal :=
  let x := s.me.a a
  let r : W64 := x.truncate 64
  act s p (s.tileVerdict false x) (fun s =>
    (s.tileRequest .st .tlfin (refHome r) x r none).updMe (fun c => { c with mem := { c.mem with fins := c.mem.fins ++ [r] } }))

/-- An earlier operation of the context on the same reference has not reached the home yet (R44, R469). -/
def Ctx.tileFirst (c : Ctx) (r : Req) : Bool :=
  c.mem.reqs.all (fun q => !(q.op.isTile && decide (q.ord < r.ord) && q.base.truncate 64 == (r.base.truncate 64 : W64)) ||
    q.performed || q.fault.isSome)

/-- Everything that a TLFIN waits for is acknowledged: what the context issued before it, in the order of issue (R330). -/
def Ctx.finReady (c : Ctx) (pkg core : Nat) (r : Req) : Bool :=
  c.mem.reqs.all (fun q => !(decide (q.ord < r.ord) && (q.op.isStore || q.isAtomic) && (match q.op with
      | .tlfin => false | _ => true)) || q.acked) &&
  c.ownDone pkg core r.ord &&
  c.mem.cmds.all (fun m => decide (r.ord ≤ m.ord) || decide (m.stat = .done))

/-- Any approximate input, or any region served a surrogate (R60). -/
def State.apxOf (s : State) (n : Nat) : Bool :=
  let c := s.ctx n
  c.fit.views.any (fun v => v.2.served) ||
  (match c.task with
   | some t => t.apxIn || t.desc.ins.any (fun x => match s.verState x with | some (_, apx, _, _) => apx | none => false)
   | none => false)

/-- The fault of a tile request: its cause and the reference. -/
def tileFault (c : Nat) (r : W64) : FaultRec := { cause := c, taddr := r }

/-- taddr of a failed TLNEW (R401). -/
def tlnewAddr (cause home : Nat) (num : W64) : W64 :=
  if cause = cTLSPACE then mkRef home 0 0 else mkRef home num.toNat 0

/-- Apply a tile request of context `n` at its home. -/
def State.tileApply (s : State) (n : Nat) (r : Req) : State :=
  let ref : W64 := r.base.truncate 64
  let c := s.ctx n
  let fail (s : State) (f : FaultRec) : State := s.updReq n r.id (fun q => { q with fault := some f, performed := true })
  let ok (s : State) (d : List Byte) : State := s.updReq n r.id (fun q => { q with data := d, performed := true })
  match r.op with
  | .tlnew num =>
    let job := match c.task with | some t => t.desc.job | none => 0
    (if s.answers r.home != r.home then fail s (tileFault cUNREACH (tlnewAddr cUNREACH r.home num)) else
     match s.tlnew r.home ref num job with
     | (.ok x, s) => ok s (toBytes 8 x.toNat)
     | (.error e, s) => fail s (tileFault e (tlnewAddr e r.home num)))
  | .tlrd off =>
    (match s.tlrd r.base off with
     | (.ok b, s) => ok s b
     | (.error e, s) => fail s (tileFault e ref))
  | .tlwr src off raw tt fmt =>
    (match s.tlwr s.pkg c.task r.base src off raw tt fmt c.seed c.rank64 with
     | (none, s) => ok s []
     | (some e, s) => fail s (tileFault e ref))
  | .tlqry =>
    (match s.tile? ref with
     | some t => ok s (s.entryBytes ref t)
     | none => if s.strange ref then fail s (tileFault cTLSTATE ref) else ok s (toBytes 8 ref.toNat))
  | .tlrep =>
    if s.strange ref then fail s (tileFault cTLSTATE ref)
    else
      let (k, s) := s.tlrep ref
      ok s (toBytes 8 k)
  | .tlfin =>
    (match s.tlfin s.pkg c.task ref (s.apxOf n) with
     | (none, s) => ok s []
     | (some e, s) => fail s (tileFault e ref))
  | _ => s

/-- The order of the operations of one cycle at a directory entry (R44). -/
def ReqOp.rank : ReqOp → Nat
  | .tlfin => 0
  | .tlwr .. => 1
  | _ => 2

/-- A tile request reaches its entry: no operation of this cycle that ranks above it has (R44). -/
def State.mayTouch (s : State) (r : Req) : Bool := s.mayCome (.directory (r.base.truncate 64)) r.op.rank

/-- Note that a tile request reached its entry (R44). -/
def State.touched (s : State) (r : Req) : State := s.come (.directory (r.base.truncate 64)) r.op.rank

/-- What a tile request's packet tells of the writing task: its id and whether it is a rebuilt or restored instance. -/
def Ctx.taskBits (c : Ctx) : Nat × Nat :=
  match c.task with | some t => (t.tid, b2n t.rebuilt + 2 * b2n t.restored) | none => (2 ^ 48 - 1, 0)

/-- A tile request's packet body: its kind, with 8 where the version is no output of the writing task, the row of its pointer and what
it carries (log entry 5). -/
def Req.tileBody (r : Req) (c : Ctx) (apx : Bool) : List Byte :=
  let (tid, fl) := c.taskBits
  let row := bits r.base.toNat 68 12
  let other := if c.task.any (fun t => t.desc.outs.contains (r.base.truncate 64)) then 0 else 8
  match r.op with
  | .tlnew num => toBytes 1 0 ++ toBytes 8 num.toNat ++ toBytes 4 (match c.task with | some t => t.desc.job | none => 0)
  | .tlrd off => toBytes 1 1 ++ toBytes 2 off.toNat ++ toBytes 2 row
  | .tlwr src off _ tt fmt =>
    toBytes 16 (2 + other + tt.code <<< 4 + off.toNat <<< 8 + fl <<< 22 + row <<< 24 + (c.rank64.toNat % 4096) <<< 36 + tid <<< 48 +
      fmt.toNat <<< 96) ++ lineBytes src ++ toBytes 8 c.seed.toNat
  | .tlfin => toBytes 1 (3 + other) ++ toBytes 1 (b2n apx + fl <<< 1) ++ toBytes 6 tid
  | .tlqry => toBytes 1 4
  | .tlrep => toBytes 1 5
  | _ => []

/-- A tile request homed on another package is sent there (R318, R469). -/
def State.sendTile (s : State) (n : Nat) (r : Req) : State :=
  (s.inject (dieOf (coreOf n)) (s.answers r.home / 4) (s.answers r.home % 4) 0 5 true (r.base.truncate 64) (reqTag n r.id 0)
    (r.tileBody (s.ctx n) (s.apxOf n))).updReq n r.id (fun r => { r with remote := some 0 })

/-- A tile request may be sent to another package: earlier ones of its reference are under way. -/
def State.mayTile (s : State) (n : Nat) (r : Req) : Bool :=
  s.answers r.home / 4 != s.pkg && r.remote.isNone && s.fab.rcf.isNone && (s.ctx n).mem.reqs.all (fun q =>
    !(q.op.isTile && decide (q.ord < r.ord) && q.base.truncate 64 == (r.base.truncate 64 : W64)) || q.performed ||
      q.fault.isSome || q.remote.isSome)

/-- Firmware reads the directory entry of version `evt.w`, whose bytes leave, or writes it as `evt.data` has it (R42). -/
def State.firmwareEntry (s : State) : Host.Outcome State Fault Refusal :=
  match s.tile? s.evt.w with
  | none => .refused .notEnabled
  | some t =>
    if s.evt.data.isEmpty then .next { s with out := s.out ++ [.answer s.evt.w.toNat (s.entryBytes s.evt.w t)] }
    else .next (s.setTile s.evt.w (t.withEntry (ofBytes (s.evt.data.take 32)))).readyAll

/-- DIRECTORY_OPERATION: request `evt.m` of context `evt.n` reaches its home directory and is applied, or is sent to
another package (R44); with `evt.flag`, control-core firmware reads or writes an entry (R42). -/
def execDirectoryOperation (s : State) : Host.Outcome State Fault Refusal :=
  if s.evt.flag then s.firmwareEntry
  else
  let n := s.evt.n
  match s.req? n s.evt.m with
  | none => .refused .notEnabled
  | some r =>
    let fin := match r.op with | .tlfin => true | _ => false
    if !r.op.isTile || fin || r.performed || r.fault.isSome then .refused .notEnabled
    else if s.mayTile n r then .next (s.sendTile n r)
    else if s.answers r.home / 4 != s.pkg || !(s.ctx n).tileFirst r || !s.mayTouch r then .refused .notEnabled
    else .next ((s.touched r).tileApply n r)

/-- TLFIN_APPLY: a TLFIN is applied at its home once everything the context issued before it is acknowledged (R45, R47,
R330). -/
def execTlfinApply (s : State) : Host.Outcome State Fault Refusal :=
  let n := s.evt.n
  match s.req? n s.evt.m with
  | none => .refused .notEnabled
  | some r =>
    match r.op with
    | .tlfin =>
      if r.performed || r.fault.isSome || !(s.ctx n).finReady s.pkg (coreOf n) r then .refused .notEnabled
      else if s.mayTile n r then .next (s.sendTile n r)
      else if s.answers r.home / 4 != s.pkg || !(s.ctx n).tileFirst r || !s.mayTouch r then .refused .notEnabled
      else .next ((s.touched r).tileApply n r)
    | _ => .refused .notEnabled

/-- HOST_TILE_LOAD: the host's load of version `evt.w` (its home a die of this package, number and version in the
reference, shape word `evt.v`, job `evt.m`, content `evt.data`) writes the home copy and the buddy-home copy; the
version is VALID, replicated, without a producer and without lineage records (R66). A buddy home on another package is written
first: the version is VALID once it has acknowledged its copy. Where the home has no buddy home (R185) nothing holds a replica, so
repl reads 0 until one comes online and has its copy; the spec names no other value for that case (log entry 93). -/
def execHostTileLoad (s : State) : Host.Outcome State Fault Refusal :=
  let r := s.evt.w
  let d := refHome r % 4
  if s.isRemote r || !s.online d || s.answers (refHome r) != refHome r || (s.tile? r).isSome || refNum r == 0 || refVer r == 0 ||
      !shapeOk s.evt.v then
    .refused .notEnabled
  else
    let t := newTile s.evt.v.toNat s.evt.m
    match s.hbmPlace d t.region with
    | (none, _) => .refused .notEnabled
    | (some a, s) =>
      let t := { t with loc := a, state := 3 }
      let s := ((s.zeroFill t).writeMem a (s.evt.data.take t.region)).updDie d (fun y => { y with
        versions := Sparse.set y.versions (refNum r) (max (refVer r) (Sparse.get 0 y.versions (refNum r)))
        nextTile := max y.nextTile (refNum r + 1) })
      match s.buddy d with
      | some (p, b) =>
        if p = s.pkg then .next ((s.setTile r { t with repl := true }).updDie b (fun x => { x with
          replicas := Sparse.set x.replicas r.toNat (s.tileBytes t) })).readyAll
        else .next ((s.setTile r { t with state := 2, kept := true }).replicate r)
      | none => .next ((s.setTile r t).replicate r).readyAll

end Sys2Proof.Machine
end

