-- ==== Sys2Proof/Machine/Sync.lean ====
section
/-! DEFINITION. The SY slot (R111): NOP, FMT, WAIT, YIELD (R369 to R374), barriers (R375 to R379), fences (R361), and
handlers started by arriving data (R388 to R392). -/

namespace Sys2Proof.Machine

/-! ### NOP, FMT, WAIT, YIELD -/

/-- NOP (R104, R111). -/
def execNop (_k : BitVec 2) (s : State) : Host.Outcome State Fault Refusal := .next s

/-- FMT: the half h of fmt is written at t+4 (R111, R217). -/
def execFmt (_k : BitVec 2) (h : Bool) (v : BitVec 16) (s : State) : Host.Outcome State Fault Refusal :=
  .next (s.result .sy 4 (.fmtHalf h) (v.zeroExtend 2048))

/-- An exposed result in flight writes a flag (R370): results, landings that carry a flag, transform operations. -/
def Ctx.flagComing (c : Ctx) (f : BitVec 4) : Bool :=
  c.sched.pend.any (fun p => decide (p.dest = .f f)) ||
  c.sched.latches.any (fun l => match l.flag with | some (g, _) => g == f | none => decide (l.dest = .f f)) ||
  c.sched.xforms.any (fun x => x.live && x.x.fl == f && (decide (c.sched.time < x.idle) || x.fin.isSome))

/-- The fault that a WAIT on flag `f` raises: of a stopped command (R344), or of a failed fitting operation (R315):
its cause, taddr and the command. -/
def Ctx.waitFault (c : Ctx) (f : BitVec 4) : Option (FaultRec × Option Nat) :=
  if f = 0 then none
  else
    match c.mem.cmds.find? (fun m => decide (m.stat = .stopped) && m.hdr.fl == f) with
    | some m => some ({ cause := m.trap, taddr := m.taddr }, some m.id)
    | none =>
      match c.fit.ops.findSome? (fun o => if o.fl = f then o.err else none) with
      | some e => some (e, none)
      | none => none

/-- A FUTEMPTY with no enabled handler acts as the yield choice (R395). -/
def Ctx.noFutureHandler (c : Ctx) : Bool := !bit c.sys.futWord.toNat 63

/-- What a presented WAIT does (R344, R369, R370, R371). -/
def State.waitVerdict (s : State) (f : BitVec 4) (pol y : Bool) : Verdict :=
  let c := s.me
  match c.waitFault f with
  | some (e, cmd) =>
    if e.cause = cFUTEMPTY ∧ c.noFutureHandler then .decline (.tile e.taddr)
    else .trap { TrapInfo.issue .sy e.cause e.taddr with efl := f.toNat, cmd := cmd }
  | none =>
    if c.flag f != pol then .issue
    else if c.flagComing f then .hold
    else if y then .decline (.flag f pol)
    else .freeze .sync

/-- WAIT (R369, R370). -/
def execWait (_k : BitVec 2) (f : BitVec 4) (pol y : Bool) (s : State) : Host.Outcome State Fault Refusal :=
  .next (s.onVerdict (s.waitVerdict f pol y) id)

/-- YIELD: the bundle issues in full, then the width is given up; in a future-empty handler the context waits for the
version (R374, R394). -/
def execYield (_k : BitVec 2) (s : State) : Host.Outcome State Fault Refusal :=
  .next (s.updMe (fun c => { c with sync := { c.sync with
    yielded := true, await := (c.shadow.bind Shadow.ref).map Await.tile } }))

/-! ### Fences -/

/-- A fence releases: accesses issued from now on follow the own-scratchpad stores issued before (R361). -/
def State.fenced (s : State) : State := s.updMe (fun c => { c with sched := { c.sched with fence := c.sched.ord } })

/-- FENCE.ACQ (R361). -/
def execFenceAcq (_k : BitVec 2) (sc : Scope) (s : State) : Host.Outcome State Fault Refusal :=
  .next (s.onVerdict (s.fenceWait .acq sc) State.fenced)

/-- Verdict of FENCE.REL: its wait, then the earliest store-type fault (R361, R368). -/
def State.relVerdict (s : State) (sc : Scope) : Verdict := (s.fenceWait .rel sc).andThen (s.report .sy)

/-- FENCE.REL (R361). -/
def execFenceRel (_k : BitVec 2) (sc : Scope) (s : State) : Host.Outcome State Fault Refusal :=
  .next (s.onVerdict (s.relVerdict sc) State.fenced)

/-- Verdict of FENCE.ALL (R361, R368). -/
def State.allVerdict (s : State) (sc : Scope) : Verdict := (s.fenceWait .all sc).andThen (s.report .sy)

/-- FENCE.ALL (R361). -/
def execFenceAll (_k : BitVec 2) (sc : Scope) (s : State) : Host.Outcome State Fault Refusal :=
  .next (s.onVerdict (s.allVerdict sc) State.fenced)

/-! ### Barriers -/

/-- Key of a task's bindings: its team, or a key of its own (R375); rebuilt instances are apart from first runs (R519). -/
def Task.key (t : Task) : Nat :=
  if t.rebuilt then 2 ^ 50 + t.tid else if t.desc.team = 0 then 2 ^ 49 + t.tid else t.desc.team

/-- A rebuilt member of a team runs alone (R516, R519). -/
def Task.solo (t : Task) : Bool := t.rebuilt

/-- The team of a key. -/
def State.team? (s : State) (key : Nat) : Option Team := s.teams.find? (fun t => t.key == key)

/-- Change the team of a key. -/
def State.updTeam (s : State) (key : Nat) (f : Team → Team) : State :=
  { s with teams := s.teams.map (fun t => if t.key = key then f t else t) }

/-- The table entry of a team's name on die `d`, with its index (R376). -/
def Die.bar? (x : Die) (key name : Nat) : Option (Nat × BarEntry) :=
  x.bars.find? (fun p => p.2.team == key && p.2.name == name)

/-- The die whose table holds a team's bindings (R376). -/
def State.barDie (s : State) (key : Nat) : Nat := match s.team? key with | some t => t.bindDie | none => s.myDie

/-- The lowest free index of a barrier table, below 4,096. -/
def Die.barFree (x : Die) : Option Nat :=
  least? ((0 :: x.bars.map (fun p => p.1 + 1)).filter (fun i => decide (i < 4096) && (Sparse.find? x.bars i).isNone))

/-- Bind a name of a team, when it is not bound (R376). -/
def State.bindName (s : State) (key name : Nat) (members : List Nat) : State :=
  let d := s.barDie key
  match (s.die d).bar? key name, (s.die d).barFree with
  | none, some i =>
    let e : BarEntry := { team := key, name := name, phase := 0, e := members.length, a := 0,
                          members := members.map (fun r => (r, false, false)), notify := [] }
    s.updDie d (fun x => { x with bars := Sparse.set x.bars i e })
  | _, _ => s

/-- A name needs a binding and the die has no free entry (R376). -/
def State.noBarSpace (s : State) (key name : Nat) : Bool :=
  let x := s.die (s.barDie key)
  (x.bar? key name).isNone && x.barFree.isNone

/-- Complete the phase when every expected member has arrived (R377). -/
def BarEntry.complete (b : BarEntry) : BarEntry :=
  if 0 < b.e ∧ b.a = b.e then
    let left := (b.members.filter (fun m => m.2.1 && m.2.2)).length
    { b with
      phase := b.phase + 1, a := 0, e := b.e - left
      notify := b.notify ++ (b.members.filter (fun m => m.2.1)).map Prod.fst
      members := (b.members.filter (fun m => !(m.2.1 && m.2.2))).map (fun m => (m.1, false, false)) }
  else b

/-- Apply an operation of rank `r` at an entry (R377). -/
def BarEntry.apply (b : BarEntry) (op : BarOp) (r : Nat) : BarEntry :=
  let m := b.members.find? (fun m => m.1 == r)
  let b' : BarEntry :=
    match op, m with
    | .join, none => { b with e := b.e + 1, members := b.members ++ [(r, false, false)] }
    | .join, some _ => b
    | .arrive, some (_, false, _) =>
      { b with a := b.a + 1, members := b.members.map (fun x => if x.1 = r then (r, true, x.2.2) else x) }
    | .arrive, _ => b
    | .leave, some (_, false, _) => { b with e := b.e - 1, members := b.members.filter (fun x => x.1 != r) }
    | .leave, some (_, true, _) => { b with members := b.members.map (fun x => if x.1 = r then (r, true, true) else x) }
    | .leave, none => b
  b'.complete

/-- Apply an operation at a team's name. -/
def State.barApply (s : State) (key name : Nat) (op : BarOp) (rank : Nat) : State :=
  let d := s.barDie key
  match (s.die d).bar? key name with
  | some (i, b) => s.updDie d (fun x => { x with bars := Sparse.set x.bars i (b.apply op rank) })
  | none => s

/-- A context's view of a barrier name (R378). -/
def Ctx.bar (c : Ctx) (name : Nat) : BarView := Sparse.get BarView.reset c.sync.bars name

/-- Change the view of a name. -/
def Ctx.setBar (c : Ctx) (name : Nat) (v : BarView) : Ctx :=
  { c with sync := { c.sync with bars := Sparse.set c.sync.bars name v } }

/-- Key, rank and solo mark of the running task. -/
def Ctx.ident (c : Ctx) : Nat × Nat × Bool :=
  match c.task with | some t => (t.key, t.desc.rank, t.solo) | none => (0, 0, false)

/-- Send a barrier operation on its way (R377); a releasing arrival follows the accesses to the own scratchpad issued below `ord`
(R363). -/
def State.barSend (s : State) (op : BarOp) (name ord : Nat) : State :=
  let (key, _, solo) := s.me.ident
  if solo then s
  else
    let s := match op with | .leave => s | _ => s.bindName key name []
    s.updMe (fun c => { c with sync := { c.sync with out := c.sync.out ++ [(op, name, ord)] } })

/-- Verdict of ARV (R378, R376, R379). -/
def State.arvVerdict (s : State) (name : Nat) (rel : Bool) : Verdict :=
  let v := s.me.bar name
  let (key, _, solo) := s.me.ident
  let t (c : Nat) : TrapInfo := .issue .sy c (BitVec.ofNat 64 name)
  (s.needTask .sy).andThen
    ((trapIf (!solo && (!v.member || v.arrived)) (t cBARSTATE)).andThen
      ((trapIf (!solo && s.noBarSpace key name) (t cBARSPACE)).andThen
        (if rel then (freezeIf (!s.me.writesAcked s.me.sched.ord) .late).andThen (s.relVerdict .dom) else .issue)))

/-- ARV: the arrival is sent at issue, after a release when `rel` (R379). -/
def execArv (_k : BitVec 2) (n : BitVec 12) (rel : Bool) (s : State) : Host.Outcome State Fault Refusal :=
  .next (s.onVerdict (s.arvVerdict n.toNat rel) (fun s =>
    let s := if rel then s.fenced else s
    let s := s.barSend .arrive n.toNat (if rel then s.me.sched.ord else 0)
    s.updMe (fun c => c.setBar n.toNat { c.bar n.toNat with arrived := !c.ident.2.2, made := true })))

/-- Verdict of BWT (R378, R379). -/
def State.bwtVerdict (s : State) (name : Nat) (y : Bool) : Verdict :=
  let v := s.me.bar name
  let solo := s.me.ident.2.2
  (s.needTask .sy).andThen
    ((trapIf (!solo && !v.made) (.issue .sy cBARSTATE (BitVec.ofNat 64 name))).andThen
      (if v.arrived then (if y then .decline (.phase name) else .freeze .sync) else .issue))

/-- BWT (R379). -/
def execBwt (_k : BitVec 2) (n : BitVec 12) (y : Bool) (s : State) : Host.Outcome State Fault Refusal :=
  .next (s.onVerdict (s.bwtVerdict n.toNat y) State.fenced)

/-- Verdict of JOIN (R376, R378). -/
def State.joinVerdict (s : State) (name : Nat) : Verdict :=
  let (key, _, solo) := s.me.ident
  (s.needTask .sy).andThen
    (trapIf (!solo && s.noBarSpace key name) (.issue .sy cBARSPACE (BitVec.ofNat 64 name)))

/-- JOIN (R379). -/
def execJoin (_k : BitVec 2) (n : BitVec 12) (s : State) : Host.Outcome State Fault Refusal :=
  .next (s.onVerdict (s.joinVerdict n.toNat) (fun s =>
    (s.barSend .join n.toNat 0).updMe (fun c => c.setBar n.toNat { c.bar n.toNat with member := true })))

/-- LEAVE (R379). -/
def execLeave (_k : BitVec 2) (n : BitVec 12) (s : State) : Host.Outcome State Fault Refusal :=
  .next (s.onVerdict (s.needTask .sy) (fun s =>
    (s.barSend .leave n.toNat 0).updMe (fun c => c.setBar n.toNat { c.bar n.toNat with member := false })))

/-- The entry of a team's name, as a point that operations of one cycle reach in ascending rank (R377). -/
def State.barSpot (s : State) (key name : Nat) : Spot :=
  .barrier (s.barDie key) ((((s.die (s.barDie key)).bar? key name).map Prod.fst).getD 4096)

/-- BARRIER_ENTRY_OPERATION: the oldest operation of context `evt.n` reaches its entry; those of one cycle do so in ascending rank
(R377). A releasing arrival does so after the accesses that it releases (R363). -/
def execBarrierEntryOperation (s : State) : Host.Outcome State Fault Refusal :=
  let n := s.evt.n
  let c := s.ctx n
  match c.sync.out, c.task with
  | (op, name, ord) :: rest, some t =>
    let p := s.barSpot t.key name
    if !c.ownDone s.pkg (coreOf n) ord || !s.mayCome p t.desc.rank then .refused .notEnabled
    else
      let s := (s.come p t.desc.rank).updCtx n (fun c => { c with sync := { c.sync with out := rest } })
      .next (s.barApply t.key name op t.desc.rank)
  | _, _ => .refused .notEnabled

/-- BARRIER_NOTIFICATION: the completion of a phase of name `evt.m` reaches context `evt.n` (R378). -/
def execBarrierNotification (s : State) : Host.Outcome State Fault Refusal :=
  let n := s.evt.n
  let name := s.evt.m
  match (s.ctx n).task with
  | none => .refused .notEnabled
  | some t =>
    let d := s.barDie t.key
    match (s.die d).bar? t.key name with
    | some (i, b) =>
      if b.notify.contains t.desc.rank then
        let s := s.updDie d (fun x => { x with bars := Sparse.set x.bars i { b with notify := b.notify.erase t.desc.rank } })
        .next (s.updCtx n (fun c => c.setBar name { c.bar name with arrived := false }))
      else .refused .notEnabled
    | none => .refused .notEnabled

/-! ### Handlers started by arriving data -/

/-- An armed context without a task or a handler (R389). -/
def Ctx.dormant (c : Ctx) : Bool := decide (c.mode = .free) && c.sys.armed

/-- Launch state of a context that runs a task or a handler from bundle `pc` (R147, R215, R235, R262, R301). -/
def Ctx.fresh (c : Ctx) (m : Mode) (t : Option Task) (pc : Nat) (args : List W64) : Ctx :=
  { Ctx.reset with
    mode := m, task := t
    regs := { Regs.reset with g := number 0 args }
    sys := { SysRegs.reset with himg := c.sys.himg, hctl := c.sys.hctl, armed := c.sys.armed }
    sched := { Sched.reset with pc := pc }
    sync := { SyncSide.reset with wakes := c.sync.wakes } }

/-- Start the handler of context `n` on its first queued wake (R391). -/
def State.startHandler (s : State) (n : Nat) : State :=
  let c := s.ctx n
  match c.sync.wakes with
  | [] => s
  | (va, place) :: _ => s.setCtx n (c.fresh .wake none (c.sys.hctl.toNat % 2 ^ 24) [va, place])

/-- HANDLER_START: dormant context `evt.n` with a queued wake (R391). -/
def execHandlerStart (s : State) : Host.Outcome State Fault Refusal :=
  let c := s.ctx s.evt.n
  if c.dormant && !c.sync.wakes.isEmpty then .next (s.startHandler s.evt.n) else .refused .notEnabled

/-- Verdict of HNDL: a task traps, a handler waits as FENCE.REL.dom does (R392). -/
def State.hndlVerdict (s : State) : Verdict :=
  (trapIf s.me.task.isSome (.issue .sy cHNDLCTX 0)).andThen (s.relVerdict .dom)

/-- The own-scratchpad stores that a context still has to perform are performed, in their order: its task or handler ends (R168, R319,
R392). -/
def State.ownFlush (s : State) (n : Nat) : State :=
  (sortBy OwnStore.rank (s.ctx n).sched.stores).foldl (fun s o => s.ownStore n o)
    (s.updCtx n (fun c => { c with sched := { c.sched with stores := [] } }))

/-- HNDL: the handler ends, its wake entry is removed, and the next queued wake starts or the context is dormant
(R392). -/
def execHndl (_k : BitVec 2) (s : State) : Host.Outcome State Fault Refusal :=
  .next (s.onVerdict s.hndlVerdict (fun s =>
    let n := s.cur
    let s := s.ownFlush n
    let c := s.me
    let s := s.setMe { c.freed with sync := { c.freed.sync with wakes := c.sync.wakes.drop 1 } }
    let s := s.dropWakes n
    let s := if s.me.dormant then s.startHandler n else s
    s.updMe (fun c => { c with sched := { c.sched with ended := true } })))

end Sys2Proof.Machine
end

