-- ==== Sys2Proof/Machine/Images.lean ====
section
/-! DEFINITION. Freeze images (R419 to R424, R430): taking a task off its context at a presented bundle and putting it on
another. -/

namespace Sys2Proof.Machine

/-- A copy command at a burst boundary under pre-emption (R421, R422): it keeps its offset and starts again later. -/
def Cmd.freeze (m : Cmd) : Cmd :=
  if m.stat = .done ∨ m.stat = .stopped then m else { m with stat := .queued, resv := false, cause := 9 }

/-- A context that a pre-emption or a team freeze takes off (R420, R430). -/
def Ctx.leaving (c : Ctx) : Bool := decide (c.mode = .task) && (c.sync.preempt || c.sync.freezing)

/-- Nothing but writes of its copies to other packages keeps a context from being imaged: no parked latch, no busy plane, no
unacknowledged request, no copy still draining, no loop descriptor still being read (R171, R421; log entry 16). -/
def State.atRest (s : State) (n : Nat) : Bool :=
  let c := s.ctx n
  c.sched.latches.all (fun l => l.stat != .pending) &&
  [0, 1, 2, 3].all (fun p => decide (c.planes.freeAt p ≤ (s.core (coreOf n)).cycle)) &&
  c.mem.reqs.all (fun r => r.acked) && c.mem.cmds.all (fun m => decide (m.stat ≠ .draining)) && c.sync.out.isEmpty && c.seq.ready == 0

/-- Nothing keeps a context from being imaged: what its copies sent to other packages before they stopped is acknowledged (R421, R431). -/
def State.quiet (s : State) (n : Nat) : Bool := s.atRest n && (s.ctx n).mem.cmds.all (fun m => m.far.isEmpty)

/-- The part of a context that an image keeps: nothing that belongs to the context's place. -/
def Ctx.image (c : Ctx) : Ctx :=
  { c with
    mode := .task
    sched := { c.sched with latches := retryFutures c.sched.latches, ended := false }
    planes := { c.planes with busyStream := [], busyOther := [] }
    mem := { c.mem with cmds := c.mem.cmds.map Cmd.freeze }
    sync := { c.sync with preempt := false, freezing := false, wakes := [], yielded := false } }

/-- Rings of a core that a context owns. -/
def State.ownRings (s : State) (n : Nat) : List (Nat × Ring) :=
  (s.core (coreOf n)).rings.filter (fun p => p.2.conf && p.2.owner == n)

/-- Bytes that slots of rings hold, in order (R436, R438): place in the tile window and count. -/
def ringSpans (rings : List (Nat × Ring)) : List (Nat × Nat) :=
  rings.flatMap (fun r => ((List.range r.2.slots).filter (fun k => r.2.st k != 0)).map (fun k =>
    (r.2.slotOff k - 0x100000, tagCnt (Sparse.get 0 r.2.tags k))))

/-- Cells of [lo, lo + n) as they lie when moved to `base`. -/
def carry (m : Memory) (lo n base : Nat) : Memory := (Memory.within m lo (lo + n)).map (fun c => (c.1 - lo + base, c.2))

/-- The freeze image of a context (R421, R436). -/
def State.imageOf (s : State) (n : Nat) : FreezeImage :=
  { ctx := (s.ctx n).image, plain := (Memory.within s.mem (plainBase n) (plainBase n + 0x20000)).map (fun c =>
      (c.1 - plainBase n, c.2)), rings := s.ownRings n
    slots := (ringSpans (s.ownRings n)).flatMap (fun x => carry s.mem (windowBase (coreOf n) + x.1) x.2 x.1) }

/-- The lowest free number for a freeze image of die `d`. -/
def Die.imageNo (x : Die) : Nat :=
  (least? ((0 :: x.frozen.map (fun p => p.1 + 1)).filter (fun i => (Sparse.find? x.frozen i).isNone))).getD 0

/-- Change the entry of a task in its die's pool. -/
def State.updEntry (s : State) (tid : Nat) (rebuilt : Bool) (f : QEntry → QEntry) : State :=
  (List.range 4).foldl (fun s d => s.updDie d (fun x => { x with
    entries := x.entries.map (fun e => if e.task.tid = tid ∧ e.task.rebuilt = rebuilt then f e else e) })) s

/-- Results due by the presented bundle are written (R421 item 1, R403 items 1 to 2). -/
def State.settleFor (s : State) (n : Nat) : State := s.settle n (s.ctx n).sched.time

/-- The die whose pool holds a task's entry. -/
def State.entryDie (s : State) (t : Task) : Nat :=
  ((List.range 4).find? (fun d => (s.die d).entries.any (fun e => e.task.tid == t.tid && e.task.rebuilt == t.rebuilt))).getD 0

/-- Pre-empt the task of a quiet context: the image is written, the context is free, the entry returns to the head of its
priority level in the core's local queue, or is parked (R153, R394, R421). -/
def State.takeImage (s : State) (n : Nat) (park : Option W64) : State :=
  match (s.ctx n).task with
  | none => s
  | some t =>
    let s := s.settleFor n
    let core := coreOf n
    let d := s.entryDie t
    let k := (s.die d).imageNo
    let img := s.imageOf n
    let s := s.updDie d (fun x => { x with frozen := Sparse.set x.frozen k img })
    let s := s.unbindAll n
    let s := (s.setCtx n (s.ctx n).freed).dropRings n
    let st : QStat := match park with | some r => .parked core r 0 | none => .loc core 0
    ((s.updEntry t.tid t.rebuilt (fun e => { e with stat := st, image := some k, task := t })).dropWakes n).readyAll

/-- An entry's freeze image goes with it to another die. -/
def State.moveImage (s : State) (from_ dst : Nat) (e : QEntry) : QEntry × State :=
  match e.image.bind (fun k => (Sparse.find? (s.die from_).frozen k).map (fun x => (k, x))) with
  | some (k, img) =>
    let j := (s.die dst).imageNo
    ({ e with image := some j }, (s.updDie from_ (fun x => { x with frozen := Sparse.erase x.frozen k })).updDie dst (fun x =>
      { x with frozen := Sparse.set x.frozen j img }))
  | none => ({ e with image := none }, s)

/-- The physical place of an own store after a move to context `n` (R183). -/
def OwnStore.moved (o : OwnStore) (n : Nat) : OwnStore :=
  match o.brel with
  | some _ => o
  | none => if bits o.va.toNat 48 16 = selfHome then { o with addr := (selfAddr n (o.va.toNat % 2 ^ 48)).getD o.addr } else o

/-- Put an image on context `n`: state, plain area, rings with the bytes of their slots (R380, R422, R423, R440). -/
def State.putImage (s : State) (n : Nat) (img : FreezeImage) (t : Task) : State :=
  let c := img.ctx
  let old := s.ctx n
  let c := { c with
    task := some t
    sys := { c.sys with himg := old.sys.himg, hctl := old.sys.hctl, armed := old.sys.armed }
    sync := { c.sync with wakes := old.sync.wakes }
    sched := { c.sched with stores := c.sched.stores.map (fun o => o.moved n) }
    mem := { c.mem with cmds := c.mem.cmds.map (fun m => if m.stat = .queued then { m with resv := m.hdr.banks != 0 } else m) }
    fit := { c.fit with views := c.fit.views.map (fun v => (v.1, { v.2 with loaded := false })) } }
  let base := plainBase n
  let s := (s.setCtx n c).fill base 0x20000 (img.plain.map (fun x => (base + x.1, x.2)))
  let w := windowBase (coreOf n)
  let s := (ringSpans img.rings).foldl (fun s x => s.fill (w + x.1) x.2 (carry img.slots x.1 x.2 (w + x.1))) s
  img.rings.foldl (fun s r => s.updCore (coreOf n) (fun k => { k with
    rings := Sparse.set k.rings r.1 { r.2 with owner := n } })) s

/-- Free contexts of a core that no team has reserved (R151, R152, R157). -/
def State.freeCtxs (s : State) (core : Nat) : List Nat :=
  if (s.core core).offline then []
  else ([0, 1, 2, 3].map (fun i => 4 * core + i)).filter (fun n =>
    (s.ctx n).vacant && !s.teams.any (fun t => t.reserved.contains n))

/-- The set, of 256, that holds a line of the bundle cache (R202; log entry 13). -/
def CacheLine.set (l : CacheLine) : Nat := l.line % 256

/-- Lock lines of an image in the bundle cache for context `n`, the first first, each in a way of its set that no other context has
locked. -/
def lockLines (n : Nat) (ls cache : List CacheLine) : List CacheLine :=
  match ls with
  | [] => cache
  | l :: r =>
    let same (x : CacheLine) : Bool := x.image == l.image && x.line == l.line
    let mates := cache.filter (fun x => x.set == l.set && !(same x && x.lock.isNone))
    let locked := mates.filter (fun x => x.lock.isSome)
    let free := mates.filter (fun x => x.lock.isNone)
    lockLines n r (if 4 ≤ locked.length then cache
      else { l with lock := some n } :: (free.take (3 - locked.length) ++ locked ++ cache.filter (fun x => x.set != l.set)))

/-- Lines of an image locked in the bundle cache before a level-2 task starts (R202): those of its first 4,096 bundles, as far as the
lines that other contexts have locked leave room. -/
def Core.lockImage (k : Core) (n : Nat) (h : W64) (bundles : Nat) : Core :=
  let lines := (List.range (min (ceilDiv bundles 4) 1024)).map (fun i => ({ image := h, line := i, lock := none } : CacheLine))
  { k with cache := lockLines n lines k.cache }

/-- Address of the data section of an image's copy on a die (R147). -/
def State.dataSection (s : State) (d : Nat) (h : W64) : W64 := match s.image? d h with | some i => i.dataAt | none => 0

/-- A task outside a team is a team of one, whose barrier 0 is bound as it starts (R375, R376). -/
def State.ownTeam (s : State) (d queue : Nat) (t : Task) : State :=
  if (s.team? t.key).isSome then s
  else
    let x : Team := { key := t.key, job := t.desc.job, die := d, queue := queue, tsize := 1, state := 0,
                      ranks := [t.desc.rank], ended := [], bindDie := d, image := 0, placed := true, choice := none,
                      masked := false, first := 0, reserved := [], since := 0, saved := [], sending := none }
    ({ s with teams := s.teams ++ [x] }).bindName t.key 0 [t.desc.rank]

/-- Start an entry's task on context `n`: from its freeze image, or from its launch state (R147, R152, R421). -/
def State.startTask (s : State) (n : Nat) (e : QEntry) : State :=
  let core := coreOf n
  let d := dieOf core
  let t : Task := { e.task with
    dataSec := s.dataSection d e.task.desc.image
    apxIn := e.task.apxIn || e.task.desc.ins.any (fun x => (s.verState x).any (fun v => v.2.1)) }
  let s : State :=
    match e.image with
    | some k =>
      let h := s.entryDie t
      (match Sparse.find? (s.die h).frozen k with
       | some img => (s.updDie h (fun x => { x with frozen := Sparse.erase x.frozen k })).putImage n img t
       | none => s)
    | none => (s.setCtx n (((s.ctx n).fresh .task (some t) t.desc.entry t.desc.args).setBar 0
        { BarView.reset with member := true })).ownTeam d e.queue t
  let s := s.updEntry t.tid t.rebuilt (fun x => { x with stat := .running n, image := none, task := t })
  if t.level = 2 then
    s.updCore core (fun k => k.lockImage n t.desc.image (((s.image? d t.desc.image).map (fun i => i.bundles.length)).getD 0))
  else s

end Sys2Proof.Machine
end

