-- ==== Sys2Proof/Machine/Queues.lean ====
section
/-! DEFINITION. Launching and the queue operations (R56 to R59, R141 to R146, R154 to R157, R163, R166 to R172): what issues
in the S slot, and how a request is answered at its queue. -/

namespace Sys2Proof.Machine

/-- Queue `q` of a die. -/
def Die.queue (x : Die) (q : Nat) : Queue := Sparse.get Queue.reset x.queues q

/-- Queue number of a selector (R141). -/
def selQueue (w : W64) : Nat := w.toNat % 64

/-- Die of a selector (R141). -/
def selDie (w : W64) : Nat := bits w.toNat 6 2

/-- A valid queue selector (R141). -/
def State.selOk (s : State) (w : W64) : Bool := decide (w.toNat < 256) && s.online (selDie w)

/-- Refusal causes of R145. -/
def rTASKFMT : Nat := 1
def rNOSEAL : Nat := 2
def rINSTALE : Nat := 3
def rOUTSTATE : Nat := 4
def rLVLREQ : Nat := 5
def rAPXIN : Nat := 6
def rQFULL : Nat := 7
def rQSEL : Nat := 8
def rTEAM : Nat := 9
def rREBUILT : Nat := 10

/-- Why a launch is refused: cause, entry, whether the entry is an output (R145). -/
structure Refused where
  cause : Nat
  ent   : Nat
  eout  : Bool
deriving DecidableEq, Repr

/-- A refusal that concerns no entry. -/
def plainRefusal (c : Nat) : Refused := { cause := c, ent := 0, eout := false }

/-- The refused status word (R145). -/
def Refused.word (r : Refused) (copy : Nat) : W64 :=
  BitVec.ofNat 64 (1 <<< 63 + r.cause + r.ent <<< 8 + b2n r.eout <<< 12 + (copy % 1024) <<< 13)

/-- A task id (R145). -/
def mkTid (d q seq : Nat) : Nat := d <<< 46 + q <<< 40 + seq % 2 ^ 40

/-! ### Task records -/

/-- A word of a record. -/
def recWord (w : Nat) (lo : Nat) : W64 := BitVec.ofNat 64 (bits w lo 64)

/-- A task record of 2,048 bits (R56). -/
def taskRec (w : Nat) : TaskRec :=
  let n (lo : Nat) : Nat := min 8 (bits w lo 4)
  { image := recWord w 0, entry := bits w 64 32, prio := bits w 96 3, lvl := bits w 99 2, exact := bits w 109 8
    ins := (List.range (n 101)).map (fun j => recWord w (128 + 64 * j))
    outs := (List.range (n 105)).map (fun j => recWord w (640 + 64 * j))
    args := (List.range (n 117)).map (fun j => recWord w (1152 + 64 * j))
    team := bits w 1664 32, rank := if bits w 1664 32 = 0 then 0 else bits w 1696 12
    tsize := if bits w 1664 32 = 0 then 1 else bits w 1708 13, job := bits w 1728 32 }

/-- Check 1 of R57; `rank` and `tsize` as the copy has them. -/
def recFmt (w : Nat) (rank : Nat) : Bool :=
  bits w 121 7 == 0 && bits w 1721 7 == 0 && bits w 1760 288 == 0 && bits w 99 2 != 3 &&
  decide (bits w 101 4 ≤ 8) && decide (bits w 105 4 ≤ 8) && decide (bits w 117 4 ≤ 8) &&
  (bits w 1664 32 == 0 || decide (rank < bits w 1708 13))

/-- First index below `n` of an entry list at `lo` that breaks check 2 of R57. -/
def recNull (w lo count : Nat) : Option Nat :=
  (List.range 8).find? (fun j => (bits w (lo + 64 * j) 64 == 0) == decide (j < count))

/-- Sealed images of this package: any die holds the image, or its home on another package says so. An earlier generation is held as
long as something names it (R55). -/
def State.sealed (s : State) (h : W64) (entry : Nat) : Bool :=
  match (List.range 4).findSome? (fun d => s.image? d h) with
  | some i => i.entries.contains entry
  | none => bits h.toNat 49 15 / 4 != s.pkg && s.evt.flag

/-- State, assignment and recoverability of a version for a launch. -/
def State.launchView (s : State) (r : W64) : Option (Nat × Bool × Bool × Bool) :=
  if s.isRemote r then (Sparse.find? s.fab.known r.toNat).map (fun k => (k % 8, bit k 12, !bit k 4, bit k 3))
  else (s.tile? r).map (fun t => (t.state, t.prod.isSome, t.recoverable, t.apx))

/-- Checks 3 to 8 of R57 on a record with its outputs: image, inputs, outputs, level, exact inputs. -/
def State.recChecks (s : State) (d : TaskRec) (qlevel : Nat) : Option Refused :=
  let ins := number 0 d.ins
  let outs := number 0 d.outs
  let entry (c : Nat) (o : Bool) (x : Option (Nat × W64)) : Option Refused :=
    x.map (fun p => { cause := c, ent := p.1, eout := o })
  let badIn := ins.find? (fun p => match s.launchView p.2 with
    | none => true
    | some (st, _, rec_, _) => st == 6 && !rec_)
  let badOut := outs.find? (fun p => (match s.launchView p.2 with
    | none => true
    | some (st, asg, _, _) => st != 1 || asg) || (d.outs.take p.1).contains p.2)
  let both := outs.find? (fun p => d.ins.contains p.2)
  let apx := ins.find? (fun p => bit d.exact p.1 && (match s.launchView p.2 with
    | some (st, _, _, a) => st == 3 && a
    | none => false))
  if !s.sealed d.image d.entry then some (plainRefusal rNOSEAL)
  else
    match entry rINSTALE false badIn, entry rOUTSTATE true badOut, entry rOUTSTATE true both with
    | some x, _, _ => some x
    | none, some x, _ => some x
    | none, none, some x => some x
    | none, none, none =>
      if qlevel < d.lvl then some (plainRefusal rLVLREQ) else entry rAPXIN false apx

/-- All checks of R57 on record bits `w` read as `d`; the eight output entries stand at bit 0 of `outs`: those of the record, or of a
copy's row of the output table (R57, R155). -/
def State.recRefusal (s : State) (w : Nat) (d : TaskRec) (qlevel outs : Nat) : Option Refused :=
  if !recFmt w d.rank then some (plainRefusal rTASKFMT)
  else
    match recNull w 128 d.ins.length with
    | some j => some { cause := rTASKFMT, ent := j, eout := false }
    | none =>
      match recNull outs 0 d.outs.length with
      | some j => some { cause := rTASKFMT, ent := j, eout := true }
      | none => s.recChecks d qlevel

/-! ### Reading records -/

/-- Read `k` blocks of 64 bytes for an engine of context `n` (R148, R166). -/
def State.readBlocks (s : State) (n home off k : Nat) : Except FaultRec (List Byte) × State :=
  match k with
  | 0 => (.ok [], s)
  | k + 1 =>
    let f (c : Nat) : FaultRec := { cause := c, taddr := BitVec.ofNat 64 (home <<< 48 + off) }
    match s.translateNow n home off true false with
    | (.hit pa _, s) =>
      if s.badAt pa 64 then (.error (f cMEMERR), s)
      else
        let here := s.readMem pa 64
        match s.readBlocks n home (off + 64) k with
        | (.ok r, s) => (.ok (here ++ r), s)
        | x => x
    | (.fault c, s) => (.error (f c), s)
    | (_, s) => (.error (f cXNV), s)

/-- Read `len` bytes of a record area at address `a`, an answer of another package coming with the step (R166). -/
def State.readArea (s : State) (n : Nat) (a : W80) (skip len : Nat) : Except FaultRec (List Byte) × State :=
  let home := addrHome a
  if badFormat a then (.error { cause := cVAFMT, taddr := addrCompact a }, s)
  else if home != selfHome && home < 24576 && home / 4 != s.pkg && s.reaches (home / 4) then
    (.ok ((s.evt.data.drop skip).take len), s)
  else s.readBlocks n home (addrOff a + skip) (ceilDiv len 64)

/-! ### Accepting -/

/-- Free entries of a die's pool (R142). -/
def Die.freeEntries (x : Die) : Nat := 16384 - x.entries.length

/-- The team of a member's launch refuses it as a whole: another queue or size, a level change since its first member, or it has been
dispatched (R156). -/
def State.teamClosed (s : State) (d q : Nat) (r : TaskRec) : Bool :=
  match s.team? r.team with
  | none => false
  | some t => t.die != d || t.queue != q || t.tsize != r.tsize || decide (t.first < ((s.die d).queue q).change) || t.placed

/-- The team of a member's launch refuses it (R156): as a whole, or because it repeats an enqueued rank. -/
def State.teamRefuses (s : State) (d q : Nat) (r : TaskRec) : Bool :=
  s.teamClosed d q r || (s.team? r.team).any (fun t => t.ranks.contains r.rank)

/-- An accepted input that is not VALID records its waiter (R149, R512, R520). -/
def State.waitOn (s : State) (r : W64) (p pkg tid : Nat) : State :=
  if s.isRemote r then s.tell s.myDie r (5 + tid <<< 8 + p <<< 56) []
  else
    match s.tile? r with
    | none => s
    | some t =>
      let s := if (t.state = 6 ∧ t.recoverable) ∨ t.again then
          s.setTile r { t with marked := t.marked ++ [(pkg, tid)], uses := if t.again then t.uses + 1 else t.uses }
        else s
      let s := if t.state = 3 then s else s.raiseWprio r p
      if t.state = 6 then s.askRecovery r p else s

/-- Accept a task into queue `q` of die `d`: its id, its entry, its outputs' producer, its waits (R43, R142, R146,
R149). -/
def State.accept (s : State) (d q : Nat) (r : TaskRec) (pin : Option Nat) : Nat × State :=
  let qu := (s.die d).queue q
  let tid := mkTid d q qu.seq
  let t : Task := { tid := tid, desc := r, level := qu.level, base := r.prio, born := s.clock, slept := 0, rebuilt := false,
                    redispatched := false, restored := false, target := 0, pin := pin, dataSec := 0, apxIn := false, pkg := s.pkg }
  let s := s.updDie d (fun x => { x with
    queues := Sparse.set x.queues q { qu with seq := qu.seq + 1 }
    entries := x.entries ++ [{ queue := q, task := t, stat := .waiting, image := none }] })
  let s := r.outs.foldl (fun s o =>
    if s.isRemote o then s.tell s.myDie o (6 + tid <<< 8) []
    else s.updTile o (fun x => { x with prod := some (s.pkg, tid) })) s
  let s := (distinct r.ins).foldl (fun s i => s.waitOn i t.base s.pkg tid) s
  let s :=
    if r.team = 0 then s
    else
      match s.team? r.team with
      | some _ => s.updTeam r.team (fun x => { x with ranks := x.ranks ++ [r.rank] })
      | none =>
        let x : Team := { key := r.team, job := r.job, die := d, queue := q, tsize := r.tsize, state := 0, ranks := [r.rank],
                          ended := [], bindDie := d, image := 0, placed := false, choice := none, masked := pin.isSome,
                          first := qu.seq, reserved := [], since := 0, saved := [], sending := none }
        { s with teams := s.teams ++ [x] }
  (tid, s)

/-- Launch the task of record bits `w` in the queue of a valid selector: the checks of R146 in their order, the status word of
R145. -/
def State.launchRec (s : State) (sel : W64) (w : Nat) : W64 × State :=
  let d := selDie sel
  let q := selQueue sel
  let r := taskRec w
  if (s.die d).freeEntries ≤ 1024 then ((plainRefusal rQFULL).word 0, s)
  else if r.team ≠ 0 ∧ s.teamRefuses d q r then ((plainRefusal rTEAM).word 0, s)
  else
    match s.recRefusal w r ((s.die d).queue q).level (bits w 640 512) with
    | some x => (x.word 0, s)
    | none =>
      let (tid, s) := s.accept d q r none
      (BitVec.ofNat 64 tid, s.readyAll)

/-- LAUNCH at its queue (R146): the status word of R145, or the fault of the record's read (R166). -/
def State.launch (s : State) (n : Nat) (a : W80) (sel : W64) : Except FaultRec W64 × State :=
  let refuse (c : Nat) : Except FaultRec W64 := .ok ((plainRefusal c).word 0)
  if (s.ctx n).task.any Task.rebuilt then (refuse rREBUILT, s)
  else if !s.selOk sel then (refuse rQSEL, s)
  else if addrOff a % 256 ≠ 0 then (refuse rTASKFMT, s)
  else
    match s.readArea n a 0 256 with
    | (.error f, s) => (.error f, s)
    | (.ok b, s) =>
      let (w, s) := s.launchRec sel (ofBytes b)
      (.ok w, s)

/-- The record of copy `k` of a LAUNCHM (R147, R154, R155). -/
def copyRec (r : TaskRec) (k : Nat) (table : Nat) : TaskRec :=
  { r with
    rank := k
    outs := if r.outs.isEmpty then [] else (List.range r.outs.length).map (fun j => recWord table (512 * k + 64 * j)) }

/-- The lowest rank, of `k` in ascending order, that a team has already enqueued; 0 where it refuses the launch as a whole
(R145, R156; log entry 94). -/
def Team.repeated (t : Team) (k : Nat) : Nat := ((List.range k).find? (fun r => t.ranks.contains r)).getD 0

/-- The first copy that fails, with its refusal (R155). -/
def firstRefused (l : List (Nat × Option Refused)) : Option (Nat × Refused) :=
  l.findSome? (fun p => p.2.map (fun x => (p.1, x)))

/-- LAUNCHM at its queue (R146, R154, R155). A refusal that concerns no copy apart from the others, as QFULL, names copy 0: R145 says
nothing of it (log entry 94). -/
def State.launchm (s : State) (n : Nat) (a : W80) (sel : W64) : Except FaultRec W64 × State :=
  let refuse (c : Nat) : Except FaultRec W64 := .ok ((plainRefusal c).word 0)
  let d := selDie sel
  let q := selQueue sel
  if (s.ctx n).task.any Task.rebuilt then (refuse rREBUILT, s)
  else if !s.selOk sel then (refuse rQSEL, s)
  else if addrOff a % 256 ≠ 0 then (refuse rTASKFMT, s)
  else
    match s.readArea n a 0 384 with
    | (.error f, s) => (.error f, s)
    | (.ok b, s) =>
      let w := ofBytes (b.take 256)
      let mask := ofBytes (b.drop 256)
      let cores := (List.range 1024).filter (bit mask)
      let k := cores.length
      let r := taskRec w
      match (if bits w 105 4 = 0 then (.ok [], s) else s.readArea n a 384 (64 * k)) with
      | (.error f, s) => (.error f, s)
      | (.ok tb, s) =>
        let table := ofBytes tb
        if k = 0 ∨ (bits w 105 4 ≠ 0 ∧ bits w 640 512 ≠ 0) ∨ (r.team ≠ 0 ∧ r.tsize ≠ k) then (refuse rTASKFMT, s)
        else if (s.die d).freeEntries < 1024 + k then (refuse rQFULL, s)
        else if r.team ≠ 0 ∧ (s.team? r.team).isSome then
          (.ok ((plainRefusal rTEAM).word (if s.teamClosed d q r then 0 else ((s.team? r.team).map (fun t => t.repeated k)).getD 0)), s)
        else
          let copies := (number 0 cores).map (fun p => (p.1, p.2, copyRec r p.1 table))
          let lvl := ((s.die d).queue q).level
          let fails := copies.map (fun c =>
            (c.1, match s.recRefusal w c.2.2 lvl (if bits w 105 4 = 0 then bits w 640 512 else bits table (512 * c.1) 512) with
              | some x => some x
              | none =>
                let before := (copies.take c.1).flatMap (fun o => o.2.2.outs)
                (number 0 c.2.2.outs).findSome? (fun o =>
                  if before.contains o.2 then some { cause := rOUTSTATE, ent := o.1, eout := true } else none)))
          match firstRefused fails with
          | some (c, x) => (.ok (x.word c), s)
          | none =>
            let tid := mkTid d q ((s.die d).queue q).seq
            let s := copies.foldl (fun s c => (s.accept d q c.2.2 (some c.2.1)).2) s
            (.ok (BitVec.ofNat 64 tid), s.readyAll)

/-! ### Level changes, status, priority -/

/-- A task is held behind a level-change entry (R163). -/
def Die.held (x : Die) (e : QEntry) : Bool :=
  e.firstRun && x.changes.any (fun c => c.queue == e.queue && decide (c.seq < e.task.seq))

/-- QLVL at its queue (R143, R163). -/
def State.qlvl (s : State) (rebuilt : Bool) (sel : W64) (lvl : Nat) : W64 × State :=
  let d := selDie sel
  let q := selQueue sel
  if rebuilt then ((plainRefusal rREBUILT).word 0, s)
  else if !s.selOk sel then ((plainRefusal rQSEL).word 0, s)
  else
    let qu := (s.die d).queue q
    let s := s.updDie d (fun x => ({ x with
      queues := Sparse.set x.queues q { level := lvl, seq := qu.seq + 1, change := qu.seq }
      changes := x.changes ++ [{ queue := q, seq := qu.seq, level := lvl, prev := qu.level }] } : Die).passChanges)
    (BitVec.ofNat 64 (mkTid d q qu.seq), s)

/-- The status word of a queue (R167). -/
def State.qstat (s : State) (sel : W64) : W64 :=
  if !s.selOk sel then (plainRefusal rQSEL).word 0
  else
    let x := s.die (selDie sel)
    let q := selQueue sel
    let es := x.entries.filter (fun e => e.queue == q)
    let chs := x.changes.filter (fun c => c.queue == q)
    let lvl := (x.queue q).level
    let hl := match chs with | c :: _ => c.prev | [] => lvl
    let count (f : QEntry → Bool) : Nat := (es.filter f).length
    let wait := count (fun e => match e.stat with | .waiting => true | _ => false)
    let rdy := count (fun e => match e.stat with | .ready _ => true | _ => false)
    BitVec.ofNat 64 (lvl + hl <<< 2 + b2n (!chs.isEmpty) <<< 4 + wait <<< 8 + rdy <<< 23 +
      (es.length - wait - rdy) <<< 38 + min 1023 (count x.held) <<< 53)

/-- Greatest effective priority among this package's tasks that wait on a version (R149, R170). -/
def State.waitPrio (s : State) (r : W64) : Nat :=
  (((List.range 4).flatMap (fun d => (s.die d).entries)).filter (fun x => decide (x.stat = .waiting) && x.task.desc.ins.contains r)).foldl
    (fun m x => max m (s.prio x.task)) 0

/-- The wprio of a version that is not VALID, raised or lowered (R170). -/
def State.setWprio (s : State) (r : W64) (p : Nat) : State :=
  match s.tile? r with
  | some t => if t.state = 3 then s else (s.setTile r { t with wprio := p }).raise r p 16
  | none => s

/-- Set the base priority of an accepted task and follow it at the homes of its unready inputs (R170; log entry 103). -/
def State.setBase (s : State) (tid v : Nat) : State :=
  let s := s.updEntry tid false (fun e => { e with task := { e.task with base := v } })
  let s := s.ctxs.foldl (fun s c => match c.2.task with
    | some t => if t.tid = tid ∧ !t.rebuilt then s.updCtx c.1 (fun c => { c with task := some { t with base := v } }) else s
    | none => s) s
  let es := (List.range 4).flatMap (fun d => (s.die d).entries)
  match es.find? (fun e => e.task.tid == tid && !e.task.rebuilt) with
  | none => s
  | some e =>
    (distinct e.task.desc.ins).foldl (fun s r =>
      if s.isRemote r then s.tell s.myDie r (14 + tid <<< 8 + s.waitPrio r <<< 56) []
      else s.setWprio r (s.waitPrio r)) s

/-- The current base priority of an accepted, unended first-run task. -/
def State.base? (s : State) (tid : Nat) : Option Nat :=
  (((List.range 4).flatMap (fun d => (s.die d).entries)).find? (fun e => e.task.tid == tid && !e.task.rebuilt)).map
    (fun e => e.task.base)

/-- The word of an id that names no task (R170). -/
def noTaskWord : W64 := 0x8000000000000000

/-- PRIO.task at its queue (R170, R517). -/
def State.prioTask (s : State) (tid : W64) (v : Nat) : W64 × State :=
  match s.base? tid.toNat with
  | some b => (BitVec.ofNat 64 b, s.setBase tid.toNat v)
  | none => (noTaskWord, s)

/-! ### The answers of queue requests -/

/-- What other packages answered with the step: states of versions homed there. -/
def State.learn (s : State) : State :=
  { s with fab := { s.fab with known := s.evt.list.foldl (fun m p => Sparse.set m p.1 p.2) s.fab.known } }

/-- A queue request may be applied: in issue order, a launch after the context's earlier writes (R148). -/
def Ctx.queueFirst (c : Ctx) (pkg core : Nat) (r : Req) : Bool :=
  c.mem.reqs.all (fun q => !(q.op.isQueue && decide (q.ord < r.ord)) || q.acked) &&
  (match r.op with
   | .launch _ | .launchm _ => c.writesAcked r.ord && c.ownDone pkg core r.ord
   | _ => true)

/-- Apply a queue request of context `n`. -/
def State.queueApply (s : State) (n : Nat) (r : Req) : Except FaultRec W64 × State :=
  let s := s.learn
  match r.op with
  | .launch sel => s.launch n r.base sel
  | .launchm sel => s.launchm n r.base sel
  | .qlvl sel lvl => let (w, s) := s.qlvl ((s.ctx n).task.any Task.rebuilt) sel lvl; (.ok w, s)
  | .qstat sel => (.ok (s.qstat sel), s)
  | .prio tid v => let (w, s) := s.prioTask tid v; (.ok w, s)
  | _ => (.ok 0, s)

/-! ### Issue -/

/-- Issue a request to a queue with a landing of arrival distance `dist` (R166). -/
def State.queueRequest (s : State) (op : ReqOp) (base : W80) (d : BitVec 6) (dist : Nat) : State :=
  let n := s.cur
  let c := s.me
  let id := c.mem.nextId
  let r : Req :=
    { id := id, ord := c.sched.ord + Slot.num .s, t := c.sched.time, slot := .s, op := op, cls := 0, home := dieKey s.pkg s.myDie,
      base := base, pieces := [], data := [], fault := none, performed := false, acked := false, bound := none, remote := none,
      place := none }
  let l := c.newLatch .s id dist (.g d)
  s.updCtx n (fun c => { c with
    mem := { c.mem with nextId := id + 1, reqs := c.mem.reqs ++ [r] }
    sched := { c.sched with latches := c.sched.latches ++ [l] } })

/-- A latch is free (R206). -/
def State.latchVerdict (s : State) : Verdict := freezeIf (decide (64 ≤ s.me.sched.latches.length)) .late

/-- Arrival distance of a queue's answer (R166). A selector with bits 63 to 8 set names no queue, and R166 no distance for its refusal:
the model goes by its bits 7 to 6 all the same (log entry 95). -/
def State.queueDist (s : State) (sel : W64) : Nat := if selDie sel = s.myDie then 96 else 160

/-- LAUNCH (R166). -/
def execLaunch (p : Pred) (d : BitVec 6) (a : BitVec 5) (b : BitVec 6) (s : State) : Host.Outcome State Fault Refusal :=
  let sel := s.me.g b
  act s p s.latchVerdict (fun s => s.queueRequest (.launch sel) (s.me.a a) d (s.queueDist sel))

/-- LAUNCHM (R154, R166). -/
def execLaunchm (p : Pred) (d : BitVec 6) (a : BitVec 5) (b : BitVec 6) (s : State) : Host.Outcome State Fault Refusal :=
  let sel := s.me.g b
  act s p s.latchVerdict (fun s => s.queueRequest (.launchm sel) (s.me.a a) d (s.queueDist sel))

/-- QLVL (R163, R166). -/
def execQlvl (p : Pred) (d a : BitVec 6) (imm : BitVec 32) (s : State) : Host.Outcome State Fault Refusal :=
  let sel := s.me.g a
  act s p s.latchVerdict (fun s => s.queueRequest (.qlvl sel imm.toNat) 0 d (s.queueDist sel))

/-- QSTAT (R166, R167). -/
def execQstat (p : Pred) (d a : BitVec 6) (s : State) : Host.Outcome State Fault Refusal :=
  let sel := s.me.g a
  act s p s.latchVerdict (fun s => s.queueRequest (.qstat sel) 0 d (s.queueDist sel))

/-- PRIO.self: gd receives the previous base priority at t+1; a rebuilt instance changes nothing (R170). -/
def execPrioSelf (p : Pred) (d : BitVec 6) (imm : BitVec 32) (s : State) : Host.Outcome State Fault Refusal :=
  act s p (s.needTask .s) (fun s =>
    match s.me.task with
    | none => s
    | some t =>
      let s := s.resultG .s 1 d (BitVec.ofNat 64 t.base)
      if t.rebuilt then s else s.setBase t.tid (imm.toNat % 8))

/-- Verdict of PRIO.task. -/
def State.prioVerdict (s : State) : Verdict := (s.needTask .s).andThen s.latchVerdict

/-- PRIO.task (R170). -/
def execPrioTask (p : Pred) (d a : BitVec 6) (imm : BitVec 32) (s : State) : Host.Outcome State Fault Refusal :=
  let tid := s.me.g a
  let dist := if bits tid.toNat 46 2 = s.myDie then 96 else 160
  act s p s.prioVerdict (fun s => s.queueRequest (.prio tid (imm.toNat % 8)) 0 d dist)

/-! ### The loop sequencer (R161, R162, R171) -/

/-- Count of loop `j` of a nest descriptor. -/
def nestCount (d : BitVec 256) (j : Nat) : Nat := bits d.toNat (10 * j) 10 + 1

/-- Number of loops of a nest descriptor. -/
def nestNd (d : BitVec 256) : Nat := bits d.toNat 60 3

/-- Loop at nesting position `k`. -/
def nestPerm (d : BitVec 256) (k : Nat) : Nat := bits d.toNat (64 + 3 * k) 3

/-- A malformed nest descriptor (R161). -/
def nestBad (d : BitVec 256) : Bool :=
  let n := nestNd d
  let perm := (List.range n).map (nestPerm d)
  n == 0 || n == 7 || !(List.range n).all (fun j => perm.contains j) ||
  (List.range 6).any (fun j => decide (n ≤ j) && (bits d.toNat (10 * j) 10 != 0 || nestPerm d j != 0)) ||
  bit d.toNat 63 || bits d.toNat 82 174 != 0

/-- Iterations of a nest (R161). -/
def nestSize (d : BitVec 256) : Nat := (List.range (nestNd d)).foldl (fun n j => n * nestCount d j) 1

/-- The packed loop indices of linear index `v`, from nesting position `k` down (R162). -/
def nestIndex (d : BitVec 256) (v k : Nat) : Nat :=
  match k with
  | 0 => 0
  | k + 1 =>
    let j := nestPerm d k
    (v % nestCount d j) <<< (10 * j) + nestIndex d (v / nestCount d j) k

/-- The descriptor is read and the sequencer configured (R161, R162, R171). -/
def State.seqConfigure (s : State) (n : Nat) : State :=
  let c := s.ctx n
  let q := c.seq
  let (size, rank) := match c.task with
    | some t => if t.desc.team = 0 then (1, 0) else (t.desc.tsize, t.desc.rank)
    | none => (1, 0)
  if q.bad then s.updCtx n (fun c => { c with seq := { c.seq with ready := 0, conf := true } })
  else
    let d : BitVec 256 := BitVec.ofNat 256 (s.readNat (plainBase n + q.addr.toNat % 2 ^ 17) 32)
    let N := nestSize d
    s.updCtx n (fun c => { c with seq := { c.seq with
      conf := true, bad := nestBad d, desc := d, cur := rank * N / size, hi := (rank + 1) * N / size, ready := 0 } })

/-- LPSCFG: the descriptor is read 6 core cycles later; an address outside the plain area leaves the sequencer malformed
(R171). -/
def execLpscfg (p : Pred) (a : BitVec 5) (s : State) : Host.Outcome State Fault Refusal :=
  act s p (s.needTask .s) (fun s =>
    let x := s.me.a a
    let n := s.cur
    let off := addrOff x
    let (tr, s) := if badFormat x then (.fault cVAFMT, s) else s.translateNow n (addrHome x) off true false
    let place := match tr with
      | .hit pa _ => if plainOf pa = some n ∧ off % 32 = 0 then some (pa - plainBase n) else none
      | _ => none
    let t := s.me.sched.time
    s.updMe (fun c => { c with seq :=
      { conf := false, bad := place.isNone, desc := 0, cur := 0, hi := 0, tcfg := t, ready := (s.core (coreOf n)).cycle + 6
        addr := match place with | some o => selfCompact o | none => addrCompact x } }))

/-- Verdict of LPSNXT: the timed freeze after an LPSCFG, then LPSDESC (R162, R171). -/
def State.lpsVerdict (s : State) : Verdict :=
  let q := s.me.seq
  let k := s.me.sched.time - q.tcfg
  (s.needTask .s).andThen
    ((freezeIf (decide (1 ≤ k ∧ k ≤ 7) && (q.conf || q.ready != 0) && decide (s.me.sched.waits.lps < 8 - k)) .lps).andThen
      (trapIf (!q.conf || q.bad) (.issue .s cLPSDESC q.addr)))

/-- LPSNXT (R162, R171). -/
def execLpsnxt (p : Pred) (d : BitVec 6) (f : BitVec 4) (s : State) : Host.Outcome State Fault Refusal :=
  act s p s.lpsVerdict (fun s =>
    let q := s.me.seq
    if q.hi ≤ q.cur then (s.resultG .s 3 d noTaskWord).resultF .s 3 f true
    else
      let s := s.updMe (fun c => { c with seq := { c.seq with cur := c.seq.cur + 1 } })
      (s.resultG .s 3 d (BitVec.ofNat 64 (nestIndex q.desc q.cur (nestNd q.desc)))).resultF .s 3 f false)

/-! ### STEPMARK -/

/-- A job. -/
def State.job (s : State) (j : Nat) : Job := Sparse.get Job.reset s.jobs j

/-- Change a job. -/
def State.updJob (s : State) (j : Nat) (f : Job → Job) : State := { s with jobs := Sparse.set s.jobs j (f (s.job j)) }

/-- One more step of a job, marked by a task named by package and id; a task is counted once (R172). -/
def State.countStep (s : State) (j pkg tid : Nat) : State :=
  if (s.job j).marks.contains (pkg, tid) then s
  else s.updJob j (fun j => { j with steps := j.steps + 1, marks := j.marks ++ [(pkg, tid)] })

/-- STEPMARK: a task's first increments its job's step counter, which is one for the job on all its packages: each other package of
the domain hears of it (R172, R519; log entry 5). -/
def execStepmark (p : Pred) (s : State) : Host.Outcome State Fault Refusal :=
  act s p (s.needTask .s) (fun s =>
    match s.me.task with
    | none => s
    | some t =>
      if t.rebuilt || (s.job t.desc.job).marks.contains (s.pkg, t.tid) then s
      else
        (s.fab.ring.filter (fun p => p != s.pkg)).foldl
          (fun s p => s.inject s.myDie p (s.taskDie p 0) 1 0x05 true (BitVec.ofNat 64 t.desc.job) (BitVec.ofNat 64 (15 + t.tid <<< 8)) [])
          (s.countStep t.desc.job s.pkg t.tid))

end Sys2Proof.Machine
end

