-- ==== Sys2Proof/Machine/Rings.lean ====
section
/-! DEFINITION. The buffer-ring operations of the S slot (R380 to R387). Fills and releases act in `Regs`. -/

namespace Sys2Proof.Machine

/-- BRSTATE, taddr the ring number (R385). -/
def ringTrap (ring : Nat) : TrapInfo := .issue .s cBRSTATE (BitVec.ofNat 64 ring)

/-- The running core's ring `r`. -/
def State.myRing (s : State) (r : Nat) : Ring := s.myCore.ring r

/-- The running core's ring `r` as this cycle's operations see its tags (R386). -/
def State.seenRing (s : State) (r : Nat) : Ring := (s.myRing r).seen s.myCore.cycle

/-- Self-alias address of a slot of a ring (R381, R384). -/
def Ring.slotAddr (x : Ring) (slot : Nat) : W80 := addrOfCompact (selfCompact (x.slotOff slot))

/-- Verdict of BACQ.p: BRSTATE when the ring is unconfigured or the expected count exceeds the slot; declined until slot
pi is EMPTY (R384, R385). -/
def State.bacqPVerdict (s : State) (r exp : Nat) : Verdict :=
  let x := s.seenRing r
  (trapIf (!x.conf || decide (x.slotBytes < exp)) (ringTrap r)).andThen
    (if x.st x.pi = 0 then .issue else .decline (.ringEmpty r))

/-- BACQ.p (R384). -/
def execBacqP (p : Pred) (d : BitVec 5) (e : BitVec 6) (ring : BitVec 3) (s : State) : Host.Outcome State Fault Refusal :=
  let exp := (s.me.g e).toNat % 2 ^ 17
  act s p (s.bacqPVerdict ring.toNat exp) (fun s =>
    let x := s.myRing ring.toNat
    (s.setRing (coreOf s.cur) ring.toNat { x with
      tags := Sparse.set x.tags x.pi (mkTag 1 false 0 exp), pi := (x.pi + 1) % x.slots }).resultA .s 1 d (x.slotAddr x.pi))

/-- Verdict of BACQ.c: declined until slot ci is FULL (R384, R385). -/
def State.bacqCVerdict (s : State) (r : Nat) : Verdict :=
  let x := s.seenRing r
  (trapIf (!x.conf) (ringTrap r)).andThen (if x.st x.ci = 2 then .issue else .decline (.ringFull r))

/-- BACQ.c (R384). -/
def execBacqC (p : Pred) (d : BitVec 5) (t : BitVec 6) (ring : BitVec 3) (s : State) : Host.Outcome State Fault Refusal :=
  act s p (s.bacqCVerdict ring.toNat) (fun s =>
    let x := s.myRing ring.toNat
    let tag := Sparse.get 0 x.tags x.ci
    ((s.setRing (coreOf s.cur) ring.toNat { x with
      tags := Sparse.set x.tags x.ci (tag ||| 3), ci := (x.ci + 1) % x.slots }).resultA .s 1 d (x.slotAddr x.ci)).resultG
        .s 1 t tag)

/-- Releases of a role on a ring of this core that have issued and not yet acted (R384). -/
def State.brelsComing (s : State) (r : Nat) (consumer : Bool) : Nat :=
  ((List.range 4).flatMap (fun i => (s.ctx (4 * coreOf s.cur + i)).sched.stores.filter (fun o =>
    match o.brel with | some (q, c, _, _) => q == r && c == consumer | none => false))).length

/-- Slots of a ring in state `st`. -/
def Ring.countSt (x : Ring) (st : Nat) : Nat := ((List.range x.slots).filter (fun k => x.st k == st)).length

/-- Verdict of BREL: BRSTATE when no slot is left to release, or the count exceeds the slot (R385; log entry 18). -/
def State.brelVerdict (s : State) (r : Nat) (consumer : Bool) (cnt : Nat) : Verdict :=
  let x := s.seenRing r
  trapIf (!x.conf || decide (x.countSt (if consumer then 3 else 1) ≤ s.brelsComing r consumer) ||
    decide (x.slotBytes < cnt)) (ringTrap r)

/-- A release acts at t+2, after the issuer's own-scratchpad stores issued with it or earlier (R384). -/
def State.brelIssue (s : State) (r : Nat) (consumer err : Bool) (cnt : Nat) : State :=
  s.updMe (fun c => { c with sched := { c.sched with
    stores := c.sched.stores ++ [{ due := c.sched.time + 2, ord := c.sched.ord + 15, addr := 0, step := c.sched.ord / 16 + 2, va := 0, data := [],
                                   brel := some (r, consumer, err, cnt) }] } })

/-- BREL.p and BREL.pe (R384). -/
def execBrelP (p : Pred) (c : BitVec 6) (e : Bool) (ring : BitVec 3) (s : State) : Host.Outcome State Fault Refusal :=
  let cnt := (s.me.g c).toNat % 2 ^ 17
  act s p (s.brelVerdict ring.toNat false cnt) (fun s => s.brelIssue ring.toNat false e cnt)

/-- BREL.c (R384). -/
def execBrelC (p : Pred) (ring : BitVec 3) (s : State) : Host.Outcome State Fault Refusal :=
  act s p (s.brelVerdict ring.toNat true 0) (fun s => s.brelIssue ring.toNat true false 0)

/-- A ring descriptor that R381 does not allow. -/
def ringBad (d : W64) : Bool :=
  let n := d.toNat
  bits n 14 2 != 0 || bits n 32 32 != 0 || decide (bits n 0 14 < 0x1000) || decide (0x27FF < bits n 0 14) ||
  decide (0x280000 < 256 * bits n 0 14 + (bits n 24 4 + 1) * (256 * (bits n 16 8 + 1)))

/-- BRCFG (R387). -/
def execBrcfg (p : Pred) (d a : BitVec 6) (ring : BitVec 3) (s : State) : Host.Outcome State Fault Refusal :=
  always s p (fun s =>
    let x := s.myRing ring.toNat
    let w := s.me.g a
    if x.conf && decide (x.countSt 0 < x.slots) then s.resultG .s 1 d 1
    else if ringBad w then s.resultG .s 1 d 2
    else (s.setRing (coreOf s.cur) ring.toNat
      { conf := true, desc := w, owner := s.cur, pi := 0, ci := 0, tags := [], was := none }).resultG .s 1 d 0)

end Sys2Proof.Machine
end

