-- ==== Sys2Proof/Machine/Copies.lean ====
section
/-! DEFINITION. The copy engine (R333 to R346, R364, R386, R422, R481): issuing, starting, moving bursts, stopping,
completing and cancelling copy commands. -/

namespace Sys2Proof.Machine

/-! ### A command's fields (R334 to R336) -/

/-- Staging value `i` of a command. -/
def Cmd.at (m : Cmd) (i : Nat) : Nat := (m.stage.getD i 0).toNat

/-- The control word (R335). -/
def Cmd.ctl (m : Cmd) : Nat := m.at 2
def Cmd.spos (m : Cmd) : Nat := bits m.ctl 0 26
def Cmd.dpos (m : Cmd) : Nat := bits m.ctl 26 26
def Cmd.st (m : Cmd) : Bool := bit m.ctl 52
def Cmd.dt (m : Cmd) : Bool := bit m.ctl 53

/-- Whether the command is a CRED, a CMC, a CGAT. -/
def Cmd.isCred (m : Cmd) : Bool := m.op == 2
def Cmd.isCmc (m : Cmd) : Bool := m.op == 3
def Cmd.isCgat (m : Cmd) : Bool := m.op == 4

/-- Source and destination element types; none for a format that R336 excludes. -/
def Cmd.sTy? (m : Cmd) : Option Ty := (EFmt.ofCode (bits m.ctl 54 5)).bind EFmt.ty?
def Cmd.dTy? (m : Cmd) : Option Ty := (EFmt.ofCode (bits m.ctl 59 5)).bind EFmt.ty?
def Cmd.sTy (m : Cmd) : Ty := m.sTy?.getD .f32
def Cmd.dTy (m : Cmd) : Ty := m.dTy?.getD .f32

/-- Element sizes in bytes. -/
def Cmd.ebs (m : Cmd) : Nat := m.sTy.bits / 8
def Cmd.ebd (m : Cmd) : Nat := m.dTy.bits / 8

/-- Dimension words, innermost first: count, source and destination stride (R335). -/
def Cmd.dims (m : Cmd) : List (Nat × Int × Int) :=
  (List.range m.hdr.nd.toNat).map (fun j =>
    let w := m.at (3 + j)
    (bits w 0 16 + 1, signed 24 (bits w 16 24), signed 24 (bits w 40 24)))

/-- Elements of one source (R336). -/
def Cmd.count (m : Cmd) : Nat := m.dims.foldl (fun n d => n * d.1) 1

/-- Cores that a core mask selects, ascending (R335). -/
def Cmd.cores (m : Cmd) : List Nat :=
  if m.isCmc || m.isCgat then
    (List.range 256).filter (fun c => bit (m.at (3 + m.hdr.nd.toNat + c / 64)) (c % 64))
  else []

/-- Copies that a command makes of its elements: one for each selected core (R338). -/
def Cmd.copies (m : Cmd) : Nat := if m.isCmc || m.isCgat then m.cores.length else 1

/-- Elements of every copy (R338). -/
def Cmd.total (m : Cmd) : Nat := m.count * m.copies

/-- Bytes that the command moves in all (R221, R338; log entry 19). -/
def Cmd.bytes (m : Cmd) : Nat := m.total * m.ebd

/-- Offsets of element `e` from the endpoint bases (R336). -/
def elemOffs (ds : List (Nat × Int × Int)) (e : Nat) : Int × Int :=
  match ds with
  | [] => (0, 0)
  | (n, a, b) :: r =>
    let (x, y) := elemOffs r (e / n)
    (x + (e % n : Nat) * a, y + (e % n : Nat) * b)

/-- Where an element lies: in memory, in the window of a given core of the endpoint's die, or in a tile. -/
inductive Endp where
  | va (home off : Nat) (core : Option Nat)
  | tile (ref : W64) (pos : Int)
deriving DecidableEq, Repr

/-- A place in memory from a compact address and an offset (R178, R230). -/
def Endp.mem (w : Nat) (o : Int) (core : Option Nat) : Endp := .va (bits w 48 16) (wrap 48 ((w % 2 ^ 48 : Nat) + o)) core

/-- The same place `o` bytes on. -/
def Endp.plus (x : Endp) (o : Int) : Endp :=
  match x with
  | .va h a c => .va h (wrap 48 ((a : Int) + o)) c
  | .tile r p => .tile r (p + o)

/-- The sources of element `g` of a command (R336, R338). -/
def Cmd.srcs (m : Cmd) (g : Nat) : List Endp :=
  let o := (elemOffs m.dims (g % m.count)).1
  if m.isCred then m.table.map (fun t => .mem t.toNat o none)
  else if m.st then [.tile (m.stage.getD 0 0) (m.spos + o)]
  else [.mem (m.at 0) o (if m.isCgat then m.cores[g / m.count]? else none)]

/-- The destination of element `g` (R336, R338). -/
def Cmd.dest (m : Cmd) (g : Nat) : Endp :=
  let o := (elemOffs m.dims (g % m.count)).2 + (if m.isCgat then ((g / m.count * m.spos : Nat) : Int) else 0)
  if m.dt then .tile (m.stage.getD 1 0) (m.dpos + o)
  else .mem (m.at 1) o (if m.isCmc then m.cores[g / m.count]? else none)

/-- The home of an endpoint lies on another package. -/
def Endp.remote (x : Endp) (pkg : Nat) : Bool :=
  match x with
  | .va h _ _ => h != selfHome && h / 4 != pkg
  | .tile r _ => refHome r / 4 != pkg

/-! ### Issue -/

/-- The command that a data operation makes (R334, R343). -/
def State.newCmd (s : State) (op : BitVec 5) (h : CpyHdr) : Cmd :=
  let c := s.me
  { id := c.mem.nextId, op := op, hdr := h
    stage := (List.range (cpyRegs (op == 3 || op == 4) h.nd.toNat)).map (fun i => c.k (h.kb + BitVec.ofNat 4 i))
    fmt := c.regs.fmt, rsn := c.regs.rsn, stat := .queued, off := 0, acq := h.acq, cause := 0, taddr := 0, trap := 0
    tc := c.sched.time, rl := 0, resv := h.banks != 0, table := [], born := s.myCore.cycle, ord := c.sched.ord + 7
    far := [] }

/-- Bytes that a command moves from other packages: of a CRED those of each source there (R221, R342; log entry 19). -/
def Cmd.farBytes (m : Cmd) (pkg : Nat) : Nat := m.total * m.ebs * ((m.srcs 0).filter (fun x => x.remote pkg)).length

/-- Classes of leave a command needs (R221, R342), as a mask. -/
def Cmd.needs (m : Cmd) (pkg : Nat) : Nat :=
  (if 0x100000 < m.bytes then 4 else 0) +
  (if ((m.dest 0).remote pkg ∧ 0x10000 < m.bytes) ∨ 0x10000 < m.farBytes pkg then 8 else 0)

/-- The physical address of an element, as far as it translates. -/
def State.endpPa (s : State) (n : Nat) (x : Endp) : Option Nat :=
  match x with
  | .va h o core =>
    (match (s.translateNow n h o false false).1 with
     | .hit pa _ => some (match core with | some c => pa - bits pa 24 8 <<< 24 + c <<< 24 | none => pa)
     | _ => none)
  | .tile r p => (s.tile? r).map (fun t => t.loc + p.toNat)

/-- The package whose home an endpoint translates to, with the package-local address there, as far as the core's TLBs know it
(R179, R191). -/
def State.endpAny (s : State) (n : Nat) (x : Endp) : Option (Nat × Nat) :=
  match x with
  | .va h o core =>
    (match (s.translateNow n h o false false).1 with
     | .hit pa _ => some (s.pkg, match core with | some c => pa - bits pa 24 8 <<< 24 + c <<< 24 | none => pa)
     | .remote (some (a, _)) =>
       let pa := a % 2 ^ 46
       some (h / 4, match core with | some c => pa - bits pa 24 8 <<< 24 + c <<< 24 | none => pa)
     | _ => none)
  | .tile .. => (s.endpPa n x).map (fun a => (s.pkg, a))

/-- Words of a CRED's source table (R335, R338). -/
def Cmd.tableLen (m : Cmd) : Nat := if m.isCred then m.spos % 64 + 1 else 0

/-- The places of the words of a CRED's source table (R338). -/
def Cmd.tableEnds (m : Cmd) : List Endp := (List.range m.tableLen).map (fun i => .mem (m.at 0) ((8 * i : Nat) : Int) none)

/-- Causes that another package may give for an element that it holds (R195, R344, R401). -/
def Endp.mayMeet (x : Endp) (c : Nat) : Bool :=
  match x with
  | .va .. => c == cXNV || c == cXPERM || c == cPTEFMT || c == cMEMERR || c == cIMGPROT
  | .tile .. => c == cFUTEMPTY || c == cTLSTATE || c == cTILELOST || c == cTLRANGE

/-- The source table of a CRED (R338): its addresses, or the fault that reading it meets. The words of a table on another package, and
the fault `evt.m` that word `evt.k` of it met there, come with the step, `skip` bytes on in `evt.data` (log entry 100). -/
def State.credTable (s : State) (n : Nat) (m : Cmd) (skip : Nat) : Except FaultRec (List W64) × State :=
  (number 0 m.tableEnds).foldl (fun (r : Except FaultRec (List W64) × State) (p : Nat × Endp) =>
    match r, p.2 with
    | (.ok l, s), .va h a _ =>
      let f (c : Nat) : FaultRec := { cause := c, taddr := BitVec.ofNat 64 (h <<< 48 + a) }
      (match s.translateNow n h a true false with
       | (.hit pa _, s) => if s.badAt pa 8 then (.error (f cMEMERR), s) else (.ok (l ++ [BitVec.ofNat 64 (s.readNat pa 8)]), s)
       | (.fault c, s) => (.error (f c), s)
       | (.remote _, s) =>
         if s.evt.flag && s.evt.k == p.1 && p.2.mayMeet s.evt.m then (.error (f s.evt.m), s)
         else (.ok (l ++ [BitVec.ofNat 64 (ofBytes ((s.evt.data.drop (skip + 8 * p.1)).take 8))]), s)
       | (.miss, s) => (.error (f cXNV), s))
    | x, _ => x) (.ok [], s)

/-- The command with the source table as it stands: what it moves, and where, is known at its issue (R341, R342). -/
def State.peekTable (s : State) (n : Nat) (m : Cmd) : Cmd :=
  { m with table := match (s.credTable n m 0).1 with | .ok l => l | .error _ => [] }

/-- Verdict of a data command: room in the queue, then leave (R333, R342). -/
def State.copyVerdict (s : State) (op : BitVec 5) (h : CpyHdr) : Verdict :=
  (freezeIf (decide (8 ≤ (s.me.mem.cmds.filter (fun m => decide (m.stat ≠ .done))).length)) .late).andThen
    (s.leave ((s.peekTable s.cur (s.newCmd op h)).needs s.pkg) h.yf false)

/-- Reservation length at level 2 (R341): 8 + ⌈B/256⌉ + W. -/
def State.resvLength (s : State) (n : Nat) (m : Cmd) : Nat :=
  let m := s.peekTable n m
  let ends : List (Endp × Nat) :=
    (List.range m.copies).flatMap (fun k => (m.srcs (k * m.count)).map (fun x => (x, m.count * m.ebs))) ++
    (List.range m.copies).map (fun k => (m.dest (k * m.count), m.count * m.ebd)) ++ m.tableEnds.map (fun x => (x, 8))
  let one (x : Endp × Nat) : Nat × Nat :=
    if x.1.remote s.pkg then (0, 1600)
    else match s.endpPa n x.1 with
      | some pa => if windowCore pa = some (coreOf n) then (x.2, 0) else (0, srcWorst n pa)
      | none => (0, 0)
  -- one source of a CMC and one destination are read and written once for each core they belong to
  let ends := if m.isCmc then (m.srcs 0).map (fun x => (x, m.count * m.ebs)) ++ ends.drop m.copies else ends
  let r := ends.foldl (fun a x => (a.1 + (one x).1, max a.2 (one x).2)) (0, 0)
  8 + ceilDiv r.1 256 + r.2

/-- A data command issues (R333, R336, R340, R343): it enters its queue, takes its rsn values, clears its flag. -/
def State.copyIssue (s : State) (op : BitVec 5) (h : CpyHdr) : State :=
  let n := s.cur
  let m := s.newCmd op h
  let m := { m with rl := if s.me.level = 2 then s.resvLength n m else 0 }
  let rounds := !m.isCred && decide (m.sTy?.isSome ∧ m.dTy?.isSome ∧ m.sTy ≠ m.dTy) && !m.dt
  let need := (s.peekTable n m).needs s.pkg
  let s := s.updMe (fun c =>
    let c := if rounds then c.takeRsn (ceilDiv m.count 256) else c
    { c with mem := { c.mem with nextId := m.id + 1, cmds := c.mem.cmds ++ [m], last := Sparse.set c.mem.last h.fl.toNat 1 } })
  let s := s.updCore (coreOf n) (fun k =>
    let k := if bit need 2 then { k with lastUse := Sparse.set k.lastUse 2 k.cycle } else k
    if bit need 3 then { k with lastUse := Sparse.set k.lastUse 3 k.cycle } else k)
  if h.fl = 0 then s else s.result .e0 1 (.f h.fl) 0

/-- CPY (R333). -/
def execCpy (p : Pred) (h : CpyHdr) (s : State) : Host.Outcome State Fault Refusal :=
  act s p (s.copyVerdict 1 h) (fun s => s.copyIssue 1 h)

/-- CRED (R338). -/
def execCred (p : Pred) (h : CpyHdr) (s : State) : Host.Outcome State Fault Refusal :=
  act s p (s.copyVerdict 2 h) (fun s => s.copyIssue 2 h)

/-- CMC (R338). -/
def execCmc (p : Pred) (h : CpyHdr) (s : State) : Host.Outcome State Fault Refusal :=
  act s p (s.copyVerdict 3 h) (fun s => s.copyIssue 3 h)

/-- CGAT (R338). -/
def execCgat (p : Pred) (h : CpyHdr) (s : State) : Host.Outcome State Fault Refusal :=
  act s p (s.copyVerdict 4 h) (fun s => s.copyIssue 4 h)

/-! ### Status and cancelling -/

/-- The cause field of CSTAT for a cause of R401 (R345). -/
def copyCause (c : Nat) : Nat :=
  if c = cVAFMT ∨ c = cXNV ∨ c = cXPERM ∨ c = cPTEFMT then 1
  else if c = cCPYARG then 2 else if c = cFUTEMPTY then 3 else if c = cTLSTATE then 4 else if c = cTLRANGE then 5
  else if c = cUNREACH then 7 else if c = cALIGN then 8 else if c = cMEMERR then 10 else if c = cWINPROT then 11
  else if c = cIMGPROT then 12 else if c = cTILELOST then 13 else 0

/-- Status word of a command (R345, R422). -/
def Cmd.word (m : Cmd) : W64 :=
  let stopped := m.cause != 0
  BitVec.ofNat 64 (b2n (decide (m.stat ≠ .done) && !stopped) + b2n (decide (m.stat = .done) && !stopped) <<< 1 +
    b2n stopped <<< 2 + m.cause <<< 8 + (if stopped then m.off % 2 ^ 48 else 0) <<< 16)

/-- Status of the most recently issued command of a flag (R345). -/
def Ctx.copyStatus (c : Ctx) (fl : BitVec 4) : W64 :=
  match (c.mem.cmds.filter (fun m => m.hdr.fl == fl)).getLast? with
  | some m => m.word
  | none => Sparse.get 0 c.mem.last fl.toNat

/-- CSTAT (R345): the status as it stands, at t+2. -/
def execCstat (p : Pred) (fl kb : BitVec 4) (s : State) : Host.Outcome State Fault Refusal :=
  always s p (fun s => s.result .e0 2 (.k kb) ((s.me.copyStatus fl).zeroExtend 2048))

/-- Change command `id` of context `n`. -/
def State.updCmd (s : State) (n id : Nat) (f : Cmd → Cmd) : State :=
  s.updCtx n (fun c => { c with mem := { c.mem with cmds := c.mem.cmds.map (fun m => if m.id = id then f m else m) } })

/-- Completed commands are forgotten in issue order, once their timed reservation has passed (R341); their status stays readable
(R345). -/
def Ctx.pruneCmds (c : Ctx) : Ctx :=
  let ended (m : Cmd) : Bool := decide (m.stat = .done) && (c.level != 2 || decide (m.tc + m.rl ≤ c.sched.time))
  { c with mem := { c.mem with
      last := (c.mem.cmds.takeWhile ended).foldl (fun l m => Sparse.set l m.hdr.fl.toNat m.word) c.mem.last
      cmds := c.mem.cmds.dropWhile ended } }

/-- A cancelled filler leaves its ring slot FULL with err = 1 (R386). -/
def State.endFiller (s : State) (n : Nat) (m : Cmd) : State :=
  match s.endpPa n (m.dest 0) with
  | none => s
  | some pa =>
    match placeOf pa with
    | .tile core o =>
      (List.range 8).foldl (fun s r =>
        let x := (s.core core).ring r
        match (List.range x.slots).find? (fun k => x.conf && x.st k == 1 && tagExp (Sparse.get 0 x.tags k) != 0 &&
            overlap (o + 0x100000) 1 (x.slotOff k) x.slotBytes != 0) with
        | some k =>
          let t := Sparse.get 0 x.tags k
          s.setRing core r { x with tags := Sparse.set x.tags k (mkTag 2 true (tagCnt t) (tagExp t)) }
        | none => s) s
    | _ => s

/-- End a command at its burst boundary with cause CANCEL (R345). -/
def State.cancelCmd (s : State) (n : Nat) (m : Cmd) : State :=
  let s := s.updCmd n m.id (fun x => { x with stat := .done, cause := 6, trap := 0, resv := false })
  let s := if m.off < m.total then s.endFiller n m else s
  if m.hdr.fl = 0 then s else s.engineFlag n m.hdr.fl true

/-- CCANCEL (R345). -/
def execCcancel (p : Pred) (fl : BitVec 4) (s : State) : Host.Outcome State Fault Refusal :=
  always s p (fun s =>
    let n := s.cur
    ((s.me.mem.cmds.filter (fun m => decide (m.stat ≠ .done) && (fl == 0 || m.hdr.fl == fl))).foldl
      (fun s m => s.cancelCmd n m) s).updCtx n Ctx.pruneCmds)

/-! ### Starting -/

/-- An element lies on the issuing core's scratchpad. -/
def State.onScratch (s : State) (n : Nat) (x : Endp) : Bool :=
  match s.endpPa n x with
  | some pa => decide (windowCore pa = some (coreOf n)) && (bankOf pa).isSome
  | none => false

/-- A command still has to access the issuing core's scratchpad from element `g` on (R340). -/
def State.ownLeft (s : State) (n : Nat) (m : Cmd) (g : Nat) : Bool :=
  (List.range (m.total - g)).any (fun i => (m.dest (g + i) :: m.srcs (g + i)).any (s.onScratch n))

/-- Stop a command at offset `g` (R344); while its context's TEND waits, the die's control core gets an event (R168). Its reservation
stands while it has accesses to its scratchpad to make (R340). -/
def State.stopCmd (s : State) (n id g : Nat) (f : FaultRec) : State :=
  let s := if (s.ctx n).sync.tending then s.controlEvent (dieOf (coreOf n)) (coreOf n) (n % 4) 6 f.cause else s
  s.updCmd n id (fun m => { m with
    stat := .stopped, off := g, cause := copyCause f.cause, trap := f.cause, resv := m.resv && (m.stat == .queued || s.ownLeft n m g)
    taddr := if f.cause = cCPYARG then m.stage.getD 0 0 else f.taddr })

/-- Formats, reserved fields and tile flags that R336 allows (R337). -/
def Cmd.argsOk (m : Cmd) : Bool :=
  m.sTy?.isSome && m.dTy?.isSome && !(m.st && m.op != 1) &&
  (!m.isCred || (decide (m.sTy = m.dTy) && (m.sTy.isF || m.sTy == .i32 || m.sTy == .n32) && decide (m.spos < 64))) &&
  (m.st || m.isCgat || m.isCred || m.spos == 0) && (m.dt || m.dpos == 0)

/-- Least and greatest byte that one endpoint's strides reach, `eb` the element size (R337). -/
def spanOf (ds : List (Nat × Int)) (eb : Nat) : Int × Int :=
  ds.foldl (fun r d =>
    let x := ((d.1 : Int) - 1) * d.2
    if x < 0 then (r.1 + x, r.2) else (r.1, r.2 + x)) (0, (eb : Int) - 1)

/-- Span of the source strides, of the destination strides. -/
def Cmd.sSpan (m : Cmd) : Int × Int := spanOf (m.dims.map (fun d => (d.1, d.2.1))) m.ebs
def Cmd.dSpan (m : Cmd) : Int × Int := spanOf (m.dims.map (fun d => (d.1, d.2.2))) m.ebd

/-- Two ranges [a, b] and [c, d] meet. -/
def rangesMeet (a b c d : Int) : Bool := decide (a ≤ d ∧ c ≤ b)

/-- The least and the greatest byte that a command touches at one of its ends, over all its copies: by position in a tile, by offset
on a home, by physical address where a core mask applies (R337, R338). -/
def State.endRange (s : State) (n : Nat) (phys : Bool) (xs : List Endp) (sp : Int × Int) : Option (Nat × Int × Int) :=
  xs.foldl (fun r x =>
    let p : Option (Nat × Int) := match x with
      | .tile t a => if phys then (s.endpPa n x).map (fun a => (2 ^ 70 + s.pkg, (a : Int))) else some (2 ^ 80 + t.toNat, a)
      | .va h o _ => if phys then (s.endpAny n x).map (fun q => (2 ^ 70 + q.1, (q.2 : Int))) else some (h, (o : Int))
    match p, r with
    | some (k, a), some (k', lo, hi) => some (k', if k = k' then (min lo (a + sp.1), max hi (a + sp.2)) else (lo, hi))
    | some (k, a), none => some (k, a + sp.1, a + sp.2)
    | none, r => r) none

/-- Source and destination ranges of a command meet on one home; a CRED's sources may be its destination (R337, R338). -/
def State.overlaps (s : State) (n : Nat) (m : Cmd) : Bool :=
  let phys := m.isCmc || m.isCgat
  let firsts := (List.range m.copies).map (fun k => k * m.count)
  !m.isCred && (match s.endRange n phys (firsts.flatMap m.srcs) m.sSpan, s.endRange n phys (firsts.map m.dest) m.dSpan with
    | some (k, a, b), some (k', c, d) => k == k' && rangesMeet a b c d
    | _, _ => false)

/-- Banks of the issuing core's scratchpad that an element touches and the command does not declare (R337, R340). -/
def State.undeclared (s : State) (n : Nat) (m : Cmd) (x : Endp) : Bool :=
  match s.endpPa n x with
  | some pa => decide (windowCore pa = some (coreOf n)) && (match bankOf pa with
      | some b => !m.hdr.banks.getLsbD b
      | none => false)
  | none => false

/-- The window endpoint of a CMC or CGAT. -/
def Cmd.window (m : Cmd) : Endp := if m.isCmc then Endp.mem (m.at 1) 0 none else Endp.mem (m.at 0) 0 none

/-- A window endpoint translates into a core window, of any package (R337). -/
def State.windowOk (s : State) (n : Nat) (m : Cmd) : Bool :=
  (!m.isCmc && !m.isCgat) ||
    (!m.dt || m.isCgat) && !m.cores.isEmpty && (match s.endpAny n m.window with | some q => (windowCore q.2).isSome | none => false)

/-- A window endpoint on another package waits for its translation, unless the step brings the fault that its walk met (R192, R337). -/
def State.windowWaits (s : State) (n : Nat) (m : Cmd) : Bool :=
  (m.isCmc || m.isCgat) && !s.evt.flag && (match m.window with
    | .va h o _ => (match (s.locate n h o false false).1 with | .remote none => true | _ => false)
    | _ => false)

/-- Bytes of an entry as another package's home gives it with a step (log entry 100). -/
def farEntry : Nat := 51

/-- The entry of a version: of one homed on another package as the step brings it, `skip` bytes on in `evt.data`; none where there is
none (log entry 100). -/
def State.tileSeen (s : State) (r : W64) (skip : Nat) : Option Tile :=
  if s.isRemote r then
    let t := tileOfBody ((s.evt.data.drop skip).take farEntry)
    if t.state = 0 then none else some t
  else s.tile? r

/-- Tiles of a command that are homed on other packages. -/
def State.farTiles (s : State) (m : Cmd) : Bool × Bool :=
  (m.st && s.isRemote (m.stage.getD 0 0), m.dt && s.isRemote (m.stage.getD 1 0))

/-- Bytes that a command's start needs from other packages. -/
def State.startNeeds (s : State) (n : Nat) (m : Cmd) : Nat :=
  let tiles := farEntry * (b2n (s.farTiles m).1 + b2n (s.farTiles m).2)
  if s.evt.flag then tiles
  else
    let away : Endp → Bool
      | .va h o _ => (match (s.locate n h o true false).1 with
          | .remote _ => true
          | _ => false)
      | _ => false
    let table := match m.tableEnds with
      | x :: _ => if x.remote s.pkg && away x then 8 * m.tableLen else 0
      | [] => 0
    tiles + table

/-- The checks on tiles (R337, R518, R522). -/
def State.tileCheck (s : State) (n : Nat) (m : Cmd) : Option FaultRec :=
  let src := m.stage.getD 0 0
  let dst := m.stage.getD 1 0
  let task := (s.ctx n).task
  let f (c : Nat) (r : W64) : Option FaultRec := some { cause := c, taddr := r }
  let skip := farEntry * b2n (s.farTiles m).1
  let first : Option FaultRec :=
    if !m.st then none
    else match s.tileSeen src 0 with
      | none => f (s.noEntry src true) src
      | some t => if t.state = 3 then none else if t.state = 6 then f cTLSTATE src
          else if t.hopeless then f cTILELOST src else f cFUTEMPTY src
  let second : Option FaultRec :=
    if !m.dt then none
    else match s.tileSeen dst skip with
      | none => f cTLSTATE dst
      | some t => if t.discards dst task || (t.producer s.pkg dst task && (t.state == 1 || t.state == 2 || t.state == 5)) then none
          else f cTLSTATE dst
  let range (r : W64) (k pos : Nat) (sp : Int × Int) : Option FaultRec :=
    match s.tileSeen r k with
    | some t => if (pos : Int) + sp.1 < 0 ∨ (t.region : Int) ≤ pos + sp.2 then f cTLRANGE r else none
    | none => none
  match first, second with
  | some e, _ => some e
  | none, some e => some e
  | none, none =>
    match (if m.st then range src 0 m.spos m.sSpan else none) with
    | some e => some e
    | none => if m.dt then range dst skip m.dpos m.dSpan else none

/-- Every start check (R337), then a CRED's table and the banks of its sources (R338): the table, or the fault. -/
def State.startChecks (s : State) (n : Nat) (m : Cmd) : Except FaultRec (List W64) × State :=
  let arg : FaultRec := { cause := cCPYARG, taddr := m.stage.getD 0 0 }
  let ends (m : Cmd) (g : Nat) : List Endp := m.dest g :: m.srcs g
  if !m.argsOk || !s.windowOk n m || s.overlaps n m || m.tableEnds.any (s.undeclared n m) ||
     (List.range m.total).any (fun g => (ends m g).any (s.undeclared n m)) then (.error arg, s)
  else
    match s.tileCheck n m with
    | some f => (.error f, s)
    | none =>
      match s.credTable n m (farEntry * b2n (s.farTiles m).2) with
      | (.error f, s) => (.error f, s)
      | (.ok l, s) =>
        let m := { m with table := l }
        if m.isCred && (List.range m.total).any (fun g => (m.srcs g).any (s.undeclared n m)) then (.error arg, s)
        else (.ok l, s)

/-- The acquire of a command has nothing left to wait for (R339, R364). -/
def State.acquired (s : State) (n : Nat) (m : Cmd) : Bool :=
  !m.acq || (s.ctx n).mem.reqs.all (fun r =>
    !(r.awaited n s.pkg m.ord .acq ((Scope.ofCode m.hdr.sc.toNat).getD .dom) &&
      (m.hdr.ac == 0 || r.cls % 4 == m.hdr.ac.toNat % 4)) || r.acked)

/-- An earlier reservation of the core meets the command's bank set (R340). -/
def State.banksTaken (s : State) (n : Nat) (m : Cmd) : Bool :=
  (s.reservations (coreOf n)).any (fun x =>
    decide (x.2.born < m.born ∨ (x.1 = n ∧ x.2.id < m.id)) && (x.2.hdr.banks &&& m.hdr.banks) != 0)

/-- A context whose engine may work: it is not frozen by its team, and not about to be imaged, which stops its copies at a burst boundary
(R421, R430). -/
def State.engineRuns (s : State) (n : Nat) : Bool := decide ((s.ctx n).mode ≠ .frozen) && !((s.ctx n).leaving && s.atRest n)

/-- COPY_COMMAND_START: the next command of context `evt.n` is checked and starts, once every earlier one has sent its
last write, its banks are free of earlier reservations and its acquire is done (R333, R337, R339, R340). What other packages hold of
its tiles and of its table comes with the step (log entry 100). -/
def execCopyCommandStart (s : State) : Host.Outcome State Fault Refusal :=
  let n := s.evt.n
  match (s.ctx n).mem.cmds.find? (fun m => decide (m.stat ≠ .done ∧ m.stat ≠ .draining)) with
  | none => .refused .notEnabled
  | some m =>
    if m.stat ≠ .queued || !s.engineRuns n || s.banksTaken n m || !s.acquired n m then .refused .notEnabled
    else if m.argsOk && s.windowWaits n m then
      (match m.window with
       | .va h o _ =>
         let t := s.walkFor (coreOf n) h o m.isCmc
         if t = s then .refused .notEnabled else .next t
       | _ => .refused .notEnabled)
    else if s.evt.data.length < s.startNeeds n m then .refused .notEnabled
    else
      match s.startChecks n m with
      | (.error f, s) => .next (s.stopCmd n m.id m.off f)
      | (.ok l, s) =>
        let s := if !m.dt then s
          else if (s.farTiles m).2 then s.tell (dieOf (coreOf n)) (m.stage.getD 1 0) (21 + (s.ctx n).taskBits.1 <<< 8) []
          else s.updTile (m.stage.getD 1 0) (fun t => if t.state = 1 then { t with state := 2 } else t)
        let m := { m with table := l }
        .next (s.updCmd n m.id (fun _ => { m with
          stat := .running, acq := false, cause := 0, resv := m.resv && s.ownLeft n m m.off }))

/-! ### Bursts -/

/-- Bytes of an element read, or why not: a fault, a busy window, or another package answers. -/
inductive Got where
  | data (b : List Byte)
  | fault (f : FaultRec)
  | busy
  | remote
deriving DecidableEq, Repr

/-- The compact address of an endpoint, or its tile reference (R344). -/
def Endp.taddr (x : Endp) : W64 := match x with | .va h o _ => BitVec.ofNat 64 (h <<< 48 + o) | .tile r _ => r

/-- Put a core into a window address (R338). -/
def withCore (pa : Nat) (core : Option Nat) : Nat :=
  match core with | some c => pa - bits pa 24 8 <<< 24 + c <<< 24 | none => pa

/-- Read an element of `eb` bytes (R336, R344). -/
def State.copyRead (s : State) (n : Nat) (x : Endp) (eb : Nat) : Got × State :=
  let f (c : Nat) : Got := .fault { cause := c, taddr := x.taddr }
  match x with
  | .va h o core =>
    (match s.translateNow n h o true false with
     | (.hit pa _, s) =>
       let pa := withCore pa core
       if o % eb ≠ 0 then (f cALIGN, s)
       else if s.badAt pa eb then (f cMEMERR, s)
       else if !s.windowFree pa then (.busy, s)
       else (.data (s.readMem pa eb), s)
     | (.fault c, s) => (f c, s)
     | (.remote _, s) => (if o % eb ≠ 0 then f cALIGN else if s.fab.rcf.isSome then .busy else .remote, s)
     | (.miss, s) => (f cXNV, s))
  | .tile r p =>
    if s.isRemote r then ((if !s.reaches (s.answers (refHome r) / 4) then f cUNREACH else if s.fab.rcf.isSome then .busy else .remote), s)
    else match s.tile? r with
      | none => (f (s.noEntry r true), s)
      | some t =>
        let a := t.loc + p.toNat
        if t.state = 6 then (f cTLSTATE, s)
        else if t.state ≠ 3 then (f (if t.hopeless then cTILELOST else cFUTEMPTY), s)
        else if s.badAt a eb then (f cFUTEMPTY, s.destroyed r)
        else (.data (s.readMem a eb), s)

/-- Where an element is written: a physical address, nowhere (R518), another package; or why not. -/
inductive Put where
  | at (pa : Nat)
  | nowhere
  | remote
  | fault (f : FaultRec)
  | busy
deriving DecidableEq, Repr

/-- Translate and check a destination element (R337, R344). -/
def State.copyPlace (s : State) (n : Nat) (x : Endp) (eb : Nat) : Put × State :=
  let f (c : Nat) : Put := .fault { cause := c, taddr := x.taddr }
  match x with
  | .va h o core =>
    (match s.translateNow n h o false true with
     | (.hit pa _, s) =>
       let pa := withCore pa core
       if o % eb ≠ 0 then (f cALIGN, s)
       else (match placeOf pa with
         | .land .. => (f cWINPROT, s)
         | _ => (if s.inStore pa then f cIMGPROT else if s.windowFree pa then .at pa else .busy, s))
     | (.fault c, s) => (f c, s)
     | (.remote _, s) => (if o % eb ≠ 0 then f cALIGN else if s.fab.rcf.isSome then .busy else .remote, s)
     | (.miss, s) => (f cXNV, s))
  | .tile r p =>
    let task := (s.ctx n).task
    if s.isRemote r then ((if !s.reaches (s.answers (refHome r) / 4) then f cUNREACH else if s.fab.rcf.isSome then .busy else .remote), s)
    else match s.tile? r with
      | none => (f cTLSTATE, s)
      | some t =>
        if t.discards r task then (.nowhere, s)
        else if !t.producer s.pkg r task || !(t.state == 1 || t.state == 2 || t.state == 5) then (f cTLSTATE, s)
        else (.at (t.loc + p.toNat), s)

/-- Element `g` as written, from its sources' bytes (R96, R97, R336). R70 does not name the copy engine and R336 gives the ftz at issue
to conversions; the model flushes the operands and the sum of each addition of a CRED by the same ftz (log entry 99). -/
def Cmd.value (m : Cmd) (seed rank : W64) (g : Nat) (xs : List Nat) : List Byte :=
  let e := g % m.count
  let tile := if m.dt then (match m.dest g with | .tile r p => some (r, p.toNat / m.ebd) | _ => none) else none
  let r : Rnd :=
    { mode := fmtMode m.fmt, ftz := fmtFtz m.fmt, seed := seed, rank := rank
      ref := match tile with | some (r, _) => r | none => seed
      base := match tile with
        | some (_, i) => BitVec.ofNat 64 i
        | none => (m.rsn + BitVec.ofNat 64 (e / 256)) * 256 + BitVec.ofNat 64 (e % 256) }
  if m.isCred then
    let r := { r with mode := if r.mode = 4 then 0 else r.mode }
    toBytes m.ebd (treeSum (redAdd m.sTy r) xs 7)
  else if m.sTy = m.dTy then toBytes m.ebd (xs.headD 0)
  else toBytes m.ebd (r.convElem m.sTy m.dTy 0 (xs.headD 0))

/-- Number of elements of the burst that starts at element `g`: destination bytes contiguous within one line
(R333, R481), at most `k` further ones. -/
def Cmd.runFrom (m : Cmd) (g k : Nat) : Nat :=
  match k with
  | 0 => 1
  | k + 1 =>
    let low (x : Endp) : Nat := match x with | .va _ o _ => o | .tile _ p => p.toNat
    if g + 1 < m.total ∧ m.dest (g + 1) = (m.dest g).plus m.ebd ∧ low (m.dest g) / 256 = low (m.dest (g + 1)) / 256 then
      1 + m.runFrom (g + 1) k
    else 1

/-- What a burst has gathered so far: data to write from the first destination on, the first fault met, whether a window
is busy, how many bytes of the answer of another package were used. -/
structure Burst where
  data  : List Byte
  cnt   : Nat
  fault : Option FaultRec
  busy  : Bool
  used  : Nat
  first : Put
deriving DecidableEq, Repr

/-- The fault that other packages report with the step for element `evt.k` of a burst: `evt.m`, of its first source there, or of its
destination with `evt.w` nonzero (log entry 100). -/
def State.farFault (s : State) (m : Cmd) (g k : Nat) (dest : Bool) : Option FaultRec :=
  if !s.evt.flag || s.evt.k ≠ k || decide (s.evt.w ≠ 0) != dest then none
  else
    ((if dest then [m.dest g] else m.srcs g).find? (fun x => x.remote s.pkg)).bind (fun x =>
      if x.mayMeet s.evt.m then some { cause := s.evt.m, taddr := x.taddr } else none)

/-- Gather the sources of one element. -/
def State.gather (s : State) (n : Nat) (m : Cmd) (b : Burst) (xs : List Endp) (acc : List Nat) :
    Except Burst (List Nat × Burst) × State :=
  match xs with
  | [] => (.ok (acc, b), s)
  | x :: r =>
    match s.copyRead n x m.ebs with
    | (.data d, s) => s.gather n m b r (acc ++ [ofBytes d])
    | (.fault f, s) => (.error { b with fault := some f }, s)
    | (.busy, s) => (.error { b with busy := true }, s)
    | (.remote, s) =>
      s.gather n m { b with used := b.used + m.ebs } r (acc ++ [ofBytes ((s.evt.data.drop b.used).take m.ebs)])

/-- Gather `k` elements from element `g` on, until a fault. -/
def State.burstFrom (s : State) (n : Nat) (m : Cmd) (g k : Nat) (b : Burst) : Burst × State :=
  match k with
  | 0 => (b, s)
  | k + 1 =>
    match s.gather n m b (m.srcs g) [], s.farFault m g b.cnt false with
    | (.error b, s), _ => (b, s)
    | (.ok (_, b), s), some f => ({ b with fault := some f }, s)
    | (.ok (xs, b), s), none =>
      match s.copyPlace n (m.dest g) m.ebd, s.farFault m g b.cnt true with
      | (.fault f, s), _ => ({ b with fault := some f }, s)
      | (.busy, s), _ => ({ b with busy := true }, s)
      | (_, s), some f => ({ b with fault := some f }, s)
      | (q, s), none =>
        let c := s.ctx n
        let b := { b with data := b.data ++ m.value c.seed c.rank64 g xs, cnt := b.cnt + 1
                          first := if b.cnt = 0 then q else b.first }
        s.burstFrom n m (g + 1) k b

/-- Send the writes of a burst (R352, R481). To a tile of another package they go as writes of its task, which the home checks
(R45); to a window of another package with the core that they are for (R338; log entry 5). -/
def State.burstWrite (s : State) (n : Nat) (m : Cmd) (b : Burst) : State :=
  if b.cnt = 0 then s
  else
    match b.first with
    | .at pa => s.store pa b.data
    | .remote =>
      let x := m.dest m.off
      let (home, op, body) : Nat × Nat × List Byte := match x with
        | .va h _ core => (h, 2, b.data ++ (match core with | some c => toBytes 2 c | none => []))
        | .tile r p =>
          let (tid, fl) := (s.ctx n).taskBits
          let other := if (s.ctx n).task.any (fun t => t.desc.outs.contains r) then 0 else 8
          (s.answers (refHome r), 5, toBytes 1 (6 + other) ++ toBytes 1 fl ++ toBytes 6 tid ++ toBytes 4 p.toNat ++ b.data)
      (s.inject (dieOf (coreOf n)) (home / 4) (home % 4) 0 op true x.taddr (cmdTag n m.id b.data.length) body).updCmd n m.id
        (fun m => { m with far := m.far ++ [m.off] })
    | _ => s

/-- The command that the engine of a core serves next: round-robin by context (R333). -/
def State.nextCopy (s : State) (core : Nat) : Option (Nat × Cmd) :=
  ([1, 2, 3, 4].map (fun i => 4 * core + ((s.core core).copyRR + i) % 4)).findSome? (fun n =>
    if s.engineRuns n then ((s.ctx n).mem.cmds.find? (fun m => decide (m.stat = .running))).map (fun m => (n, m)) else none)

/-- COPY_BURST: the engine of core `evt.n` moves one burst, at most one in a core cycle; a fault stops the command at the element that
met it (R333, R336, R344). The bytes of a source on another package, and the fault that one met there, come with the step (log
entry 100); a burst to another package through a translation that the die does not hold is sent once those before it are
acknowledged, so that a fault found there leaves nothing above its element written (R344; log entry 98). -/
def execCopyBurst (s : State) : Host.Outcome State Fault Refusal :=
  let core := s.evt.n
  match s.nextCopy core with
  | none => .refused .notEnabled
  | some (n, m) =>
    let k := m.runFrom m.off (256 / m.ebd - 1)
    let (b, s') := s.burstFrom n m m.off k { data := [], cnt := 0, fault := none, busy := false, used := 0, first := .nowhere }
    let far := match b.first, m.dest m.off with
      | .remote, .va .. => !m.far.isEmpty && (s.endpAny n (m.dest m.off)).isNone
      | _, _ => false
    if b.cnt = 0 && b.busy || decide (s.evt.data.length < b.used) || far || !s.fresh (.burst core) then .refused .notEnabled
    else
      let s := (s'.burstWrite n m b).come (.burst core) 0
      let s := s.updCore core (fun c => { c with copyRR := n % 4 })
      let g := m.off + b.cnt
      match b.fault with
      | some f => .next (s.stopCmd n m.id g f)
      | none =>
        if m.total ≤ g then .next (s.updCmd n m.id (fun m => { m with off := g, stat := .draining, resv := false }))
        else .next (s.updCmd n m.id (fun m => { m with off := g, resv := m.resv && s.ownLeft n m g }))

/-! ### Completion -/

/-- No write of a command to another package is still to be acknowledged (R343). -/
def Cmd.copyAcked (m : Cmd) : Bool := m.far.isEmpty

/-- The release of a command has nothing left to wait for (R339, R364). -/
def State.copyReleased (s : State) (n : Nat) (m : Cmd) : Bool :=
  let c := s.ctx n
  let mine (r : Req) : Bool := m.hdr.ac == 0 || r.cls % 4 == m.hdr.ac.toNat % 4
  !m.hdr.rel ||
    (c.mem.reqs.all (fun r => !((r.op.isStore || r.isAtomic) && mine r &&
        r.awaited n s.pkg m.ord .rel ((Scope.ofCode m.hdr.sc.toNat).getD .dom)) || r.acked) &&
     c.ownDone s.pkg (coreOf n) m.ord)

/-- COPY_COMPLETION: the oldest command of context `evt.n` whose last write is acknowledged completes after its release
and sets its flag (R339, R343). -/
def execCopyCompletion (s : State) : Host.Outcome State Fault Refusal :=
  let n := s.evt.n
  match (s.ctx n).mem.cmds.find? (fun m => decide (m.stat ≠ .done)) with
  | none => .refused .notEnabled
  | some m =>
    if m.stat ≠ .draining || !m.copyAcked || !s.copyReleased n m || !s.engineRuns n ||
      (s.ctx n).sched.pend.any (fun p => decide (p.dest = .f m.hdr.fl) && p.slot == .e0) then .refused .notEnabled
    else
      let s := s.updCmd n m.id (fun m => { m with stat := .done, resv := false })
      let s := if m.hdr.fl = 0 then s else s.engineFlag n m.hdr.fl true
      .next (s.updCtx n Ctx.pruneCmds)

end Sys2Proof.Machine
end

