-- ==== Sys2Proof/Machine/Dispatcher.lean ====
section
/-! DEFINITION. Dispatch (R149 to R153, R155 to R157), work stealing (R158 to R160, R169) and the start of tasks. -/

namespace Sys2Proof.Machine

/-- Position in the dispatcher's order: higher effective priority, earlier readiness, lower queue, lower sequence number
(R151). -/
def orderKey (prio since queue seq : Nat) : Nat := (((7 - prio) * 2 ^ 64 + since) * 128 + queue) * 2 ^ 40 + seq

/-- A member of a team that is dispatched with its team (R63, R516). -/
def QEntry.inTeam (e : QEntry) : Bool := e.task.desc.team != 0 && !e.task.rebuilt

/-- Order key of a ready entry. -/
def State.entryKey (s : State) (e : QEntry) : Nat :=
  match e.stat with
  | .ready t => orderKey (s.prio e.task) t e.queue e.task.seq
  | _ => 0

/-- A re-dispatched member whose team is running: it goes back to a context of its own (R45, R63, R144). -/
def State.rejoins (s : State) (e : QEntry) : Bool :=
  e.inTeam && e.task.redispatched && s.teams.any (fun t => t.key == e.task.desc.team && t.placed)

/-- A ready entry that the dispatcher of die `d` may take alone. -/
def State.takeable (s : State) (d : Nat) (e : QEntry) : Bool :=
  (match e.stat with | .ready _ => true | _ => false) && (!e.inTeam || s.rejoins e) && !(s.die d).held e

/-- Entries in the local ready queue of a core, over all dies' pools. -/
def State.localQueue (s : State) (core : Nat) : List QEntry :=
  ((List.range 4).flatMap (fun d => (s.die d).entries)).filter (fun e => match e.stat with
    | .loc c _ => c == core
    | .parked c _ _ => c == core
    | _ => false)

/-- Cores of die `d` that are online. -/
def State.onlineCores (s : State) (d : Nat) : List Nat :=
  ((List.range 256).map (fun i => 256 * d + i)).filter (fun c => !(s.core c).offline)

/-- The core that the dispatcher chooses: most free contexts, fewest local entries, lowest index; none when all are full
(R151). -/
def State.dispatchCore (s : State) (d : Nat) : Option Nat :=
  leastBy (fun c => ((4 - (s.freeCtxs c).length) * 32 + (s.localQueue c).length) * 1024 + c)
    ((s.onlineCores d).filter (fun c => decide ((s.localQueue c).length < 16)))

/-- The core an entry can be placed on in this cycle; a pinned copy's may lie on another die than its queue (R151, R155). -/
def State.placeFor (s : State) (d : Nat) (e : QEntry) : Option Nat :=
  match e.task.pin with
  | some c =>
    if (s.core c).offline || !s.online (dieOf c) then s.dispatchCore d
    else if (s.localQueue c).length < 16 then some c else none
  | none => s.dispatchCore d

/-- Put a ready entry of die `d` into a core's local ready queue. -/
def State.toCore (s : State) (d core : Nat) (e : QEntry) : State :=
  s.updDie d (fun x => { x with entries := x.entries.map (fun y => if y = e then { e with stat := .loc core s.clock } else y) })

/-! ### Teams -/

/-- Members of a team in its die's pool that have not ended. -/
def State.members (s : State) (t : Team) : List QEntry :=
  (s.die t.die).entries.filter (fun e => e.inTeam && e.task.desc.team == t.key)

/-- Every member of a team is ready and none is held (R63, R157). -/
def State.teamReady (s : State) (t : Team) : Bool :=
  let ms := s.members t
  !t.placed && (t.state == 0 || (t.state == 2 && ms.all (fun e => e.task.restored))) && decide (ms.length + t.ended.length = t.tsize) && decide (0 < ms.length) &&
  ms.all (fun e => (match e.stat with | .ready _ => true | _ => false) && !(s.die t.die).held e)

/-- Order key of a ready team (R157). -/
def State.teamKey (s : State) (t : Team) : Nat :=
  let ms := s.members t
  let prio := ms.foldl (fun m e => max m (s.prio e.task)) 0
  let since := ms.foldl (fun m e => match e.stat with | .ready u => max m u | _ => m) 0
  let seq := (least? (ms.map (fun e => e.task.seq))).getD 0
  orderKey prio since t.queue seq

/-- A ready team is its die's next choice (R151, R157). -/
def State.teamFirst (s : State) (t : Team) : Bool :=
  let k := s.teamKey t
  let x := s.die t.die
  x.entries.all (fun e => !(s.takeable t.die e && (s.placeFor t.die e).isSome) || decide (k ≤ s.entryKey e)) &&
  s.teams.all (fun u => !(u.die == t.die && s.teamReady u) || decide (k ≤ s.teamKey u))

/-- Contexts of a die that are free or run a task (R157). -/
def State.capacity (s : State) (d : Nat) : Nat :=
  ((s.onlineCores d).flatMap (fun c => [0, 1, 2, 3].map (fun i => 4 * c + i))).foldl (fun k n =>
    if (s.ctx n).vacant || decide ((s.ctx n).mode = .task) then k + 1 else k) 0

/-- Rank order of contexts: context number, then physical core index (R175). -/
def byRank (l : List Nat) : List Nat := sortBy (fun n => (n % 4) * 4096 + n / 4) l

/-- Free contexts of a die, by context number, then core (R175). -/
def State.freeOf (s : State) (d : Nat) : List Nat := byRank ((s.onlineCores d).flatMap s.freeCtxs)

/-- Contexts of the members of a masked team, by rank: a context of each masked core, of an offline one's die any; those it holds
reserved come first (R157). -/
def State.maskedPlaces (s : State) (t : Team) : List (Nat × Nat) :=
  let off (e : QEntry) : Bool := (s.core (e.task.pin.getD 0)).offline
  let pick (acc : List (Nat × Nat)) (e : QEntry) : List (Nat × Nat) :=
    let k := e.task.pin.getD 0
    let fits (n : Nat) : Bool :=
      (if off e then dieOf (coreOf n) == dieOf k else coreOf n == k) && !acc.any (fun x => x.2 == n)
    match (t.reserved ++ (if off e then s.freeOf (dieOf k) else s.freeCtxs k)).find? fits with
    | some n => acc ++ [(e.task.desc.rank, n)]
    | none => acc
  let ms := s.members t
  sortBy Prod.fst ((ms.filter off).foldl pick ((ms.filter (fun e => !off e)).foldl pick []))

/-- Contexts that a team reserves now: on its die, on the other dies when that die is too small; a masked team on its
masked cores (R157). -/
def State.reserve (s : State) (t : Team) : List Nat :=
  if t.masked then (s.maskedPlaces t).map Prod.snd
  else
    let need := (s.members t).length
    let dies := if s.capacity t.die < need then t.die :: (List.range 4).filter (fun d => d != t.die && s.online d) else [t.die]
    (t.reserved ++ dies.flatMap s.freeOf).take need

/-- A team finds a context for each of its members. -/
def State.teamFits (s : State) (t : Team) : Bool := decide ((s.reserve t).length = (s.members t).length)

/-- What the dispatcher of die `d` can place in this cycle and comes before a key: a task, or a ready team that fits (R151, R157). -/
def State.ahead (s : State) (d key : Nat) : Bool :=
  (s.die d).entries.any (fun e => s.takeable d e && (s.placeFor d e).isSome && decide (s.entryKey e < key)) ||
  s.teams.any (fun u => u.die == d && s.teamReady u && s.teamFits u && decide (s.teamKey u < key))

/-- TASK_DISPATCH: the dispatcher of die `evt.n` takes the first ready task that it can place, one a cycle; a team that fits and ranks
before it goes first (R151). -/
def execTaskDispatch (s : State) : Host.Outcome State Fault Refusal :=
  let d := s.evt.n
  if 4 ≤ d || !s.online d || !s.fresh (.take d) then .refused .notEnabled
  else
    match leastBy s.entryKey ((s.die d).entries.filter (fun e => s.takeable d e && (s.placeFor d e).isSome)) with
    | some e =>
      if s.ahead d (s.entryKey e) then .refused .notEnabled
      else (match s.placeFor d e with | some c => .next ((s.toCore d c e).come (.take d) 0) | none => .refused .notEnabled)
    | none => .refused .notEnabled

/-- Place every member of a team on its contexts in one cycle: rank k on the k-th context (R157, R175). -/
def State.placeTeam (s : State) (t : Team) (ctxs : List Nat) : State :=
  let ms := sortBy (fun e => e.task.desc.rank) (s.members t)
  let order := if t.masked then (s.maskedPlaces { t with reserved := ctxs }).map Prod.snd else byRank ctxs
  let s := ms.foldl (fun s e => s.updEntry e.task.tid e.task.rebuilt (fun x => { x with task := { x.task with
    slept := x.task.slept + s.frozenFor x.task } })) s
  let ms := sortBy (fun e => e.task.desc.rank) (s.members t)
  let s := s.updTeam t.key (fun x => { x with
    placed := true, reserved := [], choice := none, state := 0, bindDie := dieOf (coreOf (order.headD 0)) })
  let s := if t.saved.isEmpty then s.bindName t.key 0 (ms.map (fun e => e.task.desc.rank))
    else t.saved.foldl (fun s b => match (s.die (s.barDie t.key)).barFree with
      | some i => s.updDie (s.barDie t.key) (fun x => { x with bars := Sparse.set x.bars i b })
      | none => s) s
  (ms.zip order).foldl (fun s p => s.startTask p.2 p.1) s

/-- TEAM_DISPATCH: the team `evt.m` of die `evt.n` is placed in one cycle when it finds a context for each member and nothing that can
be placed comes before it; otherwise, as the dispatcher's next choice, it reserves free contexts (R151, R157). -/
def execTeamDispatch (s : State) : Host.Outcome State Fault Refusal :=
  match s.team? s.evt.m with
  | none => .refused .notEnabled
  | some t =>
    if t.die != s.evt.n || !s.online t.die || !s.teamReady t then .refused .notEnabled
    else
      let r := s.reserve t
      if s.teamFits t then
        (if s.fresh (.take t.die) && !s.ahead t.die (s.teamKey t) then .next ((s.placeTeam t r).come (.take t.die) 0) else .refused .notEnabled)
      else if r = t.reserved || !s.teamFirst t then .refused .notEnabled
      else .next (s.updTeam t.key (fun x => { x with reserved := r }))

/-- The cycle since which each unplaced team has been its die's next choice (R157). -/
def State.trackTeams (s : State) : State :=
  { s with teams := s.teams.map (fun t => { t with
    choice := if s.teamReady t && s.teamFirst t then some (t.choice.getD s.clock) else none }) }

/-- TEAM_MIGRATE: a team unplaced for 2^20 cycles as the next choice goes to the queue of the same number on the die that
advertises most free team slots (R157). Of a masked team R157 says that it is moved only through copies whose masked core is offline;
the model moves it when that holds of all its copies, which are unpinned from then on (log entry 96). -/
def execTeamMigrate (s : State) : Host.Outcome State Fault Refusal :=
  match s.team? s.evt.m with
  | none => .refused .notEnabled
  | some t =>
    let need := t.tsize - t.ended.length
    let dies := (List.range 4).filter (fun d => d != t.die && s.online d && decide (need ≤ (s.die d).slots))
    match t.choice, leastBy (fun d => (4096 - (s.die d).slots) * 4 + d) dies with
    | some since, some d =>
      if t.die != s.evt.n || t.placed || s.clock < since + 2 ^ 20 ||
          (t.masked && !(s.members t).all (fun e => (s.core (e.task.pin.getD 0)).offline)) then .refused .notEnabled
      else
        let ms := s.members t
        let s := s.dropEntries t.die (fun e => ms.contains e)
        let s := ms.foldl (fun s e =>
          let (e, s) := s.moveImage t.die d e
          s.enqueue d { e with task := { e.task with pin := none } }) s
        .next (s.updTeam t.key (fun x => { x with die := d, reserved := [], choice := none, masked := false }))
    | _, _ => .refused .notEnabled

/-- FREE_TEAM_SLOTS_ADVERTISE: die `evt.n` advertises its free contexts, every 2^16 cycles (R157). -/
def execFreeTeamSlotsAdvertise (s : State) : Host.Outcome State Fault Refusal :=
  let d := s.evt.n
  if 4 ≤ d || !s.online d || (decide ((s.die d).advert ≠ 0) && decide (s.clock < (s.die d).advert + 2 ^ 16)) then
    .refused .notEnabled
  else .next (s.updDie d (fun x => { x with slots := (s.freeOf d).length, advert := max 1 s.clock }))

/-! ### A core's own start, stealing, pre-emption -/

/-- Order of local entries: effective priority, cycle of entry, task id (R152). -/
def State.localKey (s : State) (e : QEntry) : Nat :=
  match e.stat with
  | .loc _ t => ((7 - s.prio e.task) * 2 ^ 64 + t) * 2 ^ 49 + e.task.tid
  | _ => 2 ^ 130

/-- Local entries that can start: not those of a frozen team (R430). -/
def State.startable (s : State) (core : Nat) : List QEntry :=
  (s.localQueue core).filter (fun e => (match e.stat with | .loc .. => true | _ => false) &&
    !s.teams.any (fun t => t.key == e.task.key && t.state != 0))

/-- The local entry that comes first (R152). -/
def State.localFirst (s : State) (core : Nat) : Option QEntry := leastBy s.localKey (s.startable core)

/-- LOCAL_TASK_START: core `evt.n` starts its first local entry on its lowest free context (R152). -/
def execLocalTaskStart (s : State) : Host.Outcome State Fault Refusal :=
  let c := s.evt.n
  match s.localFirst c, s.freeCtxs c with
  | some e, n :: _ => .next (s.startTask n e)
  | _, _ => .refused .notEnabled

/-- A local entry that may be stolen (R159). -/
def QEntry.stealable (e : QEntry) : Bool := e.task.pin.isNone && !e.inTeam && e.task.level != 2

/-- The entry that a thief takes from a victim: the eligible one it would start last, unless the victim starts it itself in this
cycle (R152, R159, R160). -/
def State.stealFrom (s : State) (victim : Nat) : Option QEntry :=
  (leastBy (fun e => 2 ^ 131 - s.localKey e) ((s.startable victim).filter QEntry.stealable)).filter (fun e =>
    (s.freeCtxs victim).isEmpty || s.localFirst victim != some e)

/-- One steal attempt of a core on a victim: the task id, or nothing. Of the thieves of one cycle the first to come, in ascending
order of core, has it; a thief whose own queue holds 16 tasks gets nothing, which the spec leaves open (R152, R159, R160; log
entry 97). -/
def State.steal (s : State) (thief victim : Nat) : Option Nat × State :=
  let won := s.fresh (.victim victim) && decide ((s.localQueue thief).length < 16)
  let e? := s.stealFrom victim
  let s := s.come (.victim victim) thief
  match won, e? with
  | true, some e => (some e.task.tid, s.updEntry e.task.tid e.task.rebuilt (fun x => { x with stat := .loc thief s.clock }))
  | _, _ => (none, s)

/-- The next victim of a core's rotation (R158): `rot` is the number of victims passed since its own index. -/
def nextVictim (core rot : Nat) : Nat := 256 * dieOf core + (core % 256 + 1 + rot % 255) % 256

/-- AUTO_STEAL: an idle core tries its next victim, one in a cycle; a round of 255 without success waits 256 cycles (R158); thieves
reach a victim in ascending order (R160). -/
def execAutoSteal (s : State) : Host.Outcome State Fault Refusal :=
  let c := s.evt.n
  let k := s.core c
  if k.offline || decide (0 < k.stealWait) || !(s.localQueue c).isEmpty || decide ((s.freeCtxs c).length < 4) ||
      !s.fresh (.attempt c) || !s.mayCome (.victim (nextVictim c k.rot)) c then
    .refused .notEnabled
  else
    let (got, s) := (s.come (.attempt c) 0).steal c (nextVictim c k.rot)
    let tried := if got.isSome then 0 else k.tried + 1
    .next (s.updCore c (fun k => { k with
      rot := (k.rot + 1) % 255, tried := if tried = 255 then 0 else tried, stealWait := if tried = 255 then 256 else 0 }))

/-- Verdict of STEAL. -/
def State.stealVerdict (s : State) : Verdict := (s.needTask .s).andThen s.latchVerdict

/-- STEAL: the attempt is made now, gd and fx are written as one landing of distance 40 (R169). -/
def execSteal (p : Pred) (d a : BitVec 6) (f : BitVec 4) (s : State) : Host.Outcome State Fault Refusal :=
  let g := (s.me.g a).toNat
  act s p s.stealVerdict (fun s =>
    let c := coreOf s.cur
    let k := s.core c
    let victim := if g = 0x100 then some (nextVictim c k.rot)
      else if g < 256 ∧ g ≠ c % 256 then some (256 * dieOf c + g) else none
    let s := if g = 0x100 then s.updCore c (fun k => { k with rot := (k.rot + 1) % 255 }) else s
    let (got, s) := match victim with | some v => s.steal c v | none => (none, s)
    let id := s.me.mem.nextId
    let l := { s.me.newLatch .s id 40 (.g d) with
      stat := .arrived, data := BitVec.ofNat 2048 (got.getD 0), flag := some (f, got.isNone) }
    s.updMe (fun c => { c with
      mem := { c.mem with nextId := id + 1 }, sched := { c.sched with latches := c.sched.latches ++ [l] } }))

/-- The running task that a core gives up for an entry of effective priority `p`: lowest effective priority, ties to the
higher context; none when some context runs a task above p − 2 (R153). -/
def State.victimCtx (s : State) (core p : Nat) : Option Nat :=
  let ctxs := [0, 1, 2, 3].map (fun i => 4 * core + i)
  let low (n : Nat) : Bool := match (s.ctx n).task with | some t => decide (s.prio t + 2 ≤ p) | none => false
  let may (n : Nat) : Bool := match (s.ctx n).task with
    | some t => t.desc.team == 0 && t.level != 2 && decide ((s.ctx n).mode ≠ .stopped)
    | none => false
  if ctxs.all low then
    leastBy (fun n => (match (s.ctx n).task with | some t => s.prio t | none => 8) * 4 + (3 - n % 4)) (ctxs.filter may)
  else none

/-- CORE_PREEMPTION: after 2^16 cycles at the head of the local queue a task pre-empts the lowest running one (R153,
R420, R424). -/
def execCorePreemption (s : State) : Host.Outcome State Fault Refusal :=
  let c := s.evt.n
  match (s.core c).head, s.localFirst c with
  | some (tid, since), some e =>
    if e.task.tid ≠ tid ∨ (s.core c).cycle < since + 2 ^ 16 ∨ 1024 ≤ (s.die (dieOf c)).frozen.length then
      .refused .notEnabled
    else
      match s.victimCtx c (s.prio e.task) with
      | some n =>
        if (s.ctx n).sync.preempt then .refused .notEnabled
        else .next (s.updCtx n (fun x => { x with sync := { x.sync with preempt := true } }))
      | none => .refused .notEnabled
  | _, _ => .refused .notEnabled

/-- The head of a core's local queue, with the cycle since which it stands there (R153). -/
def State.trackHead (s : State) (core : Nat) : State :=
  let h := (s.localFirst core).map (fun e => e.task.tid)
  s.updCore core (fun k => { k with head := match h, k.head with
    | some t, some (u, x) => if t = u then some (u, x) else some (t, k.cycle)
    | some t, none => some (t, k.cycle)
    | none, _ => none })

end Sys2Proof.Machine
end

