-- ==== Sys2Proof/Machine/Fitting.lean ====
section
/-! DEFINITION. Approximable regions and the fitting engine (R293 to R315): the region items, Sorrel's evaluation and
training, views, bindings, samples, the fitting operations of the E1 slot. -/

namespace Sys2Proof.Machine

/-! ### Region items and weight headers (R294, R299) -/

/-- A region table item (R294). -/
abbrev Item := BitVec 512

def Item.rg (x : Item) : Nat := bits x.toNat 0 4
def Item.bix (x : Item) : Nat := bits x.toNat 8 24
/-- Input and output line `j`. -/
def Item.inl (x : Item) (j : Nat) : LineRef := lineOfCode (bits x.toNat (32 + 8 * j) 8)
def Item.outl (x : Item) (j : Nat) : LineRef := lineOfCode (bits x.toNat (64 + 8 * j) 8)
def Item.nli (x : Item) : Nat := bits x.toNat 96 2 + 1
def Item.nlo (x : Item) : Nat := bits x.toNat 98 2 + 1
def Item.ti (x : Item) : Ty := (Ty.ofCode (bits x.toNat 100 4)).getD .f32
def Item.dst (x : Item) : Ty := (Ty.ofCode (bits x.toNat 104 4)).getD .f32
def Item.nin (x : Item) : Nat := bits x.toNat 108 7 + 1
def Item.nout (x : Item) : Nat := bits x.toNat 115 7 + 1
/-- ti, to, nin, nout and nl as a weight header repeats them. -/
def Item.shape (x : Item) : Nat := bits x.toNat 100 24
def Item.par (x : Item) : Nat := bits x.toNat 128 32
def Item.k (x : Item) : Nat := bits x.toNat 140 4
def Item.eabs (x : Item) : Nat := bits x.toNat 160 32
def Item.erel (x : Item) : Nat := bits x.toNat 192 32

/-- The shape of a network: input and output counts, layers, hidden widths (R300). -/
structure Net where
  nin  : Nat
  nout : Nat
  nl   : Nat
  w1   : Nat
  w2   : Nat
deriving DecidableEq, Repr

/-- The network of shape and parameter fields (R294, R299). -/
def netOf (shape par : Nat) : Net :=
  { nin := bits shape 8 7 + 1, nout := bits shape 15 7 + 1, nl := bits shape 22 2, w1 := bits par 0 6 + 1,
    w2 := bits par 6 6 + 1 }

/-- Width of layer `l` (R300). -/
def Net.width (x : Net) (l : Nat) : Nat := if l = x.nl then x.nout else if l = 1 then x.w1 else x.w2

/-- Input count of layer `l`. -/
def Net.inputs (x : Net) (l : Nat) : Nat := if l = 1 then x.nin else x.width (l - 1)

/-- Layers 1 to nl. -/
def Net.layers (x : Net) : List Nat := (List.range x.nl).map (· + 1)

/-- First row of layer `l` in a weight version (R299). -/
def Net.row (x : Net) (l : Nat) : Nat := 1 + ((List.range (l - 1)).map (fun k => x.width (k + 1) + 1)).foldl (· + ·) 0

/-- Rows that a weight version needs (R299). -/
def Net.rows (x : Net) : Nat := 8 * ceilDiv (x.row (x.nl + 1)) 8

/-- Parameter count p (R300). -/
def Net.params (x : Net) : Nat := (x.layers.map (fun l => x.width l * (x.inputs l + 1))).foldl (· + ·) 0

/-- FP32 words of a weight version, row by row. -/
abbrev Words := List W32

/-- Word (row, column). -/
def Words.at (w : Words) (r c : Nat) : Nat := (w.getD (64 * r + c) 0).toNat

/-- Fields of a weight header (R299). -/
def Words.img (w : Words) : W64 := BitVec.ofNat 64 (w.at 0 0 + w.at 0 1 <<< 32)
def Words.rg (w : Words) : Nat := bits (w.at 0 2) 0 4
def Words.state (w : Words) : Nat := bits (w.at 0 2) 4 3
def Words.shape (w : Words) : Nat := bits (w.at 0 2) 8 24
def Words.net (w : Words) : Net := netOf w.shape (w.at 0 3)
def Words.bsz (w : Words) : Nat := bits (w.at 0 3) 16 6 + 1

/-- Replace word `i`. -/
def Words.put (w : Words) (i v : Nat) : Words := w.set i (BitVec.ofNat 32 v)

/-! ### Sorrel (R300) -/

/-- FP32 of an exact value, to nearest even. -/
def toF32 (x : Num) : Nat := Rnd.ne.float .f32 0 x false

/-- A value rounded to BF16. -/
def toBf16 (x : Num) : Num := decodeNum .bf16 (Rnd.ne.float .bf16 0 x false)

/-- BF16 weight (l, o, i). -/
def Words.weight (w : Words) (l o i : Nat) : Num := toBf16 (f32 (w.at (w.net.row l + o) i))

/-- FP32 bias (l, o). -/
def Words.bias (w : Words) (l o : Nat) : Num := f32 (w.at (w.net.row l + w.net.width l) o)

/-- Layer `l` on inputs `v`: the FP32 patterns y. -/
def Words.layer (w : Words) (l : Nat) (v : List Num) : List Nat :=
  (List.range (w.net.width l)).map (fun o =>
    toF32 (sumNums false (w.bias l o :: (number 0 v).map (fun p => (w.weight l o p.1).mul p.2))))

/-- What a hidden layer passes on: the greater of y and +0, in BF16. -/
def relu (y : Nat) : Num :=
  match f32 y with
  | .nan => .nan
  | x => if x.isZero true || x.lt (.fin false 0 0) then .fin false 0 0 else toBf16 x

/-- Every layer from a list on: its inputs and its y. -/
def Words.forward (w : Words) (ls : List Nat) (v : List Num) : List (List Num × List Nat) :=
  match ls with
  | [] => []
  | l :: r => let y := w.layer l v; (v, y) :: w.forward r (y.map relu)

/-- Every layer on FP32 inputs. -/
def Words.run (w : Words) (x : List W32) : List (List Num × List Nat) :=
  w.forward w.net.layers (x.map (fun v => toBf16 (f32 v.toNat)))

/-- Sorrel's outputs in type `to` (R300). -/
def Words.sorrel (w : Words) (dst : Ty) (x : List W32) : List Nat :=
  (((w.run x).getLast?.map Prod.snd).getD []).map (fun y => Rnd.ne.convElem .f32 dst 0 y)

/-! ### Training (R308, R309) -/

/-- A sample: input and true output vectors as FP32. -/
abbrev Sample := List W32 × List W32

/-- Output errors of a sample. -/
def errors (run : List (List Num × List Nat)) (v : List W32) : List Num :=
  List.zipWith (fun y t => sumNums false [f32 y, (f32 t.toNat).neg]) ((run.getLast?.map Prod.snd).getD []) v

/-- delta of every layer, from the last back, times nout: the list starts with layer 1. -/
def Words.deltas (w : Words) (l : Nat) (run : List (List Num × List Nat)) (last : List Num) : List (List Num) :=
  match run with
  | [] => []
  | [_] => [last]
  | (_, y) :: rest =>
    let ds := w.deltas (l + 1) rest last
    let next := ds.headD []
    let d := (number 0 y).map (fun p =>
      if (Num.fin false 0 0).lt (f32 p.2) then
        sumNums false ((number 0 next).map (fun q => (w.weight (l + 1) q.1 p.1).mul q.2))
      else .fin false 0 0)
    d :: ds

/-- Exact contributions of one sample, times nout: its squared errors, and delta and inputs of every layer. -/
structure Grad where
  sq : List Num
  ds : List (List Num × List Num)
deriving DecidableEq, Repr

/-- The contributions of one sample. -/
def Words.grad (w : Words) (x : Sample) : Grad :=
  let run := w.run x.1
  let es := errors run (x.2.take w.net.nout)
  { sq := es.map (fun e => e.mul e)
    ds := List.zipWith (fun d r => (d, r.1)) (w.deltas 1 run (es.map (fun e => e.mul (.fin false 2 0)))) run }

/-- Sum over a batch of delta (l, o) times input i, or of delta alone for a bias, times nout. -/
def gradSum (gs : List Grad) (l o : Nat) (i : Option Nat) : Num :=
  sumNums false (gs.map (fun g =>
    match g.ds[l - 1]? with
    | none => .fin false 0 0
    | some (d, a) =>
      let x := d.getD o (.fin false 0 0)
      match i with | some i => x.mul (a.getD i (.fin false 0 0)) | none => x))

/-- Not a finite value. -/
def Num.bad (x : Num) : Bool := match x with | .fin .. => false | _ => true

/-- A value divided by a count and rounded to FP32. -/
def overCount (x : Num) (n : Nat) : Nat := let q := x.quot (.fin false n 0); Rnd.ne.float .f32 0 q.1 q.2

/-- One parameter after a batch. -/
def stepParam (q lr : Nat) (g : Num) (n : Nat) : Nat :=
  toF32 (sumNums false [f32 q, ((f32 lr).mul (f32 (overCount g n))).neg])

/-- The parameters of a network: layer, output, input or bias, word index. -/
def Net.places (x : Net) : List (Nat × Nat × Option Nat × Nat) :=
  x.layers.flatMap (fun l => (List.range (x.width l)).flatMap (fun o =>
    ((List.range (x.inputs l)).map (fun i => (l, o, some i, 64 * (x.row l + o) + i))) ++
    [(l, o, none, 64 * (x.row l + x.width l) + o)]))

/-- Train one batch: the new words, and whether it counted (R309). -/
def Words.trainBatch (w : Words) (xs : List Sample) : Words × Bool :=
  let x := w.net
  let n := x.nout * xs.length
  let gs := xs.map w.grad
  let L := sumNums false (gs.flatMap Grad.sq)
  let ps := x.places.map (fun p => (p.2.2.2, gradSum gs p.1 p.2.1 p.2.2.1))
  if L.bad || ps.any (fun p => Num.bad p.2) then (w, false)
  else
    let lr := w.at 0 6
    ((ps.foldl (fun v p => v.put p.1 (stepParam (w.at 0 p.1) lr p.2 n)) w).put 12 (overCount L n), true)

/-- Train on full batches of `b` samples, at most `k` of them: the words, and the number of batches that counted. -/
def Words.train (w : Words) (b : Nat) (xs : List Sample) (k : Nat) : Words × Nat :=
  match k with
  | 0 => (w, 0)
  | k + 1 =>
    if xs.length < b then (w, 0)
    else
      let (v, ok) := w.trainBatch (xs.take b)
      let (u, n) := v.train b (xs.drop b) k
      (u, n + b2n ok)

/-- FTSTEP's new weight version from W and the samples, F failures and P passes (R308). -/
def Words.step (w : Words) (xs : List Sample) (F P : Nat) : Words :=
  let nobs := w.at 0 9
  let train := w.state = 1 ∨ 0 < F
  let (v, n) := if train then w.train w.bsz xs xs.length else (w, 0)
  let nb := if w.state = 1 then w.at 0 10 + n else if 0 < F then n else w.at 0 10
  let np := if w.state = 1 ∨ 0 < F then 0 else if w.state = 2 then w.at 0 11 + P else w.at 0 11
  let st := if w.state = 1 then (if nobs ≤ nb ∧ (f32 (v.at 0 12)).lt (f32 (w.at 0 7)) then 2 else 1)
    else if 0 < F then 1
    else if w.state = 2 then (if w.at 0 8 ≤ np then 3 else 2)
    else w.state
  ((((v.put 2 (v.at 0 2 - w.state <<< 4 + st <<< 4)).put 10 nb).put 11 np).put 13 (w.at 0 13 + 1))

/-! ### Weight versions in tiles -/

/-- Words of a tile's first `n` rows of `c` columns. -/
def State.tileWords (s : State) (t : Tile) (n c : Nat) : Words :=
  (List.range (n * c)).map (fun i => BitVec.ofNat 32 (s.readNat (t.loc + 4 * i) 4))

/-- Bytes of words. -/
def wordBytes (w : Words) : List Byte := w.flatMap (fun x => toBytes 4 x.toNat)

/-- h24 of a new weight (R313). -/
def h24 (r : W64) (l o i : Nat) : Nat :=
  bits (mix (mix (mix (mix r ^^^ BitVec.ofNat 64 l) ^^^ BitVec.ofNat 64 o) ^^^ BitVec.ofNat 64 i)).toNat 40 24

/-- The weight version that FTCFG.new writes (R313). -/
def newWords (r img : W64) (x : Item) (rows : Nat) : Words :=
  let net := netOf x.shape x.par
  let iscale := f32 (bits x.toNat 352 32)
  let zero : Words := List.replicate (64 * rows) 0
  let head := [bits img.toNat 0 32, bits img.toNat 32 32, x.rg + 1 <<< 4 + x.shape <<< 8, x.par, x.eabs, x.erel,
    bits x.toNat 224 32, bits x.toNat 256 32, bits x.toNat 288 32, bits x.toNat 320 32, 0, 0, 0x7F800000, 0]
  let w := (number 0 head).foldl (fun (w : Words) p => w.put p.1 p.2) zero
  net.places.foldl (fun (w : Words) p =>
    match p with
    | (l, o, some i, k) =>
      let h := h24 r l o i
      w.put k (toF32 ((Num.fin (decide (h < 2 ^ 23)) ((h : Int) - 2 ^ 23).natAbs (-23)).mul iscale))
    | _ => w) w

/-! ### Views, bindings, comparisons -/

/-- The region item of number `rg` of the running context's image. -/
def State.item? (s : State) (n rg : Nat) : Option Item :=
  (s.image? (dieOf (coreOf n)) (s.ctx n).imageHandle).bind (fun i => i.regions.find? (fun x => Item.rg x == rg))

/-- Change the view of region `rg` of context `n`. -/
def State.updView (s : State) (n rg : Nat) (f : View → View) : State :=
  s.updCtx n (fun c => { c with fit := { c.fit with views := Sparse.set c.fit.views rg (f (c.fit.view rg)) } })

/-- A comparison takes effect on its view (R303). -/
def View.compare (v : View) (pass : Bool) : View :=
  if v.state = 0 then v
  else if pass then { v with npass := min 255 (v.npass + 1) }
  else { v with nfail := min 255 (v.nfail + 1), state := if v.state = 2 then 1 else if v.state = 3 then 4 else v.state }

/-- Apply the comparisons made before context time `t`, in the order of their times (R305). -/
def Ctx.applyCmps (c : Ctx) (t : Nat) : Ctx :=
  let due := sortBy Cmp.c (c.fit.cmps.filter (fun x => x.c < t))
  let views := due.foldl (fun vs x => Sparse.set vs x.rg ((Sparse.get View.reset vs x.rg).compare x.pass)) c.fit.views
  { c with fit := { c.fit with views := views, cmps := c.fit.cmps.filter (fun x => !(x.c < t)) } }

/-- Lines [a, a + n) of working memory that no entry uses. -/
def linesFree (es : Sparse RegEntry) (a n : Nat) : Bool :=
  decide (a + n ≤ 256) && es.all (fun e => !meets a n e.2.base e.2.nlines)

/-- Place `n` lines and a free entry number, giving up unbound entries, least recently used first (R298). -/
def roomIn (es : Sparse RegEntry) (n fuel : Nat) : Option (Nat × Nat × Sparse RegEntry) :=
  let no := (List.range 16).find? (fun i => (Sparse.find? es i).isNone)
  let at_ := least? ((0 :: es.map (fun e => e.2.base + e.2.nlines)).filter (fun a => linesFree es a n))
  match no, at_, fuel with
  | some i, some a, _ => some (i, a, es)
  | _, _, 0 => none
  | _, _, fuel + 1 =>
    match leastBy (fun e : Nat × RegEntry => e.2.used) (es.filter (fun e => e.2.refs == 0)) with
    | some e => roomIn (Sparse.erase es e.1) n fuel
    | none => none

/-- The entry of a weight version on a context's quad (R298). -/
def State.regEntry? (s : State) (n : Nat) (ref : W64) : Option RegEntry :=
  ((s.quad (quadOf (coreOf n))).find? (fun e => e.2.wref == ref && e.2.loaded)).map Prod.snd

/-- Lines of working memory that a version takes (R298). -/
def Net.lines (x : Net) : Nat := max 1 (ceilDiv (2 * x.params) 256)

/-- Load words of a version into the quad's working memory, unless it is there; none while there is no room (R298). A version made
anew that needs more lines than its entry has is placed again. -/
def State.loadWeights (s : State) (n : Nat) (ref : W64) (w : Words) : Option State :=
  let q := quadOf (coreOf n)
  let old := s.regEntry? n ref
  if old.any (fun e => decide (w.net.lines ≤ e.nlines)) then some s
  else
    (roomIn ((s.quad q).filter (fun e => e.2.wref != ref)) w.net.lines 16).map (fun r =>
      { s with quads := Sparse.set s.quads q (Sparse.set r.2.2 r.1
          { wref := ref, loaded := true, nlines := w.net.lines, base := r.2.1, refs := (old.map RegEntry.refs).getD 0, used := s.clock,
            words := w }) })

/-- Change the entries of a weight version on a context's quad. -/
def State.updRegEntry (s : State) (n : Nat) (ref : W64) (f : RegEntry → RegEntry) : State :=
  let q := quadOf (coreOf n)
  { s with quads := Sparse.set s.quads q ((s.quad q).map (fun e => (e.1, if e.2.wref = ref then f e.2 else e.2))) }

/-- The engine evaluates with a version: its entry is the one used last (R298). -/
def State.useEntry (s : State) (n : Nat) (ref : W64) : State := s.updRegEntry n ref (fun e => { e with used := s.clock })

/-- Bind a region to a loaded version (R298). -/
def State.bindRef (s : State) (n : Nat) (ref : W64) : State :=
  s.updRegEntry n ref (fun e => { e with refs := e.refs + 1, used := s.clock })

/-- The entry of a version that a fitting operation names: at once from a directory of this package; of another package once its home
has answered, none before (R313). -/
def State.fitTile (s : State) (n : Nat) (ref : W64) : Option (Option Tile) :=
  if s.isRemote ref then
    match (s.ctx n).fit.answer with
    | some (r, b) => if r = ref then some (if b.isEmpty then none else some (tileOfBody b)) else none
    | none => none
  else some (s.tile? ref)

/-- The words that FTCFG.new makes of a version for region `rg` (R313). -/
def State.freshWords (s : State) (n : Nat) (ref : W64) (rg : Nat) : Option Words :=
  match s.fitTile n ref, s.item? n rg with
  | some (some t), some x => some (newWords ref (s.ctx n).imageHandle x t.rows)
  | _, _ => none

/-- Words that another package brings with a step (log entry 101). -/
def wordsOfBytes (b : List Byte) : Words := (List.range (b.length / 4)).map (fun i => BitVec.ofNat 32 (ofBytes ((b.drop (4 * i)).take 4)))

/-- The words of a version of 64 columns as its tile holds them: one of this package while it is VALID, or WRITING with what FTCFG.new
wrote; one homed elsewhere brings them in `evt.data` (R301, R313; log entry 101). -/
def State.wordsOf (s : State) (ref : W64) (rows : Option Nat) : Option Words :=
  if s.isRemote ref then
    let k := 256 * rows.getD (max 1 (s.evt.data.length / 256))
    if s.evt.data.length < k then none else some (wordsOfBytes (s.evt.data.take k))
  else (s.tile? ref).bind (fun t =>
    if t.state = 3 ∨ (t.state = 2 ∧ rows.isNone) then (if s.badAt t.loc t.region then none else some (s.tileWords t t.rows 64)) else none)

/-- A version of this package whose lines are bad: reading it finds that (R48). -/
def State.spoilt (s : State) (ref : W64) : Bool :=
  !s.isRemote ref && (s.tile? ref).any (fun t => t.state == 3 && s.badAt t.loc t.region)

/-- A version's home can be reached (R473). -/
def State.fitReach (s : State) (ref : W64) : Bool := !s.isRemote ref || s.reaches (s.answers (refHome ref) / 4)

/-- WEIGHTS_LOADED: another package's home answers the FTCFG of context `evt.n` with its entry; or the quad has loaded the weights that
its FTCFG waits for, or those of a bound region after a resume (R298, R301, R313). Reading an uncorrectable line makes the version
LOST (R48). What another package holds comes with the step (log entry 101). -/
def execWeightsLoaded (s : State) : Host.Outcome State Fault Refusal :=
  let n := s.evt.n
  let c := s.ctx n
  match c.fit.want with
  | some (ref, rg, new) =>
    (match s.fitTile n ref with
     | none =>
       if s.evt.data.length < farEntry ∨ !s.fitReach ref then .refused .notEnabled
       else
         let b := s.evt.data.take farEntry
         .next (s.updCtx n (fun c => { c with fit := { c.fit with
           want := none, answer := some (ref, if (tileOfBody b).state = 0 then [] else b) } }))
     | some t? =>
       if !new && s.spoilt ref then .next ((s.destroyed ref).updCtx n (fun c => { c with fit := { c.fit with want := none } }))
       else
         match (if new then s.freshWords n ref rg else s.wordsOf ref (t?.map Tile.rows)).bind (s.loadWeights n ref) with
         | some s => .next (s.updCtx n (fun c => { c with fit := { c.fit with want := none } }))
         | none => .refused .notEnabled)
  | none =>
    match c.fit.views.find? (fun v => v.2.wref != 0 && !v.2.loaded) with
    | none => .refused .notEnabled
    | some (rg, v) =>
      if s.spoilt v.wref then .next (s.destroyed v.wref)
      else
        match (s.wordsOf v.wref none).bind (s.loadWeights n v.wref) with
        | some s => .next ((s.bindRef n v.wref).updView n rg (fun v => { v with loaded := true }))
        | none => .refused .notEnabled

/-! ### Invocations (R302 to R306) -/

/-- Whether an APXB is sampled (R302). -/
def apxSampled (rg k : Nat) (ins : List W64) (inv : W32) : Bool :=
  let h := (List.range 8).foldl (fun h j => mix (h ^^^ ins.getD j 0)) (mix (0x2C1B7A5093E4D86F ^^^ BitVec.ofNat 64 rg))
  bits (mix (h ^^^ inv.zeroExtend 64)).toNat 0 k == 0

/-- The first `n` elements of successive lines as patterns of type `t`. -/
def Ctx.vec (c : Ctx) (t : Ty) (line : Nat → LineRef) (n : Nat) : List Nat :=
  (List.range n).map (fun e => lineElem t.bits (c.regs.line (line (e / t.elems))) (e % t.elems))

/-- Patterns of type `t` as FP32. -/
def asF32 (t : Ty) (xs : List Nat) : List W32 := xs.map (fun v => BitVec.ofNat 32 (Rnd.ne.convElem t .f32 0 v))

/-- A region's weights are still on their way (R301, R314). -/
def State.weightsWait (s : State) (rg : BitVec 4) : Verdict :=
  let v := s.me.fit.view rg.toNat
  freezeIf (v.wref != 0 && !v.loaded) .late

/-- The surrogate result: every output line in full, an exposed result of rank E1 at t+48 (R304). -/
def State.surrogate (s : State) (x : Item) (ys : List Nat) : State :=
  (List.range x.nlo).foldl (fun s j =>
    s.result .e1 48 (.line (x.outl j)) (lineOfElems x.dst.bits x.dst.elems (fun e => ys.getD (j * x.dst.elems + e) 0))) s

/-- Evaluations that a quad's engine has in flight: of open invocations, and of comparisons not yet made (R304, R305). -/
def State.evaluations (s : State) (q : Nat) : Nat :=
  ((List.range 16).map (fun k =>
    let c := s.ctx (16 * q + k)
    b2n (c.fit.invoc.any (fun i => (i.both || i.serve) && decide (c.sched.time < i.t + 48))) +
      (c.fit.cmps.filter (fun m => c.sched.time < m.c)).length)).foldl (· + ·) 0

/-- APXB (R303, R304, R306). Sorrel is evaluated on the inputs of the issue cycle. With more than four evaluations in flight in the quad the
manual does not say when one finishes, and the step SURROGATE_RESULT says it (R304; log entry 56). -/
def execApxb (p : Pred) (rg : BitVec 4) (len : BitVec 12) (s : State) : Host.Outcome State Fault Refusal :=
  act s p (s.weightsWait rg) (fun s =>
    let n := s.cur
    let c := s.me
    let v := c.fit.view rg.toNat
    match s.item? n rg.toNat with
    | none => s
    | some x =>
      let ins := match c.task with | some t => t.desc.ins | none => []
      let sampled := apxSampled rg.toNat x.k ins v.inv
      let both := decide (v.state = 2 ∨ (v.state = 3 ∧ sampled))
      let surr := decide (v.state = 3) && !sampled
      let record := decide (v.state = 2) || (decide (v.state ≠ 0) && sampled)
      let input := asF32 x.ti (c.vec x.ti x.inl x.nin)
      let ys := if both || surr then (match s.regEntry? n v.wref with
        | some e => Words.sorrel e.words x.dst input
        | none => []) else []
      let i : Invoc := { rg := rg.toNat, t := c.sched.time, record := record, both := both, serve := surr, input := input, ys := ys
                         late := surr && decide (4 ≤ s.evaluations (quadOf (coreOf n))), last := c.sched.pc + len.toNat }
      let s := if both || surr then s.useEntry n v.wref else s
      let s := s.updMe (fun c => { c with fit := { c.fit with invoc := some i } })
      let s := s.updView n rg.toNat (fun v => { v with inv := v.inv + 1, served := v.served || surr })
      if surr then
        (s.surrogate x ys).updMe (fun c => { c with sched := { c.sched with empty := 47 } })
      else s)

/-- The comparison of Sorrel's outputs with the true ones, patterns of type `t` (R305). -/
def passes (t : Ty) (eabs erel : Nat) (ss vs : List Nat) : Bool :=
  (List.zipWith (fun a b =>
    let x := decodeNum t a
    let y := decodeNum t b
    if x.isNan || y.isNan then x.isNan && y.isNan
    else if x.eqv y then true
    else
      let d := match sumNums false [x, y.neg] with | .nan => Num.inf false | z => z.abs
      !((f32 eabs).lt d && ((f32 erel).mul y.abs).lt d)) ss vs).all id

/-- Words of a vector in 64 columns. -/
def padWords (l : List W32) : Words := (List.range 64).map (fun i => l.getD i 0)

/-- The APXE that ends a surrogate path finds the engine at work still (R304). -/
def State.engineLate (s : State) (rg : BitVec 4) : Verdict := freezeIf (s.me.fit.invoc.any (fun i => i.rg == rg.toNat && i.late)) .late

/-- APXE: the sample is kept, the comparison is made ready; a region without an open invocation is not affected (R303, R305
to R307). -/
def execApxe (p : Pred) (rg : BitVec 4) (s : State) : Host.Outcome State Fault Refusal :=
  act s p (s.engineLate rg) (fun s =>
    let n := s.cur
    let c := s.me
    match c.fit.invoc, s.item? n rg.toNat with
    | some i, some x =>
      if i.rg ≠ rg.toNat then s
      else
        let v := c.fit.view rg.toNat
        let out := c.vec x.dst x.outl x.nout
        let s := s.updMe (fun c => { c with fit := { c.fit with invoc := none } })
        let s :=
          if i.record ∧ v.nsamp < v.cap then
            (s.writeMem (plainBase n + v.bufOff + 512 * v.nsamp)
              (wordBytes (padWords i.input) ++ wordBytes (padWords (asF32 x.dst out)))).updView n rg.toNat
                (fun v => { v with nsamp := v.nsamp + 1 })
          else s
        if i.both then
          let m : Cmp := { rg := rg.toNat, c := max c.sched.time (i.t + 48), known := true
                           pass := passes x.dst x.eabs x.erel i.ys out }
          s.updMe (fun c => { c with fit := { c.fit with cmps := c.fit.cmps ++ [m] } })
        else s
    | _, _ => s)

/-- APX_COMPARISON: comparisons of context `evt.n` made before its context time take effect (R303, R305). -/
def execApxComparison (s : State) : Host.Outcome State Fault Refusal :=
  let n := s.evt.n
  let t := (s.ctx n).sched.time
  if (s.ctx n).fit.cmps.any (fun x => x.c < t) then .next (s.updCtx n (fun c => c.applyCmps t)) else .refused .notEnabled

/-- SURROGATE_RESULT: the surrogate result of context `evt.n` that is due is written; or the engine finishes the evaluation that a
surrogate path waits for (R304). -/
def execSurrogateResult (s : State) : Host.Outcome State Fault Refusal :=
  let n := s.evt.n
  let c := s.ctx n
  let due (p : Pend) : Bool := decide (p.due ≤ c.sched.time) && p.slot == .e1 && p.dest.isLine && p.ord % 16 == 8
  if c.sched.pend.any due && c.fit.invoc.isSome then
    let ps := sortBy Pend.key (c.sched.pend.filter due)
    .next (s.setCtx n ((c.writeAll ps).updPend (fun l => l.filter (fun p => !due p))))
  else if c.fit.invoc.any Invoc.late then
    .next (s.updCtx n (fun c => { c with fit := { c.fit with invoc := c.fit.invoc.map (fun i => { i with late := false }) } }))
  else .refused .notEnabled

/-! ### FTCFG, FTINV, FTST (R313, R314) -/

/-- The reference operands of a fitting operation: z(zb) and z(zb + 1). -/
def Ctx.zPair (c : Ctx) (zb : BitVec 3) : W64 × W64 := (c.z zb, c.z (zb + 1))

/-- APXCFG with a reason (R313). -/
def apxTrap (r : Nat) : TrapInfo := .issue .e1 cAPXCFG (BitVec.ofNat 64 r)

/-- A buffer descriptor that R313 does not allow. -/
def bufBad (d : W64) : Bool :=
  let off := bits d.toNat 0 17
  let cap := bits d.toNat 32 7
  bits d.toNat 17 15 != 0 || bits d.toNat 39 25 != 0 || off % 512 != 0 || decide (64 < cap) || decide (0x20000 < off + 512 * cap)

/-- A tile that is f32 with `cols` columns and at least `rows` rows. -/
def Tile.isF32 (t : Tile) (cols rows : Nat) : Bool := t.efmt == 0 && t.cols == cols && decide (rows ≤ t.rows)

/-- A version that the task may write as its producer (R45). -/
def Tile.mayWrite (t : Tile) (pkg : Nat) (r : W64) (k : Option Task) : Bool :=
  t.discards r k || (t.producer pkg r k && (t.state == 1 || t.state == 2 || t.state == 5))

/-- An output that the running task may write as its producer, as far as the home has answered (R45, R310). -/
def State.writable (s : State) (n : Nat) (r : W64) : Bool :=
  match (s.ctx n).task with
  | some k => k.desc.outs.contains r && (match s.fitTile n r with
      | some (some t) => t.mayWrite s.pkg r (some k)
      | some none => false
      | none => true)
  | none => false

/-- A reference that R310 does not let the task read as weights. -/
def Ctx.weightsBad (c : Ctx) (r : W64) : Bool :=
  c.level != 0 && (match c.task with | some t => !t.desc.ins.contains r | none => true)

/-- Verdict of FTCFG and FTCFG.new (R313): its traps, then the wait for the home and the weights. -/
def State.ftcfgVerdict (s : State) (rg : BitVec 4) (zb : BitVec 3) (new : Bool) : Verdict :=
  let n := s.cur
  let c := s.me
  let (w, b) := c.zPair zb
  let net? := (s.item? n rg.toNat).map (fun x => netOf x.shape x.par)
  let need := match net? with | some x => x.rows | none => 8
  let five := decide (4 ≤ (c.fit.views.filter (fun v => v.1 != rg.toNat && v.2.wref != 0)).length)
  let there := (s.regEntry? n w).any (fun e => !new || net?.all (fun x => decide (x.lines ≤ e.nlines)))
  let home : Verdict := match s.fitTile n w with
    | none => if s.fitReach w then .freeze (.load w rg.toNat new) else .trap (.issue .e1 cUNREACH w)
    | some t? =>
      if new then .issue
      else match t? with
        | none => .trap (.issue .e1 (s.noEntry w true) w)
        | some t =>
          if t.state = 3 then .issue
          else if t.state = 6 then .trap (.issue .e1 cTLSTATE w)
          else if t.hopeless then .trap (.issue .e1 cTILELOST w)
          else if c.noFutureHandler then .decline (.tile w)
          else .trap (.issue .e1 cFUTEMPTY w)
  (trapIf (if new then !s.writable n w else c.weightsBad w) (apxTrap 1)).andThen
    (home.andThen
      ((trapIf (match s.fitTile n w with | some (some t) => !t.isF32 64 need | _ => false) (apxTrap 2)).andThen
        ((trapIf five (apxTrap 3)).andThen
          ((trapIf (bufBad b) (apxTrap 4)).andThen
            (if there then .issue else .freeze (.load w rg.toNat new))))))

/-- Release the binding of a region, if it has one (R298, R314). -/
def State.releaseView (s : State) (n rg : Nat) : State :=
  let v := (s.ctx n).fit.view rg
  if v.wref = 0 then s
  else (if v.loaded then s.unbind n v.wref else s).updView n rg (fun v => { v with wref := 0, loaded := false })

/-- The view state that the header of a loaded version gives: its own when it matches, else INVALID (R303). -/
def State.versionState (s : State) (n rg : Nat) (w : W64) : Nat :=
  match s.regEntry? n w, s.item? n rg with
  | some e, some x =>
    if Words.img e.words == (s.ctx n).imageHandle && Words.rg e.words == rg && Words.shape e.words == x.shape &&
       decide (1 ≤ Words.state e.words ∧ Words.state e.words ≤ 3) then Words.state e.words else 0
  | _, _ => 0

/-- Bind a region to a loaded version, its view in state `st`, and discard its pending comparisons (R303, R313). -/
def State.ftBind (s : State) (rg : Nat) (w b : W64) (st : Nat) : State :=
  let n := s.cur
  let s := (s.releaseView n rg).bindRef n w
  let s := s.updView n rg (fun v => { v with
    state := st, nsamp := 0, npass := 0, nfail := 0, wref := w, loaded := true, bufOff := bits b.toNat 0 17
    cap := bits b.toNat 32 7 })
  let s := s.updMe (fun c => { c with fit := { c.fit with
    cmps := c.fit.cmps.filter (fun x => x.rg != rg), want := none, answer := none
    bound := if c.fit.bound.contains w then c.fit.bound else c.fit.bound ++ [w] } })
  s.fill (plainBase n + bits b.toNat 0 17) (512 * bits b.toNat 32 7) []

/-- FTCFG (R313). -/
def execFtcfg (p : Pred) (rg : BitVec 4) (zb : BitVec 3) (s : State) : Host.Outcome State Fault Refusal :=
  act s p (s.ftcfgVerdict rg zb false) (fun s =>
    let (w, b) := s.me.zPair zb
    s.ftBind rg.toNat w b (s.versionState s.cur rg.toNat w))

/-- A line of a version as its producer writes it, sent to its home on another package as a raw TLWR (R45, R329): `i` lines of 256 bytes
from the start. -/
def State.sendLine (s : State) (n : Nat) (r : W64) (i : Nat) (b : List Byte) : State :=
  let c := s.ctx n
  let q : Req :=
    { id := c.mem.nextId, ord := c.sched.ord + Slot.e1.num, t := c.sched.time, slot := .e1
      op := .tlwr (lineOfBytes b) (BitVec.ofNat 14 i) true .f32 c.regs.fmt, cls := 0, home := refHome r, base := r.zeroExtend 80, pieces := []
      data := [], fault := if s.fitReach r then none else some { cause := cUNREACH, taddr := r }, performed := false, acked := false
      bound := none, remote := none, place := none }
  s.updCtx n (fun c => { c with mem := { c.mem with nextId := q.id + 1, reqs := c.mem.reqs ++ [q] } })

/-- Write words at the start of a tile as its producer (R45, R313): at once, or line by line at the home on another package. -/
def State.writeTile (s : State) (n : Nat) (r : W64) (w : Words) : State :=
  if s.isRemote r then (List.range (w.length / 64)).foldl (fun s i => s.sendLine n r i (wordBytes ((w.drop (64 * i)).take 64))) s
  else match s.tile? r with
  | none => s
  | some t =>
    if t.discards r (s.ctx n).task then s
    else
      let s := s.writeMem t.loc (wordBytes w)
      if t.state = 1 then s.setTile r { t with state := 2 } else s

/-- FTCFG.new: the version is made and written to its tile, then bound (R303, R313). -/
def execFtcfgNew (p : Pred) (rg : BitVec 4) (zb : BitVec 3) (s : State) : Host.Outcome State Fault Refusal :=
  act s p (s.ftcfgVerdict rg zb true) (fun s =>
    let (w, b) := s.me.zPair zb
    let s := match s.freshWords s.cur w rg.toNat with
      | some ws => (s.updRegEntry s.cur w (fun e => { e with words := ws })).writeTile s.cur w ws
      | none => s
    s.ftBind rg.toNat w b 1)

/-- FTINV (R303, R314). -/
def execFtinv (p : Pred) (rg : BitVec 4) (s : State) : Host.Outcome State Fault Refusal :=
  always s p (fun s =>
    let n := s.cur
    ((s.releaseView n rg.toNat).updView n rg.toNat (fun v => { v with state := 0 })).updMe (fun c =>
      { c with fit := { c.fit with cmps := c.fit.cmps.filter (fun x => x.rg != rg.toNat) } }))

/-- FTST (R314). -/
def execFtst (p : Pred) (rg : BitVec 4) (mask : BitVec 5) (f : BitVec 4) (s : State) : Host.Outcome State Fault Refusal :=
  act s p (s.weightsWait rg) (fun s => s.resultF .e1 1 f (mask.getLsbD (s.me.fit.view rg.toNat).state))

/-! ### FTSTEP, FTSAMP (R307, R308, R315) -/

/-- A fitting operation of the running context that works in the background: its flag is cleared at t+1 (R315). -/
def State.fitIssue (s : State) (o : FitOp) : State :=
  let s := s.updMe (fun c => { c with fit := { c.fit with ops := c.fit.ops ++ [o] } })
  if o.fl = 0 then s else s.result .e1 1 (.f o.fl) 0

/-- Verdict of FTSTEP: R310 at level 1 or 2. -/
def State.ftstepVerdict (s : State) (zb : BitVec 3) : Verdict :=
  let c := s.me
  let (w, w2) := c.zPair zb
  trapIf (c.level != 0 && (c.weightsBad w || (match c.task with | some t => !t.desc.outs.contains w2 | none => true))) (apxTrap 1)

/-- FTSTEP (R315). -/
def execFtstep (p : Pred) (rg : BitVec 4) (zb : BitVec 3) (fl : BitVec 4) (s : State) : Host.Outcome State Fault Refusal :=
  act s p (s.ftstepVerdict zb) (fun s =>
    let (w, w2) := s.me.zPair zb
    s.fitIssue { step := true, rg := rg.toNat, w := w, w2 := w2, fl := fl, nsamp := 0, npass := 0, nfail := 0, inv := 0,
                 recs := [], fin := s.myCore.cycle, sent := [], err := none })

/-- Verdict of FTSAMP: R310 at level 1 or 2. -/
def State.ftsampVerdict (s : State) (zb : BitVec 3) : Verdict :=
  let c := s.me
  trapIf (c.level != 0 && (match c.task with | some t => !t.desc.outs.contains (c.z zb) | none => true)) (apxTrap 1)

/-- FTSAMP: it takes the counts and the records so far, and clears them (R315). -/
def execFtsamp (p : Pred) (rg : BitVec 4) (zb : BitVec 3) (fl : BitVec 4) (s : State) : Host.Outcome State Fault Refusal :=
  act s p (s.ftsampVerdict zb) (fun s =>
    let n := s.cur
    let v := s.me.fit.view rg.toNat
    let o : FitOp := { step := false, rg := rg.toNat, w := s.me.z zb, w2 := 0, fl := fl, nsamp := v.nsamp, npass := v.npass,
                       nfail := v.nfail, inv := v.inv, recs := s.readMem (plainBase n + v.bufOff) (512 * v.nsamp),
                       fin := s.myCore.cycle, sent := [], err := none }
    let s := if v.state = 0 then s else s.updView n rg.toNat (fun v => { v with nsamp := 0, npass := 0, nfail := 0 })
    s.fitIssue o)

/-- Row 0 of a sample tile (R307). -/
def FitOp.sampleRow (o : FitOp) (img : W64) : Words :=
  [BitVec.ofNat 32 img.toNat, BitVec.ofNat 32 (bits img.toNat 32 32),
   BitVec.ofNat 32 (o.rg + o.nsamp <<< 8 + o.npass <<< 16 + o.nfail <<< 24), o.inv] ++ List.replicate 124 0

/-- What an operation sees of a version: its entry, and its words when it is VALID; no way to a package that cannot be reached. -/
structure Seen where
  ref   : W64
  tile  : Option Tile
  words : Words
  reach : Bool
deriving DecidableEq, Repr

/-- Look at a version: here, or in the bytes that other packages bring with the step; with what is left of them, none where they do not
suffice (log entry 101). An uncorrectable line is found in `tile` as a version that is LOST (R48). -/
def State.look (s : State) (r : W64) (b : List Byte) : Option (Seen × List Byte) :=
  if !s.fitReach r then some ({ ref := r, tile := none, words := [], reach := false }, b)
  else if s.isRemote r then
    let t := tileOfBody (b.take farEntry)
    let k := farEntry + (if t.state = 3 then t.region else 0)
    if b.length < k then none
    else some ({ ref := r, tile := if t.state = 0 then none else some t, words := wordsOfBytes ((b.take k).drop farEntry), reach := true },
      b.drop k)
  else
    let bad := s.spoilt r
    let t := (s.tile? r).map (fun t => if bad then { t with state := 4 } else t)
    some ({ ref := r, tile := t, reach := true
            words := match t with | some t => if t.state = 3 then s.tileWords t t.rows t.cols else [] | none => [] }, b)

/-- Look at versions in turn. -/
def State.lookAll (s : State) (rs : List W64) (b : List Byte) : Option (List Seen) :=
  match rs with
  | [] => some []
  | r :: rest => (s.look r b).bind (fun x => (s.lookAll rest x.2).map (fun l => x.1 :: l))

/-- Word (row, column) of a version. -/
def Seen.word (x : Seen) (r c : Nat) : W32 := x.words.getD (r * (x.tile.map Tile.cols).getD 0 + c) 0

/-- A version of the shape of samples (R307). -/
def Seen.samples (x : Seen) : Bool := x.tile.any (fun t => t.efmt == 0 && t.cols == 128)

/-- A sample version of the image and region of a weight version (R308). -/
def Seen.names (x : Seen) (hd : Words) : Bool :=
  x.word 0 0 == BitVec.ofNat 32 hd.img.toNat && x.word 0 1 == BitVec.ofNat 32 (bits hd.img.toNat 32 32) &&
    bits (x.word 0 2).toNat 0 4 == hd.rg

/-- The samples of a version (R307). -/
def Seen.rows (x : Seen) : List Sample :=
  (List.range (bits (x.word 0 2).toNat 8 8)).map (fun i =>
    ((List.range 64).map (x.word (i + 1)), (List.range 64).map (fun c => x.word (i + 1) (64 + c))))

/-- The fault of a version that a background operation reads (R315): TLSTATE unless it is VALID. -/
def Seen.readFault (x : Seen) : Option FaultRec :=
  if !x.reach then some { cause := cUNREACH, taddr := x.ref }
  else match x.tile with
    | some t => if t.state = 3 then none else some { cause := cTLSTATE, taddr := x.ref }
    | none => some { cause := cTLSTATE, taddr := x.ref }

/-- The fault of a version that a background operation writes (R315): TLSTATE, or APXCFG for a wrong shape. -/
def State.fitTarget (s : State) (n : Nat) (x : Seen) (cols rows : Nat) : Option FaultRec :=
  if !x.reach then some { cause := cUNREACH, taddr := x.ref }
  else match x.tile with
  | none => some { cause := cTLSTATE, taddr := x.ref }
  | some t =>
    if !t.mayWrite s.pkg x.ref (s.ctx n).task then some { cause := cTLSTATE, taddr := x.ref }
    else if !t.isF32 cols rows then some { cause := cAPXCFG, taddr := x.ref } else none

/-- The inputs of the task among which FTSTEP finds its samples, in ascending order of reference (R308). -/
def State.sampleRefs (s : State) (n : Nat) (w : W64) : List W64 :=
  let ins := match (s.ctx n).task with | some t => t.desc.ins | none => []
  sortBy (fun r : W64 => r.toNat) (ins.filter (fun r => r != w && r != 0))

/-- The versions that a background operation looks at, in the order in which other packages' answers come (log entry 101). -/
def State.fitRefs (s : State) (n : Nat) (o : FitOp) : List W64 := if o.step then o.w :: o.w2 :: s.sampleRefs n o.w else [o.w]

/-- FTSTEP on what it sees: the words of W′, or the error found (R308, R315). An input of the shape of samples that is not VALID cannot be
read. -/
def State.fitStep (s : State) (n : Nat) (w w2 : Seen) (ins : List Seen) : Except FaultRec Words :=
  match w.readFault with
  | some e => .error e
  | none =>
    let hd := w.words
    if !(w.tile.any (fun t => t.isF32 64 hd.net.rows)) then .error { cause := cAPXCFG, taddr := w.ref }
    else match s.fitTarget n w2 64 hd.net.rows with
      | some e => .error e
      | none =>
        match ins.findSome? (fun x => if !x.reach || x.samples then x.readFault else none) with
        | some e => .error e
        | none =>
          let ts := ins.filter (fun x => x.samples && x.names hd)
          let xs := (ts.flatMap Seen.rows).map (fun x => (x.1.take hd.net.nin, x.2))
          let F := (ts.map (fun t => bits (t.word 0 2).toNat 24 8)).foldl (· + ·) 0
          let P := (ts.map (fun t => bits (t.word 0 2).toNat 16 8)).foldl (· + ·) 0
          .ok ((hd.step xs F P).take (64 * hd.net.rows))

/-- A background operation on what it sees: the version it writes and the words, or the error found (R307, R308, R315). -/
def State.fitRun (s : State) (n : Nat) (o : FitOp) (seen : List Seen) : Except FaultRec (W64 × Words) :=
  match o.step, seen with
  | true, w :: w2 :: ins => (s.fitStep n w w2 ins).map (fun x => (o.w2, x))
  | false, x :: _ =>
    (match s.fitTarget n x 128 (8 * ceilDiv (1 + o.nsamp) 8) with
     | some e => .error e
     | none => .ok (o.w, o.sampleRow (s.ctx n).imageHandle ++ wordsOfBytes (o.recs.take (512 * o.nsamp))))
  | _, _ => .error { cause := cTLSTATE, taddr := o.w }

/-- Change the background operations of a context. -/
def State.updFitOps (s : State) (n : Nat) (f : FitOp → Option FitOp) : State :=
  s.updCtx n (fun c => { c with fit := { c.fit with ops := c.fit.ops.filterMap f } })

/-- FITTING_OP_COMPLETE: the oldest background operation of context `evt.n` ends: its last write is done and its flag is set, which its
issue cleared before, or the error it found is kept for the next WAIT or TEND (R308, R315). Writes to another package are sent
first, and the operation ends once they are acknowledged. -/
def execFittingOpComplete (s : State) : Host.Outcome State Fault Refusal :=
  let n := s.evt.n
  let c := s.ctx n
  let done (s : State) (o : FitOp) : State :=
    let s := s.updFitOps n (fun x => if x = o then none else some x)
    if o.fl = 0 then s else s.engineFlag n o.fl true
  match c.fit.ops.find? (fun o => o.err.isNone) with
  | none => .refused .notEnabled
  | some o =>
    if o.fl != 0 && c.sched.pend.any (fun p => decide (p.dest = .f o.fl) && p.slot == .e1) then .refused .notEnabled
    else if !o.sent.isEmpty then
      (if c.mem.reqs.any (fun r => o.sent.contains r.id && !r.acked) then .refused .notEnabled else .next (done s o))
    else match s.lookAll (s.fitRefs n o) s.evt.data with
      | none => .refused .notEnabled
      | some seen =>
        let s := (s.fitRefs n o).foldl (fun s r => if s.spoilt r then s.destroyed r else s) s
        match s.fitRun n o seen with
        | .ok (r, w) =>
          let q := s.writeTile n r w
          let ids := ((q.ctx n).mem.reqs.map Req.id).filter (fun i => decide (c.mem.nextId ≤ i))
          if s.isRemote r then .next (q.updFitOps n (fun x => if x = o then some { x with sent := ids } else some x))
          else .next (done q o)
        | .error e => .next (s.updFitOps n (fun x => if x = o then some { x with err := some e } else some x))

end Sys2Proof.Machine
end

