-- ==== Sys2Proof/Decode.lean ====
section
/-! DEFINITION. Reading slot words as operations and writing them back (R102 to R126, R166 to R171, R321 to R347, R384,
R411 to R418, R442, R477). Every slot word is read; a word that is no operation is rejected by its refusal code (R129),
field values first, then types, directions and ranges (R128). -/

namespace Sys2Proof

/-- The result of reading a slot word. -/
abbrev Read (α : Type) := Except SealCode α

namespace Decode

/-- Bits [lo+n-1:lo] of a slot word. -/
def fld {w : Nat} (x : BitVec w) (lo n : Nat) : BitVec n := x.extractLsb' lo n

/-- Bits [lo+n-1:lo] are 0. -/
def zer {w : Nat} (x : BitVec w) (lo n : Nat) : Bool := decide (fld x lo n = 0)

/-- One bit as a Bool. -/
def bit {w : Nat} (x : BitVec w) (i : Nat) : Bool := x.getLsbD i

/-- Go on when a check holds. -/
def need {α : Type} (ok : Bool) (c : SealCode) (k : Read α) : Read α := if ok then k else .error c

/-- An operation, if its own checks pass. -/
def done (i : Instr) : Read Instr :=
  match i.check with
  | none => .ok i
  | some c => .error c

/-- Go on with a value, or refuse. -/
def take {α β : Type} (v : Option α) (c : SealCode) (k : α → Read β) : Read β :=
  match v with
  | some a => k a
  | none => .error c

/-- The predicate of slot bits [4:0] (R105). -/
def pred {w : Nat} (x : BitVec w) : Pred := { neg := bit x 4, flag := fld x 0 4 }

/-- A line operand (R106). -/
def lineOf (g : BitVec 8) : Option LineRef :=
  match (fld g 6 2 : BitVec 2).toNat with
  | 0 => some { dir := .h, idx := fld g 0 6 }
  | 1 => some { dir := .v, idx := fld g 0 6 }
  | 2 => some { dir := .d, idx := fld g 0 6 }
  | _ => none

/-- No reserved index of direction 11 stands in the field `g` (R106). -/
def dirOk (g : BitVec 8) : Bool := decide ((fld g 4 4 : BitVec 4) ≠ 13)

/-- Go on with the line the field `g` names, or refuse direction 11 with OPDIR unless a check of reserved values or of
types fails first (R106, R128). -/
def dirOr (g : BitVec 8) (k : LineRef → Read Instr) : Read Instr :=
  match lineOf g with
  | some l => k l
  | none =>
    match k { dir := .h, idx := 0 } with
    | .error .rsvField => .error .rsvField
    | .error .type => .error .type
    | _ => .error .opDir

/-- A source operand: index values 16 to 31 of direction 11 are reserved (R106). -/
def srcOf (g : BitVec 8) : Option Src :=
  match lineOf g with
  | some r => some (.line r)
  | none =>
    let i : BitVec 6 := fld g 0 6
    if i.toNat < 16 then some (.land (fld i 0 4))
    else if 32 ≤ i.toNat then some (.bcast (fld i 0 5)) else none

/-! ### The SY slot (R110, R111) -/

/-- Read an SY slot word. -/
def sy (x : BitVec 32) : Read Instr :=
  let k : BitVec 2 := fld x 30 2
  need (decide ((fld x 25 5 : BitVec 5).toNat ≤ 0x0B)) .opcode <| need (decide (k ≠ 3)) .rsvField <|
  match (fld x 25 5 : BitVec 5).toNat with
  | 0x00 => need (zer x 0 25) .rsvField <| done (.nop k)
  | 0x01 => need (zer x 0 19) .rsvField <| done (.wait k (fld x 21 4) (bit x 20) (bit x 19))
  | 0x02 => need (zer x 0 12) .rsvField <| done (.arv k (fld x 13 12) (bit x 12))
  | 0x03 => need (zer x 0 12) .rsvField <| done (.bwt k (fld x 13 12) (bit x 12))
  | 0x04 => need (zer x 0 8) .rsvField <| done (.fmt k (bit x 24) (fld x 8 16))
  | 0x05 => need (zer x 0 22) .rsvField <|
      take (Scope.ofCode (fld x 22 3 : BitVec 3).toNat) .rsvField fun s => done (.fenceAcq k s)
  | 0x06 => need (zer x 0 22) .rsvField <|
      take (Scope.ofCode (fld x 22 3 : BitVec 3).toNat) .rsvField fun s => done (.fenceRel k s)
  | 0x07 => need (zer x 0 22) .rsvField <|
      take (Scope.ofCode (fld x 22 3 : BitVec 3).toNat) .rsvField fun s => done (.fenceAll k s)
  | 0x08 => need (zer x 0 13) .rsvField <| done (.join k (fld x 13 12))
  | 0x09 => need (zer x 0 13) .rsvField <| done (.leave k (fld x 13 12))
  | 0x0A => need (zer x 0 25) .rsvField <| done (.yield k)
  | 0x0B => need (zer x 0 25) .rsvField <| done (.hndl k)
  | _ => .error .opcode

/-! ### The S slot (R112 to R114) -/

/-- The RRR format: bits [37:12] and [7:5] are 0, and x only where the operation uses it. -/
def rrr (x : BitVec 64) (xmask : BitVec 4) : Bool :=
  zer x 12 26 && zer x 5 3 && decide (fld x 8 4 &&& ~~~xmask = 0)

/-- The RI format: bits [7:5] are 0. -/
def ri (x : BitVec 64) (xmask : BitVec 4) : Bool := zer x 5 3 && decide (fld x 8 4 &&& ~~~xmask = 0)

/-- d, a and b as g registers of an RRR operation that uses all three. -/
def s3 (x : BitVec 64) (f : BitVec 6 → BitVec 6 → BitVec 6 → Instr) : Read Instr :=
  need (rrr x 0) .rsvField <| done (f (fld x 50 6) (fld x 44 6) (fld x 38 6))

/-- As `s3`, with x[8] as a flag of the operation. -/
def s3u (x : BitVec 64) (f : BitVec 6 → BitVec 6 → BitVec 6 → Bool → Instr) : Read Instr :=
  need (rrr x 1) .rsvField <| done (f (fld x 50 6) (fld x 44 6) (fld x 38 6) (bit x 8))

/-- d and a of an RRR operation without b. -/
def s2 (x : BitVec 64) (f : BitVec 6 → BitVec 6 → Instr) : Read Instr :=
  need (rrr x 0 && zer x 38 6) .rsvField <| done (f (fld x 50 6) (fld x 44 6))

/-- d, a and imm32 of an RI operation. -/
def si (x : BitVec 64) (f : BitVec 6 → BitVec 6 → BitVec 32 → Instr) : Read Instr :=
  need (ri x 0) .rsvField <| done (f (fld x 50 6) (fld x 44 6) (fld x 12 32))

/-- As `si`, with x[8] as a flag of the operation. -/
def siu (x : BitVec 64) (f : BitVec 6 → BitVec 6 → BitVec 32 → Bool → Instr) : Read Instr :=
  need (ri x 1) .rsvField <| done (f (fld x 50 6) (fld x 44 6) (fld x 12 32) (bit x 8))

/-- Read the S-slot number of a SYSWR: the numbers with a row of their own (R418). -/
def syswrOp (p : Pred) (a : BitVec 6) (num : BitVec 12) : Instr :=
  match num.toNat with
  | 0x040 => .pageWalkPreload p a
  | 0x0D0 => .futureEmptyWordWrite p a
  | 0x0D1 => .futemptyInline p a
  | 0x0D4 => .trapWordWrite p a
  | 0x0D6 => .timerWrite p a
  | 0x0DA => .tframeWrite p a
  | 0x840 => .tlbPageInvalidate p a
  | 0x841 => .tlbAllInvalidate p a
  | 0x842 => .pageTableRootWrite p a
  | 0x850 => .pwrLimWrite p a
  | 0x8B0 => .linDmaxWrite p a
  | 0x8C0 => .handlerWordWrite p a false 0
  | 0x8C1 => .handlerWordWrite p a false 1
  | 0x8C2 => .handlerWordWrite p a false 2
  | 0x8C3 => .handlerWordWrite p a false 3
  | 0x8C4 => .handlerWordWrite p a true 0
  | 0x8C5 => .handlerWordWrite p a true 1
  | 0x8C6 => .handlerWordWrite p a true 2
  | 0x8C7 => .handlerWordWrite p a true 3
  | 0x8D0 => .preemptRequest p a 0
  | 0x8D1 => .preemptRequest p a 1
  | 0x8D2 => .preemptRequest p a 2
  | 0x8D3 => .preemptRequest p a 3
  | 0x8D8 => .contextResume p a 0
  | 0x8D9 => .contextResume p a 1
  | 0x8DA => .contextResume p a 2
  | 0x8DB => .contextResume p a 3
  | 0x8E0 => .checkpointPeriodWrite p a false
  | 0x8E1 => .checkpointPeriodWrite p a true
  | 0x8E2 => .checkpointAreaWrite p a
  | _ => .syswr p a num

/-- Ring operations (R384): the role is x[11] and the ring x[10:8]. -/
def ring (x : BitVec 64) (op : Nat) : Read Instr :=
  let p := pred x
  let r : BitVec 3 := fld x 8 3
  need (zer x 12 26 && zer x 5 3) .rsvField <|
  match op, bit x 11 with
  | 0x6C, false => need (zer x 55 1 && zer x 38 6) .rsvField <| done (.bacqP p (fld x 50 5) (fld x 44 6) r)
  | 0x6C, true => need (zer x 55 1 && zer x 44 6) .rsvField <| done (.bacqC p (fld x 50 5) (fld x 38 6) r)
  | 0x6D, false => need (zer x 51 5 && zer x 38 6) .rsvField <| done (.brelP p (fld x 44 6) (bit x 50) r)
  | 0x6D, true => need (zer x 38 18) .rsvField <| done (.brelC p r)
  | 0x6E, false => need (zer x 38 6) .rsvField <| done (.brcfg p (fld x 50 6) (fld x 44 6) r)
  | _, _ => .error .rsvField

/-- AMOV and AMOVH (R230): the register kinds follow x. -/
def amovOp (x : BitVec 64) : Read Instr :=
  let p := pred x
  need (zer x 12 26 && zer x 5 3 && zer x 38 6) .rsvField <|
  match (fld x 8 4 : BitVec 4).toNat with
  | 0 => done (.amov p 0 (fld x 50 6) (fld x 44 6))
  | 1 => done (.amov p 1 (fld x 50 6) (fld x 44 6))
  | 2 => done (.amov p 2 (fld x 50 6) (fld x 44 6))
  | 3 => need (zer x 49 1) .rsvField <| done (.amovh p (fld x 50 6) (fld x 44 5))
  | _ => .error .rsvField

/-- An RRR operation with d a g register, a an a register and b a g register. -/
def sGAG (x : BitVec 64) (f : BitVec 6 → BitVec 5 → BitVec 6 → Instr) : Read Instr :=
  need (rrr x 0 && zer x 49 1) .rsvField <| done (f (fld x 50 6) (fld x 44 5) (fld x 38 6))

/-- An RRR operation with no fields. -/
def sNone (x : BitVec 64) (i : Instr) : Read Instr :=
  need (rrr x 0 && zer x 38 18) .rsvField <| done i

/-- Read the integer and compare group of the S slot. -/
def sInt (x : BitVec 64) (op : Nat) : Read Instr :=
  let p := pred x
  match op with
  | 0x01 => s3 x (.add p)
  | 0x02 => s3 x (.sub p)
  | 0x03 => s3 x (.mul p)
  | 0x04 => s3u x (.mulh p)
  | 0x05 => s3u x (.div p)
  | 0x06 => s3u x (.rem p)
  | 0x07 => s3 x (.and p)
  | 0x08 => s3 x (.or p)
  | 0x09 => s3 x (.xor p)
  | 0x0A => s3 x (.shl p)
  | 0x0B => s3 x (.shr p)
  | 0x0C => s3 x (.sar p)
  | 0x0D => s3 x (.rot p)
  | 0x0E => s2 x (.clz p)
  | 0x0F => s2 x (.popc p)
  | 0x10 => s3u x (.min p)
  | 0x11 => s3u x (.max p)
  | 0x12 => need (rrr x 15 && zer x 54 2) .rsvField <| take (Cond.ofCode (fld x 8 4 : BitVec 4).toNat) .rsvField fun c =>
      done (.cmp p (fld x 50 4) (fld x 44 6) (fld x 38 6) c)
  | 0x13 => need (rrr x 15) .rsvField <| done (.sel p (fld x 50 6) (fld x 44 6) (fld x 38 6) (fld x 8 4))
  | 0x14 => s2 x (.mov p)
  | 0x21 => si x (.addImm p)
  | 0x22 => si x (.subImm p)
  | 0x23 => si x (.mulImm p)
  | 0x27 => si x (.andImm p)
  | 0x28 => si x (.orImm p)
  | 0x29 => si x (.xorImm p)
  | 0x2A => si x (.shlImm p)
  | 0x2B => si x (.shrImm p)
  | 0x2C => si x (.sarImm p)
  | 0x2D => si x (.rotImm p)
  | 0x30 => siu x (.minImm p)
  | 0x31 => siu x (.maxImm p)
  | 0x32 => need (ri x 15 && zer x 54 2) .rsvField <| take (Cond.ofCode (fld x 8 4 : BitVec 4).toNat) .rsvField fun c =>
      done (.cmpImm p (fld x 50 4) (fld x 44 6) (fld x 12 32) c)
  | 0x34 => need (ri x 0 && zer x 44 6) .rsvField <| done (.movImm p (fld x 50 6) (fld x 12 32))
  | 0x35 => need (ri x 0 && zer x 44 6) .rsvField <| done (.movh p (fld x 50 6) (fld x 12 32))
  | _ => .error .opcode

/-- Read the address, control-flow, flag and staging group of the S slot. -/
def sAddr (x : BitVec 64) (op : Nat) : Read Instr :=
  let p := pred x
  match op with
  | 0x40 => need (rrr x 0 && zer x 55 1 && zer x 49 1) .rsvField <|
      done (.aadd p (fld x 50 5) (fld x 44 5) (fld x 38 6))
  | 0x41 => need (ri x 0 && zer x 55 1 && zer x 49 1) .rsvField <|
      done (.aaddi p (fld x 50 5) (fld x 44 5) (fld x 12 32))
  | 0x42 => need (zer x 12 2 && zer x 8 4 && zer x 5 3 && zer x 55 1 && zer x 49 1) .rsvField <|
      done (.aidx p (fld x 50 5) (fld x 44 5) (fld x 38 6) (fld x 14 24))
  | 0x43 => need (rrr x 15 && zer x 54 2 && zer x 49 1 && zer x 43 1) .rsvField <|
      take (Cond.ofCode (fld x 8 4 : BitVec 4).toNat) .rsvField fun c =>
      done (.acmp p (fld x 50 4) (fld x 44 5) (fld x 38 5) c)
  | 0x44 => amovOp x
  | 0x45 => need (rrr x 0 && zer x 55 1 && zer x 49 1) .rsvField <|
      done (.ahome p (fld x 50 5) (fld x 44 5) (fld x 38 6))
  | 0x48 => need (zer x 5 14 && zer x 44 12) .rsvField <| done (.br p (fld x 19 25))
  | 0x49 => need (zer x 5 14 && zer x 44 6) .rsvField <| done (.brc p (fld x 50 6) (fld x 19 25))
  | 0x4A => need (zer x 5 14 && zer x 44 6) .rsvField <| done (.call p (fld x 50 6) (fld x 19 25))
  | 0x4B => need (zer x 5 39 && zer x 50 6) .rsvField <| done (.ret p (fld x 44 6))
  | 0x4C => need (zer x 50 2 && zer x 5 9) .rsvField <|
      done (.loop p (fld x 53 3) (bit x 52) (fld x 44 6) (fld x 38 6) (fld x 14 24))
  | 0x50 => need (rrr x 1 && zer x 54 2 && zer x 38 12) .rsvField <| done (.fset p (fld x 50 4) (bit x 8))
  | 0x51 => need (rrr x 1 && zer x 54 2 && zer x 48 2 && zer x 38 6) .rsvField <|
      done (.fmov p (fld x 50 4) (fld x 44 4) (bit x 8))
  | 0x54 => need (rrr x 0 && zer x 54 2 && zer x 38 6) .rsvField <| done (.kwr p (fld x 50 4) (fld x 44 6))
  | 0x55 => need (ri x 0 && zer x 54 2 && zer x 44 6) .rsvField <| done (.kwrImm p (fld x 50 4) (fld x 12 32))
  | 0x56 => need (rrr x 0 && zer x 53 3 && zer x 38 6) .rsvField <| done (.zwr p (fld x 50 3) (fld x 44 6))
  | 0x57 => need (ri x 0 && zer x 53 3 && zer x 44 6) .rsvField <| done (.zwrImm p (fld x 50 3) (fld x 12 32))
  | _ => .error .opcode

/-- Read the launching, ring, trap, freezing and fabric groups of the S slot. -/
def sSys (x : BitVec 64) (op : Nat) : Read Instr :=
  let p := pred x
  match op with
  | 0x60 => sGAG x (.launch p)
  | 0x61 => sGAG x (.launchm p)
  | 0x62 => sNone x (.tend p)
  | 0x63 => need (rrr x 15 && zer x 38 6) .rsvField <| done (.steal p (fld x 50 6) (fld x 44 6) (fld x 8 4))
  | 0x64 => need (ri x 1 && (bit x 8 || zer x 44 6)) .rsvField <|
      if bit x 8 then done (.prioTask p (fld x 50 6) (fld x 44 6) (fld x 12 32))
      else done (.prioSelf p (fld x 50 6) (fld x 12 32))
  | 0x65 => need (rrr x 0 && zer x 49 7 && zer x 38 6) .rsvField <| done (.lpscfg p (fld x 44 5))
  | 0x66 => need (rrr x 15 && zer x 38 12) .rsvField <| done (.lpsnxt p (fld x 50 6) (fld x 8 4))
  | 0x67 => sNone x (.stepmark p)
  | 0x68 => si x (.qlvl p)
  | 0x69 => s2 x (.qstat p)
  | 0x6C => ring x 0x6C
  | 0x6D => ring x 0x6D
  | 0x6E => ring x 0x6E
  | 0x70 => need (ri x 0 && zer x 44 12) .rsvField <| done (.trap p (fld x 12 32))
  | 0x71 => sNone x (.eret p)
  | 0x72 => need (ri x 0 && zer x 44 6 && zer x 24 20) .rsvField <| done (.sysrd p (fld x 50 6) (fld x 12 12))
  | 0x73 => need (ri x 0 && zer x 50 6 && zer x 24 20) .rsvField <| done (syswrOp p (fld x 44 6) (fld x 12 12))
  | 0x74 => sNone x (.halt p)
  | 0x75 => need (rrr x 1 && zer x 38 6) .rsvField <|
      if bit x 8 then done (.frzThaw p (fld x 50 6) (fld x 44 6)) else done (.frz p (fld x 50 6) (fld x 44 6))
  | 0x76 => s2 x (.drain p)
  | 0x77 => sGAG x (.dscan p)
  | 0x78 => need (rrr x 3 && zer x 43 1) .rsvField <|
      done (.imgw p (fld x 50 6) (fld x 44 6) (fld x 38 5) (bit x 8) (bit x 9))
  | 0x79 => sGAG x (.imgr p)
  | 0x7C => need (rrr x 0 && zer x 38 12) .rsvField <| done (.rtver p (fld x 50 6))
  | 0x7D => s2 x (.lkev p)
  | 0x7E => need (rrr x 0 && zer x 49 1 && zer x 38 6) .rsvField <| done (.reconf p (fld x 50 6) (fld x 44 5))
  | _ => .error .opcode

/-- Read an S slot word; the all-zero word is the slot's NOP, which is no operation. -/
def s (x : BitVec 64) : Read (Option Instr) :=
  let op := (fld x 56 8 : BitVec 8).toNat
  if op = 0 then need (decide (x = 0)) .rsvField (.ok none)
  else Except.map some (if op < 0x40 then sInt x op else if op < 0x60 then sAddr x op else sSys x op)

/-! ### The V0 and V1 slots (R116, R117) -/

/-- Fields of a vector operation that its form does not use are 0: x, s, mx, imm8 (in that order). -/
def vrest (x : BitVec 64) (ux us um ui : Bool) : Bool :=
  (ux || zer x 16 4) && (us || zer x 15 1) && (um || zer x 13 2) && (ui || zer x 5 8)

/-- The type of [55:52]. -/
def vty (x : BitVec 64) (k : Ty → Read Instr) : Read Instr :=
  take (Ty.ofCode (fld x 52 4 : BitVec 4).toNat) .type k

/-- A reserved index of direction 11 (R106): a field value check. -/
def srcRsv (g : BitVec 8) : Bool := (srcOf g).isSome

/-- Destination and sources; `nb`, `nc` say whether b and c are used. -/
def vops (x : BitVec 64) (na nb nc : Bool) (ok : Bool) (k : Ty → LineRef → Src → Src → Src → Read Instr) : Read Instr :=
  need (ok && dirOk (fld x 44 8) && (na || zer x 36 8) && (nb || zer x 28 8) && (nc || zer x 20 8)) .rsvField <|
  need ((!na || srcRsv (fld x 36 8)) && (!nb || srcRsv (fld x 28 8)) && (!nc || srcRsv (fld x 20 8))) .rsvField <|
  vty x fun t =>
  take (srcOf (fld x 36 8)) .rsvField fun a =>
  take (srcOf (fld x 28 8)) .rsvField fun b =>
  take (srcOf (fld x 20 8)) .rsvField fun c =>
  dirOr (fld x 44 8) fun d => k t d a b c

/-- An operation of one source. -/
def v1 (x : BitVec 64) (f : Ty → LineRef → Src → Instr) : Read Instr :=
  vops x true false false (vrest x false false false false) fun t d a _ _ => done (f t d a)

/-- An operation of two sources. -/
def v2 (x : BitVec 64) (f : Ty → LineRef → Src → Src → Instr) : Read Instr :=
  vops x true true false (vrest x false false false false) fun t d a b _ => done (f t d a b)

/-- An operation of two sources with the saturation bit. -/
def v2s (x : BitVec 64) (f : Ty → LineRef → Src → Src → Bool → Instr) : Read Instr :=
  vops x true true false (vrest x false true false false) fun t d a b _ => done (f t d a b (bit x 15))

/-- An operation of three sources. -/
def v3 (x : BitVec 64) (f : Ty → LineRef → Src → Src → Src → Instr) : Read Instr :=
  vops x true true true (vrest x false false false false) fun t d a b c => done (f t d a b c)

/-- An operation of one source and imm8. -/
def v1i (x : BitVec 64) (f : Ty → LineRef → Src → BitVec 8 → Instr) : Read Instr :=
  vops x true false false (vrest x false false false true) fun t d a _ _ => done (f t d a (fld x 5 8))

/-- Read the arithmetic and conversion group of a V slot. -/
def vArith (x : BitVec 64) (w : Bool) (op : Nat) : Read Instr :=
  let p := pred x
  match op with
  | 0x01 => v2s x (.vadd p w)
  | 0x02 => v2s x (.vsub p w)
  | 0x03 => v2s x (.vmul p w)
  | 0x04 => v3 x (.vfma p w)
  | 0x05 => v3 x (.vfms p w)
  | 0x06 => v2 x (.vmin p w)
  | 0x07 => v2 x (.vmax p w)
  | 0x08 => v1 x (.vabs p w)
  | 0x09 => v1 x (.vneg p w)
  | 0x0A => v3 x (.vclamp p w)
  | 0x0C => v2 x (.vmulh p w)
  | 0x10 => v1 x (.vrcp p w)
  | 0x11 => v1 x (.vrsq p w)
  | 0x12 => v1 x (.vexp2 p w)
  | 0x13 => v1 x (.vlog2 p w)
  | 0x14 => v1 x (.vsqrt p w)
  | 0x18 => vops x true false false (vrest x true false false true) fun t d a _ _ =>
      take (Ty.ofCode (fld x 16 4 : BitVec 4).toNat) .type fun tx => done (.vcvt p w t tx d a (fld x 5 8))
  | 0x19 => vops x true false false (vrest x true false false false && zer x 17 3) fun t d a _ _ =>
      done (.vq8 p w t d a (bit x 16))
  | 0x1A => vops x true true false (vrest x true false false false && zer x 17 3) fun t d a b _ =>
      done (.vdq8 p w t d a b (bit x 16))
  | _ => .error .opcode

/-- Read the logic, selection, move and reduction group of a V slot. -/
def vMove (x : BitVec 64) (w : Bool) (op : Nat) : Read Instr :=
  let p := pred x
  match op with
  | 0x20 => v2 x (.vand p w)
  | 0x21 => v2 x (.vor p w)
  | 0x22 => v2 x (.vxor p w)
  | 0x23 => v1 x (.vnot p w)
  | 0x24 => v1i x (.vshl p w)
  | 0x25 => v1i x (.vshr p w)
  | 0x26 => v1i x (.vsar p w)
  | 0x27 => v1 x (.vpopc p w)
  | 0x28 => v1 x (.vclz p w)
  | 0x29 =>
      match Cond.ofCode (fld x 16 4 : BitVec 4).toNat with
      | none => .error .rsvField
      | some c => need c.forVcmp .rsvField <|
          vops x true true false (vrest x true false false false) fun t d a b _ => done (.vcmp p w t c d a b)
  | 0x2A => v3 x (.vsel p w)
  | 0x30 => v1 x (.vmov p w)
  | 0x31 => v1i x (.vbcast p w)
  | 0x32 => v2 x (.vperm p w)
  | 0x33 => vops x false false false (vrest x false false false true) fun t d _ _ _ => done (.viota p w t d (fld x 5 8))
  | 0x34 => v1i x (.vrot p w)
  | 0x38 => v1 x (.vredsum p w)
  | 0x39 => v1 x (.vredmax p w)
  | 0x3A => v1 x (.vredmin p w)
  | 0x3B => vops x true false false (vrest x false false true false && zer x 44 8) fun t _ a _ _ =>
      done (.vamax p w t (fld x 13 2) a)
  | _ => .error .opcode

/-- Read a V slot word; `w` says which slot. -/
def v (w : Bool) (x : BitVec 64) : Read (Option Instr) :=
  let op := (fld x 56 8 : BitVec 8).toNat
  if op = 0 then need (decide (x = 0)) .rsvField (.ok none)
  else Except.map some (if op < 0x20 then vArith x w op else vMove x w op)

/-! ### The M slot (R118, R119, R273) -/

/-- The fields of an M operation that its form does not use are 0. -/
def mrest (x : BitVec 64) (ty gl n pl cb ar yf pm tt : Bool) : Bool :=
  zer x 5 15 && (ty || zer x 52 4) && (gl || zer x 44 8) && (n || zer x 38 6) && (pl || zer x 37 1) &&
  (cb || zer x 35 2) && (ar || zer x 29 6) && (yf || zer x 28 1) && (pm || zer x 24 4) && (tt || zer x 20 4)

/-- The grid line of an M operation (R106). -/
def mgl (x : BitVec 64) (k : LineRef → Read Instr) : Read Instr := dirOr (fld x 44 8) k

/-- Read an M operation. -/
def mOp (x : BitVec 64) (op : Nat) : Read Instr :=
  let p := pred x
  match op with
  | 0x01 => need (mrest x true false false false false false false true false) .rsvField <|
      vty x fun t => done (.mcfg p t (fld x 24 4))
  | 0x02 => need (mrest x true true false false false false false false false && dirOk (fld x 44 8)) .rsvField <|
      vty x fun t => need t.isM .type <| mgl x fun g => done (.mldw p t g)
  | 0x03 => need (mrest x false false false false false false false false false) .rsvField <| done (.mswap p)
  | 0x04 => need (mrest x true true true true true true true false false && dirOk (fld x 44 8)) .rsvField <|
      vty x fun t => need t.isM .type <| mgl x fun g =>
      done (.mstrm p t g (fld x 38 6) (bit x 37) (fld x 35 2) (fld x 29 6) (bit x 28))
  | 0x05 => need (mrest x false false false false false false false true false) .rsvField <|
      need (zer x 26 2) .range <| done (.mzero p (fld x 24 2))
  | 0x06 => need (mrest x true true true true false true false false true && dirOk (fld x 44 8)) .rsvField <|
      need (zer x 52 4) .type <| take (Ty.ofCode (fld x 20 4 : BitVec 4).toNat) .type fun t => mgl x fun g =>
      done (.mrdacc p t g (fld x 38 6) (bit x 37) (fld x 29 6))
  | 0x07 => need (mrest x true true true true false true false false false && dirOk (fld x 44 8)) .rsvField <|
      vty x fun t => need t.isM .type <| mgl x fun g => done (.maddacc p t g (fld x 38 6) (bit x 37) (fld x 29 6))
  | 0x08 => need (mrest x false false false false false false false true false) .rsvField <|
      done (.mwaitp p (fld x 24 4))
  | _ => .error .opcode

/-- Read an M slot word. -/
def m (x : BitVec 64) : Read (Option Instr) :=
  let op := (fld x 56 8 : BitVec 8).toNat
  if op = 0 then need (decide (x = 0)) .rsvField (.ok none) else Except.map some (mOp x op)

/-! ### The LD and ST slots (R120 to R122, R326, R347) -/

/-- The fields of an atomic (R347). -/
def amo (x : BitVec 48) : Amo :=
  { d := fld x 35 6, a := fld x 30 5, ac := fld x 27 3, dist := fld x 15 12, wide := bit x 12, u := bit x 11,
    v := fld x 5 6 }

/-- Read an LD operation. -/
def ldOp (x : BitVec 48) (op : Nat) : Read Instr :=
  let p := pred x
  let d : BitVec 6 := fld x 35 6
  let l : BitVec 4 := fld x 35 4
  let a : BitVec 5 := fld x 30 5
  let ac : BitVec 3 := fld x 27 3
  let dist : BitVec 12 := fld x 15 12
  let off : BitVec 10 := fld x 5 10
  match op with
  | 0x01 => done (.ldw p d a ac dist off)
  | 0x02 => done (.ldd p d a ac dist off)
  | 0x03 => need (zer x 39 2) .rsvField <| done (.ldl p l a ac dist off)
  | 0x04 => need (zer x 39 2 && zer x 11 4) .rsvField <| done (.ldls p l a ac dist (fld x 5 6))
  | 0x05 => need (zer x 39 2 && zer x 13 2) .rsvField <|
      take (srcOf (fld x 5 8)) .rsvField fun s => done (.ldg p l a ac dist s)
  | 0x10 => need (decide (ac = 0) && zer x 11 4) .rsvField <| done (.tlnew p d a dist (fld x 5 6))
  | 0x11 => need (decide (ac = 0) && zer x 39 2) .rsvField <| done (.tlrd p l a dist off)
  | 0x12 => need (decide (ac = 0) && zer x 39 2 && decide (off = 0)) .rsvField <| done (.tlqry p l a dist)
  | 0x13 => need (decide (ac = 0) && decide (off = 0)) .rsvField <| done (.tlrep p d a dist)
  | 0x20 => need (zer x 13 2) .rsvField <| done (.amoAdd p (amo x))
  | 0x21 => need (zer x 13 2) .rsvField <| done (.amoMax p (amo x))
  | 0x22 => need (zer x 13 2) .rsvField <| done (.amoMin p (amo x))
  | 0x23 => need (zer x 13 2) .rsvField <| done (.amoAnd p (amo x))
  | 0x24 => need (zer x 13 2) .rsvField <| done (.amoOr p (amo x))
  | 0x25 => need (zer x 13 2) .rsvField <| done (.amoXch p (amo x))
  | 0x26 => need (zer x 13 2) .rsvField <| done (.amoCas p (amo x))
  | 0x27 => need (zer x 13 2) .rsvField <| done (.amoFadd p (amo x))
  | _ => .error .opcode

/-- Read an LD slot word. -/
def ld (x : BitVec 48) : Read (Option Instr) :=
  let op := (fld x 41 7 : BitVec 7).toNat
  if op = 0 then need (decide (x = 0)) .rsvField (.ok none) else Except.map some (ldOp x op)

/-- Read an ST operation. -/
def stOp (x : BitVec 48) (op : Nat) : Read Instr :=
  let p := pred x
  let a : BitVec 5 := fld x 28 5
  let ac : BitVec 3 := fld x 25 3
  let mx : BitVec 2 := fld x 19 2
  let off : BitVec 14 := fld x 5 14
  let src : Option Src := srcOf (fld x 33 8)
  match op with
  | 0x01 => need (zer x 39 2 && zer x 19 6) .rsvField <| done (.stw p (fld x 33 6) a ac off)
  | 0x02 => need (zer x 39 2 && zer x 19 6) .rsvField <| done (.std p (fld x 33 6) a ac off)
  | 0x03 => need (zer x 19 6) .rsvField <| take src .rsvField fun s => done (.stl p s a ac off)
  | 0x04 => take src .rsvField fun s => take (Ty.ofCode (fld x 21 4 : BitVec 4).toNat) .type fun t =>
      done (.stlx p t mx s a ac off)
  | 0x10 => need (decide (ac = 0)) .rsvField <| take src .rsvField fun s =>
      take (Ty.ofCode (fld x 21 4 : BitVec 4).toNat) .type fun t => done (.tlwr p t mx s a off)
  | 0x11 => need (zer x 33 8 && zer x 5 23) .rsvField <| done (.tlfin p a)
  | 0x18 => need (zer x 19 6) .rsvField <| take src .rsvField fun s => done (.puth p s a ac off)
  | _ => .error .opcode

/-- Read an ST slot word. -/
def st (x : BitVec 48) : Read (Option Instr) :=
  let op := (fld x 41 7 : BitVec 7).toNat
  if op = 0 then need (decide (x = 0)) .rsvField (.ok none) else Except.map some (stOp x op)

/-! ### The E0 and E1 slots (R123 to R126, R312, R345) -/

/-- The header of a copy command (R123). -/
def cpyHdr (x : BitVec 64) : CpyHdr :=
  { fl := fld x 54 4, acq := bit x 53, rel := bit x 52, sc := fld x 49 3, nd := fld x 46 3, kb := fld x 42 4,
    yf := bit x 41, ac := fld x 38 3, banks := fld x 6 32 }

/-- Read an E0 operation. -/
def e0Op (x : BitVec 64) (op : Nat) : Read Instr :=
  let p := pred x
  match op with
  | 0x01 => need (zer x 5 1) .rsvField <| done (.cpy p (cpyHdr x))
  | 0x02 => need (zer x 5 1) .rsvField <| done (.cred p (cpyHdr x))
  | 0x03 => need (zer x 5 1) .rsvField <| done (.cmc p (cpyHdr x))
  | 0x04 => need (zer x 5 1) .rsvField <| done (.cgat p (cpyHdr x))
  | 0x05 => need (zer x 5 37 && zer x 49 5 && decide ((fld x 46 3 : BitVec 3) = 1)) .rsvField <|
      done (.cstat p (fld x 54 4) (fld x 42 4))
  | 0x06 => need (zer x 5 41 && zer x 49 5 && decide ((fld x 46 3 : BitVec 3) = 1)) .rsvField <|
      done (.ccancel p (fld x 54 4))
  | _ => .error .opcode

/-- Read an E0 slot word. -/
def e0 (x : BitVec 64) : Read (Option Instr) :=
  let op := (fld x 58 6 : BitVec 6).toNat
  if op = 0 then need (decide (x = 0)) .rsvField (.ok none) else Except.map some (e0Op x op)

/-- Read a transform operation (R125). -/
def xfOp (x : BitVec 64) (op : Nat) : Read Instr :=
  let p := pred x
  need (decide (1 ≤ op ∧ op ≤ 4)) .opcode <|
  need (zer x 5 11 && (decide (op = 3) || zer x 20 4) && decide ((fld x 20 4 : BitVec 4).toNat ≤ 3) && dirOk (fld x 38 8) && dirOk (fld x 30 8)) .rsvField <|
  take (EFmt.ofCode (fld x 51 5 : BitVec 5).toNat) .type fun tf =>
  take (EFmt.ofCode (fld x 46 5 : BitVec 5).toNat) .type fun tt =>
  dirOr (fld x 38 8) fun d =>
  dirOr (fld x 30 8) fun a =>
  let f : Xf := { tf, tt, d, a, n := fld x 24 6, fl := fld x 16 4 }
  match op with
  | 1 => done (.xcvt p f)
  | 2 => done (.xtrn p f)
  | 3 => done (.xexp p f (fld x 20 4))
  | _ => done (.xpack p f)

/-- Read a fitting operation (R312). -/
def ftOp (x : BitVec 64) (op : Nat) : Read Instr :=
  let p := pred x
  let rg : BitVec 4 := fld x 52 4
  match op with
  | 0x01 => need (zer x 5 35) .rsvField <| done (.apxb p rg (fld x 40 12))
  | 0x02 => need (zer x 5 47) .rsvField <| done (.apxe p rg)
  | 0x03 => need (zer x 5 43) .rsvField <|
      if bit x 51 then done (.ftcfgNew p rg (fld x 48 3)) else done (.ftcfg p rg (fld x 48 3))
  | 0x04 => need (zer x 5 47) .rsvField <| done (.ftinv p rg)
  | 0x05 => need (zer x 5 38) .rsvField <| done (.ftst p rg (fld x 47 5) (fld x 43 4))
  | 0x06 => need (zer x 5 39 && zer x 51 1) .rsvField <| done (.ftstep p rg (fld x 48 3) (fld x 44 4))
  | 0x07 => need (zer x 5 39 && zer x 51 1) .rsvField <| done (.ftsamp p rg (fld x 48 3) (fld x 44 4))
  | _ => .error .opcode

/-- Read an E1 slot word. -/
def e1 (x : BitVec 64) : Read (Option Instr) :=
  let op := (fld x 56 7 : BitVec 7).toNat
  if bit x 63 then Except.map some (ftOp x op)
  else if op = 0 then need (decide (x = 0)) .rsvField (.ok none)
  else Except.map some (xfOp x op)

/-! ### Bundles (R102, R103) -/

/-- Read one slot of a bundle. -/
def slot (b : BitVec 512) : Slot → Read (Option Instr)
  | .sy => Except.map some (sy (fld b 480 32))
  | .s => s (fld b 416 64)
  | .v0 => v false (fld b 352 64)
  | .v1 => v true (fld b 288 64)
  | .m => m (fld b 224 64)
  | .ld => ld (fld b 176 48)
  | .st => st (fld b 128 48)
  | .e0 => e0 (fld b 64 64)
  | .e1 => e1 (fld b 0 64)

/-- The slots in slot order. -/
def slots : List Slot := [.sy, .s, .v0, .v1, .m, .ld, .st, .e0, .e1]

/-- Read the slots `l` of a bundle: its operations in slot order, or the first refusal with its slot. -/
def slotsOf (b : BitVec 512) : List Slot → Except (Slot × SealCode) (List (Slot × Instr))
  | [] => .ok []
  | z :: r =>
    match slot b z with
    | .error c => .error (z, c)
    | .ok none => slotsOf b r
    | .ok (some i) =>
      match slotsOf b r with
      | .error e => .error e
      | .ok l => .ok ((z, i) :: l)

/-- Read a bundle: its operations in slot order, the SY operation always among them. -/
def bundle (b : BitVec 512) : Except (Slot × SealCode) (List (Slot × Instr)) := slotsOf b slots

/-- The header mark hk of a bundle (R110). -/
def hk (b : BitVec 512) : BitVec 2 := fld b 510 2

end Decode

/-! ### The encoder -/

namespace Encode

/-- A field of width `w` placed at bit `lo` of a word. -/
def at' {n : Nat} (w lo : Nat) (v : BitVec n) : BitVec w := (v.setWidth w) <<< lo

/-- One bit placed at `lo`. -/
def flag (w lo : Nat) (b : Bool) : BitVec w := at' w lo (BitVec.ofBool b)

/-- The predicate at [4:0]. -/
def pred (w : Nat) (p : Pred) : BitVec w := flag w 4 p.neg ||| at' w 0 p.flag

/-- A line operand (R106). -/
def line (r : LineRef) : BitVec 8 := at' 8 6 (BitVec.ofNat 2 r.dir.code) ||| at' 8 0 r.idx

/-- A source operand (R106). -/
def src : Src → BitVec 8
  | .line r => line r
  | .land l => 0xC0#8 ||| at' 8 0 l
  | .bcast g => 0xE0#8 ||| at' 8 0 g

/-- The SY slot (R111). -/
def sy (k : BitVec 2) (op : Nat) (rest : BitVec 32) : BitVec 32 :=
  at' 32 30 k ||| at' 32 25 (BitVec.ofNat 5 op) ||| rest

/-- An S-slot word: op, d, a, b, x and predicate (R112); `rest` holds the other fields. -/
def s (op : Nat) (p : Pred) (d a b : BitVec 6) (x : BitVec 4) (rest : BitVec 64) : BitVec 64 :=
  at' 64 56 (BitVec.ofNat 8 op) ||| at' 64 50 d ||| at' 64 44 a ||| at' 64 38 b ||| at' 64 8 x ||| pred 64 p ||| rest

/-- A one-bit sub-operation field. -/
def x1 (b : Bool) : BitVec 4 := at' 4 0 (BitVec.ofBool b)

/-- A 4-bit or 5-bit register number in a six-bit field (R107). -/
def r6 {n : Nat} (r : BitVec n) : BitVec 6 := r.setWidth 6

/-- A V-slot word (R116). -/
def v (op : Nat) (p : Pred) (ty : Ty) (d a b c : BitVec 8) (x : BitVec 4) (sat : Bool) (mx : BitVec 2) (imm : BitVec 8) :
    BitVec 64 :=
  at' 64 56 (BitVec.ofNat 8 op) ||| at' 64 52 (BitVec.ofNat 4 ty.code) ||| at' 64 44 d ||| at' 64 36 a ||| at' 64 28 b |||
  at' 64 20 c ||| at' 64 16 x ||| flag 64 15 sat ||| at' 64 13 mx ||| at' 64 5 imm ||| pred 64 p

/-- A V-slot word of one, two or three sources. -/
def v1 (op : Nat) (p : Pred) (ty : Ty) (d : LineRef) (a : Src) : BitVec 64 := v op p ty (line d) (src a) 0 0 0 false 0 0
def v2 (op : Nat) (p : Pred) (ty : Ty) (d : LineRef) (a b : Src) : BitVec 64 :=
  v op p ty (line d) (src a) (src b) 0 0 false 0 0
def v3 (op : Nat) (p : Pred) (ty : Ty) (d : LineRef) (a b c : Src) : BitVec 64 :=
  v op p ty (line d) (src a) (src b) (src c) 0 false 0 0
def v1i (op : Nat) (p : Pred) (ty : Ty) (d : LineRef) (a : Src) (n : BitVec 8) : BitVec 64 :=
  v op p ty (line d) (src a) 0 0 0 false 0 n
def v2s (op : Nat) (p : Pred) (ty : Ty) (d : LineRef) (a b : Src) (sat : Bool) : BitVec 64 :=
  v op p ty (line d) (src a) (src b) 0 0 sat 0 0

/-- An M-slot word (R118). -/
def m (op : Nat) (p : Pred) (ty : Nat) (gl : BitVec 8) (n : BitVec 6) (pl : Bool) (cb : BitVec 2) (ar : BitVec 6) (yf : Bool)
    (pm : BitVec 4) (tt : Nat) : BitVec 64 :=
  at' 64 56 (BitVec.ofNat 8 op) ||| at' 64 52 (BitVec.ofNat 4 ty) ||| at' 64 44 gl ||| at' 64 38 n ||| flag 64 37 pl |||
  at' 64 35 cb ||| at' 64 29 ar ||| flag 64 28 yf ||| at' 64 24 pm ||| at' 64 20 (BitVec.ofNat 4 tt) ||| pred 64 p

/-- An LD-slot word (R120). -/
def ld (op : Nat) (p : Pred) (d : BitVec 6) (a : BitVec 5) (ac : BitVec 3) (dist : BitVec 12) (off : BitVec 10) : BitVec 48 :=
  at' 48 41 (BitVec.ofNat 7 op) ||| at' 48 35 d ||| at' 48 30 a ||| at' 48 27 ac ||| at' 48 15 dist ||| at' 48 5 off |||
  pred 48 p

/-- An atomic (R347). -/
def amo (op : Nat) (p : Pred) (m : Amo) : BitVec 48 :=
  ld op p m.d m.a m.ac m.dist (at' 10 0 m.v ||| flag 10 6 m.u ||| flag 10 7 m.wide)

/-- An ST-slot word (R121). -/
def st (op : Nat) (p : Pred) (sf : BitVec 8) (a : BitVec 5) (ac : BitVec 3) (tt : Nat) (mx : BitVec 2) (off : BitVec 14) :
    BitVec 48 :=
  at' 48 41 (BitVec.ofNat 7 op) ||| at' 48 33 sf ||| at' 48 28 a ||| at' 48 25 ac ||| at' 48 21 (BitVec.ofNat 4 tt) |||
  at' 48 19 mx ||| at' 48 5 off ||| pred 48 p

/-- An E0-slot word (R123). -/
def e0 (op : Nat) (p : Pred) (h : CpyHdr) : BitVec 64 :=
  at' 64 58 (BitVec.ofNat 6 op) ||| at' 64 54 h.fl ||| flag 64 53 h.acq ||| flag 64 52 h.rel ||| at' 64 49 h.sc |||
  at' 64 46 h.nd ||| at' 64 42 h.kb ||| flag 64 41 h.yf ||| at' 64 38 h.ac ||| at' 64 6 h.banks ||| pred 64 p

/-- A transform word (R125). -/
def xf (op : Nat) (p : Pred) (x : Xf) (xr : BitVec 4) : BitVec 64 :=
  at' 64 56 (BitVec.ofNat 7 op) ||| at' 64 51 (BitVec.ofNat 5 x.tf.code) ||| at' 64 46 (BitVec.ofNat 5 x.tt.code) |||
  at' 64 38 (line x.d) ||| at' 64 30 (line x.a) ||| at' 64 24 x.n ||| at' 64 20 xr ||| at' 64 16 x.fl ||| pred 64 p

/-- A fitting word (R312). -/
def ft (op : Nat) (p : Pred) (rg : BitVec 4) (rest : BitVec 64) : BitVec 64 :=
  flag 64 63 true ||| at' 64 56 (BitVec.ofNat 7 op) ||| at' 64 52 rg ||| rest ||| pred 64 p

end Encode

open Encode in
/-- The word of an operation: its slot, and the slot word in the low bits. Steps that are no slot operation have no
word. -/
def encode : Instr → Option (Slot × BitVec 64)
  | .nop k => some (.sy, (Encode.sy k 0 0).setWidth 64)
  | .wait k f pol y => some (.sy, (Encode.sy k 1 (at' 32 21 f ||| flag 32 20 pol ||| flag 32 19 y)).setWidth 64)
  | .arv k n r => some (.sy, (Encode.sy k 2 (at' 32 13 n ||| flag 32 12 r)).setWidth 64)
  | .bwt k n y => some (.sy, (Encode.sy k 3 (at' 32 13 n ||| flag 32 12 y)).setWidth 64)
  | .fmt k h x => some (.sy, (Encode.sy k 4 (flag 32 24 h ||| at' 32 8 x)).setWidth 64)
  | .fenceAcq k c => some (.sy, (Encode.sy k 5 (at' 32 22 (BitVec.ofNat 3 c.code))).setWidth 64)
  | .fenceRel k c => some (.sy, (Encode.sy k 6 (at' 32 22 (BitVec.ofNat 3 c.code))).setWidth 64)
  | .fenceAll k c => some (.sy, (Encode.sy k 7 (at' 32 22 (BitVec.ofNat 3 c.code))).setWidth 64)
  | .join k n => some (.sy, (Encode.sy k 8 (at' 32 13 n)).setWidth 64)
  | .leave k n => some (.sy, (Encode.sy k 9 (at' 32 13 n)).setWidth 64)
  | .yield k => some (.sy, (Encode.sy k 10 0).setWidth 64)
  | .hndl k => some (.sy, (Encode.sy k 11 0).setWidth 64)
  | .add p d a b => some (.s, Encode.s 0x01 p d a b 0 0)
  | .sub p d a b => some (.s, Encode.s 0x02 p d a b 0 0)
  | .mul p d a b => some (.s, Encode.s 0x03 p d a b 0 0)
  | .mulh p d a b u => some (.s, Encode.s 0x04 p d a b (x1 u) 0)
  | .div p d a b u => some (.s, Encode.s 0x05 p d a b (x1 u) 0)
  | .rem p d a b u => some (.s, Encode.s 0x06 p d a b (x1 u) 0)
  | .and p d a b => some (.s, Encode.s 0x07 p d a b 0 0)
  | .or p d a b => some (.s, Encode.s 0x08 p d a b 0 0)
  | .xor p d a b => some (.s, Encode.s 0x09 p d a b 0 0)
  | .shl p d a b => some (.s, Encode.s 0x0A p d a b 0 0)
  | .shr p d a b => some (.s, Encode.s 0x0B p d a b 0 0)
  | .sar p d a b => some (.s, Encode.s 0x0C p d a b 0 0)
  | .rot p d a b => some (.s, Encode.s 0x0D p d a b 0 0)
  | .clz p d a => some (.s, Encode.s 0x0E p d a 0 0 0)
  | .popc p d a => some (.s, Encode.s 0x0F p d a 0 0 0)
  | .min p d a b u => some (.s, Encode.s 0x10 p d a b (x1 u) 0)
  | .max p d a b u => some (.s, Encode.s 0x11 p d a b (x1 u) 0)
  | .cmp p f a b c => some (.s, Encode.s 0x12 p (r6 f) a b (BitVec.ofNat 4 c.code) 0)
  | .sel p d a b f => some (.s, Encode.s 0x13 p d a b f 0)
  | .mov p d a => some (.s, Encode.s 0x14 p d a 0 0 0)
  | .addImm p d a i => some (.s, Encode.s 0x21 p d a 0 0 (at' 64 12 i))
  | .subImm p d a i => some (.s, Encode.s 0x22 p d a 0 0 (at' 64 12 i))
  | .mulImm p d a i => some (.s, Encode.s 0x23 p d a 0 0 (at' 64 12 i))
  | .andImm p d a i => some (.s, Encode.s 0x27 p d a 0 0 (at' 64 12 i))
  | .orImm p d a i => some (.s, Encode.s 0x28 p d a 0 0 (at' 64 12 i))
  | .xorImm p d a i => some (.s, Encode.s 0x29 p d a 0 0 (at' 64 12 i))
  | .shlImm p d a i => some (.s, Encode.s 0x2A p d a 0 0 (at' 64 12 i))
  | .shrImm p d a i => some (.s, Encode.s 0x2B p d a 0 0 (at' 64 12 i))
  | .sarImm p d a i => some (.s, Encode.s 0x2C p d a 0 0 (at' 64 12 i))
  | .rotImm p d a i => some (.s, Encode.s 0x2D p d a 0 0 (at' 64 12 i))
  | .minImm p d a i u => some (.s, Encode.s 0x30 p d a 0 (x1 u) (at' 64 12 i))
  | .maxImm p d a i u => some (.s, Encode.s 0x31 p d a 0 (x1 u) (at' 64 12 i))
  | .cmpImm p f a i c => some (.s, Encode.s 0x32 p (r6 f) a 0 (BitVec.ofNat 4 c.code) (at' 64 12 i))
  | .movImm p d i => some (.s, Encode.s 0x34 p d 0 0 0 (at' 64 12 i))
  | .movh p d i => some (.s, Encode.s 0x35 p d 0 0 0 (at' 64 12 i))
  | .aadd p d a b => some (.s, Encode.s 0x40 p (r6 d) (r6 a) b 0 0)
  | .aaddi p d a i => some (.s, Encode.s 0x41 p (r6 d) (r6 a) 0 0 (at' 64 12 i))
  | .aidx p d a b j => some (.s, Encode.s 0x42 p (r6 d) (r6 a) b 0 (at' 64 14 j))
  | .acmp p f a b c => some (.s, Encode.s 0x43 p (r6 f) (r6 a) (r6 b) (BitVec.ofNat 4 c.code) 0)
  | .amov p x d a => some (.s, Encode.s 0x44 p d a 0 (x.setWidth 4) 0)
  | .amovh p d a => some (.s, Encode.s 0x44 p d (r6 a) 0 3 0)
  | .ahome p d a b => some (.s, Encode.s 0x45 p (r6 d) (r6 a) b 0 0)
  | .br p o => some (.s, Encode.s 0x48 p 0 0 0 0 (at' 64 19 o))
  | .brc p d o => some (.s, Encode.s 0x49 p d 0 0 0 (at' 64 19 o))
  | .call p d o => some (.s, Encode.s 0x4A p d 0 0 0 (at' 64 19 o))
  | .ret p a => some (.s, Encode.s 0x4B p 0 a 0 0 0)
  | .loop p lc im a len cnt =>
    some (.s, Encode.s 0x4C p 0 a len 0 (at' 64 53 lc ||| flag 64 52 im ||| at' 64 14 cnt))
  | .fset p f b => some (.s, Encode.s 0x50 p (r6 f) 0 0 (x1 b) 0)
  | .fmov p f a b => some (.s, Encode.s 0x51 p (r6 f) (r6 a) 0 (x1 b) 0)
  | .kwr p k a => some (.s, Encode.s 0x54 p (r6 k) a 0 0 0)
  | .kwrImm p k i => some (.s, Encode.s 0x55 p (r6 k) 0 0 0 (at' 64 12 i))
  | .zwr p z a => some (.s, Encode.s 0x56 p (r6 z) a 0 0 0)
  | .zwrImm p z i => some (.s, Encode.s 0x57 p (r6 z) 0 0 0 (at' 64 12 i))
  | .launch p d a b => some (.s, Encode.s 0x60 p d (r6 a) b 0 0)
  | .launchm p d a b => some (.s, Encode.s 0x61 p d (r6 a) b 0 0)
  | .tend p => some (.s, Encode.s 0x62 p 0 0 0 0 0)
  | .steal p d a f => some (.s, Encode.s 0x63 p d a 0 f 0)
  | .prioSelf p d i => some (.s, Encode.s 0x64 p d 0 0 0 (at' 64 12 i))
  | .prioTask p d a i => some (.s, Encode.s 0x64 p d a 0 1 (at' 64 12 i))
  | .lpscfg p a => some (.s, Encode.s 0x65 p 0 (r6 a) 0 0 0)
  | .lpsnxt p d f => some (.s, Encode.s 0x66 p d 0 0 f 0)
  | .stepmark p => some (.s, Encode.s 0x67 p 0 0 0 0 0)
  | .qlvl p d a i => some (.s, Encode.s 0x68 p d a 0 0 (at' 64 12 i))
  | .qstat p d a => some (.s, Encode.s 0x69 p d a 0 0 0)
  | .bacqP p d e r => some (.s, Encode.s 0x6C p (r6 d) e 0 (r.setWidth 4) 0)
  | .bacqC p d t r => some (.s, Encode.s 0x6C p (r6 d) 0 t (8 ||| r.setWidth 4) 0)
  | .brelP p c e r => some (.s, Encode.s 0x6D p (at' 6 0 (BitVec.ofBool e)) c 0 (r.setWidth 4) 0)
  | .brelC p r => some (.s, Encode.s 0x6D p 0 0 0 (8 ||| r.setWidth 4) 0)
  | .brcfg p d a r => some (.s, Encode.s 0x6E p d a 0 (r.setWidth 4) 0)
  | .trap p i => some (.s, Encode.s 0x70 p 0 0 0 0 (at' 64 12 i))
  | .eret p => some (.s, Encode.s 0x71 p 0 0 0 0 0)
  | .sysrd p d n => some (.s, Encode.s 0x72 p d 0 0 0 (at' 64 12 n))
  | .syswr p a n => some (.s, Encode.s 0x73 p 0 a 0 0 (at' 64 12 n))
  | .halt p => some (.s, Encode.s 0x74 p 0 0 0 0 0)
  | .frz p d a => some (.s, Encode.s 0x75 p d a 0 0 0)
  | .frzThaw p d a => some (.s, Encode.s 0x75 p d a 0 1 0)
  | .drain p d a => some (.s, Encode.s 0x76 p d a 0 0 0)
  | .dscan p d a b => some (.s, Encode.s 0x77 p d (r6 a) b 0 0)
  | .imgw p d a b inc bud =>
    some (.s, Encode.s 0x78 p d a (r6 b) (at' 4 0 (BitVec.ofBool inc) ||| at' 4 1 (BitVec.ofBool bud)) 0)
  | .imgr p d a b => some (.s, Encode.s 0x79 p d (r6 a) b 0 0)
  | .rtver p d => some (.s, Encode.s 0x7C p d 0 0 0 0)
  | .lkev p d a => some (.s, Encode.s 0x7D p d a 0 0 0)
  | .reconf p d a => some (.s, Encode.s 0x7E p d (r6 a) 0 0 0)
  | .vadd p w t d a b z => some (vs w, v2s 0x01 p t d a b z)
  | .vsub p w t d a b z => some (vs w, v2s 0x02 p t d a b z)
  | .vmul p w t d a b z => some (vs w, v2s 0x03 p t d a b z)
  | .vfma p w t d a b c => some (vs w, v3 0x04 p t d a b c)
  | .vfms p w t d a b c => some (vs w, v3 0x05 p t d a b c)
  | .vmin p w t d a b => some (vs w, v2 0x06 p t d a b)
  | .vmax p w t d a b => some (vs w, v2 0x07 p t d a b)
  | .vabs p w t d a => some (vs w, v1 0x08 p t d a)
  | .vneg p w t d a => some (vs w, v1 0x09 p t d a)
  | .vclamp p w t d a b c => some (vs w, v3 0x0A p t d a b c)
  | .vmulh p w t d a b => some (vs w, v2 0x0C p t d a b)
  | .vrcp p w t d a => some (vs w, v1 0x10 p t d a)
  | .vrsq p w t d a => some (vs w, v1 0x11 p t d a)
  | .vexp2 p w t d a => some (vs w, v1 0x12 p t d a)
  | .vlog2 p w t d a => some (vs w, v1 0x13 p t d a)
  | .vsqrt p w t d a => some (vs w, v1 0x14 p t d a)
  | .vcvt p w t tx d a n => some (vs w, Encode.v 0x18 p t (line d) (src a) 0 0 (BitVec.ofNat 4 tx.code) false 0 n)
  | .vq8 p w t d a z => some (vs w, Encode.v 0x19 p t (line d) (src a) 0 0 (x1 z) false 0 0)
  | .vdq8 p w t d a b z => some (vs w, Encode.v 0x1A p t (line d) (src a) (src b) 0 (x1 z) false 0 0)
  | .vand p w t d a b => some (vs w, v2 0x20 p t d a b)
  | .vor p w t d a b => some (vs w, v2 0x21 p t d a b)
  | .vxor p w t d a b => some (vs w, v2 0x22 p t d a b)
  | .vnot p w t d a => some (vs w, v1 0x23 p t d a)
  | .vshl p w t d a n => some (vs w, v1i 0x24 p t d a n)
  | .vshr p w t d a n => some (vs w, v1i 0x25 p t d a n)
  | .vsar p w t d a n => some (vs w, v1i 0x26 p t d a n)
  | .vpopc p w t d a => some (vs w, v1 0x27 p t d a)
  | .vclz p w t d a => some (vs w, v1 0x28 p t d a)
  | .vcmp p w t c d a b => some (vs w, Encode.v 0x29 p t (line d) (src a) (src b) 0 (BitVec.ofNat 4 c.code) false 0 0)
  | .vsel p w t d a b c => some (vs w, v3 0x2A p t d a b c)
  | .vmov p w t d a => some (vs w, v1 0x30 p t d a)
  | .vbcast p w t d a n => some (vs w, v1i 0x31 p t d a n)
  | .vperm p w t d a b => some (vs w, v2 0x32 p t d a b)
  | .viota p w t d n => some (vs w, Encode.v 0x33 p t (line d) 0 0 0 0 false 0 n)
  | .vrot p w t d a n => some (vs w, v1i 0x34 p t d a n)
  | .vredsum p w t d a => some (vs w, v1 0x38 p t d a)
  | .vredmax p w t d a => some (vs w, v1 0x39 p t d a)
  | .vredmin p w t d a => some (vs w, v1 0x3A p t d a)
  | .vamax p w t mx a => some (vs w, Encode.v 0x3B p t 0 (src a) 0 0 0 false mx 0)
  | .mcfg p t pm => some (.m, Encode.m 0x01 p t.code 0 0 false 0 0 false pm 0)
  | .mldw p t g => some (.m, Encode.m 0x02 p t.code (line g) 0 false 0 0 false 0 0)
  | .mswap p => some (.m, Encode.m 0x03 p 0 0 0 false 0 0 false 0 0)
  | .mstrm p t g n pl cb ar yf => some (.m, Encode.m 0x04 p t.code (line g) n pl cb ar yf 0 0)
  | .mzero p pm => some (.m, Encode.m 0x05 p 0 0 0 false 0 0 false (pm.setWidth 4) 0)
  | .mrdacc p t g row pl part => some (.m, Encode.m 0x06 p 0 (line g) row pl 0 part false 0 t.code)
  | .maddacc p t g row pl part => some (.m, Encode.m 0x07 p t.code (line g) row pl 0 part false 0 0)
  | .mwaitp p pm => some (.m, Encode.m 0x08 p 0 0 0 false 0 0 false pm 0)
  | .ldw p d a ac n o => some (.ld, (Encode.ld 0x01 p d a ac n o).setWidth 64)
  | .ldd p d a ac n o => some (.ld, (Encode.ld 0x02 p d a ac n o).setWidth 64)
  | .ldl p l a ac n o => some (.ld, (Encode.ld 0x03 p (r6 l) a ac n o).setWidth 64)
  | .ldls p l a ac n z => some (.ld, (Encode.ld 0x04 p (r6 l) a ac n (at' 10 0 z)).setWidth 64)
  | .ldg p l a ac n x => some (.ld, (Encode.ld 0x05 p (r6 l) a ac n (at' 10 0 (src x))).setWidth 64)
  | .tlnew p d a n g => some (.ld, (Encode.ld 0x10 p d a 0 n (at' 10 0 g)).setWidth 64)
  | .tlrd p l a n o => some (.ld, (Encode.ld 0x11 p (r6 l) a 0 n o).setWidth 64)
  | .tlqry p l a n => some (.ld, (Encode.ld 0x12 p (r6 l) a 0 n 0).setWidth 64)
  | .tlrep p d a n => some (.ld, (Encode.ld 0x13 p d a 0 n 0).setWidth 64)
  | .amoAdd p z => some (.ld, (Encode.amo 0x20 p z).setWidth 64)
  | .amoMax p z => some (.ld, (Encode.amo 0x21 p z).setWidth 64)
  | .amoMin p z => some (.ld, (Encode.amo 0x22 p z).setWidth 64)
  | .amoAnd p z => some (.ld, (Encode.amo 0x23 p z).setWidth 64)
  | .amoOr p z => some (.ld, (Encode.amo 0x24 p z).setWidth 64)
  | .amoXch p z => some (.ld, (Encode.amo 0x25 p z).setWidth 64)
  | .amoCas p z => some (.ld, (Encode.amo 0x26 p z).setWidth 64)
  | .amoFadd p z => some (.ld, (Encode.amo 0x27 p z).setWidth 64)
  | .stw p g a ac o => some (.st, (Encode.st 0x01 p (g.setWidth 8) a ac 0 0 o).setWidth 64)
  | .std p g a ac o => some (.st, (Encode.st 0x02 p (g.setWidth 8) a ac 0 0 o).setWidth 64)
  | .stl p x a ac o => some (.st, (Encode.st 0x03 p (src x) a ac 0 0 o).setWidth 64)
  | .stlx p t mx x a ac o => some (.st, (Encode.st 0x04 p (src x) a ac t.code mx o).setWidth 64)
  | .tlwr p t mx x a o => some (.st, (Encode.st 0x10 p (src x) a 0 t.code mx o).setWidth 64)
  | .tlfin p a => some (.st, (Encode.st 0x11 p 0 a 0 0 0 0).setWidth 64)
  | .puth p x a ac o => some (.st, (Encode.st 0x18 p (src x) a ac 0 0 o).setWidth 64)
  | .cpy p h => some (.e0, Encode.e0 0x01 p h)
  | .cred p h => some (.e0, Encode.e0 0x02 p h)
  | .cmc p h => some (.e0, Encode.e0 0x03 p h)
  | .cgat p h => some (.e0, Encode.e0 0x04 p h)
  | .cstat p fl kb =>
    some (.e0, Encode.e0 0x05 p
      { fl := fl, acq := false, rel := false, sc := 0, nd := 1, kb := kb, yf := false, ac := 0, banks := 0 })
  | .ccancel p fl =>
    some (.e0, Encode.e0 0x06 p
      { fl := fl, acq := false, rel := false, sc := 0, nd := 1, kb := 0, yf := false, ac := 0, banks := 0 })
  | .xcvt p x => some (.e1, Encode.xf 1 p x 0)
  | .xtrn p x => some (.e1, Encode.xf 2 p x 0)
  | .xexp p x r => some (.e1, Encode.xf 3 p x r)
  | .xpack p x => some (.e1, Encode.xf 4 p x 0)
  | .apxb p r n => some (.e1, Encode.ft 1 p r (at' 64 40 n))
  | .apxe p r => some (.e1, Encode.ft 2 p r 0)
  | .ftcfg p r z => some (.e1, Encode.ft 3 p r (at' 64 48 z))
  | .ftcfgNew p r z => some (.e1, Encode.ft 3 p r (flag 64 51 true ||| at' 64 48 z))
  | .ftinv p r => some (.e1, Encode.ft 4 p r 0)
  | .ftst p r k f => some (.e1, Encode.ft 5 p r (at' 64 47 k ||| at' 64 43 f))
  | .ftstep p r z f => some (.e1, Encode.ft 6 p r (at' 64 48 z ||| at' 64 44 f))
  | .ftsamp p r z f => some (.e1, Encode.ft 7 p r (at' 64 48 z ||| at' 64 44 f))
  | .pageWalkPreload p a => some (.s, sw p a 0x040)
  | .tlbPageInvalidate p a => some (.s, sw p a 0x840)
  | .tlbAllInvalidate p a => some (.s, sw p a 0x841)
  | .pageTableRootWrite p a => some (.s, sw p a 0x842)
  | .pwrLimWrite p a => some (.s, sw p a 0x850)
  | .handlerWordWrite p a ctl x => some (.s, sw p a ((if ctl then 0x8C4 else 0x8C0) + x.toNat))
  | .futureEmptyWordWrite p a => some (.s, sw p a 0x0D0)
  | .futemptyInline p a => some (.s, sw p a 0x0D1)
  | .trapWordWrite p a => some (.s, sw p a 0x0D4)
  | .timerWrite p a => some (.s, sw p a 0x0D6)
  | .tframeWrite p a => some (.s, sw p a 0x0DA)
  | .preemptRequest p a x => some (.s, sw p a (0x8D0 + x.toNat))
  | .contextResume p a x => some (.s, sw p a (0x8D8 + x.toNat))
  | .checkpointAreaWrite p a => some (.s, sw p a 0x8E2)
  | .linDmaxWrite p a => some (.s, sw p a 0x8B0)
  | .checkpointPeriodWrite p a st => some (.s, sw p a (if st then 0x8E1 else 0x8E0))
  | _ => none
where
  /-- V0 or V1. -/
  vs (w : Bool) : Slot := if w then .v1 else .v0
  /-- A SYSWR word (R418). -/
  sw (p : Pred) (a : BitVec 6) (num : Nat) : BitVec 64 := Encode.s 0x73 p 0 a 0 0 (at' 64 12 (BitVec.ofNat 12 num))

/-- An operation as the opcode table names it: a SYSWR of a number that has a row of its own is that row's (R418). -/
def Instr.named (i : Instr) : Instr :=
  match i with
  | .syswr p a n => Decode.syswrOp p a n
  | i => i

/-- Width of a slot's word (R102). -/
def Slot.width (z : Slot) : Nat :=
  match z with
  | .sy => 32
  | .ld | .st => 48
  | _ => 64

/-- Read a slot word given in the low bits of 64. -/
def decodeSlot (z : Slot) (w : BitVec 64) : Read (Option Instr) :=
  match z with
  | .sy => Except.map some (Decode.sy (w.setWidth 32))
  | .s => Decode.s w
  | .v0 => Decode.v false w
  | .v1 => Decode.v true w
  | .m => Decode.m w
  | .ld => Decode.ld (w.setWidth 48)
  | .st => Decode.st (w.setWidth 48)
  | .e0 => Decode.e0 w
  | .e1 => Decode.e1 w

/-- The operation of an SY slot word given as the opcode table gives it. Only the rows of the SY slot have words in the
table, all of 32 bits; a word of another size names no slot and is not read. -/
def decodeTableWord (nbits w : Nat) : Option Instr :=
  if nbits = 32 then
    match Decode.sy (BitVec.ofNat 32 w) with
    | .ok i => some i
    | .error _ => none
  else none

/-- A bundle that holds one slot word and the no-operations of the other slots. -/
def bundleOf (z : Slot) (w : BitVec 64) : BitVec 512 :=
  w.setWidth 512 <<< (match z with
    | .sy => 480 | .s => 416 | .v0 => 352 | .v1 => 288 | .m => 224 | .ld => 176 | .st => 128 | .e0 => 64 | .e1 => 0)

end Sys2Proof
end

