-- ==== Sys2Proof/Machine/Links.lean ====
section
/-! DEFINITION. Link directions (R448 to R458, R460, R482, R483, R547): flits and their CRC, the retry buffer, acknowledgement,
loss of light, restriping, relock, hold and DOWN, and the LKEV and RTVER words (R477 to R479). -/

namespace Sys2Proof.Machine

/-! ### Flits (R450) -/

/-- One bit of the CRC with polynomial 0x1021. -/
def crcBit (crc : Nat) (b : Bool) : Nat :=
  let c := (2 * crc) % 65536
  if bit crc 15 != b then c ^^^ 0x1021 else c

/-- One byte, most significant bit first. -/
def crcByte (crc : Nat) (x : Byte) : Nat := (List.range 8).foldl (fun c i => crcBit c (x.getLsbD (7 - i))) crc

/-- CRC-16 with initial value 0xFFFF. -/
def crc16 (bs : List Byte) : Nat := bs.foldl crcByte 0xFFFF

end Sys2Proof.Machine
namespace Sys2Proof
open Sys2Proof.Machine

/-- The bytes a flit's CRC covers: 0, 1 and 4 to 31. -/
def Flit.covered (f : Flit) : List Byte := toBytes 2 (f.seq.toNat + f.kind.toNat <<< 13) ++ toBytes 28 f.pay.toNat

/-- A flit with its CRC. -/
def Flit.sealed (f : Flit) : Flit := { f with crc := BitVec.ofNat 16 (crc16 f.covered) }

/-- A good flit: kind 7 counts as a bad CRC. -/
def Flit.good (f : Flit) : Bool := f.kind != 7 && f.sealed.crc == f.crc

/-- HEAD, BODY and MARK are sequenced. -/
def Flit.sequenced (f : Flit) : Bool := f.kind == 1 || f.kind == 2 || f.kind == 3

end Sys2Proof
namespace Sys2Proof.Machine

/-! ### Link directions -/

/-- The key of a direction of link `n`. -/
def linkKey (n : Nat) (rx : Bool) : Nat := 2 * n + b2n rx

/-- A link direction. -/
def State.link (s : State) (n : Nat) (rx : Bool) : LinkDir := Sparse.get LinkDir.reset s.fab.links (linkKey n rx)

/-- Write a link direction. -/
def State.setLink (s : State) (n : Nat) (rx : Bool) (l : LinkDir) : State :=
  { s with fab := { s.fab with links := Sparse.set s.fab.links (linkKey n rx) l } }

/-- Change a link direction. -/
def State.updLink (s : State) (n : Nat) (rx : Bool) (f : LinkDir → LinkDir) : State := s.setLink n rx (f (s.link n rx))

/-- Number of active wavelengths of a mask. -/
def maskCount (m : BitVec 16) : Nat := ((List.range 16).filter (fun i => m.getLsbD i)).length

/-- UP or DEG, by the mask (R454). -/
def litState (m : BitVec 16) : Nat := if maskCount m = 16 then 0 else 1

/-- The die that a link belongs to (R448). -/
def linkDie (n : Nat) : Nat := n / 128

/-- The fibre pair of a link, the first of its wavelengths there, and the wavelengths of the link that external laser module `q` of the
fibre supplies (R448, R449). -/
def linkPair (n : Nat) : Nat := n / 4
def linkWave (n : Nat) : Nat := 16 * (n % 4)
def moduleMask (n q : Nat) : BitVec 16 := if q / 4 = n % 4 then 0xF#16 <<< (4 * (q % 4)) else 0

/-- The wavelengths of a link that carry the units of its flit number `f` since the last restripe (R451). -/
def unitWaves (mask : BitVec 16) (f : Nat) : List Nat :=
  let ws := (List.range 16).filter (fun i => mask.getLsbD i)
  (List.range 16).map (fun u => ws.getD ((16 * f + u) % ws.length) 0)

/-- Distance from `a` up to `b` in sequence numbers mod 8,192. -/
def seqDist (a b : Nat) : Nat := (b + 8192 - a % 8192) % 8192

/-- A sequence number below `e`, within the window (R452). -/
def below (x e : Nat) : Bool := decide (1 ≤ seqDist x e ∧ seqDist x e ≤ 4096)

/-- Queue a sequenced flit: it takes the next sequence number. -/
def LinkDir.push (l : LinkDir) (kind : BitVec 3) (pay : BitVec 224) : LinkDir :=
  { l with
    seq := (l.seq + 1) % 8192
    out := l.out ++ [({ seq := BitVec.ofNat 13 l.seq, kind := kind, crc := 0, pay := pay } : Flit).sealed] }

/-- Queue an unsequenced flit, whose payload layout the manual does not give (log entry 20). -/
def LinkDir.signal (l : LinkDir) (kind : BitVec 3) (what : List Nat) : LinkDir :=
  { l with out := l.out ++ [({ seq := 0, kind := kind, crc := 0, pay := Config.linkPayload (kind.toNat :: what) } : Flit).sealed] }

/-- A receiver's acknowledgement of everything below E, with the permits it returns (R452, R460). -/
def State.sendAck (s : State) (n : Nat) : State :=
  let l := s.link n true
  let s := s.updLink n false (fun t => t.signal 4 (l.seq :: l.owed.flatMap (fun p => [p.1, p.2])))
  s.setLink n true { l with
    unacked := 0, owed := []
    count := l.owed.foldl (fun m p => Sparse.set m p.1 (Sparse.get 0 m p.1 + p.2)) l.count }

/-- A receiver's one NAK until it accepts a flit (R452). -/
def State.sendNak (s : State) (n : Nat) : State :=
  let l := s.link n true
  if l.nak then s
  else (s.updLink n false (fun t => t.signal 5 [l.seq])).setLink n true { l with nak := true }

/-- A TRAIN with the receiver's mask and E, or with the installed version (R455, R475). -/
def State.sendTrain (s : State) (n : Nat) (ver : Option (BitVec 8)) : State :=
  let l := s.link n true
  s.updLink n false (fun t => t.signal 6 [l.mask.toNat, l.seq, (match ver with | some v => v.toNat + 256 | none => 0), s.pkg])

/-! ### Packets on a link (R460, R462) -/

end Sys2Proof.Machine
namespace Sys2Proof
open Sys2Proof.Machine

/-- The number of BODY flits of a packet (R462, R481). -/
def Packet.nbody (p : Packet) : Nat := ceilDiv p.body.length 28

/-- Flits of a packet. -/
def Packet.flits (p : Packet) : Nat := 1 + p.nbody

/-- The header of a packet (R462). -/
def Packet.header (p : Packet) : BitVec 224 :=
  BitVec.ofNat 224 (p.dpkg.toNat + p.ddie.toNat <<< 13 + p.spkg.toNat <<< 15 + p.sdie.toNat <<< 28 + p.cls.toNat <<< 30 +
    p.vc.toNat <<< 32 + p.ver.toNat <<< 34 + b2n p.mc <<< 42 + p.dl.toNat <<< 43 + b2n p.ord <<< 46 + p.seq.toNat <<< 48 +
    p.op.toNat <<< 80 + (p.nbody % 16) <<< 88 + p.addr.toNat <<< 96 + p.aux.toNat <<< 160)

end Sys2Proof
namespace Sys2Proof.Machine

/-- BODY flits that a header announces. -/
def headBodies (h : BitVec 224) : Nat := bits h.toNat 88 4

/-- A packet of a HEAD payload and the payloads of its BODY flits. -/
def packetFrom (h : BitVec 224) (bodies : List (BitVec 224)) : Packet :=
  let f (lo n : Nat) : Nat := bits h.toNat lo n
  { dpkg := BitVec.ofNat 13 (f 0 13), ddie := BitVec.ofNat 2 (f 13 2), spkg := BitVec.ofNat 13 (f 15 13), sdie := BitVec.ofNat 2 (f 28 2),
    cls := BitVec.ofNat 2 (f 30 2), vc := BitVec.ofNat 2 (f 32 2), ver := BitVec.ofNat 8 (f 34 8), mc := f 42 1 == 1,
    dl := BitVec.ofNat 3 (f 43 3), ord := f 46 1 == 1, seq := BitVec.ofNat 32 (f 48 32), op := BitVec.ofNat 8 (f 80 8),
    addr := BitVec.ofNat 64 (f 96 64), aux := BitVec.ofNat 64 (f 160 64), body := bodies.flatMap (fun b => toBytes 28 b.toNat) }

/-- The key of a VC of a class: VC3's halves count apart (R460, R461). -/
def vcKey (cls vc : Nat) (upper : Bool) : Nat := 5 * cls + vc + b2n (upper && vc == 3)

/-- Slots of a VC in flits (R460). -/
def vcTotal (key : Nat) : Nat := if key % 5 < 3 then 192 else 32

/-- Torus coordinates of a package of the group (R459). -/
def State.coords (s : State) (p : Nat) : Nat × Nat × Nat :=
  match s.fab.members.find? (fun m => m.1 == p) with | some m => m.2 | none => (0, 0, 0)

/-- The first dimension in which two coordinates differ, with both and the size: x, then y, then z (R461). -/
def firstDim (a b d : Nat × Nat × Nat) : Option (Nat × Nat × Nat × Nat) :=
  if a.1 ≠ b.1 then some (0, a.1, b.1, d.1)
  else if a.2.1 ≠ b.2.1 then some (1, a.2.1, b.2.1, d.2.1)
  else if a.2.2 ≠ b.2.2 then some (2, a.2.2, b.2.2, d.2.2)
  else none

/-- The VC of a packet that came over a link: in VC3 its half is that of the dateline bit of the dimension in which the link leads
(R461). -/
def State.keyOver (s : State) (n : Nat) (p : Packet) : Nat :=
  vcKey p.cls.toNat p.vc.toNat (match (s.link n true).end_ with
    | some q => (match firstDim (s.coords q) (s.coords s.pkg) (0, 0, 0) with
      | some (i, _) => p.dl.getLsbD i
      | none => p.dl != 0)
    | none => p.dl != 0)

/-- Permits that the sender of link `n` holds for a VC (R460). -/
def State.permits (s : State) (n key : Nat) : Nat := vcTotal key - Sparse.get 0 (s.link n false).slots key

/-- Queue a packet on a link under a VC: its flits follow one another and spend one permit each (R460, R461, R482). -/
def State.sendOn (s : State) (n key : Nat) (p : Packet) : State :=
  s.updLink n false (fun l =>
    let l := l.push 1 p.header
    let l := (List.range p.nbody).foldl (fun l j =>
      l.push 2 (BitVec.ofNat 224 (ofBytes ((p.body.drop (28 * j)).take 28)))) l
    { l with slots := Sparse.set l.slots key (Sparse.get 0 l.slots key + p.flits) })

/-- A packet that came over a link leaves the receiver's slots: its permits go back with the next ACK (R460). -/
def State.freeSlots (s : State) (link : Option Nat) (p : Packet) : State :=
  match link with
  | none => s
  | some n => s.updLink n true (fun l =>
      { l with
        slots := Sparse.set l.slots (s.keyOver n p) (Sparse.get 0 l.slots (s.keyOver n p) - p.flits)
        owed := Sparse.set l.owed (s.keyOver n p) (Sparse.get 0 l.owed (s.keyOver n p) + p.flits) })

/-! ### Sending and receiving flits -/

/-- The next flit that a sender may send: while 4,096 flits are unacknowledged no new sequenced one (R452). -/
def LinkDir.nextFlit (l : LinkDir) : Option Flit :=
  l.out.find? (fun f => !f.sequenced || l.buf.contains f || decide (l.buf.length < 4096))

/-- The sender of link `n` sends its next flit, if it may send one (R451, R452); a flit still in the retry buffer is a resend
(R483). -/
def State.transmit (s : State) (n : Nat) : Option State :=
  let l := s.link n false
  if 512 ≤ n ∨ 1 < l.st then none
  else
    match l.nextFlit with
    | none => none
    | some f =>
      let again := l.buf.contains f
      let s := s.setLink n false { l with
        out := l.out.erase f
        flits := l.flits + 1
        buf := if f.sequenced && !again then l.buf ++ [f] else l.buf
        nrp := if again then min 0xFFFFFF (l.nrp + 1) else l.nrp }
      some { s with out := s.out ++ [.flit n f (unitWaves l.mask l.flits)] }

/-- FLIT_TRANSMIT: the sender of link `evt.n` sends a flit (R451, R452). -/
def execFlitTransmit (s : State) : Host.Outcome State Fault Refusal :=
  match s.transmit s.evt.n with | some s => .next s | none => .refused .notEnabled

/-- The sender of link `n` sends up to `k` of the flits that wait. -/
def State.transmitAll (s : State) (n k : Nat) : State :=
  match k with
  | 0 => s
  | k + 1 => match s.transmit n with | some s => s.transmitAll n k | none => s

/-- A flit is accepted: E advances, a packet that is whole enters the package, an ACK follows each time E reaches a
multiple of 64 (R452). -/
def State.acceptFlit (s : State) (n : Nat) (f : Flit) : State :=
  let l := s.link n true
  let e := (l.seq + 1) % 8192
  let buf := if f.kind == 1 then [f] else if f.kind == 2 && !l.buf.isEmpty then l.buf ++ [f] else l.buf
  let l := { l with seq := e, nak := false, unacked := l.unacked + 1, since := if l.unacked = 0 then s.clock else l.since, buf := buf }
  let whole := match buf with | h :: r => f.kind != 3 && decide (headBodies h.pay ≤ r.length) | [] => false
  let s := s.setLink n true l
  let s :=
    match buf, whole with
    | h :: r, true =>
      let p := packetFrom h.pay (r.map Flit.pay)
      let s := s.updLink n true (fun l => { l with buf := [], slots := Sparse.set l.slots (s.keyOver n p) (Sparse.get 0 l.slots (s.keyOver n p) + p.flits) })
      { s with fab := { s.fab with transit := s.fab.transit ++ [⟨p, some n, false⟩] } }
    | _, _ => s
  if e % 64 = 0 then s.sendAck n else s

/-- FLIT_RECEIVE: the receiver of link `evt.n` judges flit `evt.flit` (R452, R455, R547). A good ACK, NAK or TRAIN is a step
of its own. -/
def execFlitReceive (s : State) : Host.Outcome State Fault Refusal :=
  let n := s.evt.n
  let f := s.evt.flit
  let l := s.link n true
  if 512 ≤ n ∨ 2 < l.st then .refused .notEnabled
  else if l.st = 2 then .next s
  else if !f.good then .next (s.sendNak n)
  else if f.kind = 0 then .next s
  else if !f.sequenced then .refused .notEnabled
  else if f.seq.toNat = l.seq then .next (s.acceptFlit n f)
  else if below f.seq.toNat l.seq then .next s
  else .next (s.sendNak n)

/-- ACK_RECEIVE: an ACK of link `evt.n` frees every flit below its E = `evt.k` and returns the permits `evt.list`
(R452, R460). -/
def execAckReceive (s : State) : Host.Outcome State Fault Refusal :=
  let n := s.evt.n
  if 512 ≤ n ∨ 2 < (s.link n false).st then .refused .notEnabled
  else .next (s.updLink n false (fun l => { l with
    buf := l.buf.filter (fun f => !below f.seq.toNat s.evt.k)
    slots := s.evt.list.foldl (fun m p => Sparse.set m p.1 (Sparse.get 0 m p.1 - p.2)) l.slots
    count := s.evt.list.foldl (fun m p => Sparse.set m p.1 (Sparse.get 0 m p.1 + p.2)) l.count }))

/-- ACK_TIMER: 256 ns, 845 core cycles, after a flit that no ACK has covered yet (R452). -/
def execAckTimer (s : State) : Host.Outcome State Fault Refusal :=
  let n := s.evt.n
  let l := s.link n true
  if 512 ≤ n ∨ 1 < l.st ∨ l.unacked = 0 ∨ s.clock < l.since + 845 then .refused .notEnabled
  else .next (s.sendAck n)

/-- The flits that a sender resends: those of the retry buffer from `e` on, before what waits (R452, R455). -/
def LinkDir.resend (l : LinkDir) (e : Nat) : LinkDir :=
  { l with out := l.buf.filter (fun f => !below f.seq.toNat e) ++ l.out.filter (fun f => !l.buf.contains f) }

/-- NAK_RECEIVE: the sender of link `evt.n` resends from E = `evt.k` onward (R452). -/
def execNakReceive (s : State) : Host.Outcome State Fault Refusal :=
  let n := s.evt.n
  if 512 ≤ n ∨ 2 < (s.link n false).st then .refused .notEnabled
  else .next (s.updLink n false (fun l => l.resend s.evt.k))

/-! ### Loss of light, restripe, DOWN -/

/-- The report of a link to the coordinator of the group (R454, R467). -/
def State.reportLink (s : State) (n : Nat) : State :=
  { s with out := s.out ++ [.report s.fab.coord (BitVec.ofNat 64 (n + s.pkg <<< 16))] }

/-- One direction goes DOWN from any state but HELD and DOWN (or from HELD by its own timeout): the retry buffer is
discarded, the receiving end records event 0x03 (R454, R458, R483). -/
def State.dirDown (s : State) (n : Nat) (rx : Bool) (t0 : Nat) : State :=
  let l := s.link n rx
  let s := s.setLink n rx { l with st := 4, buf := [], out := [], nak := false, unacked := 0, owed := [] }
  let s := if rx then s.event 0x03 (linkDie n) n true 0 t0 s.clock l.mask.toNat else s
  s.reportLink n

/-- A direction goes DOWN, and its reverse with it unless that is HELD or DOWN (R454). -/
def State.linkDown (s : State) (n : Nat) (rx : Bool) (t0 : Nat) : State :=
  let s := s.dirDown n rx t0
  if (s.link n (!rx)).st < 3 then s.dirDown n (!rx) s.clock else s

/-- A detection, or a TRAIN at the sending end: RESTRIPE on the new mask, its timer restarted; the third restart, or fewer
than 4 wavelengths, is DOWN (R454, R455, R483). -/
def State.restripe (s : State) (n : Nat) (rx : Bool) (mask lost added : BitVec 16) : State :=
  let l := s.link n rx
  let rst := if l.st = 2 then l.rst + 1 else 0
  if maskCount mask < 4 then s.linkDown n rx s.clock
  else if 3 ≤ rst then s.linkDown n rx s.clock
  else
    s.setLink n rx { l with
      st := 2, mask := mask, rst := rst, since := s.clock
      dark := l.dark.filter (fun p => !mask.getLsbD p.1) ++ ((List.range 16).filter (fun i => lost.getLsbD i)).map (fun i => (i, s.clock))
      nrs := if l.st = 2 then l.nrs else min 65535 (l.nrs + 1)
      lostw := if l.st = 2 then l.lostw ||| lost ||| added else lost ||| added
      adding := added != 0 && lost == 0 }

/-- TRAIN_RECEIVE: the other end's TRAIN for link `evt.n`: the installed version `evt.w` of its package `evt.k`, with `evt.flag` (R475), or its new mask
`evt.m` and E = `evt.k`, at which the sender stops and enters RESTRIPE (R455, R483). -/
def execTrainReceive (s : State) : Host.Outcome State Fault Refusal :=
  let n := s.evt.n
  let l := s.link n false
  if 512 ≤ n ∨ 2 < l.st then .refused .notEnabled
  else if s.evt.flag then
    .next ((s.setLink n false { l with peer := some (s.evt.w.truncate 8) }).updLink n true (fun r => { r with end_ := some s.evt.k }))
  else
    let m : BitVec 16 := BitVec.ofNat 16 s.evt.m
    let s := s.restripe n false m (l.mask &&& ~~~m) (m &&& ~~~l.mask)
    .next (if (s.link n false).st = 2 then s.updLink n false (fun l => { l with trainE := s.evt.k }) else s)

/-- LOS_DETECTION: the receiver of link `evt.n` declares loss of light on the wavelengths `evt.m` (R453 to R455). -/
def execLosDetection (s : State) : Host.Outcome State Fault Refusal :=
  let n := s.evt.n
  let l := s.link n true
  let lost : BitVec 16 := BitVec.ofNat 16 s.evt.m &&& l.mask
  if 512 ≤ n ∨ 2 < l.st ∨ lost = 0 then .refused .notEnabled
  else
    let s := s.restripe n true (l.mask &&& ~~~lost) lost 0
    .next (if (s.link n true).st = 2 then s.sendTrain n none else s)

/-- WAVELENGTH_RELOCK: wavelength `evt.m` of link `evt.n` relocks after 2^22 cycles above threshold: a DEG direction restripes
with it, a restriping one adds it when its timer ends (R454, R456). -/
def execWavelengthRelock (s : State) : Host.Outcome State Fault Refusal :=
  let n := s.evt.n
  let l := s.link n true
  let w : BitVec 16 := if s.evt.m < 16 then 1 <<< s.evt.m else 0
  let since := (Sparse.find? l.dark s.evt.m).getD 0
  if 512 ≤ n ∨ w = 0 ∨ l.mask &&& w ≠ 0 ∨ s.clock < since + 2 ^ 22 then .refused .notEnabled
  else if l.st = 1 then
    .next ((s.restripe n true (l.mask ||| w) 0 w).sendTrain n none)
  else if l.st = 2 then .next (s.setLink n true { l with relock := l.relock ||| w })
  else .refused .notEnabled

/-- RESTRIPE_TIMER_END: 5,280 core cycles after the latest detection, or at the sender with its first replayed flit, the
direction is UP or DEG; the sender replays its buffer from the TRAIN's E, the receiver writes the event record, with the
number `evt.m` of flits the sender resends (R454, R455, R458, R483). -/
def execRestripeTimerEnd (s : State) : Host.Outcome State Fault Refusal :=
  let n := s.evt.n
  let rx := s.evt.flag
  let l := s.link n rx
  if 512 ≤ n ∨ l.st ≠ 2 ∨ (rx ∧ s.clock < l.since + 5280) then .refused .notEnabled
  else if !rx then .next (s.setLink n false ({ l with st := litState l.mask, rst := 0, lostw := 0, flits := 0 }.resend l.trainE))
  else
    let det := l.lostw.toNat + (s.evt.m % 8192) <<< 16 + (if l.adding then 0 else l.rst <<< 29)
    let s := s.setLink n true { l with st := litState l.mask, rst := 0, lostw := 0, relock := 0, adding := false }
    let s := s.event (if l.adding then 0x02 else 0x01) (linkDie n) n true l.mask.toNat l.since (l.since + 5280) det
    if l.relock &&& ~~~l.mask = 0 then .next s
    else .next ((s.restripe n true (l.mask ||| l.relock) 0 (l.relock &&& ~~~l.mask)).sendTrain n none)

/-- A hold by RECONF (R454, R475): permits are kept unused, every wavelength is dark. What waits at the sender, the hold mark last, leaves
before (R488; log entry 113). -/
def State.hold (s : State) (n : Nat) : State :=
  let s := s.transmitAll n (s.link n false).out.length
  let h (l : LinkDir) : LinkDir := { l with st := 3, since := s.clock, rst := 0, relock := 0, lostw := 0, out := [], buf := [], peer := none, end_ := none }
  (s.updLink n false h).updLink n true h

/-! ### LKEV and RTVER -/

/-- The status word of a link direction (R479). -/
def LinkDir.word (l : LinkDir) : W64 :=
  BitVec.ofNat 64 (l.st + l.mask.toNat <<< 4 + l.rst <<< 20 + l.nrs <<< 24 + l.nrp <<< 40)

/-- LKEV (R479). -/
def execLkev (p : Pred) (d a : BitVec 6) (s : State) : Host.Outcome State Fault Refusal :=
  always s p (fun s =>
    let g := (s.me.g a).toNat
    s.resultG .s 4 d (if 1024 ≤ g then 0x8000000000000000 else (s.link (g % 512) (bit g 9)).word))

/-- An advance is in progress: the coordinator's, or one whose tables this package holds and has not switched to (R467, R478; log entry 112). -/
def Fabric.advancing (f : Fabric) : Bool := f.adv.isSome || f.shadow.ver != f.active.ver

/-- The fabric word (R478). -/
def Fabric.word (f : Fabric) : W64 :=
  BitVec.ofNat 64 (f.active.ver.toNat + f.gid <<< 8 + (f.size - 1) <<< 21 + b2n f.advancing <<< 34 + b2n f.rcf.isSome <<< 35 +
    (f.nadv % 2 ^ 28) <<< 36)

/-- RTVER (R478). -/
def execRtver (p : Pred) (d : BitVec 6) (s : State) : Host.Outcome State Fault Refusal :=
  always s p (fun s => s.resultG .s 1 d s.fab.word)

end Sys2Proof.Machine
end

