-- ==== Sys2Proof/Machine/System.lean ====
section
/-! DEFINITION. Software traps, return from a handler, HALT, and the system numbers that SYSRD reads and SYSWR writes
(R411, R415 to R418 and the chapters that assign the numbers). -/

namespace Sys2Proof.Machine

/-! ### TRAP, ERET, HALT -/

/-- Verdict of TRAP: cause TRAP unless the bundle is presented again after its handler (R417). -/
def State.trapVerdict (s : State) (imm : BitVec 32) : Verdict :=
  trapIf (!s.me.sched.tskip) (.issue .s cTRAP (imm.zeroExtend 64))

/-- TRAP (R417). -/
def execTrap (p : Pred) (imm : BitVec 32) (s : State) : Host.Outcome State Fault Refusal := act s p (s.trapVerdict imm) id

/-- The trap of a landing whose data faulted (R400, R409). -/
def Latch.landTrap (l : Latch) : TrapInfo :=
  { cause := l.cause, taddr := l.taddr, slot := l.slot.num, async := false, land := true, rep := false, efl := 0,
    key := l.ord, cmd := none }

/-- The earliest landing among faulting latches. -/
def Sched.firstPoison (q : Sched) : Option Latch := leastBy Latch.due (q.latches.filter (fun l => l.stat == .poisoned))

/-- A landing is still waited for in core cycle `cyc`: its data is not there, or level 2 still pads it. -/
def Sched.waiting (q : Sched) (cyc : Nat) : Bool := q.latches.any (fun l => l.stat != .poisoned && !l.there cyc)

/-- Verdict of ERET: without a trap handler ERETCTX; it freezes until every landing is there, whose fault is a trap
(R411). -/
def State.eretVerdict (s : State) : Verdict :=
  let q := s.me.sched
  (trapIf s.me.shadow.isNone (.issue .s cERETCTX 0)).andThen
    ((freezeIf (q.waiting s.myCore.cycle) .late).andThen
      (match q.firstPoison with | some l => .trap l.landTrap | none => .issue))

/-- Free places for freeze images on a die (R424). -/
def Die.imageRoom (x : Die) : Bool := decide (x.frozen.length < 1024)

/-- What a future-empty handler's inline choice leads to after its ERET: the task is parked, or it waits as in the yield
choice (R394, R424). -/
def State.inlineChoice (s : State) (n : Nat) (h : Shadow) : State :=
  match h.inline && decide ((s.ctx n).mode ≠ .stopped), h.ref, (s.ctx n).task with
  | true, some r, some t =>
    if t.desc.team = 0 ∧ t.level ≠ 2 ∧ (s.die (dieOf (coreOf n))).imageRoom then s.takeImage n (some r)
    else s.updCtx n (fun c => { c with sync := { c.sync with yielded := true, await := some (.tile r) } })
  | _, _, _ => s

/-- ERET: the handler's results complete, the frame is restored and the trapped bundle is presented again (R411, R412). -/
def execEret (p : Pred) (s : State) : Host.Outcome State Fault Refusal :=
  act s p s.eretVerdict (fun s =>
    let n := s.cur
    let t := s.me.sched.time
    let wait := s.me.sched.lastDue t - t
    let h := s.me.shadow
    let s := s.drain n
    let s := s.updMe (fun c => { c with cnt := { c.cnt with late := c.cnt.late + wait } })
    let s := ((s.updCore (coreOf n) (fun k => { k with cycle := k.cycle + wait })).planeCycle (coreOf n)).restoreFrame n
    let s := match h with | some h => s.inlineChoice n h | none => s
    s.updCtx n (fun c => { c with sched := { c.sched with ended := true } }))

/-- HALT: the context drains as at a yield and stops at the index after the bundle (R415). -/
def execHalt (p : Pred) (s : State) : Host.Outcome State Fault Refusal :=
  always s p (fun s =>
    let n := s.cur
    let prior := match s.me.shadow with | some h => h.cause | none => 0
    let s := s.updMe (fun c => c.beats c.sched.time)
    let s := s.updMe (fun c => { c with
      sched := { c.sched with pc := c.sched.pc + 1, time := c.sched.time + 1, ord := c.sched.ord + 16, ended := true, tskip := false }
      cnt := { c.cnt with issued := c.cnt.issued + 1 }
      sync := { c.sync with yielded := true } })
    let s := s.drain n
    let i := TrapInfo.issue .s cHALT 0
    s.stop n cHALT (i.word cHALT 0 s.me.sched.pc prior false) 0)

/-! ### SYSRD -/

/-- Input or output `j` of a task; the null reference for an unused one (R147). -/
def refAt (l : List W64) (j : Nat) : W64 := l.getD j 0

/-- Instance bits of number 0x025 (R147, R441). -/
def Task.word25 (t : Task) : Nat := t.level + b2n t.rebuilt <<< 2 + b2n t.redispatched <<< 3 + b2n t.restored <<< 4

/-- Numbers 0x010 to 0x029 (R147, R174); without a task they read 0, but for the image and the placement. -/
def State.taskNumber (s : State) (num : Nat) : Option W64 :=
  let c := s.me
  let n (f : Task → Nat) : Option W64 := some (match c.task with | some t => BitVec.ofNat 64 (f t) | none => 0)
  if num < 0x10 then none
  else if num < 0x18 then some (match c.task with | some t => refAt t.desc.ins (num - 0x10) | none => 0)
  else if num < 0x20 then some (match c.task with | some t => refAt t.desc.outs (num - 0x18) | none => 0)
  else if num = 0x20 then n (fun t => t.tid)
  else if num = 0x21 then n (fun t => if t.desc.team = 0 then 0 else t.desc.rank)
  else if num = 0x22 then some (match c.task with
    | some t => if t.desc.team = 0 then 1 else BitVec.ofNat 64 t.desc.tsize
    | none => 1)
  else if num = 0x23 then n (fun t => t.desc.team)
  else if num = 0x24 then n (fun t => t.desc.job)
  else if num = 0x25 then n Task.word25
  else if num = 0x26 then n (fun t => t.base + s.prio t <<< 3)
  else if num = 0x27 then some c.imageHandle
  else if num = 0x28 then some (s.placement s.cur)
  else if num = 0x29 then some (match c.task with
    | some t => t.dataSec
    | none => s.dataSection s.myDie c.imageHandle)
  else none

/-- The matrix state word (R282). -/
def Planes.word (x : Planes) : W64 :=
  BitVec.ofNat 64 (x.fc0.code + x.fc1.code <<< 4 + x.fwa.code <<< 8 + x.fws.code <<< 12)

/-- Leases held by a core (R225). -/
def Core.leaseWord (k : Core) : W64 := BitVec.ofNat 64 (b2n (k.hasLease 1) + b2n (k.hasLease 2) <<< 1 + b2n (k.hasLease 3) <<< 2)

/-- A ring's word (R381). -/
def Ring.word (x : Ring) : W64 := if x.conf then BitVec.ofNat 64 (x.desc.toNat % 2 ^ 32 + x.pi <<< 32 + x.ci <<< 36) else 0

/-- Lineage status word (R525). -/
def Die.linWord (x : Die) : W64 :=
  BitVec.ofNat 64 (4194304 - x.lin.used + (min 1024 (x.entries.filter (fun e => e.task.rebuilt)).length) <<< 23 +
    b2n (!x.lin.acts.isEmpty) <<< 34 + (x.lin.acts.getLast?.getD 0) % 4 <<< 35 + (x.lin.acts.getLast?.getD 0) / 4 <<< 37)

/-- Halves of a region table entry (R298). -/
def RegEntry.low (e : RegEntry) : W64 := BitVec.ofNat 64 (1 + b2n e.loaded <<< 1 + e.nlines <<< 8 + e.base <<< 16 + e.refs <<< 24)

/-- Numbers of the pipeline, the transform unit and the matrix engine (R225, R282, R285). -/
def State.pipeNumber (s : State) (num : Nat) : Option W64 :=
  let c := s.me
  let k := c.cnt
  let w (n : Nat) : Option W64 := some (BitVec.ofNat 64 n)
  if 0x30 ≤ num ∧ num ≤ 0x35 then some ((c.lc (BitVec.ofNat 3 (num - 0x30))).zeroExtend 64)
  else if num = 0x38 then some (c.regs.fmt.zeroExtend 64)
  else if num = 0x39 then some c.regs.rsn
  else if num = 0x3A then some c.regs.xst
  else if num = 0x3B then some c.planes.word
  else if 0x3C ≤ num ∧ num ≤ 0x3F then some ((c.mx (BitVec.ofNat 2 (num - 0x3C))).zeroExtend 64)
  else if num = 0x50 then w s.myCore.pwrLim
  else if num = 0x60 then w s.myCore.cycle
  else if num = 0x61 then w k.issued
  else if num = 0x62 then w k.late
  else if num = 0x63 then w k.pwr
  else if num = 0x64 then w k.busy
  else if num = 0x65 then w k.bank
  else if num = 0x66 then w k.sage
  else if num = 0x67 then some s.myCore.leaseWord
  else if num = 0x68 then w k.sync
  else none

/-- Numbers of views, staging registers, lineage, traps, checkpoints and rings (R301, R345, R393, R400, R402, R444, R447, R501,
R525, R381, R382). -/
def State.unitNumber (s : State) (num : Nat) : Option W64 :=
  let c := s.me
  let job := s.job (match c.task with | some t => t.desc.job | none => 0)
  let d := s.die s.myDie
  if 0x70 ≤ num ∧ num ≤ 0x7F then some (c.fit.view (num - 0x70)).word
  else if 0xA0 ≤ num ∧ num ≤ 0xAF then some (c.k (BitVec.ofNat 4 (num - 0xA0)))
  else if num = 0xB0 then some (BitVec.ofNat 64 d.lin.dmax)
  else if num = 0xB1 then some d.linWord
  else if num = 0xD0 then some c.sys.futWord
  else if num = 0xD4 then some c.sys.trapWord
  else if num = 0xD6 then some c.sys.timer
  else if num = 0xD8 then some c.sys.tcause
  else if num = 0xD9 then some c.sys.taddr
  else if num = 0xDA then some c.sys.tframe
  else if num = 0xE0 then some (BitVec.ofNat 64 job.period)
  else if num = 0xE1 then some (BitVec.ofNat 64 job.every)
  else if num = 0xE2 then some job.area
  else if 0x100 ≤ num ∧ num ≤ 0x17F then
    let x := s.myRing ((num - 0x100) / 16)
    some (if x.conf then Sparse.get 0 x.tags (num % 16) else 0)
  else if 0x180 ≤ num ∧ num ≤ 0x187 then some (s.myRing (num - 0x180)).word
  else none

/-- Numbers that need the system attribute (R186, R298, R388). -/
def State.firmNumber (s : State) (num : Nat) : Option W64 :=
  let ctx (x : Nat) : Ctx := s.ctx (4 * coreOf s.cur + x)
  if num = 0xC42 then some (s.die s.myDie).root
  else if 0xC80 ≤ num ∧ num ≤ 0xC9F then
    some (match Sparse.find? (s.quad (quadOf (coreOf s.cur))) ((num - 0xC80) / 2) with
      | some e => if num % 2 = 0 then e.low else e.wref
      | none => 0)
  else if 0xCC0 ≤ num ∧ num ≤ 0xCC3 then some (ctx (num - 0xCC0)).sys.himg
  else if 0xCC4 ≤ num ∧ num ≤ 0xCC7 then some (ctx (num - 0xCC4)).sys.hctl
  else none

/-- The value of a system number (R418); none for an unassigned one. -/
def State.sysNumber (s : State) (num : Nat) : Option W64 :=
  (s.taskNumber num).orElse (fun _ => (s.pipeNumber num).orElse (fun _ => (s.unitNumber num).orElse (fun _ =>
    s.firmNumber num)))

/-- SYSNUM (R418). -/
def sysTrap (num : Nat) : TrapInfo := .issue .s cSYSNUM (BitVec.ofNat 64 num)

/-- Verdict of SYSRD (R418). -/
def State.sysrdVerdict (s : State) (num : Nat) : Verdict := trapIf (s.sysNumber num).isNone (sysTrap num)

/-- A handler that has read both tcause and taddr is settled (R413). -/
def Shadow.read (h : Shadow) (num : Nat) : Shadow :=
  { h with readCause := h.readCause || num == 0xD8, readAddr := h.readAddr || num == 0xD9 }

/-- SYSRD (R418). -/
def execSysrd (p : Pred) (d : BitVec 6) (num : BitVec 12) (s : State) : Host.Outcome State Fault Refusal :=
  act s p (s.sysrdVerdict num.toNat) (fun s =>
    let v := (s.sysNumber num.toNat).getD 0
    (s.resultG .s 1 d v).updMe (fun c => { c with shadow := c.shadow.map (fun h => h.read num.toNat) }))

/-! ### SYSWR -/

/-- SYSWR of a number that is not assigned, or not writable: every writable number has a meaning of its own (R418). -/
def execSyswr (p : Pred) (_a : BitVec 6) (num : BitVec 12) (s : State) : Host.Outcome State Fault Refusal :=
  act s p (.trap (sysTrap num.toNat)) id

/-- The page of a compact address has a home that a walk request can reach (R178, R192). -/
def State.hasWalk (s : State) (w : W64) : Bool :=
  let home := bits w.toNat 48 16
  decide (home < 24576) && (if home / 4 = s.pkg then s.online (home % 4) else s.reaches (home / 4) && !s.fab.gone.contains home)

/-- Verdict of SYSWR 0x040: a freeze until the page of a compact address is walked (R193). -/
def State.preloadVerdict (s : State) (w : W64) : Verdict :=
  freezeIf (s.hasWalk w && s.me.mem.preload != some (w, true)) (.walk w)

/-- Ask for the walk of the page of a compact address, ahead of its use (R193). -/
def State.askPage (s : State) (w : W64) : State :=
  let s := s.updMe (fun c => { c with mem := { c.mem with preload := some (w, false) } })
  s.walkFor (coreOf s.cur) (bits w.toNat 48 16) (w.toNat % 2 ^ 48) false

/-- SYSWR 0x040: the page of a compact address is walked and its translation loaded, while the context freezes; a walk that faults loads
nothing (R193). -/
def execPageWalkPreload (p : Pred) (a : BitVec 6) (s : State) : Host.Outcome State Fault Refusal :=
  let w := s.me.g a
  let v := s.preloadVerdict w
  let waits := s.me.holds p && !s.me.sched.granted && (match v with | .freeze _ => true | _ => false)
  act (if waits then s.askPage w else s) p v (fun s => s.updMe (fun c => { c with mem := { c.mem with preload := none } }))

/-- Every cached translation of the package (R194). -/
def State.cached (s : State) : List TlbEntry := s.dies.flatMap (fun d => d.2.tlb) ++ s.cores.flatMap (fun k => k.2.utlb)

/-- An access that translated through an entry and is not complete (R194). -/
def State.using (s : State) (e : TlbEntry) : Bool :=
  s.ctxs.any (fun c =>
    c.2.mem.reqs.any (fun r => r.isMem && !r.performed && addrHome r.base == e.home &&
      r.pieces.any (fun p => p.pa.isSome && p.off >>> e.size == e.page)) ||
    c.2.mem.cmds.any (fun m => m.far.any (fun g => match m.dest g with
      | .va h o _ => h == e.home && o >>> e.size == e.page
      | .tile .. => false)) ||
    c.2.sched.stores.any (fun o => bits o.va.toNat 48 16 == e.home && (o.va.toNat % 2 ^ 48) >>> e.size == e.page))

/-- Verdict of the invalidations: a freeze while an access uses a translation that `f` selects (R194). -/
def State.invVerdict (s : State) (f : TlbEntry → Bool) : Verdict :=
  freezeIf ((s.cached.filter f).any s.using) .late

/-- Walk requests under way to other packages are sent again, so that no answer of before is loaded (R194). -/
def State.walkAgain (s : State) : State :=
  s.walksOut.foldl (fun s x =>
    s.walkFor (x.2.toNat % 2 ^ 12) (bits x.1.toNat 48 16) (x.1.toNat % 2 ^ 48) (bit x.2.toNat 40))
    { s with epoch := s.epoch + 1, walksOut := [] }

/-- Remove every cached translation that `f` selects (R194). -/
def State.invalidate (s : State) (f : TlbEntry → Bool) : State :=
  { s.walkAgain with
    dies := s.walkAgain.dies.map (fun d => (d.1, { d.2 with tlb := d.2.tlb.filter (fun e => !f e) }))
    cores := s.cores.map (fun k => (k.1, { k.2 with utlb := k.2.utlb.filter (fun e => !f e) })) }

/-- An entry translates a compact address. -/
def ofAddr (w : W64) (e : TlbEntry) : Bool := e.covers (bits w.toNat 48 16) (w.toNat % 2 ^ 48)

/-- SYSWR 0x840 (R194). -/
def execTlbPageInvalidate (p : Pred) (a : BitVec 6) (s : State) : Host.Outcome State Fault Refusal :=
  act s p (s.invVerdict (ofAddr (s.me.g a))) (fun s => s.invalidate (ofAddr (s.me.g a)))

/-- SYSWR 0x841 (R194). -/
def execTlbAllInvalidate (p : Pred) (_a : BitVec 6) (s : State) : Host.Outcome State Fault Refusal :=
  act s p (s.invVerdict (fun _ => true)) (fun s => s.invalidate (fun _ => true))

/-- A root that R186 accepts for die `d`. -/
def rootOk (d : Nat) (w : W64) : Bool :=
  let n := w.toNat
  if bit n 63 then bits n 46 17 == 0 && bits n 0 21 == 0 && bits n 44 2 == d else n == 0

/-- SYSWR 0x842: the issuing die's page table root (R186). -/
def execPageTableRootWrite (p : Pred) (a : BitVec 6) (s : State) : Host.Outcome State Fault Refusal :=
  always s p (fun s =>
    let w := s.me.g a
    if rootOk s.myDie w then s.updDie s.myDie (fun x => { x with root := w }) else s)

/-- SYSWR 0x850 (R219). -/
def execPwrLimWrite (p : Pred) (a : BitVec 6) (s : State) : Host.Outcome State Fault Refusal :=
  always s p (fun s => s.updCore (coreOf s.cur) (fun k => { k with pwrLim := max 64 ((s.me.g a).toNat % 65536) }))

/-- A handler entry of an image on the issuing die (R110, R388). -/
def State.isHandler (s : State) (img : W64) (idx : Nat) : Bool :=
  match s.image? s.myDie img with | some i => i.handlers.contains idx | none => false

/-- SYSWR 0x8C0 + x and 0x8C4 + x: the handler word of context x of the issuing core (R388, R389). -/
def execHandlerWordWrite (p : Pred) (a : BitVec 6) (ctl : Bool) (x : BitVec 2) (s : State) : Host.Outcome State Fault Refusal :=
  always s p (fun s =>
    let n := 4 * coreOf s.cur + x.toNat
    let w := s.me.g a
    if !ctl then s.updCtx n (fun c => { c with sys := { c.sys with himg := w } })
    else if bits w.toNat 24 39 = 0 ∧ s.isHandler (s.ctx n).sys.himg (w.toNat % 2 ^ 24) then
      (s.updCtx n (fun c => { c with sys := { c.sys with
        hctl := w, armed := if c.mode = .free then bit w.toNat 63 else c.sys.armed } })).dropWakes n
    else s)

/-- A trap word or future-empty word that is accepted (R393, R402). -/
def State.wordOk (s : State) (w : W64) : Bool :=
  bits w.toNat 24 39 == 0 && (!bit w.toNat 63 || s.isHandler s.me.imageHandle (w.toNat % 2 ^ 24))

/-- SYSWR 0x0D0 (R393). -/
def execFutureEmptyWordWrite (p : Pred) (a : BitVec 6) (s : State) : Host.Outcome State Fault Refusal :=
  always s p (fun s =>
    let w := s.me.g a
    if s.wordOk w then s.updMe (fun c => { c with sys := { c.sys with futWord := w } }) else s)

/-- SYSWR 0x0D1: the inline choice of a future-empty handler (R394). -/
def execFutemptyInline (p : Pred) (_a : BitVec 6) (s : State) : Host.Outcome State Fault Refusal :=
  always s p (fun s => s.updMe (fun c => { c with
    shadow := c.shadow.map (fun h => { h with inline := h.inline || h.ref.isSome }) }))

/-- SYSWR 0x0D4 (R402). -/
def execTrapWordWrite (p : Pred) (a : BitVec 6) (s : State) : Host.Outcome State Fault Refusal :=
  always s p (fun s =>
    let w := s.me.g a
    if s.wordOk w then s.updMe (fun c => { c with sys := { c.sys with trapWord := w } }) else s)

/-- SYSWR 0x0D6: the timer (R402). -/
def execTimerWrite (p : Pred) (a : BitVec 6) (s : State) : Host.Outcome State Fault Refusal :=
  always s p (fun s => s.updMe (fun c => { c with sys := { c.sys with timer := s.me.g a } }))

/-- SYSWR 0x0DA: the place of the trap frame (R402). -/
def execTframeWrite (p : Pred) (a : BitVec 6) (s : State) : Host.Outcome State Fault Refusal :=
  always s p (fun s =>
    let w := s.me.g a
    if frameFits w.toNat then s.updMe (fun c => { c with sys := { c.sys with tframe := w } }) else s)

/-- SYSWR 0x8D0 + x: a pre-emption request for context x of the issuing core; a context without a task takes none
(R420). -/
def execPreemptRequest (p : Pred) (_a : BitVec 6) (x : BitVec 2) (s : State) : Host.Outcome State Fault Refusal :=
  always s p (fun s => s.updCtx (4 * coreOf s.cur + x.toNat) (fun c =>
    if c.task.isSome then { c with sync := { c.sync with preempt := true } } else c))

/-- A stopped context that may go on (R416): its stop record is neither DOUBLE nor FRAMEBAD nor raised in a handler. -/
def Ctx.resumable (c : Ctx) : Bool :=
  let code := bits c.sys.tcause.toNat 0 8
  decide (c.mode = .stopped) && code != cDOUBLE && code != cFRAMEBAD && !bit c.sys.tcause.toNat 15

/-- Resume a stopped context: after a HALT at the next bundle, else as ERET would from its frame (R416). -/
def State.resume (s : State) (n : Nat) : State :=
  let c := s.ctx n
  if !c.resumable then s
  else if bits c.sys.tcause.toNat 0 8 = cHALT then
    s.setCtx n { c with mode := if c.shadow.isSome then .handler else if c.task.isSome then .task else .wake }
  else
    let k := (s.core (coreOf n)).switch
    (s.restoreFrame n).updCore (coreOf n) (fun x => { x with switch := k })

/-- SYSWR 0x8D8 + x (R416). -/
def execContextResume (p : Pred) (_a : BitVec 6) (x : BitVec 2) (s : State) : Host.Outcome State Fault Refusal :=
  always s p (fun s => s.resume (4 * coreOf s.cur + x.toNat))

/-- The job of the running task; job 0 without one. -/
def Ctx.job (c : Ctx) : Nat := match c.task with | some t => t.desc.job | none => 0

/-- SYSWR 0x8E2: the checkpoint area of the issuer's job, 64 KiB aligned (R447). -/
def execCheckpointAreaWrite (p : Pred) (a : BitVec 6) (s : State) : Host.Outcome State Fault Refusal :=
  always s p (fun s =>
    let w := s.me.g a
    if w.toNat % 65536 = 0 then s.updJob s.me.job (fun j => { j with area := w }) else s)

/-- SYSWR 0x8B0 (R501). -/
def execLinDmaxWrite (p : Pred) (a : BitVec 6) (s : State) : Host.Outcome State Fault Refusal :=
  always s p (fun s => s.updDie s.myDie (fun x => { x with lin := { x.lin with dmax := max 1 ((s.me.g a).toNat % 16) } }))

/-- SYSWR 0x8E0 and 0x8E1: the checkpoint period in core cycles, or the step count, of the issuer's job (R444). -/
def execCheckpointPeriodWrite (p : Pred) (a : BitVec 6) (steps : Bool) (s : State) : Host.Outcome State Fault Refusal :=
  always s p (fun s => s.updJob s.me.job (fun j =>
    if steps then { j with every := (s.me.g a).toNat, lastStep := j.steps } else { j with period := (s.me.g a).toNat, last := s.clock }))

end Sys2Proof.Machine
end

