-- ==== Sys2Proof/Machine/Retire.lean ====
section
/-! DEFINITION. TEND: the end of a task and the retirement of its outputs (R61, R168, R495 to R506, R518, R520), and the end
of a job (R65). -/

namespace Sys2Proof.Machine

/-! ### What TEND waits for -/

/-- Output `r` is open: it still has to be finished by the task (R61, R518). One homed on another package whose state this package has not
heard counts as open until the task has issued its TLFIN (log entry 83). -/
def State.openOut (s : State) (c : Ctx) (t : Task) (r : W64) : Bool :=
  !c.mem.fins.contains r &&
    (match s.verState r with
     | some (st, _, _, _) => if t.rebuilt then st == 5 else st == 1 || st == 2
     | none => s.isRemote r && !t.rebuilt)

/-- The lowest-numbered open output of the running task (R61, R401). -/
def State.firstOpen (s : State) : Option W64 := s.me.task.bind (fun t => t.desc.outs.find? (s.openOut s.me t))

/-- Every store, atomic, TLWR, TLFIN, PUTH and copy of the context is acknowledged, a stopped copy counting as complete;
its background fitting operations have ended (R168, R315). -/
def Ctx.allDone (c : Ctx) : Bool :=
  c.writesAcked c.sched.ord && c.mem.cmds.all (fun m => decide (m.stat = .done ∨ m.stat = .stopped)) &&
  c.fit.ops.all (fun o => o.err.isSome)

/-- The error of a fitting operation without a flag (R315). -/
def Ctx.fitError (c : Ctx) : Option FaultRec := c.fit.ops.findSome? (fun o => if o.fl = 0 then o.err else none)

/-- The tests of TEND up to its store-fault test (R168). -/
def State.tendFront (s : State) : Verdict :=
  (s.needTask .s).andThen
    ((match s.firstOpen with | some r => .trap (.issue .s cOUTOPEN r) | none => .issue : Verdict).andThen
      ((freezeIf (!s.me.allDone) .tend).andThen
        ((s.report .s).andThen
          (match s.me.fitError with | some e => .trap (.issue .s e.cause e.taddr) | none => .issue))))

/-! ### The retention bound -/

/-- A task whose TEND writes lineage: level 1 or 2 and no rebuilt instance (R495, R518). -/
def Task.retires (t : Task) : Bool := decide (0 < t.level) && !t.rebuilt && !t.desc.outs.isEmpty

/-- Depth of an input as its directory entry has it (R500). -/
def State.inDepth (s : State) (r : W64) : Nat := match s.verState r with | some (_, _, _, d) => d | none => 0

/-- Greatest depth among inputs. -/
def State.maxDepth (s : State) (ins : List W64) : Nat := ins.foldl (fun m r => max m (s.inDepth r)) 0

/-- What retirement finds: a depth to record, an input to be replicated first, or one that cannot be recovered
(R502). -/
inductive Retire where
  | depth (d : Nat)
  | replicate (r : W64)
  | hopeless
deriving DecidableEq, Repr

/-- The loop of R502 as far as it can go now. -/
def State.retirePlan (s : State) (t : Task) : Retire :=
  let d := 1 + s.maxDepth t.desc.ins
  if d ≤ (s.die s.myDie).lin.dmax then .depth d
  else
    match t.desc.ins.find? (fun r => s.inDepth r == d - 1) with
    | some r => (match s.verState r with | some (4, _, true, _) => .hopeless | _ => .replicate r)
    | none => .depth d

/-- Records that the outputs of a task need on die `d` (R496). -/
def Task.recordSize (t : Task) : Nat :=
  1 + b2n (decide (10 < t.desc.ins.length + t.desc.args.length)) + b2n (decide (1 < t.desc.outs.length))

/-- Every home area has room for the record sets of a task (R506). -/
def State.recordRoom (s : State) (t : Task) : Bool :=
  (List.range 4).all (fun d =>
    let k := (t.desc.outs.filter (fun r => s.refDie r == some d)).length
    k == 0 || decide ((s.die d).lin.used + k * t.recordSize ≤ 4194304))

/-- A copy of a record set of the task goes to another package, to the home of an output or to its buddy home, or a count of an input is
raised there (R499, R503). -/
def State.recordsFar (s : State) (t : Task) : Bool :=
  t.desc.ins.any s.isRemote || t.desc.outs.any (fun r => match s.refDie r with
    | none => true
    | some d => (s.buddy d).any (fun b => b.1 != s.pkg))

/-- Messages that carry a task's record sets and are not acknowledged yet (R499; log entry 102). -/
def State.recordsSent (s : State) (t : Task) : Bool :=
  s.dies.any (fun d => (d.2.e2e.store ++ d.2.e2e.waiting).any (fun p =>
    homeMessage p && (([1, 7, 13].contains (p.aux.toNat % 256) && t.desc.outs.contains p.addr) ||
      (p.aux.toNat % 256 == 2 && t.desc.ins.contains p.addr))))

/-- TEND still waits for its retirement: for an input to be replicated, for free records, for the acknowledgement of what it has
written (R499, R502, R506). -/
def State.retireWaits (s : State) : Bool :=
  match s.me.task with
  | some t => t.retires && (if s.me.sync.retired then s.recordsSent t else match s.retirePlan t with
      | .replicate _ => true
      | .hopeless => t.desc.outs.any s.isRemote
      | .depth _ => !s.recordRoom t || s.recordsFar t)
  | none => false

/-- Verdict of TEND (R168): after its tests it releases at domain scope as a fence does, then retires. -/
def State.tendVerdict (s : State) : Verdict :=
  s.tendFront.andThen ((s.fenceWait .rel .dom).andThen (freezeIf s.retireWaits .tend))

/-- TEND has passed its store-fault test: no trap and no pre-emption is taken before the task ends (R168). -/
def State.retiring (s : State) : Bool :=
  decide (s.tendFront = .issue) && (decide (s.fenceWait .rel .dom ≠ .issue) || s.retireWaits)

/-! ### The end of a task -/

/-- The record set of output `j` (R497). -/
def State.recordOf (s : State) (c : Ctx) (t : Task) (j : Nat) (r : W64) (d : Nat) (apx : Bool) : LinRec :=
  { ref := r, img := t.desc.image, entry := t.desc.entry, level := t.level, apx := apx, oj := j, outs := t.desc.outs,
    ins := t.desc.ins, args := t.desc.args, depth := d, tid := t.tid, rank := t.desc.rank, team := t.desc.team,
    job := t.desc.job, tsize := t.desc.tsize, pkg := s.pkg, prio := t.desc.prio
    wmask := ((number 0 t.desc.ins).filter (fun p => c.fit.bound.contains p.2)).foldl (fun m p => m + 2 ^ p.1) 0 }

/-- The control core of a die hears that few home records are free (R506). -/
def State.fewRecords (s : State) (d before : Nat) : State :=
  let free := 4194304 - (s.die d).lin.used
  if free < 65536 ∧ 65536 ≤ before then s.controlEvent d (256 * d) 0 5 0 else s

/-- Retire one output (R495, R499, R500, R503): its record set, its depth, lineage. A version that is LOST already is asked
for at once (R512). -/
def State.retireOut (s : State) (c : Ctx) (t : Task) (j : Nat) (r : W64) (depth : Option Nat) : State :=
  match s.tile? r, s.refDie r with
  | some x, some d =>
    match depth with
    | none => s.setTile r { x with level := t.level }
    | some k =>
      let before := 4194304 - (s.die d).lin.used
      let s := s.setTile r { x with level := t.level, depth := k, nolin := false }
      let s := (s.writeRecord (s.recordOf c t j r k x.apx)).fewRecords d before
      if x.state = 4 then s.askRecovery r x.wprio else s
  | _, _ =>
    match depth with
    | some k =>
      let x := s.recordOf c t j r k false
      (s.tell s.myDie r 7 x.head).tell s.myDie r 263 x.tail
    | none => s.tell s.myDie r (13 + t.level <<< 56) []

/-- Write the lineage of a task's outputs (R495, R502). -/
def State.retireTask (s : State) (c : Ctx) (t : Task) : State :=
  if !t.retires then s
  else
    let plan := s.retirePlan t
    let depth := match plan with | .depth d => some d | _ => none
    let s := (number 0 t.desc.outs).foldl (fun s p => s.retireOut c t p.1 p.2 depth) s
    match plan with
    | .hopeless => s.controlEvent s.myDie (coreOf s.cur) (s.cur % 4) 8 0
    | _ => s.readyAll

/-- A waiting retirement has the input that holds it up replicated, and recovered first where it must be (R502); with nothing left to
wait for it writes the record sets, once, whose copies it then waits for (R168, R499). -/
def State.retireAsk (s : State) : State :=
  match s.me.task with
  | none => s
  | some t =>
    if decide (s.tendVerdict ≠ .freeze .tend) || s.me.sync.retired || decide (s.tendFront ≠ .issue) then s
    else
      let write (s : State) : State := (s.retireTask s.me t).updMe (fun c => { c with sync := { c.sync with retired := true } })
      match s.retirePlan t with
      | .replicate r =>
        if s.isRemote r then
          (if (s.die s.myDie).e2e.store.any (fun p => p.addr == r && p.aux == 9) then s else s.tell s.myDie r 9 [])
        else
          (match s.tile? r, s.refDie r with
           | some x, some d =>
             if x.state = 3 then s.replicate r
             else if x.state = 5 || (s.die d).lin.requests.any (fun q => q.1 == r) then s
             else s.askRecovery r x.wprio
           | _, _ => s)
      | .hopeless => write s
      | .depth _ => if s.recordRoom t then write s else s

/-- Release one use of every distinct input (R52); a rebuilt instance only of inputs it is marked for (R520). -/
def State.releaseUses (s : State) (t : Task) : State :=
  (distinct t.desc.ins).foldl (fun s r =>
    if s.isRemote r then s.tell s.myDie r (8 + t.tid <<< 8 + b2n t.rebuilt <<< 56) (toBytes 2 t.pkg)
    else match s.tile? r, s.refDie r with
      | some x, some d =>
        if t.rebuilt && !x.marked.contains (t.pkg, t.tid) then s
        else s.updDie d (fun y => { y with lin := { y.lin with releases := y.lin.releases ++ [(r, t.pkg, t.tid)] } })
      | _, _ => s) s

/-- Barrier operations on their way reach their entries, then LEAVE of every set the task is a member of, in ascending name
(R377). -/
def State.leaveAll (s : State) (n : Nat) (t : Task) : State :=
  if t.solo then s
  else
    let s := (s.ctx n).sync.out.foldl (fun s o => s.barApply t.key o.2.1 o.1 t.desc.rank) s
    let names := ((s.die (s.barDie t.key)).bars.filter (fun p => p.2.team == t.key && p.2.name != 0 &&
      p.2.members.any (fun m => m.1 == t.desc.rank))).map (fun p => p.2.name)
    (sortBy id names).foldl (fun s k => s.barApply t.key k .leave t.desc.rank) s

/-- A rank of a team has ended; with the last one the team's bindings are released (R376). -/
def State.rankEnded (s : State) (t : Task) : State :=
  match s.team? t.key with
  | none => s
  | some x =>
    let x := { x with ended := if x.ended.contains t.desc.rank then x.ended else x.ended ++ [t.desc.rank] }
    if x.ended.length < x.tsize then s.updTeam t.key (fun _ => x)
    else
      let s := s.updDie x.bindDie (fun d => { d with bars := d.bars.filter (fun p => p.2.team != t.key) })
      { s with teams := s.teams.filter (fun y => y.key != t.key) }

/-- The task of context `n` ends (R168): stores still under way are performed, results in flight are discarded, records are
written, uses released, the entry and the context are free. -/
def State.endTask (s : State) (n : Nat) : State :=
  match (s.ctx n).task with
  | none => s
  | some t =>
    let c := s.ctx n
    let s := (s.ownFlush n).leaveAll n t
    let s := (if c.sync.retired then s else s.retireTask c t).releaseUses t
    let s := ((s.dropRings n).unbindAll n).updCore (coreOf n) (fun k => k.unlock n)
    let s := (List.range 4).foldl (fun s d =>
      (s.dropEntries d (fun e => e.task.tid == t.tid && e.task.rebuilt == t.rebuilt && (match e.stat with
        | .running m => m == n
        | _ => false))).updDie d Die.passChanges) s
    let s := (s.rankEnded t).setCtx n (s.ctx n).freed
    (s.dropWakes n).readyAll

/-- TEND (R61, R168). -/
def execTend (p : Pred) (s : State) : Host.Outcome State Fault Refusal :=
  act s p s.tendVerdict (fun s =>
    let n := s.cur
    (s.endTask n).updCtx n (fun c => { c with sched := { c.sched with ended := true } }))

/-- A job ends: every tile version that its tasks created and that this package homes becomes FREED (R45, R65). -/
def State.endJob (s : State) (j : Nat) : State :=
  let s := (List.range 4).foldl (fun s d =>
    let refs := ((s.die d).tiles.filter (fun p => p.2.job == j && p.2.state != 6)).map (fun p => BitVec.ofNat 64 p.1)
    let s := s.updDie d (fun x => { x with lin := { x.lin with
      rebuilds := x.lin.rebuilds.filter (fun p => !refs.contains (BitVec.ofNat 64 p.1)) } })
    refs.foldl State.free_ s) s
  ({ s with jobs := Sparse.erase s.jobs j }).readyAll

/-- JOB_END: job `evt.n` ends (R65). -/
def execJobEnd (s : State) : Host.Outcome State Fault Refusal := .next (s.endJob s.evt.n)

end Sys2Proof.Machine
end

