-- ==== Sys2Proof/Machine/Scan.lean ====
section
/-! DEFINITION. What Signet checks in an image file (R127 to R137, R140, R296): the scan, the refusal report, and the sealed image that
a file makes. -/

namespace Sys2Proof

/-! ### What an operation of a bundle is, for the checks of Signet -/

/-- An operation that needs the system attribute (R115). -/
def Instr.privileged : Instr → Bool
  | .reconf .. | .tlbPageInvalidate .. | .tlbAllInvalidate .. | .pageTableRootWrite .. | .pwrLimWrite .. | .handlerWordWrite ..
  | .preemptRequest .. | .contextResume .. | .checkpointAreaWrite .. | .linDmaxWrite .. | .checkpointPeriodWrite .. => true
  | .syswr _ _ num => decide (0x800 ≤ num.toNat)
  | .sysrd _ _ num => decide (0xC00 ≤ num.toNat)
  | _ => false

/-- BR, BRC, CALL and RET. -/
def Instr.isBranch : Instr → Bool
  | .br .. | .brc .. | .call .. | .ret .. => true
  | _ => false

/-- LOOP. -/
def Instr.isLoop : Instr → Bool
  | .loop .. => true
  | _ => false

/-- FRZ, DRAIN, DSCAN, IMGW and IMGR (R442). -/
def Instr.isTeamOp : Instr → Bool
  | .frz .. | .frzThaw .. | .drain .. | .dscan .. | .imgw .. | .imgr .. => true
  | _ => false

/-- Operations that may not share a bundle with LD, ST or E0 (R131). -/
def Instr.alone : Instr → Bool
  | .trap .. | .eret .. | .halt .. | .frz .. | .frzThaw .. | .drain .. | .imgw .. | .imgr .. => true
  | _ => false

/-- YIELD, WAIT.y and BWT.y (R131). -/
def Instr.yields : Instr → Bool
  | .yield _ => true
  | .wait _ _ _ y => y
  | .bwt _ _ y => y
  | _ => false

/-- Operations that a delay bundle may not hold (R132). -/
def Instr.notDelayed : Instr → Bool
  | .br .. | .brc .. | .call .. | .ret .. | .eret .. | .loop .. | .trap .. | .halt .. => true
  | _ => false

/-- Operations that the true path of a region may not hold (R296). -/
def Instr.notInRegion : Instr → Bool
  | .br .. | .brc .. | .call .. | .ret .. | .eret .. | .tend .. | .trap .. | .halt .. | .frz .. | .frzThaw .. => true
  | _ => false

/-- Whether a source names a grid line (R130). -/
def Src.port : Src → Nat
  | .line _ => 1
  | _ => 0

/-- Grid line reads and writes that count as ports (R130). -/
def Instr.ports : Instr → Nat × Nat
  | .vadd _ _ _ _ a b _ | .vsub _ _ _ _ a b _ | .vmul _ _ _ _ a b _ | .vmin _ _ _ _ a b | .vmax _ _ _ _ a b | .vmulh _ _ _ _ a b
  | .vdq8 _ _ _ _ a b _ | .vand _ _ _ _ a b | .vor _ _ _ _ a b | .vxor _ _ _ _ a b | .vcmp _ _ _ _ _ a b | .vperm _ _ _ _ a b =>
    (a.port + b.port, 1)
  | .vfma _ _ _ _ a b c | .vfms _ _ _ _ a b c | .vclamp _ _ _ _ a b c | .vsel _ _ _ _ a b c => (a.port + b.port + c.port, 1)
  | .vabs _ _ _ _ a | .vneg _ _ _ _ a | .vrcp _ _ _ _ a | .vrsq _ _ _ _ a | .vexp2 _ _ _ _ a | .vlog2 _ _ _ _ a | .vsqrt _ _ _ _ a
  | .vnot _ _ _ _ a | .vpopc _ _ _ _ a | .vclz _ _ _ _ a | .vmov _ _ _ _ a | .vredsum _ _ _ _ a | .vredmax _ _ _ _ a
  | .vredmin _ _ _ _ a => (a.port, 1)
  | .vcvt _ _ _ _ _ a _ | .vq8 _ _ _ _ a _ | .vshl _ _ _ _ a _ | .vshr _ _ _ _ a _ | .vsar _ _ _ _ a _ | .vbcast _ _ _ _ a _
  | .vrot _ _ _ _ a _ => (a.port, 1)
  | .viota .. => (0, 1)
  | .vamax _ _ _ _ a => (a.port, 0)
  | .mldw .. | .mstrm .. | .maddacc .. => (1, 0)
  | .mrdacc .. => (0, 1)
  | .stl _ s _ _ _ => (s.port, 0)
  | .stlx _ _ _ s _ _ _ => (s.port, 0)
  | .tlwr _ _ _ s _ _ => (s.port, 0)
  | .xcvt .. | .xtrn .. | .xexp .. | .xpack .. => (1, 1)
  | _ => (0, 0)

/-- The g and a registers that an operation of S or LD names as destinations: whether an a register, and its number (R129). -/
def Instr.regDests : Instr → List (Bool × Nat)
  | .add _ d _ _ | .sub _ d _ _ | .mul _ d _ _ | .and _ d _ _ | .or _ d _ _ | .xor _ d _ _ | .shl _ d _ _ | .shr _ d _ _ | .sar _ d _ _
  | .rot _ d _ _ | .addImm _ d _ _ | .subImm _ d _ _ | .mulImm _ d _ _ | .andImm _ d _ _ | .orImm _ d _ _ | .xorImm _ d _ _
  | .shlImm _ d _ _ | .shrImm _ d _ _ | .sarImm _ d _ _ | .rotImm _ d _ _ | .launch _ d _ _ | .launchm _ d _ _ | .prioTask _ d _ _
  | .qlvl _ d _ _ | .dscan _ d _ _ | .imgr _ d _ _ => [(false, d.toNat)]
  | .mulh _ d _ _ _ | .div _ d _ _ _ | .rem _ d _ _ _ | .min _ d _ _ _ | .max _ d _ _ _ | .minImm _ d _ _ _ | .maxImm _ d _ _ _
  | .sel _ d _ _ _ => [(false, d.toNat)]
  | .clz _ d _ | .popc _ d _ | .mov _ d _ | .movImm _ d _ | .movh _ d _ | .amovh _ d _ | .brc _ d _ | .call _ d _ | .prioSelf _ d _
  | .qstat _ d _ | .sysrd _ d _ | .frz _ d _ | .frzThaw _ d _ | .drain _ d _ | .lkev _ d _ | .reconf _ d _ => [(false, d.toNat)]
  | .steal _ d _ _ | .brcfg _ d _ _ => [(false, d.toNat)]
  | .lpsnxt _ d _ => [(false, d.toNat)]
  | .imgw _ d _ _ _ _ => [(false, d.toNat)]
  | .rtver _ d => [(false, d.toNat)]
  | .aadd _ d _ _ => [(true, d.toNat)]
  | .aaddi _ d _ _ => [(true, d.toNat)]
  | .aidx _ d _ _ _ => [(true, d.toNat)]
  | .ahome _ d _ _ => [(true, d.toNat)]
  | .amov _ x d _ => [(x != 2, d.toNat)]
  | .bacqP _ d _ _ => [(true, d.toNat)]
  | .bacqC _ d t _ => [(true, d.toNat), (false, t.toNat)]
  | .ldw _ d _ _ _ _ | .ldd _ d _ _ _ _ => [(false, d.toNat)]
  | .tlnew _ d _ _ _ => [(false, d.toNat)]
  | .tlrep _ d _ _ => [(false, d.toNat)]
  | .amoAdd _ m | .amoMax _ m | .amoMin _ m | .amoAnd _ m | .amoOr _ m | .amoXch _ m | .amoCas _ m | .amoFadd _ m => [(false, m.d.toNat)]
  | _ => []

namespace Machine

/-! ### The image file (R140) -/

/-- The number at bytes [o, o + k) of a file. -/
abbrev File := Memory

/-- Bundle count of a file. -/
def fileBundles (m : File) : Nat := imgNat m 8 4

/-- Start of the section after one of `n` bytes at `o`. -/
def nextSection (o n : Nat) : Nat := o + lineUp n

/-- Starts of the sections: bundles, entries, regions, tiles, data, strings, and the end. -/
def fileSections (m : File) : List Nat :=
  let sizes := [64 * fileBundles m, 16 * imgNat m 12 4, 64 * imgNat m 16 4, 16 * imgNat m 20 4, imgNat m 24 4, imgNat m 28 4]
  (sizes.foldl (fun (r : List Nat × Nat) n => (r.1 ++ [r.2], nextSection r.2 n)) ([], 256)).1

/-- The end of the last byte that a section of a file holds. -/
def fileEnd (m : File) : Nat :=
  let sizes := [64 * fileBundles m, 16 * imgNat m 12 4, 64 * imgNat m 16 4, 16 * imgNat m 20 4, imgNat m 24 4, imgNat m 28 4]
  (((fileSections m).zip sizes).map (fun p => if p.2 = 0 then 0 else p.1 + p.2)).foldl max 256

/-- A file that is well formed as a whole (R129 IMGSIZE). -/
def fileOk (m : File) (len : Nat) : Bool :=
  imgNat m 0 4 == 0x4D49575A && imgNat m 4 2 == 1 && bits (imgNat m 6 2) 3 13 == 0 && imgZero m 32 224 &&
  decide (1 ≤ fileBundles m ∧ fileBundles m ≤ 2 ^ 24 ∧ imgNat m 16 4 ≤ 16 ∧ fileEnd m ≤ len)

/-- The bundles of a file. -/
def fileCode (m : File) : List (BitVec 512) :=
  (List.range (fileBundles m)).map (fun i => BitVec.ofNat 512 (imgNat m (256 + 64 * i) 64))

/-- Entry table items: index and whether a handler. -/
def fileEntries (m : File) : List (Nat × Bool) :=
  let o := (fileSections m).getD 1 256
  (List.range (imgNat m 12 4)).map (fun i => let w := imgNat m (o + 16 * i) 16; (bits w 0 24, bit w 24))

/-- Region table items. -/
def fileRegions (m : File) : List (BitVec 512) :=
  let o := (fileSections m).getD 2 256
  (List.range (imgNat m 16 4)).map (fun i => BitVec.ofNat 512 (imgNat m (o + 64 * i) 64))

/-- The data section. -/
def fileData (m : File) : List Byte := Memory.getAll m ((fileSections m).getD 4 256) (imgNat m 24 4)

/-! ### Checks of one bundle (R128 items 2 and 3) -/

/-- A failing check: slot number, 15 for a check of the bundle or beyond, and code. -/
abbrev Fail := Nat × SealCode

/-- The slot checks with the privilege check, in slot order. -/
def slotFail (b : BitVec 512) (sys : Bool) (l : List Slot) : Option Fail :=
  match l with
  | [] => none
  | z :: r =>
    match Decode.slot b z with
    | .error c => some (z.num, c)
    | .ok (some i) => if i.privileged && !sys then some (z.num, .privOp) else slotFail b sys r
    | .ok none => slotFail b sys r

/-- What a slot word of S or E1 holds whose other fields are refused: the operation that its opcode names, for the checks that look at
other bundles (R132, R133, R296). -/
def namedOp (b : BitVec 512) (z : Slot) : Option Instr :=
  let w : BitVec 64 := Decode.fld b (if z = .s then 416 else 0) 64
  let p := Pred.always
  match z, (Decode.fld w 56 8 : BitVec 8).toNat with
  | .s, 0x48 => some (.br p (Decode.fld w 19 25))
  | .s, 0x49 => some (.brc p (Decode.fld w 50 6) (Decode.fld w 19 25))
  | .s, 0x4A => some (.call p (Decode.fld w 50 6) (Decode.fld w 19 25))
  | .s, 0x4B => some (.ret p (Decode.fld w 44 6))
  | .s, 0x4C => some (.loop p (Decode.fld w 53 3) (Decode.bit w 52) (Decode.fld w 44 6) (Decode.fld w 38 6) (Decode.fld w 14 24))
  | .s, 0x62 => some (.tend p)
  | .s, 0x70 => some (.trap p 0)
  | .s, 0x71 => some (.eret p)
  | .s, 0x74 => some (.halt p)
  | .s, 0x75 => some (.frz p 0 0)
  | .e1, 0x81 => some (.apxb p (Decode.fld w 52 4) (Decode.fld w 40 12))
  | .e1, 0x82 => some (.apxe p (Decode.fld w 52 4))
  | .e1, 0x83 => some (.ftcfg p (Decode.fld w 52 4) 0)
  | .e1, 0x84 => some (.ftinv p (Decode.fld w 52 4))
  | .e1, 0x87 => some (.ftsamp p (Decode.fld w 52 4) 0 0)
  | _, _ => none

/-- The operations of a bundle, slot by slot: a slot that is refused counts as what its opcode names. -/
def opsOf (b : BitVec 512) : List (Slot × Instr) :=
  Decode.slots.filterMap (fun z => (match Decode.slot b z with | .ok i => i | .error _ => namedOp b z).map (fun i => (z, i)))

/-- The port check (R130). -/
def portsOk (l : List (Slot × Instr)) : Bool :=
  let n := l.foldl (fun (k : Nat × Nat) x => (k.1 + x.2.ports.1, k.2 + x.2.ports.2)) (0, 0)
  decide (n.1 ≤ 6 ∧ n.2 ≤ 3)

/-- The pairing check (R131, R442). -/
def pairingOk (l : List (Slot × Instr)) : Bool :=
  let any (f : Instr → Bool) : Bool := l.any (fun x => f x.2)
  let isTend (i : Instr) : Bool := match i with | .tend _ => true | _ => false
  let isEret (i : Instr) : Bool := match i with | .eret _ => true | _ => false
  let isApx (i : Instr) : Bool := match i with | .apxb .. | .apxe .. => true | _ => false
  let flow := any (fun i => i.isBranch || i.isLoop)
  !(any isTend && l.any (fun x => x.1 != .sy && !isTend x.2)) &&
  !(any Instr.alone && l.any (fun x => x.1 == .ld || x.1 == .st || x.1 == .e0)) &&
  !((flow || any isEret) && any Instr.yields) && !(any isApx && flow) && !(any Instr.isTeamOp && flow)

/-- The duplicate-destination check (R129). -/
def dstOk (l : List (Slot × Instr)) : Bool :=
  let of (z : Slot) : List (Bool × Nat) := (l.filter (fun x => x.1 == z)).flatMap (fun x => x.2.regDests)
  (of .s).all (fun d => !(of .ld).contains d)

/-- The checks of a bundle on its own. -/
def bundleFail (b : BitVec 512) (sys : Bool) : Option Fail :=
  match slotFail b sys Decode.slots with
  | some f => some f
  | none =>
    let l := opsOf b
    if !portsOk l then some (15, .ports)
    else if !pairingOk l then some (15, .pairing)
    else if !dstOk l then some (15, .dstDup)
    else none

/-! ### Cross-bundle checks (R132, R133) -/

/-- A sealed or scanned image as its operations by bundle. -/
abbrev Code := List (BitVec 512 × List (Slot × Instr))

/-- Bundle `i` holds an operation that passes a test. -/
def Code.has (c : Code) (i : Nat) (f : Instr → Bool) : Bool :=
  match (c.drop i).head? with | some b => b.2.any (fun x => f x.2) | none => false

/-- Branch offset of a bundle: static target, when it has one. -/
def branchTarget (l : List (Slot × Instr)) (i : Nat) : Option Int :=
  l.findSome? (fun x => match x.2 with
    | .br _ o => some ((i : Int) + o.toInt)
    | .brc _ _ o => some ((i : Int) + o.toInt)
    | .call _ _ o => some ((i : Int) + o.toInt)
    | _ => none)

/-- The LOOP of a bundle: loop counter and body length. -/
def loopOf (l : List (Slot × Instr)) : Option (Nat × Nat) :=
  l.findSome? (fun x => match x.2 with | .loop _ lc _ _ len _ => some (lc.toNat, len.toNat) | _ => none)

/-- Loops of an image: index, counter, length. -/
def Code.loops (c : Code) : List (Nat × Nat × Nat) :=
  (number 0 c).filterMap (fun p => (loopOf p.2.2).map (fun x => (p.1, x.1, x.2)))

/-- The target and delay checks of bundle `i` (R132). -/
def Code.branchFail (c : Code) (i : Nat) (l : List (Slot × Instr)) : Option Fail :=
  if !l.any (fun x => x.2.isBranch) then none
  else
    let bad := match branchTarget l i with
      | some t => decide (t < 0 ∨ (c.length : Int) ≤ t)
      | none => false
    let delay (j : Nat) : Bool := c.has j Instr.notDelayed || (match (c.drop j).head? with | some b => Decode.hk b.1 != 0 | none => false)
    if bad || decide (c.length ≤ i + 2) then some (15, .target)
    else if delay (i + 1) || delay (i + 2) then some (15, .brDelay)
    else none

/-- The loop-body checks of a LOOP at bundle `i` (R133). -/
def Code.loopFail (c : Code) (ls : List (Nat × Nat × Nat)) (i lc len : Nat) : Bool :=
  let body := (List.range len).map (fun k => i + 1 + k)
  let isEret (x : Instr) : Bool := match x with | .eret _ => true | _ => false
  let outer := ls.filter (fun x => decide (x.1 < i ∧ i ≤ x.1 + x.2.2))
  len == 0 || decide (32 < len) || decide (c.length ≤ i + len) ||
  body.any (fun j => c.has j (fun x => x.isBranch || isEret x)) || c.has (i + len) Instr.isLoop ||
  ls.any (fun x => decide (i < x.1 ∧ x.1 ≤ i + len ∧ i + len < x.1 + x.2.2)) ||
  outer.any (fun x => x.2.1 == lc) || decide (6 ≤ outer.length)

/-- The first failing check of bundle `i` (R128). -/
def Code.fail (c : Code) (ls : List (Nat × Nat × Nat)) (sys : Bool) (i : Nat) (b : BitVec 512) (l : List (Slot × Instr)) : Option Fail :=
  (bundleFail b sys).orElse (fun _ => (c.branchFail i l).orElse (fun _ =>
    match loopOf l with
    | some (lc, len) => if c.loopFail ls i lc len then some (15, .loopLen) else none
    | none => none))

/-! ### Regions (R293, R296) -/

/-- A region's APXB: region, index, length. -/
def Code.regions (c : Code) : List (Nat × Nat × Nat) :=
  (number 0 c).flatMap (fun p => p.2.2.filterMap (fun x => match x.2 with | .apxb _ rg len => some (rg.toNat, p.1, len.toNat) | _ => none))

/-- APXE operations: region and index. -/
def Code.ends (c : Code) : List (Nat × Nat) :=
  (number 0 c).flatMap (fun p => p.2.2.filterMap (fun x => match x.2 with | .apxe _ rg => some (rg.toNat, p.1) | _ => none))

/-- An FP32 pattern that is infinite or NaN. -/
def f32Special (w : Nat) : Bool := bits w 23 8 == 255

/-- An FP32 pattern that is negative, infinite or NaN. -/
def f32Negative (w : Nat) : Bool := f32Special w || (bit w 31 && w % 2 ^ 31 != 0)

/-- The values of an item that R296 refuses with RANGE. -/
def itemRange (x : BitVec 512) : Bool :=
  let n := x.toNat
  let f (lo k : Nat) : Nat := bits n lo k
  decide ((f 96 2 + 1) * (Item.ti x).elems < Item.nin x) || decide ((f 98 2 + 1) * (Item.dst x).elems < Item.nout x) ||
  f 122 2 == 0 || decide (f 144 6 < 7) || f32Negative (f 160 32) || f32Negative (f 192 32) || f32Negative (f 224 32) ||
  f32Special (f 256 32) || f32Special (f 352 32) || f 288 32 == 0 || f 320 32 == 0

/-- Operations that act on region `rg` and may not stand inside it. -/
def actsOn (rg : Nat) (i : Instr) : Bool :=
  match i with
  | .ftcfg _ r _ | .ftcfgNew _ r _ | .ftinv _ r | .ftsamp _ r _ _ => r.toNat == rg
  | _ => false

/-- Every failure of the region checks, in the order of R296: bundle index and code. -/
def Code.regionFails (c : Code) (items : List (BitVec 512)) : List (Nat × SealCode) :=
  let rs := c.regions
  let es := c.ends
  let ls := c.loops
  let at_ (code : SealCode) (l : List Nat) : List (Nat × SealCode) := l.map (fun i => (i, code))
  let bad (f : BitVec 512 → Bool) : List Nat := (items.filter f).map Item.bix
  let lines (x : BitVec 512) : List Nat :=
    (List.range (Item.nli x)).map (fun j => bits x.toNat (32 + 8 * j) 8) ++ (List.range (Item.nlo x)).map (fun j => bits x.toNat (64 + 8 * j) 8)
  let inside (r : Nat × Nat × Nat) (j : Nat) : Bool := decide (r.2.1 < j ∧ j < r.2.1 + r.2.2)
  let apx (j : Nat) : Bool := c.has j (fun i => match i with | .apxb .. | .apxe .. => true | _ => false)
  at_ .type (bad (fun x => decide (2 < bits x.toNat 100 4) || decide (2 < bits x.toNat 104 4))) ++
  at_ .opDir (bad (fun x => (lines x).any (fun o => decide (192 ≤ o)))) ++
  at_ .range (
    bad itemRange ++
    bad (fun x => !rs.any (fun r => r.1 == Item.rg x && r.2.1 == Item.bix x)) ++
    ((number 0 items).filter (fun p => (items.take p.1).any (fun y => Item.rg y == Item.rg p.2))).map (fun p => Item.bix p.2) ++
    (rs.filter (fun r => !items.any (fun x => Item.rg x == r.1 && Item.bix x == r.2.1))).map (fun r => r.2.1) ++
    (es.filter (fun e => !rs.any (fun r => r.1 == e.1 && r.2.1 + r.2.2 == e.2))).map Prod.snd ++
    (rs.filter (fun r => !es.contains (r.1, r.2.1 + r.2.2))).map (fun r => r.2.1) ++
    (rs.filter (fun r => rs.any (fun q => decide (q.2.1 < r.2.1 ∧ r.2.1 ≤ q.2.1 + q.2.2)))).map (fun r => r.2.1) ++
    rs.flatMap (fun r => (List.range (r.2.2 - 1)).filterMap (fun k =>
      let j := r.2.1 + 1 + k
      if c.has j (fun i => i.notInRegion || actsOn r.1 i) then some j else none)) ++
    (ls.filter (fun l => rs.any (fun r =>
      let has (j : Nat) : Bool := decide (l.1 < j ∧ j ≤ l.1 + l.2.2)
      (has r.2.1 != has (r.2.1 + r.2.2)) || (inside r (l.1 + 1) && decide (r.2.1 + r.2.2 < l.1 + l.2.2))))).map (fun l => l.1)) ++
  at_ .brDelay (((number 0 c).filter (fun p => p.2.2.any (fun x => x.2.isBranch) && (apx (p.1 + 1) || apx (p.1 + 2)))).map Prod.fst)

/-! ### The scan (R128, R135, R136) -/

/-- The marks of an image: index and whether a handler (R110, R136). -/
def Code.marks (c : Code) : List (Nat × Bool) :=
  (number 0 c).filterMap (fun p => match (Decode.hk p.2.1).toNat with | 1 => some (p.1, false) | 2 => some (p.1, true) | _ => none)

/-- The entry check (R136). -/
def entriesOk (marks table : List (Nat × Bool)) : Bool :=
  marks.any (fun x => !x.2) && marks.length == table.length && marks.all (fun x => table.contains x) && table.all (fun x => marks.contains x)

/-- A refusal record (R135). -/
def failRecord (off slot : Nat) (c : SealCode) : Nat := off + slot <<< 24 + c.code <<< 32

/-- An image-level refusal record. -/
def imageFail (c : SealCode) : Nat := failRecord 0xFFFFFF 15 c

/-- Every refusal record of a scan: the image-level failures, then the failing bundles in order (R135); `ended`: the next generation
does not exist (R137). R140 and R294 give the entry, region and tile items reserved bits that are 0, and R129 no code for an item that
has others: the model accepts it (log entry 73). -/
def scan (m : File) (len : Nat) (sys ended : Bool) : List Nat :=
  if !fileOk m len then [imageFail .imgSize]
  else
    let code : Code := (fileCode m).map (fun b => (b, opsOf b))
    let ls := code.loops
    let own := (number 0 code).filterMap (fun p => (code.fail ls sys p.1 p.2.1 p.2.2).map (fun f => (p.1, f)))
    let region := match code.regionFails (fileRegions m) with
      | (i, c) :: _ => if own.any (fun f => f.1 == i) then [] else [(i, ((15, c) : Fail))]
      | [] => []
    let image := (if entriesOk code.marks (fileEntries m) then [] else [imageFail .noEntry]) ++ (if ended then [imageFail .genOvf] else [])
    image ++ (sortBy Prod.fst (own ++ region)).map (fun f => failRecord f.1 f.2.1 f.2.2)

/-- The refusal report (R135): the count, then at most 16 records. -/
def refusalReport (l : List Nat) : List Byte := toBytes 8 l.length ++ (l.take 16).flatMap (toBytes 8)

/-- The sealed image of a file (R53, R136). -/
def sealedImage (m : File) (len : Nat) (h : W64) (sys : Bool) (dataAt : W64) : Image :=
  let marks := Code.marks ((fileCode m).map (fun b => (b, [])))
  { handle := h, bundles := fileCode m, entries := (marks.filter (fun x => !x.2)).map Prod.fst
    handlers := (marks.filter (fun x => x.2)).map Prod.fst, regions := fileRegions m, sys := sys
    digest := Config.sha384 (Memory.getAll m 0 len), data := fileData m, dataAt := dataAt, ready := true,
    file := Memory.getAll m 0 len }

end Machine

end Sys2Proof
end

