-- ==== Sys2Proof/Machine/Packets.lean ====
section
/-! DEFINITION. Packets (R459 to R473, R481, R482): routing hop by hop, end-to-end acceptance and acknowledgement, delivery in
sequence order, what a delivered packet does, and what becomes of packets whose destination cannot be reached. The bodies
and tags of packets between packages are the model's (log entry 5). -/

namespace Sys2Proof.Machine

/-! ### Routing (R461, R463 to R465, R470) -/

/-- The active table's entry of a destination (R464). -/
def State.routeTo (s : State) (p : Nat) : Nat := (Sparse.get 0 s.fab.active.tab p).toNat

/-- Candidate links of an entry. -/
def candidates (e : Nat) : List Nat := (List.range (bits e 11 3 + 1)).map (fun j => bits e (16 + 9 * j) 9)

/-- Sizes of the torus. -/
def State.torus (s : State) : Nat × Nat × Nat :=
  s.fab.members.foldl (fun (d : Nat × Nat × Nat) m =>
    (max d.1 (m.2.1 + 1), max d.2.1 (m.2.2.1 + 1), max d.2.2 (m.2.2.2 + 1))) (1, 1, 1)

/-- Dateline bits after the escape hop of a packet, and whether it uses the upper half of VC3 (R461). -/
def State.dateline (s : State) (p : Packet) : BitVec 3 × Bool :=
  match firstDim (s.coords s.pkg) (s.coords p.dpkg.toNat) s.torus with
  | none => (p.dl, false)
  | some (i, a, b, d) =>
    let fwd := (b + d - a) % d
    let up := decide (2 * fwd ≤ d)
    let crosses := (up && decide (a + 1 = d)) || (!up && decide (a = 0))
    let dl := if crosses then p.dl ||| (1#3 <<< i) else p.dl
    (dl, dl.getLsbD i)

/-- The transmit direction of a link may be chosen (R461). -/
def State.considered (s : State) (n : Nat) : Bool := decide ((s.link n false).st < 3)

/-- Permits that a packet finds at a link and VC: none while the other end does not hold the installed version (R475). -/
def State.room (s : State) (n key : Nat) : Nat :=
  if (s.link n false).peer = some s.fab.active.ver then s.permits n key else 0

/-- The candidate link and adaptive VC with the most permits, ties to the lower link, then the lower VC (R461). -/
def State.bestWay (s : State) (cls : Nat) (links : List Nat) : Option (Nat × Nat) :=
  leastBy (fun x => ((256 - s.room x.1 (vcKey cls x.2 false)) * 512 + x.1) * 4 + x.2)
    ((links.filter s.considered).flatMap (fun n => [(n, 0), (n, 1), (n, 2)]))

/-- Remove packet number `i` from the package, its receiver slots freed. -/
def State.takeOut (s : State) (i : Nat) : State :=
  match s.fab.transit[i]? with
  | some t => { (s.freeSlots t.link t.pkt) with fab := { (s.freeSlots t.link t.pkt).fab with transit := s.fab.transit.eraseIdx i } }
  | none => s

/-- A hop of a packet with one destination: sent on, discarded, or none while it waits for permits (R461). -/
def State.hop (s : State) (i : Nat) (p : Packet) : Option State :=
  let e := s.routeTo p.dpkg.toNat
  if !bit e 9 then some (s.takeOut i)
  else
    let cls := p.cls.toNat
    let esc := bits e 0 9
    let way := if p.vc = 3 then none else s.bestWay cls (candidates e)
    let fits := match way with | some (n, v) => decide (p.flits ≤ s.room n (vcKey cls v false)) | none => false
    match way, fits with
    | some (n, v), true => some ((s.takeOut i).sendOn n (vcKey cls v false) { p with vc := BitVec.ofNat 2 v })
    | _, _ =>
      let (dl, up) := s.dateline p
      let key := vcKey cls 3 up
      if s.considered esc then
        if p.flits ≤ s.room esc key then some ((s.takeOut i).sendOn esc key { p with vc := 3, dl := dl }) else none
      else if way.isNone then some (s.takeOut i)
      else none

/-- A hop of a multicast packet: a copy on every link of its entry's mask that may be chosen, and a local copy (R463, R470). -/
def State.spread (s : State) (i : Nat) (t : Transit) : Option State :=
  let p := t.pkt
  let e : BitVec 576 := Sparse.get 0 s.fab.active.mc p.dpkg.toNat
  let links := (List.range 512).filter (fun n => e.getLsbD n && s.considered n)
  let ways := links.filterMap (fun n => s.bestWay p.cls.toNat [n])
  if ways.all (fun w => decide (p.flits ≤ s.room w.1 (vcKey p.cls.toNat w.2 false))) then
    let s := ways.foldl (fun s w => s.sendOn w.1 (vcKey p.cls.toNat w.2 false) { p with vc := BitVec.ofNat 2 w.2 }) (s.takeOut i)
    some (if e.getLsbD 512 then { s with fab := { s.fab with transit := s.fab.transit ++ [⟨p, none, true⟩] } } else s)
  else none

/-- A packet that this package is the destination of. -/
def State.arrived (s : State) (t : Transit) : Bool := t.here || (!t.pkt.mc && bit (s.routeTo t.pkt.dpkg.toNat) 10)

/-- PACKET_HOP: packet number `evt.n` of the package takes its next hop, or is discarded because its version is not the active
one or no way is left (R461, R465). -/
def execPacketHop (s : State) : Host.Outcome State Fault Refusal :=
  match s.fab.transit[s.evt.n]? with
  | none => .refused .notEnabled
  | some t =>
    if t.pkt.ver ≠ s.fab.active.ver then .next (s.takeOut s.evt.n)
    else if s.arrived t then .refused .notEnabled
    else
      match (if t.pkt.mc then s.spread s.evt.n t else s.hop s.evt.n t.pkt) with
      | some s => .next s
      | none => .refused .notEnabled

/-! ### End-to-end acceptance (R466, R468, R469) -/

/-- The key of the stream a packet belongs to: its source die, multicasts apart. -/
def streamKey (p : Packet) : Nat := dieKey p.spkg.toNat p.sdie.toNat + (if p.mc then 2 ^ 16 else 0)

/-- Raise the lowest unaccepted number over numbers accepted above it. -/
def raiseLow (low : Nat) (above : List Nat) (k : Nat) : Nat × List Nat :=
  match k with
  | 0 => (low, above)
  | k + 1 => if above.contains low then raiseLow (low + 1) (above.erase low) k else (low, above)

/-- Accept a number of a stream once (R468): whether it is new. -/
def E2E.accept (e : E2E) (key seq : Nat) : Bool × E2E :=
  let low := Sparse.get 0 e.low key
  let above := Sparse.get [] e.above key
  if seq < low ∨ above.contains seq then (false, e)
  else
    let (low, above) := raiseLow low (above ++ [seq]) 258
    (true, { e with low := Sparse.set e.low key low, above := Sparse.set e.above key above })

/-- The acknowledgement of everything below the lowest number not accepted (R466); it is not kept for replay. -/
def State.ackPacket (s : State) (d : Nat) (p : Packet) : State :=
  let a : Packet := { packetZero with
    dpkg := p.spkg, ddie := p.sdie, spkg := BitVec.ofNat 13 s.pkg, sdie := BitVec.ofNat 2 d, cls := 2, ver := s.fab.active.ver,
    op := 9, addr := BitVec.ofNat 64 (Sparse.get 0 (s.die d).e2e.low (streamKey p)), aux := BitVec.ofNat 64 (b2n p.mc) }
  { s with fab := { s.fab with transit := s.fab.transit ++ [⟨a, none, false⟩] } }

/-- The held ord packets of a stream that may be delivered: all lower numbers are accepted and delivered (R469). -/
def E2E.due (e : E2E) (key : Nat) : List Packet :=
  sortBy (fun p => p.seq.toNat) (e.held.filter (fun p => streamKey p == key && decide (p.seq.toNat < Sparse.get 0 e.low key)))

/-- A packet that its destination discards: a reserved class or op, or too long a body (R462). -/
def reservedPacket (p : Packet) : Bool := p.cls == 3 || p.op == 0 || decide (13 < p.op.toNat) || decide (10 < p.nbody)

/-- Take packet number `i` at its destination die: the packets now to be delivered, in order. -/
def State.takePacket (s : State) (i : Nat) (p : Packet) : List Packet × State :=
  let d := p.ddie.toNat
  let s := s.takeOut i
  if reservedPacket p || !s.online d then ([], s)
  else if p.op = 9 then ([p], s)
  else
    let key := streamKey p
    let (fresh, e) := (s.die d).e2e.accept key p.seq.toNat
    let e := if fresh && p.ord then { e with held := e.held ++ [p] } else e
    let due := e.due key
    let e := { e with held := e.held.filter (fun q => !due.contains q) }
    let s := (s.updDie d (fun x => { x with e2e := e })).ackPacket d p
    (due ++ (if fresh && !p.ord then [p] else []), s)

/-! ### Serving requests of other packages -/

/-- The places of a stretch of bytes at its home die, by the home's page table (R186, R353). -/
def State.places (s : State) (home off len : Nat) (rd wr : Bool) : Except FaultRec (List (Nat × Nat × Nat)) × State :=
  (pieces off 0 len 512).foldl (fun (r : Except FaultRec (List (Nat × Nat × Nat)) × State) (p : Piece) =>
    match r with
    | (.error f, s) => (.error f, s)
    | (.ok l, s) =>
      let f (c : Nat) : FaultRec := { cause := c, taddr := BitVec.ofNat 64 (home <<< 48 + p.off) }
      match s.walk home p.off wr with
      | (.error c, s) => (.error (f c), s)
      | (.ok e, s) =>
        match e.use p.off rd wr with
        | .hit pa _ => if inHole pa then (.error (f cXNV), s) else (.ok (l ++ [(pa, p.pos, p.len)]), s)
        | _ => (.error (f cXPERM), s)) (.ok [], s)

/-- The answer to a request packet: data or an acknowledgement under its tag, a fault marked in the tag (R460, R462). -/
def State.answer (s : State) (d : Nat) (p : Packet) (op : Nat) (r : Except FaultRec (List Byte)) : State :=
  match r with
  | .ok b => s.inject d p.spkg.toNat p.sdie.toNat 2 op false p.addr p.aux b
  | .error f => s.inject d p.spkg.toNat p.sdie.toNat 2 op false p.addr (p.aux ||| 0x0800000000000000)
      (toBytes 1 f.cause ++ toBytes 8 f.taddr.toNat)

/-- Home and offset of a packet's compact address. -/
def packetPlace (p : Packet) : Nat × Nat := (bits p.addr.toNat 48 16, p.addr.toNat % 2 ^ 48)

/-- The places a request packet reads or writes. -/
def State.packetPlaces (s : State) (p : Packet) : Except FaultRec (List (Nat × Nat × Nat)) × State :=
  let (h, o) := packetPlace p
  match p.op.toNat with
  | 1 => s.places h o (tagSize p.aux) true false
  | 2 => s.places h o (min (tagSize p.aux) p.body.length) false true
  | 3 => s.places h o (tagSize p.aux) true true
  | 4 => s.places h o 256 false true
  | _ => (.ok [], s)

/-- Where a request packet arrives at a memory port or a directory entry, and its rank among arrivals of one cycle (R44, R348). -/
def State.packetSpot (s : State) (p : Packet) : Option (Spot × Nat) :=
  let tile := bit p.aux.toNat 63 || isCopyTag p.aux
  if p.op = 5 then
    (if tile then some (.directory p.addr, match ofBytes (p.body.take 1) % 8 with | 3 => 0 | 2 | 6 => 1 | _ => 2) else none)
  else if (p.op = 2 ∧ bits p.aux.toNat 60 1 = 0) ∨ p.op = 3 ∨ p.op = 4 then
    match (s.packetPlaces p).1 with
    | .ok (x :: _) => some (portOf x.1, sourceRank p.spkg.toNat (bits p.aux.toNat 32 12))
    | _ => none
  else none

/-- A request packet finds its accumulator planes free, its wake queue with room, a place in the walk queue, a record's room at its
home, and none in this cycle that ranks above it (R44, R181, R192, R348, R390, R506). -/
def State.packetReady (s : State) (p : Packet) : Bool :=
  let d := p.ddie.toNat
  let turn := match s.packetSpot p with | some (x, k) => s.mayCome x k | none => true
  if !turn then false
  else if p.op = 2 ∧ bits p.aux.toNat 60 1 = 1 then true
  else if p.op = 5 then
    bit p.aux.toNat 63 || p.aux.toNat % 512 != 7 || decide ((s.die d).lin.used + (linRecOf p.body []).size ≤ 4194304)
  else if p.op = 6 then !(s.die d).walkFull (packetPlace p).1 ((packetPlace p).2 - (packetPlace p).2 % 0x10000)
  else
    match (s.packetPlaces p).1 with
    | .error _ => true
    | .ok l => l.all (fun x => s.windowOpen x.1) &&
        (p.op != 4 || (match l.head?.bind (fun x => plainOf x.1) with
          | some x => !(s.ctx x).sys.armed || decide ((s.ctx x).sync.wakes.length + s.wakesComing x < 16)
          | none => true))

/-- Write a packet's bytes to places. -/
def State.putPlaces (s : State) (l : List (Nat × Nat × Nat)) (b : List Byte) : State :=
  let s := l.foldl (fun s x => s.store x.1 ((b.drop x.2.1).take x.2.2)) s
  match l with
  | x :: _ => if l.length * 4 = b.length then s.mendLines x.1 b.length else s
  | [] => s

/-- A read of another package (op 0x01). -/
def State.serveRead (s : State) (d : Nat) (p : Packet) : State :=
  match s.packetPlaces p with
  | (.error f, s) => s.answer d p 7 (.error f)
  | (.ok l, s) =>
    if l.any (fun x => s.badAt x.1 x.2.2) then s.answer d p 7 (.error { cause := cMEMERR, taddr := p.addr })
    else s.answer d p 7 (.ok (l.flatMap (fun x => s.readMem x.1 x.2.2)))

/-- A write of another package (op 0x02), one of a masked copy for the core that follows its data; or a part of a tile's content for its
buddy home (R332, R338; log entry 5). -/
def State.serveWrite (s : State) (d : Nat) (p : Packet) : State :=
  let b := p.body.take (tagSize p.aux)
  let core := if tagSize p.aux < p.body.length then some (ofBytes ((p.body.drop (tagSize p.aux)).take 2)) else none
  if bits p.aux.toNat 60 1 = 1 then
    let o := p.aux.toNat % 2 ^ 32
    s.updDie d (fun x =>
      let old := Sparse.get [] x.replicas p.addr.toNat
      let old := old ++ List.replicate (o - old.length) 0
      { x with replicas := Sparse.set x.replicas p.addr.toNat (old.take o ++ b ++ old.drop (o + b.length)) })
  else
    match s.packetPlaces p with
    | (.error f, s) => s.answer d p 8 (.error f)
    | (.ok l, s) =>
      let l := l.map (fun x => (withCore x.1 core, x.2))
      if l.any (fun x => match placeOf x.1 with | .land .. => true | _ => false) then
        s.answer d p 8 (.error { cause := cWINPROT, taddr := p.addr })
      else if l.any (fun x => s.inStore x.1) then s.answer d p 8 (.error { cause := cIMGPROT, taddr := p.addr })
      else (s.putPlaces l b).answer d p 8 (.ok [])

/-- An atomic of another package (op 0x03) (R347, R348). -/
def State.serveAtomic (s : State) (d : Nat) (p : Packet) : State :=
  let w := ofBytes p.body
  match s.packetPlaces p with
  | (.error f, s) => s.answer d p 7 (.error f)
  | (.ok l, s) =>
    match l with
    | x :: _ =>
      let n := tagSize p.aux
      if l.any (fun x => inWindow x.1) then s.answer d p 7 (.error { cause := cWINPROT, taddr := p.addr })
      else if l.any (fun x => s.inStore x.1) then s.answer d p 7 (.error { cause := cIMGPROT, taddr := p.addr })
      else if s.badAt x.1 n then s.answer d p 7 (.error { cause := cMEMERR, taddr := p.addr })
      else
        let (old, s) := s.applyAtomic x.1 n (BitVec.ofNat 8 w) (bit w 8) (BitVec.ofNat 64 (bits w 16 64)) (BitVec.ofNat 64 (bits w 80 64))
        s.answer d p 7 (.ok (toBytes n old))
    | [] => s

/-- A PUTH of another package (op 0x04): the payload, then the wake (R350, R390). -/
def State.servePut (s : State) (d : Nat) (p : Packet) : State :=
  match s.packetPlaces p with
  | (.error f, s) => s.answer d p 8 (.error f)
  | (.ok l, s) =>
    match l.head?.bind (fun x => plainOf x.1) with
    | none => s.answer d p 8 (.error { cause := if l.any (fun x => s.inStore x.1) then cIMGPROT else cPUTHDST, taddr := p.addr })
    | some x =>
      let s := s.putPlaces l (p.body.take 256)
      let from_ : W64 := BitVec.ofNat 64 (ofBytes ((p.body.drop 256).take 8))
      let s := if (s.ctx x).sys.armed then
          s.updCtx x (fun c => { c with sync := { c.sync with wakes := c.sync.wakes ++ [(p.addr, from_)] } })
        else s.controlEvent (dieOf (coreOf x)) (coreOf x) (x % 4) 3 0
      s.answer d p 8 (.ok [])

/-- The task of another package that a tile request names, as far as the home needs it: whether the version is an output of it. -/
def farTask (s : State) (tid fl : Nat) (out : Bool) (r : W64) : Option Task :=
  if tid = 2 ^ 48 - 1 then none
  else some
    { tid := tid, level := 0, base := 0, born := s.clock, slept := 0, rebuilt := bit fl 0, redispatched := false, restored := bit fl 1
      target := 0, pin := none, dataSec := 0, apxIn := false, pkg := 0
      desc := { image := 0, entry := 0, prio := 0, lvl := 0, exact := 0, ins := [], outs := if out then [r] else [], args := [], team := 0
                rank := 0, tsize := 1, job := 0 } }

/-- The pointer of a tile request: its reference and row. -/
def tilePointer (r : W64) (row : Nat) : W80 := BitVec.ofNat 80 (r.toNat + row <<< 68)

/-- A tile or directory operation of another package (op 0x05 with a request's tag), or a copy command's write to a tile (R45, R326 to
R332, R337). -/
def State.serveTile (s : State) (d : Nat) (p : Packet) : State :=
  let r := p.addr
  let b := p.body
  let w := ofBytes b
  let out := !bit w 3
  let fault (c : Nat) : FaultRec := { cause := c, taddr := r }
  let reply (x : Option Nat × State) : State :=
    match x with | (none, s) => s.answer d p 8 (.ok []) | (some c, s) => s.answer d p 8 (.error (fault c))
  match w % 8 with
  | 0 =>
    (match s.tlnew (4 * s.pkg + d) r (BitVec.ofNat 64 (bits w 8 64)) (bits w 72 32) with
     | (.ok x, s) => s.answer d p 7 (.ok (toBytes 8 x.toNat))
     | (.error c, s) => s.answer d p 7 (.error { cause := c, taddr := tlnewAddr c (4 * s.pkg + d) (BitVec.ofNat 64 (bits w 8 64)) }))
  | 1 =>
    (match s.tlrd (tilePointer r (bits w 24 12)) (BitVec.ofNat 10 (bits w 8 16)) with
     | (.ok x, s) => s.answer d p 7 (.ok x)
     | (.error c, s) => s.answer d p 7 (.error (fault c)))
  | 2 =>
    let tt := (Ty.ofCode (bits w 4 4)).getD .f32
    reply (s.tlwr p.spkg.toNat (farTask s (bits w 48 48) (bits w 22 2) out r) (tilePointer r (bits w 24 12)) (lineOfBytes ((b.drop 16).take 256))
      (BitVec.ofNat 14 (bits w 8 14)) (tt == .f32) tt (BitVec.ofNat 32 (bits w 96 32)) (BitVec.ofNat 64 (ofBytes ((b.drop 272).take 8)))
      (BitVec.ofNat 64 (bits w 36 12)))
  | 3 => reply (s.tlfin p.spkg.toNat (farTask s (bits w 16 48) (bits w 9 2) out r) r (bit w 8))
  | 4 => s.answer d p 7 (if s.strange r then .error (fault cTLSTATE)
      else .ok (match s.tile? r with | some t => s.entryBytes r t | none => toBytes 8 r.toNat))
  | 5 => if s.strange r then s.answer d p 7 (.error (fault cTLSTATE)) else let (k, s) := s.tlrep r; s.answer d p 7 (.ok (toBytes 8 k))
  | 6 => reply (s.tileStore p.spkg.toNat (farTask s (bits w 16 48) (bits w 8 8) out r) r (bits w 64 32) (b.drop 12))
  | _ => s

/-- A record set arrives at its home: head, then tail (R495, R499, R503). The attribute is the output's own. -/
def State.serveRecord (s : State) (d : Nat) (r : W64) (tail : Bool) (b : List Byte) : State :=
  if tail then
    (match s.record? r with
     | some y =>
       let x := { linRecOf y.head b with apx := y.apx }
       (s.updDie d (fun z => { z with lin := { z.lin with home := z.lin.home.map (fun h => if h.2 = y then (h.1, x) else h) } })).mirrorRecord d x
     | none => s)
  else
    match s.tile? r with
    | none => s
    | some t =>
      let x := { linRecOf b [] with apx := t.apx }
      let before := 4194304 - (s.die d).lin.used
      let s := s.setTile r { t with level := x.level, depth := x.depth, nolin := false }
      let s := (s.writeRecord x).fewRecords d before
      if t.state = 4 then s.askRecovery r t.wprio else s

/-- Retirement on another package asks for the replica of an input, and for its recovery first where it must be (R502). -/
def State.serveReplicate (s : State) (d : Nat) (r : W64) : State :=
  match s.tile? r with
  | some t =>
    if t.state = 3 then (if t.repl then s else s.replicate r)
    else if t.state = 5 || (s.die d).lin.requests.any (fun q => q.1 == r) then s
    else s.askRecovery r t.wprio
  | none => s

/-- What a message between homes, buddy homes and shards says of a version's mirror at its buddy home: entry, marks, record set, what is
discarded (R499, R504, R510; log entry 5). -/
def State.serveMirror (s : State) (d : Nat) (p : Packet) : State :=
  let r := p.addr
  let v := p.aux.toNat
  match v % 256 with
  | 0 => s.updDie d (fun x => { x with mirror := Sparse.set x.mirror r.toNat (tileOfBody p.body) })
  | 1 => s.updDie d (fun x => { x with lin := x.lin.putMirror r.toNat (
      if bit v 8 then
        (match Sparse.find? x.lin.mirror r.toNat with
         | some y => linRecOf y.head p.body
         | none => linRecOf [] p.body)
      else linRecOf p.body []) })
  | 18 => s.updDie d (fun x => { x with mirror := match Sparse.find? x.mirror r.toNat with
      | some t => Sparse.set x.mirror r.toNat { t with marked := t.marked ++ pairsOf p.body }
      | none => x.mirror })
  | 19 => s.updDie d (fun x => { x with lin := x.lin.dropMirror r.toNat })
  | _ => s.updDie d (fun x => { x with mirror := Sparse.erase x.mirror r.toNat, replicas := Sparse.erase x.replicas r.toNat })

/-- A part of an image that this die holds for the home that sealed it (R505): after the last one it is an image of the die. -/
def State.serveImage (s : State) (d : Nat) (p : Packet) : State :=
  let k := p.addr.toNat
  let b := (if bits p.aux.toNat 8 32 = 0 then [] else Sparse.get [] (s.die d).parts k) ++ p.body
  if !bit p.aux.toNat 56 then s.updDie d (fun x => { x with parts := Sparse.set x.parts k b })
  else
    let n := ofBytes ((b.drop 9).take 4)
    let file := (b.drop 13).take n
    let i := sealedImage (Memory.putAll [] 0 file) n p.addr (ofBytes ((b.drop 8).take 1) == 1) (BitVec.ofNat 64 (ofBytes (b.take 8)))
    s.updDie d (fun x => { x with
      parts := Sparse.erase x.parts k, images := x.images.filter (fun y => y.handle != p.addr) ++ [i] })

/-- Recovery at this shard needs a version of this home (R513, R520): it is marked for the rebuild, and recovered when it is LOST or
FREED. -/
def State.serveWalkFor (s : State) (d : Nat) (r : W64) (p pkg : Nat) (who : Nat × Nat) : State :=
  let s := (s.markRebuild r who).watch d r pkg
  match s.tile? r with
  | some t => if (t.state = 4 ∨ t.state = 6) ∧ t.recoverable then s.askRecovery r p else s
  | none => s

/-- Another package's home tells of a version that this package watches (R149, R394, R522; log entry 83). -/
def State.hearNotice (s : State) (d : Nat) (r : W64) (k : Nat) : State :=
  let s := { s with fab := { s.fab with known := Sparse.set s.fab.known r.toNat k } }
  if k % 8 = 4 ∧ bit k 4 then s.hopelessNow r
  else if 0 < s.namedPrio r ∧ s.isRemote r then s.raiseFar d r (s.namedPrio r)
  else s

/-- A message between homes, buddy homes and shards (op 0x05): mirror, dependant counts, recovery request, waiter, producer,
retirement, use release, replication, losses, priorities, step counts, parked readers, a copy's opening of a tile, an image's output and its content (R45, R144, R149,
R170, R172, R394, R441, R499, R502, R503, R505, R510, R512; log entry 5). -/
def State.serveHome (s : State) (d : Nat) (p : Packet) : State :=
  let r := p.addr
  let v := p.aux.toNat
  let tid := bits v 8 48
  let who := (p.spkg.toNat, tid)
  match v % 256 with
  | 0 | 1 | 18 | 19 | 20 => s.serveMirror d p
  | 2 => s.updTile r (fun t => { t with deps := t.deps + 1 })
  | 3 =>
    (match s.tile? r with
     | some t =>
       let s := s.setTile r { t with deps := t.deps - 1 }
       if t.state = 6 ∧ t.deps ≤ 1 then (s.trim r trimFuel).dropTile r else s
     | none => s)
  | 4 => if (s.tile? r).isSome then s.askRecovery r (bits v 8 3) else s
  | 5 => (s.waitOn r (bits v 56 3) p.spkg.toNat tid).watch d r p.spkg.toNat
  | 6 => s.updTile r (fun t => { t with prod := some who })
  | 7 => s.serveRecord d r (bit v 8) p.body
  | 8 =>
    let q := (ofBytes (p.body.take 2), tid)
    if bit v 56 && !(s.tile? r).any (fun t => t.marked.contains q) then s
    else s.updDie d (fun y => { y with lin := { y.lin with releases := y.lin.releases ++ [(r, q.1, tid)] } })
  | 9 => (s.serveReplicate d r).watch d r p.spkg.toNat
  | 10 => s.producerLost who r
  | 11 => s.released who r
  | 12 => s.redispatchTid r (some (s.pkg, tid))
  | 13 => s.updTile r (fun t => { t with level := bits v 56 2 })
  | 14 => s.setWprio r (max (bits v 56 3) (s.waitPrio r))
  | 15 => s.countStep r.toNat p.spkg.toNat tid
  | 16 => (s.updTile r (fun t => { t with parked := t.parked.erase who ++ [who] })).watch d r p.spkg.toNat
  | 17 => s.updTile r (fun t => { t with parked := t.parked.erase who })
  | 22 =>
    (match s.tile? r with
     | some t => if t.state = 1 ∨ t.state = 2 then (s.zeroFill t).setTile r { t with state := 2, prod := some who } else s
     | none => s)
  | 23 =>
    (match s.tile? r with
     | some t => if t.state = 2 then s.writeMem (t.loc + tid) p.body else s
     | none => s)
  | 24 => s.hearNotice d r (bits v 8 16)
  | 25 => s.serveWalkFor d r (bits v 56 3) p.spkg.toNat (ofBytes (p.body.take 2), tid)
  | 26 => s.watch d r p.spkg.toNat
  | 27 => s.serveImage d p
  | 21 => s.updTile r (fun t => if t.state = 1 ∧ t.prod = some who then { t with state := 2 } else t)
  | _ => s

/-- A page walk for another package (op 0x06) enters the walk queue (R192). -/
def State.serveWalkOf (s : State) (d : Nat) (p : Packet) : State :=
  let (h, o) := packetPlace p
  s.updDie d (fun x => x.addWalk { home := h, off := o - o % 0x10000, write := bit p.aux.toNat 40, pkg := p.spkg.toNat
                                   core := p.aux.toNat % 2 ^ 12, tag := p.aux, cycle := s.clock })

/-! ### Answers -/

/-- The fault that an answer reports. -/
def answerFault (p : Packet) : Option FaultRec :=
  if bit p.aux.toNat 59 then some { cause := ofBytes (p.body.take 1), taddr := BitVec.ofNat 64 (ofBytes ((p.body.drop 1).take 8)) } else none

/-- Context and id of a tag. -/
def tagOwner (w : W64) : Nat × Nat := (bits w.toNat 32 12, w.toNat % 2 ^ 32)

/-- Bytes of an answer go to the pieces of the request that they are for; of a stretch that met a fault the piece at the faulting address
has it, and the others end with it. -/
def Req.filled (r : Req) (off : Nat) (b : List Byte) (len : Nat) (f : Option FaultRec) : Req :=
  let hit (p : Piece) : Bool := decide (off ≤ p.off ∧ p.off + p.len ≤ off + len)
  let data := r.pieces.foldl (fun d p => if hit p ∧ !b.isEmpty then
      d.take p.pos ++ (b.drop (p.off - off)).take p.len ++ d.drop (p.pos + p.len) else d) r.data
  let at_ := f.map (fun x => (x.cause, x.taddr.toNat % 2 ^ 48))
  let ps := r.pieces.map (fun p => if hit p then (match at_ with
      | some (c, o) => if p.off ≤ o ∧ o < p.off + p.len then { p with bad := some c } else { p with done := true }
      | none => { p with done := true }) else p)
  ({ r with pieces := ps, data := data } : Req).close

/-- The answer to a request of a context of this package; a fault of a stretch of a memory access is that of its piece (R190). -/
def State.answered (s : State) (p : Packet) : State :=
  let (n, id) := tagOwner p.aux
  let f := answerFault p
  s.updReq n id (fun r =>
    if r.pieces.isEmpty || f.any (fun x => x.cause == cUNREACH || (r.pieces.all (fun q => !(q.off ≤ x.taddr.toNat % 2 ^ 48 ∧ x.taddr.toNat % 2 ^ 48 < q.off + q.len)))) then
      (match f with
       | some x => { r with fault := some x, performed := true }
       | none => { r with data := p.body, performed := true })
    else r.filled (packetPlace p).2 (if p.op = 7 ∧ f.isNone then p.body else []) (tagSize p.aux) f)

/-- The first write of a command to have started at one of the elements `gs` ends, with a fault if it met one, which stops the command
there (R343, R344). -/
def State.copyEnded (s : State) (n : Nat) (m : Cmd) (gs : List Nat) (f : Option FaultRec) : State :=
  let s := s.updCmd n m.id (fun x => { x with far := x.far.filter (fun g => gs.head? != some g) })
  match f with
  | some f => if m.stat = .done ∨ m.stat = .stopped then s else s.stopCmd n m.id (gs.head?.getD m.off) f
  | none => s

/-- The acknowledgement of a copy command's write (R343, R344). -/
def State.copyAnswered (s : State) (p : Packet) : State :=
  let (n, id) := tagOwner p.aux
  match (s.ctx n).mem.cmds.find? (fun m => m.id == id) with
  | some m => s.copyEnded n m (m.far.filter (fun g => (m.dest g).taddr == p.addr)) (answerFault p)
  | none => s

/-- The result of a walk on another package; one asked for before an invalidation is no longer awaited (R191, R192, R194). -/
def State.walkAnswered (s : State) (p : Packet) (res : Option Nat) : State :=
  let (h, o) := packetPlace p
  let w := ofBytes (p.body.take 8)
  let size := ofBytes ((p.body.drop 8).take 1)
  let level := if size = 30 then 1 else if size = 24 then 2 else 3
  let r : Except Nat TlbEntry := match res with | some c => .error c | none => leafEntry h o level w
  let tag : W64 := p.aux &&& 0xF7FFFFFFFFFFFFFF
  if s.walksOut.contains (p.addr, tag) then
    ({ s with walksOut := s.walksOut.filter (fun x => !(x.1 == p.addr && x.2 == tag)) } : State).walked (p.aux.toNat % 2 ^ 12) h o r
  else s

/-- An answer to this package: data (op 0x07) or an acknowledgement (op 0x08), by its tag. -/
def State.takeAnswer (s : State) (p : Packet) : State :=
  let a := p.aux.toNat
  if bit a 63 then s.answered p
  else if bit a 62 then s.walkAnswered p ((answerFault p).map FaultRec.cause)
  else if bit a 61 then s.copyAnswered p
  else s

/-! ### Steps -/

/-- The end-to-end acknowledgement of everything below `seq` by destination `key`: the packets leave the store, those that
waited are sent (R466). -/
def State.e2eAck (s : State) (d key seq : Nat) : State :=
  (s.updDie d (fun x => { x with e2e := { x.e2e with
    store := x.e2e.store.filter (fun p => p.mc || !(dieKey p.dpkg.toNat p.ddie.toNat == key && decide (p.seq.toNat < seq)))
    acked := Sparse.set x.e2e.acked key (max seq (Sparse.get 0 x.e2e.acked key)) } })).release d

/-- A multicast packet is kept until every destination of its set has acknowledged it (R470). -/
def State.multicastAck (s : State) (d key seq : Nat) : State :=
  s.updDie d (fun x => { x with e2e := (
    let sets := x.e2e.sets.map (fun q => if q.1 < seq then (q.1, q.2.filter (fun k => k != key)) else q)
    { x.e2e with
      sets := sets.filter (fun q => !q.2.isEmpty)
      store := x.e2e.store.filter (fun p => !p.mc || sets.all (fun q => q.1 != p.seq.toNat || !q.2.isEmpty)) }) })

/-- Note the arrival of a request packet at a port or an entry (R44, R348). -/
def State.packetCame (s : State) (p : Packet) : State := match s.packetSpot p with | some (x, k) => s.come x k | none => s

/-- One packet is delivered (R462). Table writes, advance answers and drain messages have steps of their own. -/
def State.deliver (s : State) (p : Packet) : State :=
  let d := p.ddie.toNat
  match p.op.toNat with
  | 1 => s.serveRead d p
  | 2 => s.serveWrite d p
  | 3 => s.serveAtomic d p
  | 4 => s.servePut d p
  | 5 => if bit p.aux.toNat 63 || isCopyTag p.aux then s.serveTile d p else (s.serveHome d p).readyAll
  | 6 => s.serveWalkOf d p
  | 7 | 8 => s.takeAnswer p
  | 9 =>
    if bit p.aux.toNat 0 then s.multicastAck d (dieKey p.spkg.toNat p.sdie.toNat) p.addr.toNat
    else s.e2eAck d (dieKey p.spkg.toNat p.sdie.toNat) p.addr.toNat
  | 10 => s.inject d p.spkg.toNat p.sdie.toNat 2 11 false 0 0 []
  | 11 => s.updDie d (fun x => { x with e2e := { x.e2e with drains := x.e2e.drains.erase (dieKey p.spkg.toNat p.sdie.toNat) } })
  | 12 =>
    let k := p.addr.toNat
    let ver : BitVec 8 := BitVec.ofNat 8 p.aux.toNat
    let sh : Routes := if s.fab.shadow.ver = ver then s.fab.shadow else { ver := ver, tab := [], mc := [] }
    { s with fab := { s.fab with shadow :=
        if k < 6144 then { sh with tab := Sparse.set sh.tab k (BitVec.ofNat 128 (ofBytes (p.body.take 16))) }
        else { sh with mc := Sparse.set sh.mc (k - 6144) (BitVec.ofNat 576 (ofBytes (p.body.take 72))) } } }
  | _ => s

/-- Take packet number `evt.n`, when its op is one of `ops` and what it releases is ready, and deliver what is due. -/
def State.delivery (s : State) (ops : List Nat) : Host.Outcome State Fault Refusal :=
  match s.fab.transit[s.evt.n]? with
  | none => .refused .notEnabled
  | some t =>
    let p := t.pkt
    if !s.arrived t || p.ver != s.fab.active.ver || !ops.contains p.op.toNat then .refused .notEnabled
    else
      let (ps, s) := s.takePacket s.evt.n p
      if ps.all s.packetReady then .next (ps.foldl (fun s p => (s.packetCame p).deliver p) s) else .refused .notEnabled

/-- PACKET_DELIVERY: packet number `evt.n` reaches its destination die (R462, R468, R469). -/
def execPacketDelivery (s : State) : Host.Outcome State Fault Refusal := s.delivery [0, 1, 2, 3, 4, 5, 6, 7, 8, 14, 15]

/-- TABLE_WRITE: a table-write packet, number `evt.n`, writes the shadow tables (R467). -/
def execTableWrite (s : State) : Host.Outcome State Fault Refusal := s.delivery [12]

/-- DRAIN_MARKER_RECEIVE: a drain marker, packet number `evt.n`, is answered once every lower-numbered packet of its die has been
delivered (R472). -/
def execDrainMarkerReceive (s : State) : Host.Outcome State Fault Refusal := s.delivery [10]

/-! ### Unreachable destinations (R473) -/

/-- What a packet that cannot reach its destination leaves behind: its request, walk or copy command is reported with
UNREACH; the replica it was a part of is not made (R511). -/
def State.lost (s : State) (p : Packet) : State :=
  let a := p.aux.toNat
  let (n, id) := tagOwner p.aux
  if p.cls = 2 then s
  else if bit a 63 then s.updReq n id (fun r => { r with fault := some { cause := cUNREACH, taddr := addrCompact r.base }, performed := true })
  else if bit a 62 then s.walkAnswered p (some cUNREACH)
  else if bit a 61 then
    (match (s.ctx n).mem.cmds.find? (fun m => m.id == id) with
     | some m => s.copyEnded n m (m.far.filter (fun g => (m.dest g).taddr == p.addr)) (some { cause := cUNREACH, taddr := p.addr })
     | none => s)
  else if p.op = 2 ∧ bit a 60 then
    s.updDie p.sdie.toNat (fun d => { d with lin := { d.lin with copying := d.lin.copying.filter (fun r => r != p.addr) } })
  else s

/-- Copy commands whose writes await an acknowledgement of a package that the active tables do not reach stop at the lowest of them, and
walks that await its answer end (R344, R473, R475). -/
def State.reportLostCopies (s : State) : State :=
  let away (h : Nat) : Bool := !s.reaches (h / 4)
  let s := s.ctxs.foldl (fun s c => c.2.mem.cmds.foldl (fun s m =>
    let gs := m.far.filter (fun g => match m.dest g with | .va h .. => away h | .tile r _ => away (s.answers (refHome r)))
    match gs with
    | [] => s
    | g :: _ =>
      let s := s.copyEnded c.1 m gs (some { cause := cUNREACH, taddr := (m.dest g).taddr })
      s.updCmd c.1 m.id (fun x => { x with far := x.far.filter (fun k => !gs.contains k) })) s) s
  (s.walksOut.filter (fun x => away (bits x.1.toNat 48 16))).foldl
    (fun s x => s.walkAnswered { packetZero with addr := x.1, aux := x.2 } (some cUNREACH)) s

/-- Requests that await an answer from a package that the active tables do not reach (R475 step 6). -/
def State.reportLost (s : State) : State :=
  let s := s.reportLostCopies
  s.ctxs.foldl (fun s c => s.updCtx c.1 (fun x => { x with mem := { x.mem with reqs := x.mem.reqs.map (fun r =>
    if r.remote.isSome ∧ !r.performed ∧ !s.reaches ((if r.op.isTile then s.answers r.home else r.home) / 4) then
      { r with fault := some { cause := cUNREACH, taddr := if r.op.isTile then r.base.truncate 64 else addrCompact r.base }, performed := true }
    else r) } })) s

/-- A die's packets that wait or are unacknowledged, those to unreachable destinations removed and reported, the others sent
again in sequence order under the active version (R467, R468, R473, R475). -/
def State.replay (s : State) (d : Nat) : State :=
  let e := (s.die d).e2e
  let gone (p : Packet) : Bool := !p.mc && !s.reaches p.dpkg.toNat
  let again := (sortBy (fun p => p.seq.toNat) (e.store.filter (fun p => !gone p))).map (fun p => { p with ver := s.fab.active.ver, vc := 0, dl := 0 })
  let s := s.updDie d (fun x => { x with e2e := { e with store := again, waiting := e.waiting.filter (fun p => !gone p) } })
  let s := { s with fab := { s.fab with transit := s.fab.transit ++ again.map (fun p => ⟨p, none, false⟩) } }
  ((e.store ++ e.waiting).filter gone).foldl State.lost s

end Sys2Proof.Machine
end

