-- ==== Sys2Proof/Machine/Groups.lean ====
section
/-! DEFINITION. The connected group (R459, R467, R471 to R476, R488, R489): route-version advances, the link audit, drains, and
RECONF with its hold, relock, install and release. -/

namespace Sys2Proof.Machine

/-! ### Advances (R467, R471) -/

/-- This package holds the group's coordinator (R459). -/
def State.coordinates (s : State) : Bool := s.fab.coord == s.pkg

/-- The entry that the tables of an advance give package `pkg` for a destination: only members are reachable
(R467, R471; log entry 11). -/
def State.newRoute (s : State) (ver : BitVec 8) (pkg dest : Nat) : BitVec 128 :=
  if s.fab.members.any (fun m => m.1 == dest) then Config.routeEntry ver.toNat pkg dest else 0

/-- The multicast entry that the tables of an advance give a package: the active one (R470; log entry 11). -/
def State.newMulticast (s : State) (i : Nat) : BitVec 576 := Sparse.get 0 s.fab.active.mc i

/-- The tables of an advance for this package. -/
def State.newTables (s : State) (ver : BitVec 8) : Routes :=
  { ver := ver, tab := (s.fab.members.map Prod.fst).foldl (fun m p => Sparse.set m p (s.newRoute ver s.pkg p)) [], mc := s.fab.active.mc }

/-- Table-write packets of the coordinator to package `p` (R467). -/
def State.writeTables (s : State) (ver : BitVec 8) (p : Nat) : State :=
  let s := (List.range 6144).foldl (fun s d => s.inject 0 p 0 0 12 false (BitVec.ofNat 64 d) (ver.zeroExtend 64)
    (toBytes 16 (s.newRoute ver p d).toNat)) s
  (List.range 256).foldl (fun s i => s.inject 0 p 0 0 12 false (BitVec.ofNat 64 (6144 + i)) (ver.zeroExtend 64)
    (toBytes 72 (s.newMulticast i).toNat)) s

/-- Start an advance, or ask for a further one after the one in progress (R467, R471). -/
def State.startAdvance (s : State) : State :=
  match s.fab.adv with
  | some a => { s with fab := { s.fab with adv := some { a with again := true } } }
  | none =>
    let ver := s.fab.active.ver + 1
    let ps := s.fab.members.map Prod.fst
    let s := { s with fab := { s.fab with
      adv := some { ver := ver, due := ps, start := s.clock, mark := s.clock, sent := false, again := false }, shadow := s.newTables ver } }
    (ps.filter (fun p => p != s.pkg)).foldl (fun s p => s.writeTables ver p) s

/-- LINK_DOWN_REPORT: the coordinator hears that link `evt.m` of package `evt.n` is DOWN (R454, R467); during a RECONF no
advance starts (R475). -/
def execLinkDownReport (s : State) : Host.Outcome State Fault Refusal :=
  if !s.coordinates || s.fab.rcf.isSome || !s.fab.members.any (fun m => m.1 == s.evt.n) then .refused .notEnabled
  else .next s.startAdvance

/-- Every table write of the coordinator is acknowledged (R467). -/
def State.tablesAcked (s : State) : Bool :=
  let e := (s.die 0).e2e
  (e.store ++ e.waiting).all (fun p => p.op != 12)

/-- A mark on every link that is UP or DEG, but for one (R467). -/
def State.floodMark (s : State) (but : Nat) (what : List Nat) : State :=
  (List.range 512).foldl (fun s n =>
    let l := s.link n false
    if n ≠ but ∧ l.st < 2 ∧ l.peer.isSome then s.setLink n false (l.push 3 (Config.linkPayload (3 :: what))) else s) s

/-- The other end of every link that held the old version holds the new one once the mark has passed (R467). -/
def State.peersTo (s : State) (ver : BitVec 8) : State :=
  { s with fab := { s.fab with links := s.fab.links.map (fun l => (l.1, { l.2 with peer := l.2.peer.map (fun _ => ver) })) } }

/-- The answer of this package to an advance: to the coordinator (R467). -/
def State.sendDone (s : State) (ver : BitVec 8) : State :=
  if s.coordinates then
    { s with fab := { s.fab with adv := s.fab.adv.map (fun a => { a with due := a.due.filter (fun p => p != s.pkg) }) } }
  else s.inject 0 s.fab.coord 0 2 13 false 0 (ver.zeroExtend 64) []

/-- An advance is complete when every package has answered; a further one follows when one is asked for (R467, R471). -/
def State.advanceEnd (s : State) : State :=
  match s.fab.adv with
  | some a =>
    if a.due.isEmpty then
      let s := { s with fab := { s.fab with adv := none } }
      if a.again then s.startAdvance else s
    else s
  | none => s

/-- The shadow tables become active: packets of older versions are dropped, every die replays its store, event 0x04 is
recorded (R465, R467, R468, R473). -/
def State.switchTables (s : State) (ver : BitVec 8) : State :=
  let t0 := s.clock
  let s := { s with fab := { s.fab with active := s.fab.shadow, nadv := s.fab.nadv + 1 } }
  let s := s.peersTo ver
  let old := s.fab.transit.filter (fun t => t.pkt.ver != ver)
  let s := old.foldl (fun s t => s.freeSlots t.link t.pkt) s
  let s := { s with fab := { s.fab with transit := s.fab.transit.filter (fun t => t.pkt.ver == ver) } }
  let s := ((List.range 4).filter s.online).foldl State.replay s
  let s := s.reportLost
  (s.sendDone ver).event 0x04 0 0 false 0 t0 s.clock (ver.toNat + s.fab.gid <<< 8)

/-- ADVANCE_MARK: the ADVANCE mark for version `evt.m` reaches this package over link `evt.n`, 512 at the coordinator itself, which
floods it once every table write is acknowledged. Marks for any version but the shadow's, or for the active one, are ignored
(R467). -/
def execAdvanceMark (s : State) : Host.Outcome State Fault Refusal :=
  let ver : BitVec 8 := BitVec.ofNat 8 s.evt.m
  if s.evt.n = 512 then
    match s.fab.adv with
    | some a =>
      if !s.coordinates || a.sent || a.ver != ver || !s.tablesAcked then .refused .notEnabled
      else
        let s := { s with fab := { s.fab with adv := some { a with sent := true, mark := s.clock } } }
        .next (((s.floodMark 512 [0, ver.toNat]).switchTables ver).advanceEnd)
    | none => .refused .notEnabled
  else if s.fab.shadow.ver ≠ ver ∨ s.fab.active.ver = ver then .next s
  else .next ((s.floodMark s.evt.n [0, ver.toNat]).switchTables ver)

/-- ADVANCE_DONE: the coordinator receives an advance-done packet, number `evt.n` of the package (R467). -/
def execAdvanceDone (s : State) : Host.Outcome State Fault Refusal :=
  match s.fab.transit[s.evt.n]? with
  | none => .refused .notEnabled
  | some t =>
    match s.delivery [13] with
    | .next s =>
      let s := { s with fab := { s.fab with adv := s.fab.adv.map (fun (a : Advance) =>
        if t.pkt.aux.truncate 8 = a.ver then { a with due := a.due.filter (fun p => p != t.pkt.spkg.toNat) } else a) } }
      .next s.advanceEnd
    | x => x

/-- ADVANCE_TIMEOUT: package `evt.n` has not answered within 2^26 cycles of its mark: it leaves the group, event 0x07 is recorded,
and a further advance marks it unreachable where the tables still reach it (R471). -/
def execAdvanceTimeout (s : State) : Host.Outcome State Fault Refusal :=
  match s.fab.adv with
  | none => .refused .notEnabled
  | some a =>
    let p := s.evt.n
    if !s.coordinates || !a.sent || !a.due.contains p || p == s.pkg || decide (s.clock < a.mark + 2 ^ 26) then .refused .notEnabled
    else
      let ms := s.fab.members.filter (fun m => m.1 != p)
      let reach := ms.any (fun m => bit (s.newRoute a.ver m.1 p).toNat 9)
      let s := { s with fab := { s.fab with
        members := ms, size := ms.length, adv := some { a with due := a.due.filter (fun q => q != p), again := a.again || reach } } }
      .next ((s.event 0x07 0 0 false 0 a.start s.clock p).advanceEnd)

/-! ### The link audit (R476) -/

/-- Permits held, or counts, of the 12 VCs: VC3's halves together. -/
def perVc (f : Nat → Nat) : List Nat :=
  (List.range 3).flatMap (fun c => [f (5 * c), f (5 * c + 1), f (5 * c + 2), f (5 * c + 3) + f (5 * c + 4)])

/-- AUDIT_SEND: every 2^22 core cycles the sender of link `evt.n`, UP or DEG, sends an AUDIT mark with its permits and its count
(R476). -/
def execAuditSend (s : State) : Host.Outcome State Fault Refusal :=
  let n := s.evt.n
  let l := s.link n false
  if 512 ≤ n ∨ 1 < l.st ∨ s.clock / 2 ^ 22 ≤ l.audit / 2 ^ 22 then .refused .notEnabled
  else .next (s.setLink n false { (l.push 3 (Config.linkPayload (3 :: 1 :: (perVc (s.permits n) ++
      perVc (fun k => Sparse.get 0 l.count k))))) with audit := s.clock })

/-- The total of a VC by its number 0 to 11. -/
def auditTotal (i : Nat) : Nat := if i % 4 = 3 then 64 else 192

/-- Difference of the check of VC `i`, mod 256: 0 when it holds. -/
def auditDiff (l : LinkDir) (i held rs : Nat) : Nat :=
  let o := (perVc (fun k => Sparse.get 0 l.slots k + Sparse.get 0 l.owed k)).getD i 0
  let rr := (perVc (fun k => Sparse.get 0 l.count k)).getD i 0
  (held + o + rr + 65536 - rs % 256 - auditTotal i) % 256

/-- AUDIT_RECEIVE: an AUDIT mark reaches the receiver of link `evt.n`: `evt.list` gives, by VC, the permits held and the count,
`evt.m` the cycle of sending. A VC that fails raises LOSTPERMIT and records event 0x05; a replayed mark, told by `evt.flag`, is ignored
(R476). -/
def execAuditReceive (s : State) : Host.Outcome State Fault Refusal :=
  let n := s.evt.n
  let l := s.link n true
  if 512 ≤ n ∨ 1 < l.st then .refused .notEnabled
  else if s.evt.flag then .next s
  else
    let t0 := s.evt.m
    .next ((number 0 s.evt.list).foldl (fun s x =>
      let d := auditDiff l x.1 x.2.1 x.2.2
      if d = 0 ∨ 12 ≤ x.1 then s
      else
        let det := x.1 / 4 + (x.1 % 4) <<< 2 + d <<< 8
        let s := s.event 0x05 (linkDie n) n true l.mask.toNat t0 s.clock det
        { s with out := s.out ++ [.control (linkDie n) (BitVec.ofNat 256 (5 + det <<< 192))] }) s)

/-! ### Drains (R472) -/

/-- Destination dies for which a die holds unacknowledged packets. -/
def E2E.targets (e : E2E) : List Nat :=
  distinct (e.store.map destKey)

/-- Send drain markers from a die to every die for which it holds unacknowledged packets (R472). -/
def State.sendMarkers (s : State) (d : Nat) : State :=
  let ks := (s.die d).e2e.targets
  let s := ks.foldl (fun s k => s.inject d (k / 4) (k % 4) 2 10 true 0 0 []) s
  s.updDie d (fun x => { x with e2e := { x.e2e with drains := x.e2e.drains ++ ks.filter (fun k => !x.e2e.drains.contains k) } })

/-- A die has every marker back and every request it sent acknowledged. -/
def E2E.drained (e : E2E) : Bool := e.drains.isEmpty && e.store.all (fun p => p.cls == 2)

/-! ### RECONF (R474, R475, R480, R488, R489) -/

/-- The status of a RECONF, or of a team operation, goes to its context's request or to its control port (R437, R446, R480). -/
def State.opDone (s : State) (who : Option (Nat × Nat)) (die : Nat) (w : W64) : State :=
  match who with
  | some (n, id) => s.updReq n id (fun r => { r with data := toBytes 8 w.toNat, performed := true })
  | none => s.updDie die (fun x => { x with port := { x.port with go := false, st := w } })

/-- Hold bits of a descriptor. -/
def Reconf.held (r : Reconf) : List Nat := (List.range 512).filter (fun n => r.desc.getLsbD (192 + n))

/-- Steps 5 and 6: the tables become active, permits of held links are reset, waiting packets are sent or reported, the status
is written (R475, R489). -/
def State.install (s : State) (r : Reconf) : State :=
  let f (lo n : Nat) : Nat := bits r.desc.toNat lo n
  let s := (s.fab.transit.filter (fun t => t.pkt.ver != r.tabs.ver)).foldl (fun s t => s.freeSlots t.link t.pkt) s
  let down := r.held.find? (fun n => (s.link n false).st == 4 || (s.link n true).st == 4)
  let s := { s with fab := { s.fab with
    active := r.tabs, shadow := r.tabs, gid := f 8 13, size := f 21 13 + 1, members := r.mems
    coord := (least? (r.mems.map Prod.fst)).getD 0, rcf := none, adv := none, drained := [] } }
  let s := r.held.foldl (fun s n =>
    (s.updLink n false (fun l => { l with slots := [], count := [] })).updLink n true (fun l => { l with slots := [], count := [], owed := [] })) s
  let s := { s with fab := { s.fab with links := s.fab.links.map (fun (l : Nat × LinkDir) => (l.1, { l.2 with peer := none })) } }
  let s := (List.range 512).foldl (fun s n => if (s.link n false).st < 3 then s.sendTrain n (some r.tabs.ver) else s) s
  let s := { s with fab := { s.fab with transit := s.fab.transit.filter (fun t => t.pkt.ver == r.tabs.ver) } }
  let s := ((List.range 4).filter s.online).foldl (fun s d => (s.replay d).release d) s
  let s := s.reportLost
  let code := if down.isSome then 2 else 0
  let s := s.event 0x06 r.die 0 false 0 r.start s.clock (r.tabs.ver.toNat + f 8 13 <<< 8 + code <<< 21)
  s.opDone r.ctx r.die (BitVec.ofNat 64 (code + (down.getD 0) <<< 9))

/-- A held package installs once no held direction is dark any more (R489). -/
def State.tryInstall (s : State) : State :=
  match s.fab.rcf with
  | some r =>
    if r.step = 3 ∧ r.held.all (fun n => decide ((s.link n false).st ≠ 3 ∧ (s.link n true).st ≠ 3)) then s.install r else s
  | none => s

/-- Step 2: every held direction enters HELD (R475). -/
def State.holdLinks (s : State) : State :=
  match s.fab.rcf with
  | some r =>
    let s := r.held.foldl State.hold { s with fab := { s.fab with rcf := some { r with step := 3 } } }
    s.tryInstall
  | none => s

/-- The coordinator floods the hold mark once every member has reported drain done (R488). -/
def State.drainedAll (s : State) : State :=
  if s.fab.members.all (fun m => s.fab.drained.contains m.1) then
    (({ s with fab := { s.fab with drained := [] } }).floodMark 512 [2]).holdLinks
  else s

/-- Step 1 ends: drain done goes to the coordinator of the old group (R488). -/
def State.drainCheck (s : State) : State :=
  match s.fab.rcf with
  | some r =>
    if r.step = 1 ∧ ((List.range 4).filter s.online).all (fun d => (s.die d).e2e.drained) then
      let s := { s with fab := { s.fab with rcf := some { r with step := 2 } } }
      if s.coordinates then ({ s with fab := { s.fab with drained := s.fab.drained ++ [s.pkg] } }).drainedAll
      else { s with out := s.out ++ [.report s.fab.coord (BitVec.ofNat 64 (2 ^ 32 + s.pkg))] }
    else s
  | none => s

/-- DRAIN_DONE_RECEIVE: the coordinator hears that package `evt.n` has drained (R488). -/
def execDrainDoneReceive (s : State) : Host.Outcome State Fault Refusal :=
  let p := s.evt.n
  if !s.coordinates || !s.fab.members.any (fun m => m.1 == p) || s.fab.drained.contains p then .refused .notEnabled
  else .next ({ s with fab := { s.fab with drained := s.fab.drained ++ [p] } }).drainedAll

/-- HOLD_MARK_RECEIVE: the coordinator's hold mark reaches a package that has drained, over link `evt.n` (R488). -/
def execHoldMarkReceive (s : State) : Host.Outcome State Fault Refusal :=
  match s.fab.rcf with
  | some r => if r.step = 2 then .next (s.floodMark s.evt.n [2]).holdLinks else .refused .notEnabled
  | none => .refused .notEnabled

/-- DRAIN_ANSWER_RECEIVE: the answer to a drain marker, packet number `evt.n`, reaches the draining die (R472). -/
def execDrainAnswerReceive (s : State) : Host.Outcome State Fault Refusal :=
  match s.delivery [11] with | .next s => .next s.drainCheck | x => x

/-- E2E_ACK_RECEIVE: an end-to-end acknowledgement, packet number `evt.n`, reaches the source die (R466). -/
def execE2eAckReceive (s : State) : Host.Outcome State Fault Refusal :=
  match s.delivery [9] with | .next s => .next s.drainCheck | x => x

/-- HELD_TIMEOUT: 25 ms, 82,500,000 core cycles, in HELD without relock: DOWN (R454, R475). -/
def execHeldTimeout (s : State) : Host.Outcome State Fault Refusal :=
  let n := s.evt.n
  let rx := s.evt.flag
  let l := s.link n rx
  if 512 ≤ n ∨ l.st ≠ 3 ∨ s.clock < l.since + 82500000 then .refused .notEnabled
  else .next (s.linkDown n rx l.since).tryInstall

/-- HELD_DIRECTION_RELOCK: no earlier than 10 ms, 33,000,000 core cycles, after the hold a direction with light on the 4 or more
wavelengths `evt.m` has trained for 5,280 cycles (R475, R489): it starts afresh. -/
def execHeldDirectionRelock (s : State) : Host.Outcome State Fault Refusal :=
  let n := s.evt.n
  let rx := s.evt.flag
  let l := s.link n rx
  let m : BitVec 16 := BitVec.ofNat 16 s.evt.m
  if 512 ≤ n ∨ l.st ≠ 3 ∨ maskCount m < 4 ∨ s.clock < l.since + 33005280 then .refused .notEnabled
  else .next (s.setLink n rx { l with
    st := litState m, mask := m, seq := 0, buf := [], out := [], nak := false, unacked := 0, owed := [], trainE := 0 }).tryInstall

/-- Bytes read by an engine of context `n`, in blocks of 64 from an aligned start; those that another package holds come first in what
its answers brought, `b`, and are waited for without them. An error of `some` is a status, of none a wait (R480; log entry 21). -/
def State.engineRead (s : State) (n : Nat) (a : W80) (len : Nat) (b : Option (List Byte)) :
    Except (Option Nat) (List Byte × Option (List Byte)) × State :=
  let home := addrHome a
  if badFormat a then (.error (some 4), s)
  else if home != selfHome && home < 24576 && home / 4 != s.pkg then
    if !s.reaches (home / 4) then (.error (some 4), s)
    else
      match b with
      | some x => if x.length < len then (.error none, s) else (.ok (x.take len, some (x.drop len)), s)
      | none => (.error none, s)
  else
    let lead := addrOff a % 64
    match s.readBlocks n home (addrOff a - lead) (ceilDiv (lead + len) 64) with
    | (.ok x, s) => (.ok ((x.drop lead).take len, b), s)
    | (.error _, s) => (.error (some 4), s)

/-- A descriptor's own fields are well formed for a package and a version (R474). -/
def reconfOk (d ver : Nat) : Bool :=
  bits d 34 6 == 0 && bits d 58 6 == 0 && d / 2 ^ 704 == 0 &&
  decide ((bits d 40 6 + 1) * (bits d 46 6 + 1) * (bits d 52 6 + 1) = bits d 21 13 + 1) && bits d 0 8 != ver

/-- The members of a member list; none with an invalid item (R474). -/
def membersOf (d : Nat) (b : List Byte) : Option (List (Nat × Nat × Nat × Nat)) :=
  let ws := (List.range (bits d 21 13 + 1)).map (fun i => bits (ofBytes b) (64 * i) 64)
  let ms := ws.map (fun w => (bits w 0 13, bits w 13 6, bits w 19 6, bits w 25 6))
  if ws.all (fun w => decide (w < 2 ^ 31)) && ms.all (fun m => decide (m.1 < 6144 ∧ m.2.1 ≤ bits d 40 6 ∧ m.2.2.1 ≤ bits d 46 6 ∧ m.2.2.2 ≤ bits d 52 6)) &&
    (distinct (ms.map Prod.fst)).length == ms.length && (distinct (ms.map Prod.snd)).length == ms.length then some ms else none

/-- The tables of a route table image (R474). -/
def tablesOf (ver : BitVec 8) (b : List Byte) : Routes :=
  let e := (List.range 6144).map (fun i => (i, BitVec.ofNat 128 (ofBytes ((b.drop (16 * i)).take 16))))
  let m := (List.range 256).map (fun i => (i, BitVec.ofNat 576 (ofBytes ((b.drop (98304 + 72 * i)).take 72))))
  { ver := ver, tab := e.filter (fun x => x.2 != 0), mc := m.filter (fun x => x.2 != 0) }

/-- The descriptor, the member list and the table image of a RECONF, read one after the other; or the status it ends with, or a wait
(R474, R480). -/
def State.reconfRead (s : State) (n : Nat) (a : W80) (b : Option (List Byte)) :
    Except (Option Nat) (Nat × List Byte × List Byte) × State :=
  if badFormat a || addrOff a % 128 != 0 then (.error (some 4), s)
  else
    match s.engineRead n a 128 b with
    | (.error c, s) => (.error c, s)
    | (.ok (x, b), s) =>
      let d := ofBytes x
      let rtab := addrOfCompact (BitVec.ofNat 64 (bits d 64 64))
      let mlist := addrOfCompact (BitVec.ofNat 64 (bits d 128 64))
      if s.fab.advancing || s.fab.rcf.isSome then (.error (some 3), s)
      else if !reconfOk d s.fab.active.ver.toNat then (.error (some 1), s)
      else if addrOff rtab % 256 ≠ 0 ∨ addrOff mlist % 8 ≠ 0 ∨ bit d 127 ∨ bit d 191 then (.error (some 4), s)
      else
        match s.engineRead n mlist (8 * (bits d 21 13 + 1)) b with
        | (.error c, s) => (.error c, s)
        | (.ok (mb, b), s) =>
          match s.engineRead n rtab 116736 b with
          | (.error c, s) => (.error c, s)
          | (.ok (tb, _), s) => (.ok (d, mb, tb), s)

/-- RECONF up to the drain: the status it ends with at once, or none while it reads at another package or drains; `first` tells its
start (R474, R475, R480). -/
def State.reconfStart (s : State) (n die : Nat) (who : Option (Nat × Nat)) (first : Bool) (a : W80) : Option Nat × State :=
  match s.reconfRead n a (if first then none else some s.evt.data) with
  | (.error c, s) => (c, s)
  | (.ok (d, mb, tb), s) =>
    match (membersOf d mb).filter (fun ms => ms.any (fun m => m.1 == s.pkg)) with
    | none => (some 1, s)
    | some ms =>
      let r : Reconf := { desc := BitVec.ofNat 1024 d, ctx := who, die := die, step := 1, start := s.clock,
                          tabs := tablesOf (BitVec.ofNat 8 d) tb, mems := ms }
      let s := { s with fab := { s.fab with rcf := some r } }
      (none, (((List.range 4).filter s.online).foldl State.sendMarkers s).drainCheck)

/-- A RECONF that a context or a control port began and that still reads goes on. -/
def State.reconfing (s : State) (die : Nat) (who : Option (Nat × Nat)) : Bool :=
  match s.fab.rcf with | some r => r.ctx == who && r.die == die | none => false

/-- Begin an operation whose bundle is a yield point and whose result is a landing (R213, R442, R480): its request, its latch, and
the width given up. -/
def State.yieldOp (s : State) (op : ReqOp) (d : BitVec 6) : State :=
  (s.queueRequest op 0 d 1).updMe (fun c => { c with sync := { c.sync with
    yielded := true, await := (c.shadow.bind Shadow.ref).map Await.tile } })

/-- RECONF (R480). -/
def execReconf (p : Pred) (d : BitVec 6) (a : BitVec 5) (s : State) : Host.Outcome State Fault Refusal :=
  act s p s.latchVerdict (fun s =>
    let n := s.cur
    let id := s.me.mem.nextId
    let x := s.me.a a
    let s := s.yieldOp (.team 0x7E 0 x 0) d
    match s.reconfStart n s.myDie (some (n, id)) true x with
    | (some c, s) => s.opDone (some (n, id)) s.myDie (BitVec.ofNat 64 c)
    | (none, s) => s)

end Sys2Proof.Machine
end

