-- ==== Sys2Proof/Machine/Portable.lean ====
section
/-! DEFINITION. Portable team images (R433 to R436, R438): their bytes as IMGW writes them, and what IMGR reads back. Where R436
lists the fields of a block and no offsets, they are packed in the order listed (log entry 17). -/

namespace Sys2Proof.Machine

/-! ### Writing -/

/-- The context block of a rank image (R436). -/
def Ctx.blockFields (c : Ctx) : List (Nat × Nat × Nat) :=
  let r := c.regs
  let q := c.seq
  let k := c.cnt
  r.g.map (fun p => (8 * p.1, 8, p.2.toNat)) ++ r.a.map (fun p => (512 + 16 * p.1, 16, p.2.toNat)) ++
  [(1024, 2, (r.f &&& 0xFFFE).toNat), (1032, 4, r.fmt.toNat), (1040, 8, r.rsn.toNat), (1048, 8, r.xst.toNat)] ++
  r.mx.map (fun p => (1056 + 4 * p.1, 4, p.2.toNat)) ++ r.k.map (fun p => (1072 + 8 * p.1, 8, p.2.toNat)) ++
  r.z.map (fun p => (1200 + 8 * p.1, 8, p.2.toNat)) ++ r.lc.map (fun p => (1264 + 4 * p.1, 4, p.2.toNat)) ++
  (number 0 c.sched.loops).map (fun p => (1288 + 8 * p.1, 8, LoopRec.word p.2)) ++
  [(1336, 8, b2n q.conf + b2n q.bad <<< 1 + (q.addr.toNat % 2 ^ 17) <<< 2), (1344, 8, q.cur), (1352, 8, q.hi), (1360, 32, q.desc.toNat),
   (1392, 8, k.issued), (1400, 8, k.late), (1408, 8, k.pwr), (1416, 8, k.busy), (1424, 8, k.bank), (1432, 8, k.sage), (1448, 8, k.sync),
   (1456, 8, c.sys.trapWord.toNat), (1464, 8, c.sys.timer.toNat), (1472, 8, c.sys.tframe.toNat), (1480, 8, c.sys.futWord.toNat),
   (1488, 8, c.planes.fc0.code + c.planes.fc1.code <<< 4 + c.planes.fwa.code <<< 8 + c.planes.fws.code <<< 12),
   (1496, 4, c.sched.rtgt), (1500, 1, c.sched.dly + b2n c.sched.tskip <<< 2)]

/-- A weight plane (R263, R436): element (k, j) at (k × N + j) × eb. -/
def weightFields (t : Ty) (w : Sparse Line) : List (Nat × Nat × Nat) :=
  let eb := t.bits / 8
  w.flatMap (fun c => (List.range t.elems).map (fun k => ((k * t.mN + c.1) * eb, eb, lineElem t.bits c.2 k)))

/-- A copy command (R436): header encoding, staging values, resume offset, acquire done, CSTAT word. -/
def Cmd.imageFields (m : Cmd) : List (Nat × Nat × Nat) :=
  [(0, 8, (Encode.e0 m.op.toNat .always m.hdr).toNat)] ++ (number 0 m.stage).map (fun p => (8 + 8 * p.1, 8, p.2.toNat)) ++
  [(128, 8, m.off), (136, 1, b2n (!m.acq)), (144, 8, m.word.toNat), (152, 4, m.fmt.toNat), (160, 8, m.rsn.toNat)]

/-- A ring (R436). -/
def Ring.imageFields (x : Ring) : List (Nat × Nat × Nat) :=
  (0, 8, x.word.toNat) :: x.tags.map (fun t => (128 + 8 * t.1, 8, t.2.toNat))

/-- Fields moved by an offset. -/
def shiftFields (o : Nat) (fs : List (Nat × Nat × Nat)) : List (Nat × Nat × Nat) := fs.map (fun f => (o + f.1, f.2.1, f.2.2))

/-- A bit for each name of a list. -/
def nameBits (l : List Nat) : Nat := l.foldl (fun m k => m + 2 ^ k) 0

/-- The fitting block of a rank image (R436). -/
def FitSide.imageFields (f : FitSide) (t : Nat) : List (Nat × Nat × Nat) :=
  f.views.flatMap (fun v => [(8 * v.1, 8, v.2.word.toNat), (128 + 8 * v.1, 8, v.2.wref.toNat), (256 + 8 * v.1, 8, v.2.bufOff + v.2.cap <<< 32)]) ++
  (number 0 (f.cmps.take 16)).map (fun p => (384 + 8 * p.1, 8, p.2.word t))

/-- The fixed part of a rank image, past its header (R436); `bars` are the team's bindings. A member that left after it arrived is in the
arrived bitmap alone; the names on which it has arrived since its task entry (R378) follow the listed fields of the context block (log
entry 17). -/
def FreezeImage.fields (x : FreezeImage) (n rank : Nat) (bars : List BarEntry) : List (Nat × Nat × Nat) :=
  let c := x.ctx
  let t := c.sched.time
  let rs := c.records n t
  let mine := bars.filter (fun b => b.members.any (fun m => m.1 == rank && !m.2.2))
  let here := mine.filter (fun b => b.members.any (fun m => m.1 == rank && m.2.1))
  shiftFields 0x400 c.blockFields ++
  [(0x400 + 1536, 512, nameBits ((c.sync.bars.filter (fun b => b.2.made)).map Prod.fst))] ++
  c.regs.land.map (fun p => (0x1400 + 256 * p.1, 256, p.2.toNat)) ++
  shiftFields 0x1000 (recordFields 0 rs) ++
  c.regs.grid.map (fun p => (0xAC00 + 256 * p.1, 256, p.2.toNat)) ++
  c.planes.acc.map (fun p => (0xEC00 + 128 * p.1, 128, p.2.toNat)) ++
  shiftFields 0x12C00 (weightFields c.planes.fwa c.planes.wa) ++ shiftFields 0x14C00 (weightFields c.planes.fws c.planes.ws) ++
  (number 0 (c.mem.cmds.take 8)).flatMap (fun p => shiftFields (0x16C00 + 256 * p.1) p.2.imageFields) ++
  x.rings.flatMap (fun r => shiftFields (0x17400 + 256 * r.1) r.2.imageFields) ++
  [(0x17C00, 512, nameBits (mine.map BarEntry.name)), (0x17E00, 512, nameBits (here.map BarEntry.name))] ++
  shiftFields 0x18000 (c.fit.imageFields t)

/-- An output that an image carries: its reference, its content, the bytes of its storage region. -/
abbrev Carried := W64 × Memory × Nat

/-- The outputs in WRITING of a list, with their content (R438, R441): of another package by what its answer brings, entry then content
(log entry 106); with what is left of the answers, none where they do not suffice. -/
def State.writingOuts (s : State) (l : List W64) (b : List Byte) : Option (List Carried × List Byte) :=
  match l with
  | [] => some ([], b)
  | r :: rest =>
    let go (c : Option Carried) (b : List Byte) : Option (List Carried × List Byte) :=
      (s.writingOuts rest b).map (fun x => (c.toList ++ x.1, x.2))
    if s.isRemote r && s.fitReach r then
      let t := tileOfBody (b.take farEntry)
      let k := farEntry + (if t.state = 2 then t.region else 0)
      if b.length < k then none
      else go (if t.state = 2 then some (r, Memory.putAll [] 0 ((b.take k).drop farEntry), t.region) else none) (b.drop k)
    else
      match s.tile? r with
      | some t => if t.state = 2 then go (some (r, carry s.mem t.loc t.region 0, t.region)) b else go none b
      | none => go none b

/-- The same of the members of a team, in rank order. -/
def State.writingAll (s : State) (ts : List Task) (b : List Byte) : Option (List (List Carried)) :=
  match ts with
  | [] => some []
  | t :: rest => (s.writingOuts t.desc.outs b).bind (fun x => (s.writingAll rest x.2).map (fun l => x.1 :: l))

/-- The tail of a rank image (R438): granules, ring slot bytes, outputs; with its length. -/
def FreezeImage.tail (x : FreezeImage) (outs : List Carried) (gran : List Nat) : Memory × Nat :=
  let base := 0x18400
  let m0 := (number 0 gran).flatMap (fun p => carry x.plain (0x10000 * p.2) 0x10000 (base + 0x10000 * p.1))
  let o0 := base + 0x10000 * gran.length
  let (m1, o1) := (ringSpans x.rings).foldl (fun (r : Memory × Nat) p => (r.1 ++ carry x.slots p.1 p.2 r.2, r.2 + p.2)) (m0, o0)
  outs.foldl (fun (r : Memory × Nat) (p : Carried) =>
    (r.1 ++ layout r.2 [(0, 8, p.1.toNat)] ++ carry p.2.1 0 p.2.2 (r.2 + 8), r.2 + 8 + p.2.2)) (m1, o1)

/-- A rank image with its length (R436). -/
def FreezeImage.rank (x : FreezeImage) (n : Nat) (t : Task) (inc : Bool) (gran : List Nat) (outs : List Carried) (bars : List BarEntry) :
    Memory × Nat :=
  let (tail, len) := x.tail outs gran
  let head : List (Nat × Nat × Nat) :=
    [(0, 4, 0x4B4E525A), (4, 2, 1), (6, 2, t.level + t.desc.rank <<< 4), (8, 6, t.tid), (16, 8, t.desc.image.toNat),
     (24, 8, x.ctx.sched.time), (32, 3, x.ctx.sched.pc), (35, 1, nameBits gran + b2n inc <<< 2), (36, 8, len - 0x18400),
     (44, 1, outs.length)]
  (layout 0 (head ++ x.fields n t.desc.rank bars) ++ tail, len)

/-- A member as IMGW takes it: its entry, its context while it has one, its freeze image (R430). -/
structure MemberImage where
  entry : QEntry
  ctx   : Option Nat
  img   : FreezeImage
  /-- granules that go into the tail -/
  gran  : List Nat
  /-- its outputs in WRITING -/
  outs  : List Carried

/-- The whole team image at relative address 0 with its length, its digest in place (R433 to R435). -/
def State.teamImage (s : State) (t : Team) (ms : List MemberImage) (bars : List BarEntry) (inc : Bool) (base : W64) : Memory × Nat × BitVec 384 :=
  let ranks := (sortBy (fun (m : MemberImage) => m.entry.task.desc.rank) ms).map (fun m => (m.entry.task.desc.rank, m.img.rank (m.ctx.getD 0) m.entry.task inc m.gran m.outs bars))
  let placed := ranks.foldl (fun (r : List (Nat × Nat × Memory × Nat) × Nat) (x : Nat × Memory × Nat) =>
    (r.1 ++ [(x.1, r.2, x.2.1, x.2.2)], lineUp (r.2 + x.2.2))) ([], 0x21000)
  let len := (placed.1.getLast?.map (fun x => x.2.1 + x.2.2.2)).getD 0x21000
  let names := sortBy BarEntry.name bars
  let table := (number 0 names).map (fun p =>
    (0x1000 + 16 * p.1, 16, p.2.name + p.2.phase.toNat <<< 16 + p.2.e <<< 48 + p.2.a <<< 64))
  let dir := placed.1.flatMap (fun x => [(0x11000 + 16 * x.1, 8, x.2.1), (0x11008 + 16 * x.1, 4, x.2.2.2), (0x1100C + 16 * x.1, 1, 1)])
  let body := layout 0 (table ++ dir) ++ placed.1.flatMap (fun x => x.2.2.1.map (fun c => (c.1 + x.2.1, c.2)))
  let dig := Config.sha384 (Memory.getAll body 0x1000 (len - 0x1000))
  let head := layout 0 [(0, 4, 0x474D545A), (4, 2, 1), (8, 4, t.key), (12, 4, t.job), (16, 4, t.tsize + names.length <<< 13),
    (24, 8, (s.job t.job).steps), (32, 8, len), (40, 48, dig.toNat), (88, 8, base.toNat)]
  (head ++ body, len, dig)

/-! ### Placing bytes at a virtual address -/

/-- Translate the 64 KiB pages of an area for an engine of context `n`: places of the parts, or none where one does not
translate (R437). -/
def State.areaPages (s : State) (n home off len : Nat) (rd wr : Bool) : Option (List (Nat × Nat × Nat)) × State :=
  let first := off % 0x10000
  (List.range ((first + len + 0xFFFF) / 0x10000)).foldl (fun (r : Option (List (Nat × Nat × Nat)) × State) i =>
    match r with
    | (none, s) => (none, s)
    | (some l, s) =>
      let pos := if i = 0 then 0 else 0x10000 * i - first
      let size := min (0x10000 * (i + 1) - first) len - pos
      match s.translateNow n home (off + pos) rd wr with
      | (.hit pa _, s) => (some (l ++ [(pa, pos, size)]), s)
      | (_, s) => (none, s)) (some [], s)

/-- Send an area to another package as writes of at most 256 bytes (R443, R462). -/
def State.sendArea (s : State) (d home off len : Nat) (m : Memory) : State :=
  (List.range ((len + 255) / 256)).foldl (fun s i =>
    let k := min 256 (len - 256 * i)
    s.inject d (home / 4) (home % 4) 0 2 true (BitVec.ofNat 64 (home <<< 48 + off + 256 * i)) (BitVec.ofNat 64 (k <<< 44))
      (Memory.getAll m (256 * i) k)) s

/-- Write an area of `len` bytes, all of it or none (R437): content relative to its start. -/
def State.putArea (s : State) (n home off len : Nat) (m : Memory) : Option State :=
  if home ≠ selfHome ∧ home < 24576 ∧ home / 4 ≠ s.pkg then
    if s.reaches (home / 4) then some (s.sendArea (dieOf (coreOf n)) home off len m) else none
  else
    match s.areaPages n home off len false true with
    | (none, _) => none
    | (some ps, s) => some (ps.foldl (fun s p => s.fill p.1 p.2.2 (carry m p.2.1 p.2.2 p.1)) s)

/-- Read an area of `len` bytes, relative to its start. -/
def State.getArea (s : State) (n home off len : Nat) : Option Memory × State :=
  match s.areaPages n home off len true false with
  | (none, s) => (none, s)
  | (some ps, s) => (some (ps.flatMap (fun p => carry s.mem p.1 p.2.2 p.2.1)), s)

/-! ### Reading back -/

/-- A team image's header, versions and digest hold, as do its rank headers (R434, R436, R440). -/
def imageOk (m : Memory) : Bool :=
  let len := imgNat m 32 8
  let ranks := (List.range 4096).filter (fun r => imgNat m (0x1100C + 16 * r) 1 != 0)
  imgNat m 0 4 == 0x474D545A && imgNat m 4 2 == 1 && imgNat m 6 2 == 0 && imgNat m 16 4 < 2 ^ 26 && imgZero m 20 4 && imgZero m 96 4000 &&
  decide (0x21000 ≤ len) && Config.sha384 (Memory.getAll m 0x1000 (len - 0x1000)) == BitVec.ofNat 384 (imgNat m 40 48) &&
  ranks.all (fun r =>
    let o := imgNat m (0x11000 + 16 * r) 8
    imgNat m o 4 == 0x4B4E525A && imgNat m (o + 4) 2 == 1 && decide (bits (imgNat m (o + 6) 2) 4 12 = r))

/-- The ranks that an image holds, with their offsets (R433). -/
def imageRanks (m : Memory) : List (Nat × Nat) :=
  ((List.range 4096).filter (fun r => imgNat m (0x1100C + 16 * r) 1 != 0)).map (fun r => (r, imgNat m (0x11000 + 16 * r) 8))

/-- Registers of `count` numbers of `size` bytes. -/
def imgRegs (m : Memory) (o size count width : Nat) : Sparse (BitVec width) :=
  ((List.range count).map (fun i => (i, BitVec.ofNat width (imgNat m (o + size * i) size)))).filter (fun p => p.2 != 0)

/-- A weight plane of an image. -/
def weightsOf (m : Memory) (o : Nat) (t : Ty) : Sparse Line :=
  ((List.range t.mN).map (fun j => (j, lineOfElems t.bits t.elems (fun k => imgNat m (o + (k * t.mN + j) * (t.bits / 8)) (t.bits / 8))))).filter
    (fun p => p.2 != 0)

/-- A copy command of an image; none for an unused place. -/
def cmdOf (m : Memory) (o i : Nat) : Option Cmd :=
  let w : BitVec 64 := BitVec.ofNat 64 (imgNat m o 8)
  let op := bits w.toNat 58 6
  if op = 0 then none
  else
    let h := Sys2Proof.Decode.cpyHdr w
    let st := imgNat m (o + 144) 8
    some { id := i, op := BitVec.ofNat 5 op, hdr := h
           stage := (List.range (cpyRegs (op == 3 || op == 4) h.nd.toNat)).map (fun j => BitVec.ofNat 64 (imgNat m (o + 8 + 8 * j) 8))
           fmt := BitVec.ofNat 32 (imgNat m (o + 152) 4), rsn := BitVec.ofNat 64 (imgNat m (o + 160) 8)
           stat := if bit st 1 then .done else .queued, off := imgNat m (o + 128) 8, acq := imgNat m (o + 136) 1 == 0
           cause := bits st 8 8, taddr := 0, trap := 0, tc := 0, rl := 0, resv := false, table := [], born := 0, ord := i, far := [] }

/-- A ring of an image. -/
def ringOf (m : Memory) (o : Nat) : Option Ring :=
  let w := imgNat m o 8
  if w = 0 then none
  else some { conf := true, desc := BitVec.ofNat 64 (w % 2 ^ 32), owner := 0, pi := bits w 32 4, ci := bits w 36 4,
              tags := imgRegs m (o + 128) 8 16 64, was := none }

/-- The records of a rank image go back into a context (R412, R440). -/
def State.recordsOf (s : State) (m : Memory) (o : Nat) (c : Ctx) : Ctx :=
  let h : Shadow := { t := c.sched.time, readCause := false, readAddr := false, engine := 0, parked := [], base := 0, cause := 0,
                      invoc := none, keep := [], ref := none, inline := false, cmd := none, seq := none }
  (List.range 128).foldl (fun c i =>
    let w := imgNat m (o + 0x2400 + 16 * i) 16
    if w = 0 then c
    else
      let r : FrameRec :=
        { key := bits w 56 8, kind := bits w 0 4, stat := bits w 4 2, cause := bits w 8 8, rem := bits w 16 12, dist := bits w 28 12,
          dkind := bits w 40 4, dest := bits w 44 8, slot := bits w 52 4, val := bits w 64 64
          payload := some (lineOfBytes (Memory.getAll m (o + 0x2C00 + 256 * i) 256)), descr := none, req := none }
      if s.recBad r then c else c.reinject h 0 r (s.descrOf r)) c

/-- A context's views of its team's names, by the membership and arrived bitmaps. -/
def barViews (m : Memory) (o : Nat) : Sparse BarView :=
  (List.range 4096).filterMap (fun k =>
    let has (b : Nat) : Bool := bit (imgNat m (o + b + k / 8) 1) (k % 8)
    let v : BarView := { member := has 0x17C00, arrived := has 0x17E00, made := has (0x400 + 1536) || has 0x17E00 }
    if v = BarView.reset then none else some (k, v))

/-- The context of a rank image (R436). -/
def State.ctxOf (s : State) (m : Memory) (o : Nat) : Ctx :=
  let b := o + 0x400
  let n (k size : Nat) : Nat := imgNat m (b + k) size
  let pf := n 1488 8
  let ty (i : Nat) : Ty := (Ty.ofCode (bits pf (4 * i) 4)).getD .f32
  let sq := n 1336 8
  let t := imgNat m (o + 24) 8
  let loops := (List.range 6).filterMap (fun i =>
    let w := n (1288 + 8 * i) 8
    if bit w 51 then some ({ n := BitVec.ofNat 3 w, first := bits w 3 24, last := bits w 27 24 } : LoopRec) else none)
  let views := ((List.range 16).map (fun i =>
    let v := imgNat m (o + 0x18100 + 8 * i) 8
    (i, { (View.reset.fromFrame (imgNat m (o + 0x18000 + 8 * i) 8)) with
      wref := BitVec.ofNat 64 (imgNat m (o + 0x18080 + 8 * i) 8), bufOff := v % 2 ^ 32, cap := v / 2 ^ 32 })))
  let cmds := (List.range 8).filterMap (fun i => cmdOf m (o + 0x16C00 + 256 * i) i)
  let c : Ctx :=
    { Ctx.reset with
      mode := .task
      regs := { g := imgRegs m b 8 64 64, a := imgRegs m (b + 512) 16 32 80, f := BitVec.ofNat 16 (n 1024 2), land := imgRegs m (o + 0x1400) 256 16 2048,
                grid := imgRegs m (o + 0xAC00) 256 64 2048, k := imgRegs m (b + 1072) 8 16 64, z := imgRegs m (b + 1200) 8 8 64,
                lc := imgRegs m (b + 1264) 4 6 32, mx := imgRegs m (b + 1056) 4 4 32, fmt := BitVec.ofNat 32 (n 1032 4),
                rsn := BitVec.ofNat 64 (n 1040 8), xst := BitVec.ofNat 64 (n 1048 8) }
      sys := { SysRegs.reset with trapWord := BitVec.ofNat 64 (n 1456 8), timer := BitVec.ofNat 64 (n 1464 8),
                                  tframe := BitVec.ofNat 64 (n 1472 8), futWord := BitVec.ofNat 64 (n 1480 8) }
      planes := { Planes.reset with
        fc0 := ty 0, fc1 := ty 1, fwa := ty 2, fws := ty 3, acc := imgRegs m (o + 0xEC00) 128 128 1024
        wa := weightsOf m (o + 0x12C00) (ty 2), ws := weightsOf m (o + 0x14C00) (ty 3) }
      sched := { Sched.reset with pc := imgNat m (o + 32) 3, time := t, loops := loops, rtgt := n 1496 4, dly := bits (n 1500 1) 0 2, tskip := bit (n 1500 1) 2, ord := 4096 }
      sync := { SyncSide.reset with bars := barViews m o }
      mem := { MemSide.reset with cmds := cmds, nextId := 8 }
      fit := { FitSide.reset with views := views, cmps := cmpsFromFrame t (fun q k => imgNat m (o + 0x18180 + (q - 640)) k) }
      seq := { Seq.reset with conf := bit sq 0, bad := bit sq 1, addr := selfCompact (bits sq 2 17), cur := n 1344 8, hi := n 1352 8, desc := BitVec.ofNat 256 (n 1360 32) }
      cnt := { issued := n 1392 8, late := n 1400 8, pwr := n 1408 8, busy := n 1416 8, bank := n 1424 8, sage := n 1432 8, sync := n 1448 8 } }
  s.recordsOf m o c

/-- The ring slot bytes of a rank image, from byte `o` on, back in their places in the tile window (R438, R440). -/
def slotsOf (m : Memory) (o : Nat) (spans : List (Nat × Nat)) : List Host.Cell :=
  match spans with
  | [] => []
  | x :: rest => carry m o x.2 x.1 ++ slotsOf m (o + x.2) rest

/-- The rings of a rank image. -/
def ringsOf (m : Memory) (o : Nat) : List (Nat × Ring) :=
  (List.range 8).filterMap (fun r => (ringOf m (o + 0x17400 + 256 * r)).map (fun x => (r, x)))

/-- Granule `g` of a rank, when the image holds it: relative to the plain area (R438). -/
def imgGranule (m : Memory) (o g : Nat) : Option Memory :=
  let present := imgNat m (o + 35) 1
  if bit present g then some (carry m (o + 0x18400 + (if g = 1 ∧ bit present 0 then 0x10000 else 0)) 0x10000 (0x10000 * g)) else none

/-- Where the ring slot bytes and outputs of a rank's tail begin. -/
def tailStart (m : Memory) (o : Nat) : Nat :=
  let present := imgNat m (o + 35) 1
  o + 0x18400 + 0x10000 * (b2n (bit present 0) + b2n (bit present 1))

/-- The bindings of an image: the barrier table with the ranks of the bitmaps (R435, R436). -/
def barsOf (m : Memory) (key : Nat) : List BarEntry :=
  let nbar := bits (imgNat m 16 4) 13 13
  let ranks := imageRanks m
  (List.range nbar).map (fun i =>
    let w := imgNat m (0x1000 + 16 * i) 16
    let name := bits w 0 12
    let has (o : Nat) : Bool := bit (imgNat m (o + name / 8) 1) (name % 8)
    { team := key, name := name, phase := BitVec.ofNat 32 (bits w 16 32), e := bits w 48 13, a := bits w 64 13
      members := (ranks.filter (fun r => has (r.2 + 0x17C00) || has (r.2 + 0x17E00))).map (fun r =>
        (r.1, has (r.2 + 0x17E00), !has (r.2 + 0x17C00)))
      notify := [] })

end Sys2Proof.Machine
end

