-- ==== Sys2Proof/Machine/Freeze.lean ====
section
/-! DEFINITION. Freezing teams and moving them (R429 to R443), the control port (R446), checkpoint triggers (R444), and the
arrival of answers at their latches. -/

namespace Sys2Proof.Machine

/-! ### Members -/

/-- The context a member's entry runs on. -/
def QEntry.ctx? (e : QEntry) : Option Nat := match e.stat with | .running n => some n | _ => none

/-- Members of a team in rank order. -/
def State.ranked (s : State) (t : Team) : List QEntry := sortBy (fun e => e.task.desc.rank) (s.members t)

/-- Contexts that run members of a team, in rank order. -/
def State.memberCtxs (s : State) (t : Team) : List Nat := (s.ranked t).filterMap QEntry.ctx?

/-- A member of the team is STOPPED (R430). -/
def State.anyStopped (s : State) (t : Team) : Bool := (s.memberCtxs t).any (fun n => decide ((s.ctx n).mode = .stopped))

/-- The next member by rank is asked to freeze, one at a time (R430). -/
def State.freezeNext (s : State) (t : Team) : State :=
  let ns := s.memberCtxs t
  if ns.any (fun n => (s.ctx n).sync.freezing) then s
  else
    match ns.find? (fun n => decide ((s.ctx n).mode ≠ .frozen)) with
    | some n => s.updCtx n (fun c => { c with sync := { c.sync with freezing := true, asked := (s.core (coreOf n)).cycle } })
    | none => s

/-- A member freezes at its presented bundle: results due are written, its copies stop at a burst boundary (R421, R422,
R430). -/
def State.freezeMember (s : State) (n : Nat) : State :=
  (s.settleFor n).updCtx n (fun c => { c with
    mode := .frozen
    mem := { c.mem with cmds := c.mem.cmds.map Cmd.freeze }
    sync := { c.sync with freezing := false } })

/-- A frozen member goes on in place; `k` cycles were spent frozen (R150, R422, R429). -/
def Ctx.thawed (c : Ctx) (k : Nat) : Ctx :=
  { c with
    mode := if c.mode = .frozen then .task else c.mode
    task := c.task.map (fun t => { t with slept := t.slept + k })
    mem := { c.mem with cmds := c.mem.cmds.map (fun m => if m.stat = .queued then { m with resv := m.hdr.banks != 0 } else m) }
    sync := { c.sync with freezing := false } }

/-- Every member of a team goes on (R429, R430). -/
def State.thaw (s : State) (t : Team) : State :=
  let s := (s.members t).foldl (fun s e =>
    s.updEntry e.task.tid e.task.rebuilt (fun x => { x with task := { x.task with slept := x.task.slept + s.frozenFor x.task } })) s
  let s := (s.memberCtxs t).foldl (fun s n => s.updCtx n (fun c => c.thawed ((c.task.map s.frozenFor).getD 0))) s
  s.updTeam t.key (fun x => { x with state := 0 })

/-! ### FRZ and DRAIN -/

/-- FRZ as far as it can go now: its status once it is done (R429, R430). -/
def State.frz (s : State) (t : Team) : Option Nat × State :=
  if t.state ≠ 0 then (some 0, s)
  else if s.anyStopped t then (some 3, s.thaw t)
  else if (s.memberCtxs t).all (fun n => decide ((s.ctx n).mode = .frozen)) then
    (some 0, s.updTeam t.key (fun x => { x with state := 1, since := s.clock }))
  else (none, s.freezeNext t)

/-- FRZ.thaw (R429). -/
def State.frzThaw (s : State) (t : Team) : Nat × State := if t.state = 0 then (4, s) else (0, s.thaw t)

/-- Dies with contexts that run members of a team. -/
def State.memberDies (s : State) (t : Team) : List Nat := distinct ((s.memberCtxs t).map (fun n => dieOf (coreOf n)))

/-- A message to the plain working area of one of the contexts `ns` is still travelling (R431). -/
def State.coming (s : State) (ns : List Nat) : Bool :=
  s.ctxs.any (fun c => c.2.mem.reqs.any (fun r => r.pieces.any (fun p => !p.done && r.fault.isNone && (match p.pa.bind plainOf with
    | some n => ns.contains n
    | none => false))))

/-- DRAIN starts: a marker behind the last message on every route (R431, R472). -/
def State.drainStart (s : State) (t : Team) : Option Nat × State :=
  if t.state = 0 then (some 4, s) else (none, (s.memberDies t).foldl State.sendMarkers s)

/-- DRAIN goes on until every marker is back and nothing travels to a member (R431). -/
def State.drainPoll (s : State) (t : Team) : Option Nat × State :=
  if t.state = 0 then (some 4, s)
  else if (s.memberDies t).all (fun d => (s.die d).e2e.drains.isEmpty) && !s.coming (s.memberCtxs t) then
    (some 0, s.updTeam t.key (fun x => { x with state := 2 }))
  else (none, s)

/-! ### IMGW -/

/-- Dirty granules of a context's plain area: die, granule (R439). -/
def dirtyNo (n k : Nat) : Nat := 3145728 + 32 * (coreOf n % 256) + 24 + 2 * (n % 4) + k

/-- The granules that an image of context `n` writes (R438). -/
def State.granules (s : State) (n : Option Nat) (inc : Bool) : List Nat :=
  match inc, n with
  | true, some n => [0, 1].filter (fun k => Sparse.get false (s.die (dieOf (coreOf n))).dirty (dirtyNo n k))
  | _, _ => [0, 1]

/-- A member as it is imaged: frozen on its context, pre-empted, or not started (R430). -/
def State.memberImage (s : State) (t : Team) (inc : Bool) (e : QEntry) (outs : List Carried) : MemberImage :=
  let task := { e.task with born := t.since - e.task.born - e.task.slept, slept := 0 }
  let as (img : FreezeImage) : FreezeImage := { img with ctx := { img.ctx with task := some task } }
  match e.ctx? with
  | some n => { entry := e, ctx := some n, img := as (s.imageOf n), gran := s.granules (some n) inc, outs := outs }
  | none =>
    let c := (Ctx.reset.fresh .task (some task) task.desc.entry task.desc.args).setBar 0 { BarView.reset with member := true }
    let img := (e.image.bind (fun k => Sparse.find? (s.die t.die).frozen k)).getD { ctx := c, plain := [], rings := [], slots := [] }
    { entry := e, ctx := none, img := as img, gran := [0, 1], outs := outs }

/-- A team's bindings (R376, R440). -/
def State.bindings (s : State) (t : Team) : List BarEntry :=
  if t.placed then ((s.die t.bindDie).bars.filter (fun p => p.2.team == t.key)).map Prod.snd else t.saved

/-- An area at a home of another package. -/
def State.farArea (s : State) (home : Nat) : Bool := decide (home ≠ selfHome ∧ home < 24576 ∧ home / 4 ≠ s.pkg)

/-- Writes of an area that another package has not acknowledged yet (R443). -/
def State.unsent (s : State) (d home off len : Nat) : Bool :=
  let e := (s.die d).e2e
  (e.store ++ e.waiting).any (fun p => p.op == 2 && p.addr.toNat / 2 ^ 48 == home &&
    decide (off ≤ p.addr.toNat % 2 ^ 48 ∧ p.addr.toNat % 2 ^ 48 < off + len))

/-- The homes that an IMGW writes: that of A and, with bud, its buddy home (R443). -/
def State.imageHomes (s : State) (x : Nat) (a : W80) : List Nat :=
  addrHome a :: (if bit x 1 then (s.buddyOf (addrHome a)).toList else [])

/-- IMGW for an engine of context `n` (R433 to R438, R443): the status word, or none while it waits for another package: for the content
of an output, with `first` or too few bytes of it, or for the acknowledgement of what it wrote there. -/
def State.imgw (s : State) (n x : Nat) (t : Team) (a : W80) (first : Bool) : Option W64 × State :=
  let d := dieOf (coreOf n)
  let homes := s.imageHomes x a
  if t.state ≠ 2 then (some 4, s)
  else if badFormat a ∨ addrOff a % 65536 ≠ 0 then (some 5, s)
  else
    match t.sending.filter (fun w => !first && w.1 == addrCompact a) with
    | some (_, w) =>
      if homes.any (fun h => s.farArea h && s.unsent d h (addrOff a) (w.toNat / 256)) then (none, s)
      else (some w, s.updTeam t.key (fun y => { y with sending := none, image := addrCompact a }))
    | none =>
      let es := s.ranked t
      match s.writingAll (es.map QEntry.task) (if first then [] else s.evt.data) with
      | none => (none, s)
      | some outs =>
        let inc := bit x 0 && t.image != 0
        let bars := s.bindings t
        let ms : List MemberImage := (es.zip outs).map (fun p => s.memberImage t inc p.1 p.2)
        let (m, len, dig) := s.teamImage t ms bars inc (if inc then t.image else 0)
        match homes.foldl (fun (q : Option State) h => q.bind (fun s => s.putArea n h (addrOff a) len m)) (some s) with
        | none => (some 5, s)
        | some s =>
          let s : State := if inc then ms.foldl (fun (s : State) (m : MemberImage) => match m.ctx with
              | some n => m.gran.foldl (fun s k => s.updDie (dieOf (coreOf n)) (fun d => { d with dirty := Sparse.erase d.dirty (dirtyNo n k) })) s
              | none => s) s
            else s
          let s : State := { s with
            portable := s.portable.filter (fun p => p.1 != dig) ++ [(dig, ms.map MemberImage.img, bars)]
            descs := ms.flatMap (fun m => newDescrs (m.img.ctx.records (m.ctx.getD 0) m.img.ctx.sched.time)) ++ s.descs }
          let w := BitVec.ofNat 64 (len <<< 8)
          if homes.any s.farArea then (none, s.updTeam t.key (fun y => { y with sending := some (addrCompact a, w) }))
          else (some w, s.updTeam t.key (fun y => { y with image := addrCompact a }))

/-! ### DSCAN -/

/-- DSCAN for an engine of context `n` on its die: the status word (R439, R443). -/
def State.dscan (s : State) (n : Nat) (a : W80) (b : W64) : W64 × State :=
  let d := dieOf (coreOf n)
  let start := bits b.toNat 0 32
  if 3153920 ≤ start ∨ badFormat a ∨ addrOff a % 4 ≠ 0 then (5, s)
  else
    let set := ((s.die d).dirty.filter (fun p => p.2 && decide (start ≤ p.1))).map Prod.fst
    let room := bits b.toNat 32 16 + 1
    let got := set.take room
    let next := if room < set.length then (got.getLast?.getD 0) + 1 else 3153920
    let m := layout 0 (got.mapIdx (fun i g => (4 * i, 4, g)))
    match s.putArea n (addrHome a) (addrOff a) (4 * got.length) m with
    | none => (5, s)
    | some _ =>
      let s := s.updDie d (fun x => { x with dirty := x.dirty.filter (fun p => !got.contains p.1) })
      let s := (s.putArea n (addrHome a) (addrOff a) (4 * got.length) m).getD s
      (BitVec.ofNat 64 (got.length <<< 8 + (next / 256) <<< 40), s)

/-! ### IMGR -/

/-- The image at an address, with the place of the next image in what other packages answered: `skip` bytes of `evt.data` are
used (R440). -/
def State.imageAt (s : State) (n : Nat) (a : W80) (skip : Nat) : Option Memory × Nat × State :=
  let home := addrHome a
  if home ≠ selfHome ∧ home < 24576 ∧ home / 4 ≠ s.pkg then
    let b := s.evt.data.drop skip
    let len := ofBytes ((b.drop 32).take 8)
    (if s.reaches (home / 4) then some (Memory.putAll [] 0 (b.take len)) else none, skip + len, s)
  else
    match s.getArea n home (addrOff a) 0x21000 with
    | (none, s) => (none, skip, s)
    | (some h, s) =>
      let (m, s) := s.getArea n home (addrOff a) (max 0x21000 (imgNat h 32 8 % 2 ^ 48))
      (m, skip, s)

/-- An image with the images that its incremental ranks depend on, oldest last; none when one is missing or malformed; with the bytes of
`evt.data` used. -/
def State.imageChain (s : State) (n : Nat) (a : W80) (skip fuel : Nat) : Option (List Memory) × Nat × State :=
  match fuel with
  | 0 => (none, skip, s)
  | fuel + 1 =>
    match s.imageAt n a skip with
    | (none, skip, s) => (none, skip, s)
    | (some m, skip, s) =>
      if !imageOk m then (none, skip, s)
      else
        let lacks := (imageRanks m).any (fun r => bit (imgNat m (r.2 + 35) 1) 2 && imgNat m (r.2 + 35) 1 % 4 != 3)
        if !lacks then (some [m], skip, s)
        else
          match s.imageChain n (addrOfCompact (BitVec.ofNat 64 (imgNat m 88 8))) skip fuel with
          | (some l, skip, s) => (some (m :: l), skip, s)
          | (none, skip, s) => (none, skip, s)

/-- Granule `g` of rank `r`: from the first image of the chain that holds it; an image that is not incremental ends the search
(R440). -/
def chainGranule (ms : List Memory) (r g : Nat) : Memory :=
  match ms with
  | [] => []
  | m :: rest =>
    match (imageRanks m).find? (fun x => x.1 == r) with
    | none => []
    | some (_, o) =>
      match imgGranule m o g with
      | some x => x
      | none => if bit (imgNat m (o + 35) 1) 2 then chainGranule rest r g else []

/-- Outputs that a rank image carries (R438), `k` from byte `o` on; the shape of one homed on another package is in what its home
answered, whose bytes left are `b` (log entry 106). -/
def State.carried (s : State) (m : Memory) (o k : Nat) (b : List Byte) : List Carried × List Byte :=
  match k with
  | 0 => ([], b)
  | k + 1 =>
    let r : W64 := BitVec.ofNat 64 (imgNat m o 8)
    let far := s.isRemote r
    let t := if far then some (tileOfBody (b.take farEntry)) else s.tile? r
    match t with
    | some t =>
      let (l, b) := s.carried m (o + 8 + t.region) k (if far then b.drop farEntry else b)
      ((r, carry m (o + 8) t.region 0, t.region) :: l, b)
    | none => ([], b)

/-- Give a carried output its content before its member resumes, unless it is VALID or FREED by now: here, or by messages to its home
(R441). -/
def State.putOutput (s : State) (d tid : Nat) (x : Carried) : State :=
  if s.isRemote x.1 then
    (List.range ((x.2.2 + 255) / 256)).foldl (fun s i =>
      s.tell d x.1 (23 + (256 * i) <<< 8) (Memory.getAll x.2.1 (256 * i) (min 256 (x.2.2 - 256 * i)))) (s.tell d x.1 (22 + tid <<< 8) [])
  else
    match s.tile? x.1 with
    | some y =>
      if y.state = 1 ∨ y.state = 2 then
        (s.fill y.loc x.2.2 (carry x.2.1 0 x.2.2 y.loc)).setTile x.1 { y with state := 2, prod := some (s.pkg, tid) }
      else s
    | none => s

/-- Bytes that the rings of a rank image carry. -/
def ringBytes (rs : List (Nat × Ring)) : Nat := (ringSpans rs).foldl (fun n x => n + x.2) 0

/-- The task of a rank image: as its member was when this package wrote it, else what the image names (R441; log
entry 17). -/
def State.restoredTask (s : State) (m : Memory) (o d : Nat) (img : FreezeImage) (outs : List W64) : Task :=
  match img.ctx.task with
  | some t => { t with born := s.clock - t.born, restored := true, pin := none }
  | none =>
    { tid := imgNat m (o + 8) 6, level := bits (imgNat m (o + 6) 2) 0 2, base := 0, born := s.clock, slept := 0, rebuilt := false,
      redispatched := false, restored := true, target := 0, pin := none, dataSec := s.dataSection d (BitVec.ofNat 64 (imgNat m (o + 16) 8)), apxIn := false, pkg := s.pkg
      desc := { image := BitVec.ofNat 64 (imgNat m (o + 16) 8), entry := 0, prio := 0, lvl := 0, exact := 0, ins := [], outs := outs,
                args := [], team := imgNat m 8 4, rank := bits (imgNat m (o + 6) 2) 4 12, tsize := imgNat m 16 4 % 8192, job := imgNat m 12 4 } }

/-- The members of a team are discarded with the team: contexts, entries, bindings, outputs in WRITING stay as they are
(R445). -/
def State.discardTeam (s : State) (t : Team) : State :=
  let s := (s.memberCtxs t).foldl State.abandon s
  let s := (s.members t).foldl (fun s e => match e.image with
    | some k => s.updDie t.die (fun x => { x with frozen := Sparse.erase x.frozen k })
    | none => s) s
  let s := s.dropEntries t.die (fun e => e.inTeam && e.task.desc.team == t.key)
  let s := s.updDie t.bindDie (fun d => { d with bars := d.bars.filter (fun p => p.2.team != t.key) })
  { s with teams := s.teams.filter (fun y => y.key != t.key) }

/-- Enqueue one rank of an image into queue `q` of die `d` (R440, R441), with what is left of the answers of other packages. -/
def State.putRank (s : State) (ms : List Memory) (known : List FreezeImage) (d q : Nat) (b : List Byte) (r o : Nat) : State × List Byte :=
  let m := ms.headD []
  let plain := chainGranule ms r 0 ++ chainGranule ms r 1
  let rings := ringsOf m o
  let img : FreezeImage := match known.find? (fun x => x.ctx.task.any (fun t => t.desc.rank == r)) with
    | some x => { x with plain := plain }
    | none => { ctx := s.ctxOf m o, plain := plain, rings := rings, slots := slotsOf m (tailStart m o) (ringSpans rings) }
  let (outs, b) := s.carried m (tailStart m o + ringBytes rings) (imgNat m (o + 44) 1) b
  let t := s.restoredTask m o d img (outs.map Prod.fst)
  let s := outs.foldl (fun s x => s.putOutput d t.tid x) s
  let k := (s.die d).imageNo
  let s := s.updDie d (fun x => { x with frozen := Sparse.set x.frozen k img })
  (s.enqueue d { queue := q, task := t, stat := .waiting, image := some k }, b)

/-- IMGR for an engine of context `n` (R440, R441, R443): the status word (log entry 112). -/
def State.imgr (s : State) (n : Nat) (a : W80) (sel : W64) : W64 × State :=
  if badFormat a ∨ addrOff a % 65536 ≠ 0 ∨ !s.selOk sel then (5, s)
  else
    let home := addrHome a
    let far := s.farArea home
    let unread := if far then !s.reaches (home / 4) else (s.areaPages n home (addrOff a) 0x21000 true false).1.isNone
    if unread then (5, s)
    else
      match s.imageChain n a 0 (2 ^ 48) with
      | (none, _, s) => (7, s)
      | (some ms, used, s) =>
        let m := ms.headD []
        let ranks := imageRanks m
        let d := selDie sel
        let q := selQueue sel
        let key := imgNat m 8 4
        if !ranks.all (fun r => ((List.range 4).findSome? (fun d => s.image? d (BitVec.ofNat 64 (imgNat m (r.2 + 16) 8)))).isSome) then (7, s)
        else if (s.team? key).any (fun t => t.state == 0) then (4, s)
        else
          let s := match s.team? key with | some t => s.discardTeam t | none => s
          let free := (List.range 4).foldl (fun k d => k + (s.freeOf d).length) 0
          let found := s.portable.find? (fun p => p.1 == BitVec.ofNat 384 (imgNat m 40 48))
          let bars := match found with | some p => p.2.2 | none => barsOf m key
          if free < ranks.length ∨ 4096 < (s.die d).bars.length + bars.length ∨ 16384 < (s.die d).entries.length + ranks.length then (6, s)
          else
            let known := match found with | some p => p.2.1 | none => []
            let tsize := imgNat m 16 4 % 8192
            let absent := (List.range tsize).filter (fun r => !ranks.any (fun x => x.1 == r))
            let t : Team := { key := key, job := imgNat m 12 4, die := d, queue := q, tsize := tsize, state := 2, ranks := List.range tsize,
                              ended := absent, bindDie := d, image := addrCompact a, placed := false, choice := none, masked := false,
                              first := ((s.die d).queue q).seq, reserved := [], since := s.clock, saved := bars, sending := none }
            let (s, _) := ranks.foldl (fun (x : State × List Byte) r => x.1.putRank ms known d q x.2 r.1 r.2)
              ({ s with teams := s.teams ++ [t] }, s.evt.data.drop used)
            let tid := match ranks.find? (fun r => r.1 == 0) with | some r => imgNat m (r.2 + 8) 6 | none => 0
            (BitVec.ofNat 64 (tid <<< 8), s.readyAll)

/-! ### The five operations -/

/-- The team that an operation names: of the issuer's job, on this package, not the issuer's own; or the status (R437). -/
def State.teamNamed (s : State) (a : W80) (by_ : Option (Nat × Nat)) : Except Nat Team :=
  match s.team? a.toNat with
  | none => .error 1
  | some t =>
    if a.toNat = 0 ∨ 2 ^ 32 ≤ a.toNat then .error 1
    else
      match by_ with
      | none => .ok t
      | some (job, own) => if t.job ≠ job then .error 1 else if own = t.key then .error 2 else .ok t

/-- A team operation from an engine of context `n`: its status word, or none while it goes on. `first` tells its start; `by_` the
job and the team of an issuing task's context (R429, R437, R443, R446). -/
def State.teamOp (s : State) (n : Nat) (by_ : Option (Nat × Nat)) (first : Bool) (op x : Nat) (a : W80) (b : W64) :
    Option W64 × State :=
  let status (r : Option Nat × State) : Option W64 × State := (r.1.map (fun k => BitVec.ofNat 64 k), r.2)
  let onTeam (f : Team → Option W64 × State) : Option W64 × State :=
    match s.teamNamed a by_ with
    | .error c => (some (BitVec.ofNat 64 c), s)
    | .ok t => f t
  match op with
  | 0x75 => onTeam (fun t => if bit x 0 then status (some (s.frzThaw t).1, (s.frzThaw t).2) else status (s.frz t))
  | 0x76 => onTeam (fun t => status (if first then s.drainStart t else s.drainPoll t))
  | 0x77 => let (w, s) := s.dscan n a b; (some w, s)
  | 0x78 => onTeam (fun t => s.imgw n x t (addrOfCompact b) first)
  | 0x79 => if first then (none, s) else let (w, s) := s.imgr n a b; (some w, s)
  | _ => (none, s)

/-- The job and the team of context `n`. -/
def Ctx.jobTeam (c : Ctx) : Nat × Nat := match c.task with | some t => (t.desc.job, t.desc.team) | none => (0, 0)

/-- Issue a team operation: a yield point whose result is a landing (R442). -/
def State.teamIssue (s : State) (op x : Nat) (a : W80) (b : W64) (d : BitVec 6) : State :=
  let n := s.cur
  let id := s.me.mem.nextId
  let by_ := s.me.jobTeam
  match (s.yieldOp (.team op x a b) d).teamOp n (some by_) true op x a b with
  | (some w, s) => s.opDone (some (n, id)) s.myDie w
  | (none, s) => s

/-- FRZ (R429, R430, R442). -/
def execFrz (p : Pred) (d a : BitVec 6) (s : State) : Host.Outcome State Fault Refusal :=
  act s p s.latchVerdict (fun s => s.teamIssue 0x75 0 ((s.me.g a).zeroExtend 80) 0 d)

/-- FRZ.thaw (R429, R442). -/
def execFrzThaw (p : Pred) (d a : BitVec 6) (s : State) : Host.Outcome State Fault Refusal :=
  act s p s.latchVerdict (fun s => s.teamIssue 0x75 1 ((s.me.g a).zeroExtend 80) 0 d)

/-- DRAIN (R431, R442). -/
def execDrain (p : Pred) (d a : BitVec 6) (s : State) : Host.Outcome State Fault Refusal :=
  act s p s.latchVerdict (fun s => s.teamIssue 0x76 0 ((s.me.g a).zeroExtend 80) 0 d)

/-- DSCAN (R442, R443). -/
def execDscan (p : Pred) (d : BitVec 6) (a : BitVec 5) (b : BitVec 6) (s : State) : Host.Outcome State Fault Refusal :=
  act s p s.latchVerdict (fun s => s.teamIssue 0x77 0 (s.me.a a) (s.me.g b) d)

/-- An address operand as a compact word; a malformed one as an address that no image may have. -/
def imageOperand (a : W80) : W64 := if badFormat a then 1 else addrCompact a

/-- IMGW (R442, R443). -/
def execImgw (p : Pred) (d a : BitVec 6) (b : BitVec 5) (inc bud : Bool) (s : State) : Host.Outcome State Fault Refusal :=
  act s p s.latchVerdict (fun s =>
    s.teamIssue 0x78 (b2n inc + 2 * b2n bud) ((s.me.g a).zeroExtend 80) (imageOperand (s.me.a b)) d)

/-- IMGR (R442, R443): the image is read as the operation goes on. -/
def execImgr (p : Pred) (d : BitVec 6) (a : BitVec 5) (b : BitVec 6) (s : State) : Host.Outcome State Fault Refusal :=
  act s p s.latchVerdict (fun s => s.teamIssue 0x79 0 (s.me.a a) (s.me.g b) d)

/-! ### Answers -/

/-- A team operation's answer arrives, or the operation goes on a step (R442). -/
def State.teamArrival (s : State) (n : Nat) (r : Req) : Host.Outcome State Fault Refusal :=
  if r.performed then .next (s.dataArrival n r)
  else
    match r.op with
    | .team 0x7E _ a _ =>
      if s.reconfing (dieOf (coreOf n)) (some (n, r.id)) then .refused .notEnabled
      else
        (match s.reconfStart n (dieOf (coreOf n)) (some (n, r.id)) false a with
         | (some c, s) => .next (s.opDone (some (n, r.id)) 0 (BitVec.ofNat 64 c))
         | (none, t) => if t = s then .refused .notEnabled else .next t)
    | .team op x a b =>
      (match s.teamOp n (some (s.ctx n).jobTeam) false op x a b with
       | (some w, s) => .next (s.arrive n r (.ok (w.zeroExtend 2048, none)))
       | (none, t) => if t = s then .refused .notEnabled else .next t)
    | _ => .refused .notEnabled

/-- LATCH_DATA_ARRIVAL: the data, answer or fault of request `evt.m` of context `evt.n` arrives (R166, R206, R409, R442); that of an
operation on a version once its mirror holds the change (R510). -/
def execLatchDataArrival (s : State) : Host.Outcome State Fault Refusal :=
  let n := s.evt.n
  match s.req? n s.evt.m with
  | none => .refused .notEnabled
  | some r =>
    if r.acked then .refused .notEnabled
    else if r.op.isTeam then s.teamArrival n r
    else if r.op.isQueue then
      if (s.ctx n).queueFirst s.pkg (coreOf n) r then
        match s.queueApply n r with
        | (.ok w, s) => .next (s.arrive n r (.ok (w.zeroExtend 2048, none)))
        | (.error f, s) => .next (s.arrive n r (.error f))
      else .refused .notEnabled
    else if r.op.isLoad && (r.performed || r.fault.isSome) && !s.unmirrored r then .next (s.dataArrival n r)
    else .refused .notEnabled

/-! ### The control port (R446) -/

/-- Operations that the port performs. -/
def portOps : List Nat := [0x75, 0x76, 0x77, 0x78, 0x79, 0x7E]

/-- The address of a compact operand; bit 63 set makes no address. -/
def portAddr (w : W64) : W80 := if bit w.toNat 63 then addrWithHome 0 0 ||| (1 <<< 48) else addrOfCompact w

/-- A step of the control port of die `evt.n` for an operation: a go with cpop `evt.m`, cpa `evt.w` and cpb `evt.v` starts it, and
while go reads 1 the step carries it on (R446). -/
def State.portStep (s : State) (op : Nat) : Host.Outcome State Fault Refusal :=
  let d := s.evt.n
  let x := (s.die d).port
  let n := 4 * (256 * d)
  if 4 ≤ d || !s.online d then .refused .notEnabled
  else
    let first := !x.go
    let w : W64 := if first then BitVec.ofNat 64 s.evt.m else x.op
    let a := if first then s.evt.w else x.a
    let b := if first then s.evt.v else x.b
    let k := w.toNat % 256
    let s1 := s.updDie d (fun y => { y with port := { y.port with op := w, a := a, b := b, go := true } })
    if first && !portOps.contains k then .next (s1.opDone none d noTaskWord)
    else if k ≠ op then .refused .notEnabled
    else if op = 0x7E then
      if s.reconfing d none then .refused .notEnabled
      else
        match s1.reconfStart n d none first (portAddr a) with
        | (some c, s) => .next (s.opDone none d (BitVec.ofNat 64 c))
        | (none, t) => if !first && t = s1 then .refused .notEnabled else .next t
    else
      let operand : W80 := if op = 0x77 ∨ op = 0x79 then portAddr a else a.zeroExtend 80
      match s1.teamOp n none first op (bits w.toNat 8 4) operand (if op = 0x78 && bit b.toNat 63 then 1 else b) with
      | (some r, s) => .next (s.opDone none d r)
      | (none, t) => if !first && t = s then .refused .notEnabled else .next t

/-- CONTROL_PORT_FRZ (R446). -/
def execControlPortFrz (s : State) : Host.Outcome State Fault Refusal := s.portStep 0x75

/-- CONTROL_PORT_DRAIN (R446). -/
def execControlPortDrain (s : State) : Host.Outcome State Fault Refusal := s.portStep 0x76

/-- CONTROL_PORT_DSCAN (R446). -/
def execControlPortDscan (s : State) : Host.Outcome State Fault Refusal := s.portStep 0x77

/-- CONTROL_PORT_IMGW (R446). -/
def execControlPortImgw (s : State) : Host.Outcome State Fault Refusal := s.portStep 0x78

/-- CONTROL_PORT_IMGR (R446). -/
def execControlPortImgr (s : State) : Host.Outcome State Fault Refusal := s.portStep 0x79

/-- CONTROL_PORT_RECONF (R446). -/
def execControlPortReconf (s : State) : Host.Outcome State Fault Refusal := s.portStep 0x7E

/-! ### Checkpoints -/

/-- The lowest-numbered online die. -/
def State.firstDie (s : State) : Nat := ((List.range 4).find? s.online).getD 0

/-- CHECKPOINT_TRIGGER: the period of job `evt.n` elapsed, or its step counter reached a multiple of its step count since: control core 0
gets an event, of its own kind when the job has no area (R444, R447). -/
def execCheckpointTrigger (s : State) : Host.Outcome State Fault Refusal :=
  let j := s.job s.evt.n
  let byTime := decide (0 < j.period ∧ j.last + j.period ≤ s.clock)
  let byStep := decide (0 < j.every ∧ j.steps / j.every ≠ j.lastStep / j.every)
  if !byTime && !byStep then .refused .notEnabled
  else
    let s := s.updJob s.evt.n (fun j => { j with last := s.clock, lastStep := j.steps })
    let d := s.firstDie
    if j.area = 0 then .next (s.controlEvent d (256 * d) 0 7 0)
    else .next { s with out := s.out ++ [.control d (BitVec.ofNat 256 (2 ^ 64 + s.evt.n))] }

end Sys2Proof.Machine
end

