-- ==== Sys2Proof/Machine/Loss.lean ====
section
/-! DEFINITION. Engine faults, lost dies, acting homes and the buddy ring (R144, R185, R445, R505, R508 to R511). -/

namespace Sys2Proof.Machine

/-! ### Teams that lose a member (R445) -/

/-- Operations on a team end with code 0x08: a member's core or die was lost (R437). -/
def State.opsLost (s : State) (key : Nat) : State :=
  let names (op : Nat) (a : W80) : Bool := (op == 0x75 || op == 0x76 || op == 0x78) && a.toNat == key
  let s := s.ctxs.foldl (fun s c => s.updCtx c.1 (fun x => { x with mem := { x.mem with reqs := x.mem.reqs.map (fun r =>
    match r.op with
    | .team op _ a _ => if names op a && !r.performed then { r with data := toBytes 8 8, performed := true } else r
    | _ => r) } })) s
  (List.range 4).foldl (fun s d =>
    let x := (s.die d).port
    if x.go && names (x.op.toNat % 256) (x.a.zeroExtend 80) then s.opDone none d 8 else s) s

/-- The checkpoint directory of a job's area, or of its copy at the buddy home (R447): an area on another package is read by the
step (`evt.data`). -/
def State.checkpointItems (s : State) (n : Nat) (area : W64) : Option Memory :=
  let home := bits area.toNat 48 15
  let off := area.toNat % 2 ^ 48
  if home / 4 ≠ s.pkg then some (Memory.putAll [] 0 (s.evt.data.take 262144))
  else
    match (s.getArea n home off 262144).1 with
    | some m => some m
    | none => (s.buddyOf home).bind (fun h =>
        if h / 4 = s.pkg then (s.getArea n h off 262144).1 else some (Memory.putAll [] 0 (s.evt.data.take 262144)))

/-- The team's checkpoint directory item names a complete image (R445, R447). -/
def State.hasImage (s : State) (t : Team) : Bool :=
  let area := (s.job t.job).area
  if area = 0 then false
  else
    match s.checkpointItems (1024 * s.firstDie) area with
    | some m => (List.range 4096).any (fun i => imgNat m (64 * i) 4 == t.key && bit (imgNat m (64 * i + 4) 1) 0)
    | none => false

/-- An entry restarts from its launch state: its outputs return to FUTURE, its context is free (R45, R144, R445). -/
def State.restart (s : State) (d : Nat) (e : QEntry) : State :=
  let s := match e.image with
    | some k => s.updDie d (fun x => { x with frozen := Sparse.erase x.frozen k })
    | none => s
  s.redispatch d e

/-- A team loses a member's unit: with an image it is discarded and firmware resumes it by IMGR, else it restarts as a whole
(R445). -/
def State.shrink (s : State) (t : Team) : State :=
  let s := s.opsLost t.key
  if s.hasImage t then s.discardTeam t
  else
    let s := (s.members t).foldl (fun s e => s.restart t.die e) s
    let s := s.updDie t.bindDie (fun d => { d with bars := d.bars.filter (fun p => p.2.team != t.key) })
    s.updTeam t.key (fun x => { x with placed := false, state := 0, reserved := [], choice := none, saved := [] })

/-- An entry is on a core: running, or in its local queue (R508). -/
def QEntry.onCore (e : QEntry) (lost : Nat → Bool) : Bool :=
  match e.stat with
  | .running n => lost (coreOf n)
  | .loc c _ => lost c
  | .parked c _ _ => lost c
  | _ => false

/-- Teams with a member on a core that a test meets. -/
def State.teamsOn (s : State) (lost : Nat → Bool) : List Team :=
  s.teams.filter (fun t => (s.members t).any (fun e => e.onCore lost))

/-- Tasks of the queues of dies `ds` that run or are queued on lost cores go back to their queues (R144, R508). -/
def State.redispatchOn (s : State) (ds : List Nat) (lost : Nat → Bool) : State :=
  ds.foldl (fun s d => ((s.die d).entries.filter (fun e => e.onCore lost)).foldl (fun s e => s.restart d e) s) s

/-- A core goes offline with what it runs (R508). -/
def State.coreOff (s : State) (c : Nat) : State :=
  let s := [0, 1, 2, 3].foldl (fun s i => s.setCtx (4 * c + i) Ctx.reset) s
  let rest := s.sage.queue.filter (fun q => q.1 != c)
  ({ s with sage := { s.sage with queue := rest } }).updCore c (fun _ => { Core.reset with offline := true })

/-- References of this package's directories whose storage a test meets. -/
def State.storedOn (s : State) (f : Nat → Bool) : List W64 :=
  s.dies.flatMap (fun d => (d.2.tiles.filter (fun p => p.2.state != 6 && f p.2.loc)).map (fun p => BitVec.ofNat 64 p.1))

/-- ENGINE_FAULT: core `evt.n` goes offline: teams with a member there are shrunk, its tasks are re-dispatched, the versions in its
tile window take content destroyed (R508, R445). -/
def execEngineFault (s : State) : Host.Outcome State Fault Refusal :=
  let c := s.evt.n
  if 1024 ≤ c || (s.core c).offline || !s.online (dieOf c) then .refused .notEnabled
  else
    let s := (s.teamsOn (fun k => k == c)).foldl State.shrink s
    let s := s.redispatchOn [0, 1, 2, 3] (fun k => k == c)
    let s := s.coreOff c
    let lo := windowBase c
    .next ((s.storedOn (fun a => decide (lo ≤ a ∧ a < lo + 0x180000))).foldl State.destroyed s).readyAll

/-! ### Lost dies -/

/-- The mirror entry of a lost home takes its place at the acting home `b`; `gone` tells whether a place of storage was lost with
the die (R510). Where the acting home has no storage free, which the spec does not settle, a version not yet written is LOST without
lineage, and a replicated one keeps its replica, from which a VALID one is restored once storage is free (log entry 91). -/
def State.promote (s : State) (b : Nat) (gone : Nat → Bool) (r : W64) (t : Tile) : State :=
  if !gone t.loc && t.state != 4 then s.setTile r t
  else
    match t.state, s.hbmPlace b t.region with
    | 1, (some a, s) => (s.setTile r { t with loc := a }).zeroFill { t with loc := a }
    | 2, (some a, s) =>
      let x := { t with loc := a, state := 1, kept := false }
      ((s.setTile r x).zeroFill x).redispatchTid r t.prod
    | 1, (none, _) => s.setTile r { t with state := 4, dead := true }
    | 2, (none, _) => (s.setTile r { t with state := 4, dead := true, kept := false }).redispatchTid r t.prod
    | 5, _ => (s.setTile r { t with state := 4 }).askRecovery r t.wprio
    | 4, _ => if t.recoverable then (s.setTile r t).askRecovery r t.wprio else s.setTile r t
    | st, place =>
      match t.repl, Sparse.find? (s.die b).replicas r.toNat, place with
      | true, some c, (some a, s) =>
        let x := { t with loc := a, depth := 0, repl := false, kept := decide (st = 6) }
        (((s.zeroFill x).writeMem a c).setTile r x).recopyTile r
      | true, some _, (none, _) =>
        if st = 3 then (s.setTile r { t with state := 4 }).askRecovery r t.wprio else s.setTile r t
      | _, _, _ =>
        let x := { t with state := if st = 3 then 4 else st, repl := false, kept := false }
        if st = 3 ∧ x.recoverable then (s.setTile r x).askRecovery r x.wprio else s.setTile r x

/-- Die `b` becomes acting home and acting shard of the lost homes of a list: mirrored record sets become its own, mirrored
entries its entries, both mirrored to its own buddy home (R510, R511, R514). -/
def State.actFor (s : State) (b : Nat) (homes : List Nat) (gone : Nat → Bool) : State :=
  let ours (r : Nat) : Bool := homes.contains (refHome (BitVec.ofNat 64 r))
  let s := s.updDie b (fun x => { x with lin := { x.lin with acts := x.lin.acts.filter (fun h => !homes.contains h) ++ homes } })
  let mine := ((s.die b).mirror.filter (fun p => ours p.1))
  let recs := ((s.die b).lin.mirror.filter (fun p => ours p.1))
  let s := s.updDie b (fun x => { x with
    mirror := x.mirror.filter (fun p => !ours p.1)
    lin := { x.lin with mirror := x.lin.mirror.filter (fun p => !ours p.1) } })
  let (s, at_) := recs.foldl (fun (q : State × Sparse Nat) (p : Nat × LinRec) =>
    let i := (q.1.die b).lin.nextRec
    ((q.1.updDie b (fun x => { x with lin := { x.lin with
      home := Sparse.set x.lin.home i p.2, nextRec := (i + 1) % 4194304, used := x.lin.used + p.2.size } })).mirrorRecord b p.2,
      Sparse.set q.2 p.1 i)) (s, [])
  mine.foldl (fun s p => s.promote b gone (BitVec.ofNat 64 p.1) { p.2 with linrec := Sparse.get 0xFFFFFFFF at_ p.1 }) s

/-- An image that die `d` sealed is held at its buddy home too; to another package its file is sent in parts (R505). -/
def State.sendImage (s : State) (d : Nat) (i : Image) : State :=
  match s.buddy d with
  | none => s
  | some (p, b) =>
    if p = s.pkg then s.updDie b (fun y => { y with images := y.images.filter (fun x => x.handle != i.handle) ++ [i] })
    else
      let bytes := toBytes 8 i.dataAt.toNat ++ toBytes 1 (b2n i.sys) ++ toBytes 4 i.file.length ++ i.file
      let k := ceilDiv bytes.length 256
      (List.range k).foldl (fun s j =>
        s.tellBuddy d i.handle (27 + j <<< 8 + b2n (decide (j + 1 = k)) <<< 56) ((bytes.drop (256 * j)).take 256)) s

/-- Copy what die `d` keeps for its homes to its buddy home as it is now: entries, record sets, replicas, images. With `lost` the old
replicas are gone, and repl reads 0 until the new ones are acknowledged; copies under way begin again (R505, R511). -/
def State.recopy (s : State) (d : Nat) (lost : Bool) : State :=
  let s := (s.die d).tiles.foldl (fun s p =>
    let r : W64 := BitVec.ofNat 64 p.1
    let t := { p.2 with repl := p.2.repl && !lost }
    let s := s.setTile r t
    if (p.2.repl && p.2.state == 3) || s.copying r || p.2.kept then s.recopyTile r
    else
      match t.repl, (List.range 4).findSome? (fun b => Sparse.find? (s.die b).replicas p.1), s.buddy d with
      | true, some c, some (q, b) =>
        if q = s.pkg then s.updDie b (fun x => { x with replicas := Sparse.set x.replicas p.1 c }) else s.injectTile d q b r c
      | _, _, _ => s) s
  let s := (s.die d).lin.home.foldl (fun s p => s.mirrorRecord d p.2) s
  ((s.die d).images.filter (fun i => bits i.handle.toNat 49 15 == dieKey s.pkg d)).foldl (fun s i => s.sendImage d i) s

/-- Accepted tasks of a lost die go to the queue of the same number on its mirror die in ascending task id, an instance of one that runs
on another die ending; without a mirror die they are lost, their outputs released (R142, R144). -/
def State.rehome (s : State) (x : Nat) (es : List QEntry) (dst : Option Nat) : State :=
  match dst with
  | some m => (sortBy (fun e : QEntry => e.task.tid) es).foldl (fun s e =>
      let s := s.outputsLost m e
      let s := match e.stat with
        | .running n => if dieOf (coreOf n) = x then s else s.abandon n
        | _ => s
      s.enqueue m e.again)
        { s with teams := s.teams.map (fun t => if t.die = x then { t with die := m, bindDie := m, placed := false } else t) }
  | none => es.foldl (fun s e => e.task.desc.outs.foldl (fun s r => s.released (s.pkg, e.task.tid) r) s)
      { s with teams := s.teams.filter (fun t => t.die != x) }

/-- What is left of a lost die: the numbers of its tile versions, none of which is allocated twice (R36). -/
def Die.lost (x : Die) : Die :=
  { Die.reset with offline := true, boot := x.boot, resetAt := x.resetAt, versions := x.versions, nextTile := x.nextTile, gens := x.gens }

/-- Requests to a lost die are reported with UNREACH (R185, R473). -/
def State.requestsLost (s : State) (home : Nat) : State :=
  s.ctxs.foldl (fun s c => s.updCtx c.1 (fun x => { x with mem := { x.mem with reqs := x.mem.reqs.map (fun r =>
    if r.home = home ∧ r.isMem ∧ !r.performed ∧ r.fault.isNone then
      { r with fault := some { cause := cUNREACH, taddr := addrCompact r.base }, performed := true }
    else r) } })) s

/-- A die of this package is lost, which every package of the domain is told (R144, R445, R509, R510, R511). -/
def State.loseDie (s : State) (x : Nat) : State :=
  let t0 := s.clock
  let on (c : Nat) : Bool := dieOf c == x
  let stored (a : Nat) : Bool := bits a 44 2 == x
  let s := (s.teamsOn on).foldl State.shrink s
  let old := s.die x
  let others := (List.range 4).filter (fun d => d != x && s.online d)
  let mirrored := others.filter (fun d => s.buddy d == some (s.pkg, x))
  let buddy := s.buddy x
  let homes := dieKey s.pkg x :: old.lin.acts
  let s := s.redispatchOn others on
  let es := ((s.die x).entries ++ (s.die x).waitEntry).filter (fun e => e.queue < 64)
  let s := ((List.range 256).map (fun i => 256 * x + i)).foldl State.coreOff s
  let s := s.updDie x Die.lost
  let s := { s with mem := Memory.splice s.mem (x <<< 44) ((x + 1) <<< 44) [] }
  let s := s.requestsLost (dieKey s.pkg x)
  let s := match buddy with
    | some (p, b) => if p = s.pkg then s.actFor b homes stored else s
    | none => s
  let s := (s.storedOn stored).foldl State.destroyed s
  let s := mirrored.foldl (fun s d => s.recopy d true) s
  let s := s.rehome x es (s.nextOnline x)
  (({ s with out := s.out ++ (s.fab.ring.filter (fun p => p != s.pkg)).map (fun p =>
      Out.report p (BitVec.ofNat 64 (2 ^ 33 + dieKey s.pkg x))) } : State).event 0x10
    (match buddy with | some (p, b) => if p = s.pkg then b else s.firstDie | none => s.firstDie) 0 false 0 t0 s.clock
    (x + (s.pkg % 8192) <<< 2)).readyAll

/-- A message between homes that a lost die has not acknowledged goes to the die that acts for it; what was for its mirror is copied
afresh (R499, R510, R511). -/
def State.resend (s : State) (d : Nat) (p : Packet) : State :=
  let v := p.aux.toNat
  if [0, 1, 18, 19, 20, 27].contains (v % 256) then s
  else if [12, 15, 24].contains (v % 256) then
    s.inject d p.dpkg.toNat (s.taskDie p.dpkg.toNat (if v % 256 = 24 then 0 else bits v 8 48)) 1 0x05 p.ord p.addr p.aux p.body
  else s.tell d p.addr v p.body

/-- Packets of die `d` to a lost die of another package: reported as undeliverable (R473, R509). -/
def State.dropPackets (s : State) (d home : Nat) : State :=
  let e := (s.die d).e2e
  let dead (p : Packet) : Bool := !p.mc && destKey p == home
  let s := s.updDie d (fun x => { x with e2e := { e with store := e.store.filter (fun p => !dead p), waiting := e.waiting.filter (fun p => !dead p) } })
  (((e.store ++ e.waiting).filter dead).foldl (fun s p => if homeMessage p then s.resend d p else s.lost p) s).release d

/-- What waits here for versions of a lost home of another package is told to the die that acts for it (R149, R394, R510). -/
def State.watchAgain (s : State) (home : Nat) : State :=
  (List.range 4).foldl (fun s d =>
    let refs := (s.die d).entries.flatMap (fun e => match e.stat with
      | .waiting => e.task.desc.ins
      | .parked _ r _ => [r]
      | _ => [])
    (distinct (refs.filter (fun r => refHome r == home && s.isRemote r))).foldl (fun s r => s.tell d r 26 []) s) s

/-- With the last die of another package its tasks are lost, whose records no die of it mirrors: outputs here that they were assigned
become unassigned (R144). -/
def State.packageLost (s : State) (p : Nat) : State :=
  if [0, 1, 2, 3].all (fun d => s.fab.gone.contains (dieKey p d)) then
    s.dies.foldl (fun s d => d.2.tiles.foldl (fun s t =>
      match t.2.prod with
      | some q => if q.1 = p then s.released q (BitVec.ofNat 64 t.1) else s
      | none => s) s) s
  else s

/-- The loss of a die of another package of the domain is heard (R509): a die of this package that is its buddy home acts for it;
homes whose buddy home it was take a new one (R510, R511). -/
def State.hearLoss (s : State) (home : Nat) : State :=
  let t0 := s.clock
  let on := (List.range 4).filter s.online
  let mirrored := on.filter (fun d => (s.buddy d).map (fun b => dieKey b.1 b.2) == some home)
  let heir := s.buddyOf home
  let s := { s with fab := { s.fab with gone := s.fab.gone ++ [home] } }
  let s := on.foldl (fun s d => s.dropPackets d home) s
  let s := match heir with
    | some k => if k / 4 = s.pkg then s.actFor (k % 4) [home] (fun _ => true) else s
    | none => s
  let s := ((mirrored.foldl (fun s d => s.recopy d true) s).packageLost (home / 4)).watchAgain home
  (s.event 0x10 (match heir with | some k => if k / 4 = s.pkg then k % 4 else s.firstDie | none => s.firstDie) 0 false 0 t0 s.clock (home % 4 + (home / 4 % 8192) <<< 2)).readyAll

/-- DIE_LOSS: die `evt.m` of package `evt.n` is declared lost, or its heartbeats failed for 2^20 cycles (R509). -/
def execDieLoss (s : State) : Host.Outcome State Fault Refusal :=
  let home := dieKey s.evt.n s.evt.m
  if 4 ≤ s.evt.m ∨ 6144 ≤ s.evt.n then .refused .notEnabled
  else if s.evt.n = s.pkg then (if s.online s.evt.m then .next (s.loseDie s.evt.m) else .refused .notEnabled)
  else if s.fab.gone.contains home then .refused .notEnabled
  else .next (s.hearLoss home)

/-- BUDDY_RING_CHANGE: firmware sets the buddy ring to the packages of `evt.list`, each with a mask of its lost dies; every home
copies what it keeps to its new buddy home. The old copies serve until the new ones are acknowledged (R185, R505). -/
def execBuddyRingChange (s : State) : Host.Outcome State Fault Refusal :=
  let on := (List.range 4).filter s.online
  let old := on.map (fun d => (d, s.buddy d))
  let s := { s with fab := { s.fab with
    ring := sortBy id (distinct (s.evt.list.map Prod.fst))
    gone := s.evt.list.flatMap (fun p => ([0, 1, 2, 3].filter (bit p.2)).map (fun d => dieKey p.1 d)) } }
  .next (old.foldl (fun s p => if s.buddy p.1 = p.2 then s else s.recopy p.1 false) s)

end Sys2Proof.Machine
end

