-- ==== Sys2Proof/Machine/Seal.lean ====
section
/-! DEFINITION. Sealing (R128, R136, R137): a file becomes an image of a die, held by its buddy home too, and reaches other dies. -/

namespace Sys2Proof

namespace Machine

/-- Extend a measurement register (R539). -/
def Die.extend (x : Die) (i : Nat) (d : BitVec 384) : Die :=
  { x with meas := Sparse.set x.meas i (Config.sha384 (toBytes 48 (Sparse.get 0 x.meas i).toNat ++ toBytes 48 d.toNat)) }

/-- Seal a file on die `d` under image number `num`, a new one for 0: the report or the handle, and the state. Data section bytes
go to package-local address `place`, which the compact address `dataAt` names (R128, R136, R137, R505). -/
def State.seal (s : State) (d num : Nat) (m : File) (len : Nat) (own : Bool) (dataAt : W64) (place : Nat) : Except (List Byte) W64 × State :=
  let x := s.die d
  let digest := Config.sha384 (Memory.getAll m 0 len)
  let sys := bit (imgNat m 6 2) 0 && (own || x.sysList.contains digest)
  let num := if num = 0 then (x.gens.foldl (fun k p => max k p.1) 0) + 1 else num
  let gen := Sparse.get 0 x.gens num
  match scan m len sys (decide (65535 ≤ gen)) with
  | [] =>
    let h : W64 := BitVec.ofNat 64 ((dieKey s.pkg d) <<< 49 + num <<< 16 + (gen + 1))
    let i := sealedImage m len h sys (if imgNat m 24 4 = 0 then 0 else dataAt)
    let s := s.updDie d (fun y => ({ y with images := y.images ++ [i], gens := Sparse.set y.gens num (gen + 1) } : Die))
    let s := if sys then s.updDie d (fun y => y.extend 7 digest) else s
    let s := s.sendImage d i
    (.ok h, s.writeMem place i.data)
  | l => (.error (refusalReport l), s)

/-- IMAGE_COPY_COMPLETE: the image `evt.w` that a task of die `evt.n` needs arrives: from a die of this package that holds it, else from
its home on another package, whose image file the step brings. With `evt.flag` its digest does not match what Signet recorded: the
copy is not used, and the tasks that wait for the image are refused with cause NOSEAL (R127, R505; log entry 63). An image file from
another package follows the 48 bytes of the digest that its home recorded. -/
def execImageCopyComplete (s : State) : Host.Outcome State Fault Refusal :=
  let d := s.evt.n
  let h := s.evt.w
  let file := s.evt.data.drop 48
  let m := Memory.putAll [] 0 file
  let i := sealedImage m file.length h (bit (imgNat m 6 2) 0) s.evt.v
  let away := decide (bits h.toNat 49 15 / 4 ≠ s.pkg) && (List.range 4).all (fun x => (s.image? x h).isNone)
  let wants := (s.die d).entries.any (fun e => e.task.desc.image == h) || s.ctxs.any (fun c => dieOf (coreOf c.1) == d && c.2.imageHandle == h)
  if 4 ≤ d || !s.online d || (s.image? d h).isSome || !wants then .refused .notEnabled
  else if s.evt.flag || (away && i.digest != BitVec.ofNat 384 (ofBytes (s.evt.data.take 48))) then
    let gone := (s.die d).entries.filter (fun e => e.task.desc.image == h && (match e.stat with | .running n => dieOf (coreOf n) == d | _ => true))
    let s := gone.foldl (fun s e => e.task.desc.outs.foldl (fun s r => s.unassign d e.task.tid r) s) s
    let s := gone.foldl (fun s e => match e.stat with | .running n => ((s.unbindAll n).setCtx n (s.ctx n).freed).dropRings n | _ => s) s
    .next ((s.dropEntries d (fun e => gone.contains e)).updDie d (fun x => { x with
      withdrawn := x.withdrawn ++ gone.map (fun e => (e.task.tid, rNOSEAL)) })).readyAll
  else if away then .next (s.updDie d (fun x => { x with images := x.images ++ [i] }))
  else
    match (List.range 4).findSome? (fun x => s.image? x h) with
    | some i => .next (s.updDie d (fun x => { x with images := x.images ++ [i] }))
    | none => .refused .notEnabled

end Machine

end Sys2Proof
end

