-- ==== Sys2Proof/Machine/Host.lean ====
section
/-! DEFINITION. The host attachment (R532 to R537), the mailbox (R538), the power limit (R542), the coolant, the management port
(R543), fatal errors (R544), boot (R539, R540), attestation (R541) and package reset (R546). -/

namespace Sys2Proof.Machine

/-! ### Power limit -/

/-- Change the host side; when P changes, firmware writes Sage's budget and every core's pwr_lim (R542). -/
def State.withLimit (s : State) (f : HostSide → HostSide) : State :=
  let h := f s.host
  let p := h.limit
  if p = s.host.limit then { s with host := h }
  else
    { s with
      host := h
      sage := { s.sage with budget := 100 * (p - 2660) }
      cores := (List.range 1024).map (fun i => (i, ({ s.core i with pwrLim := max 64 (2560 * p / 3400) } : Core))) }

/-! ### Host requests -/

/-- The die that serves BAR0 and the job queue: D0, or the lowest ready die when D0 failed (R540). -/
def State.serving (s : State) : Option Nat :=
  if s.online 0 then some 0
  else
    let x := s.die 0
    let booting := decide (x.boot < 3 ∧ s.clock < x.resetAt + 2 ^ 33)
    if booting then none else [1, 2, 3].find? s.online

/-- A host request is served (R540). -/
def State.hosted (s : State) (f : State → State) : Host.Outcome State Fault Refusal :=
  if s.serving.isSome then .next (f s) else .refused .notEnabled

/-- Any job of the package runs: one that was launched and has not ended, or a task (R533). -/
def State.jobRuns (s : State) : Bool :=
  !s.jobs.isEmpty || s.dies.any (fun d => !d.2.entries.isEmpty || !d.2.waitEntry.isEmpty)

/-- The jobs of the package: those launched and those that created versions homed here. -/
def State.jobIds (s : State) : List Nat :=
  distinct (s.jobs.map Prod.fst ++ s.dies.flatMap (fun d => d.2.tiles.map (fun t => t.2.job)))

/-- OWNER_WRITE: the host writes `evt.v` to owner. A write of 0 releases: every job ends, the job queue and event ring registers are
cleared (R534). -/
def execOwnerWrite (s : State) : Host.Outcome State Fault Refusal :=
  let v := s.evt.v
  s.hosted (fun s =>
    if v = 0 then
      let s := s.jobIds.foldl State.endJob s
      { s with host := { s.host with
          owner := 0, jqbase := 0, jqsize := 0, jqtail := 0, jqhead := 0, eqbase := 0, eqsize := 0, eqtail := 0, eqhead := 0
          ringFull := false } }
    else if s.host.owner = 0 then { s with host := { s.host with owner := v } }
    else s)

/-- Give a job entry at memory address `a` its status, then its done bit (R535, R536). -/
def State.answerEntry (s : State) (a : Nat) (w : W64) : State :=
  (s.store (a + 24) (toBytes 8 w.toNat)).store (a + 32) [1]

/-- Firmware launches the root task of a job entry at memory address `a` (R165, R536). -/
def State.launchEntry (s : State) (a : Nat) : State :=
  let e := s.readNat a 64
  let rec_ := recWord e 0
  let sel := recWord e 64
  let bad := s.answerEntry a ((plainRefusal rTASKFMT).word 0)
  if !s.selOk sel then s.answerEntry a ((plainRefusal rQSEL).word 0)
  else if bits e 160 32 != 0 || bits e 257 255 != 0 || rec_.toNat % 256 != 0 then bad
  else
    match s.fwTranslate rec_ true false with
    | (none, _) => bad
    | (some pa, s) =>
      let (w, s) := s.launchRec sel (s.readNat pa 256)
      let s := if bit w.toNat 63 then s else s.updJob (bits e 128 32) id
      s.answerEntry a w

/-- Firmware takes `k` job entries from jqhead on (R536). An entry that does not translate is passed over. -/
def State.takeJobs (s : State) (k : Nat) : State :=
  match k with
  | 0 => s
  | k + 1 =>
    let h := s.host
    let (pa, s) := s.fwTranslate (h.jqbase + BitVec.ofNat 64 (64 * (h.jqhead % h.jqsize.toNat))) true true
    let s := match pa with | some a => s.launchEntry a | none => s
    { s with host := { s.host with jqhead := (s.host.jqhead + 1) % 2 ^ 32 } }.takeJobs k

/-- JOB_DOORBELL: the host writes tail `evt.n`. Firmware takes the entries up to it, or with `evt.flag` has not read it before a
later doorbell arrives (R536). -/
def execJobDoorbell (s : State) : Host.Outcome State Fault Refusal :=
  let n := s.evt.n % 2 ^ 32
  let later := s.evt.flag
  s.hosted (fun s =>
    let h := s.host
    let k := (n + 2 ^ 32 - h.jqhead) % 2 ^ 32
    if h.owner = 0 ∨ h.fatal ∨ h.jqsize.toNat < k then s
    else
      let s := { s with host := { h with jqtail := n } }
      if later then s else s.takeJobs k)

/-- EQHEAD_WRITE: the host writes `evt.n` to eqhead; MSI-X vector 1 follows when space returns (R537). -/
def execEqheadWrite (s : State) : Host.Outcome State Fault Refusal :=
  let n := s.evt.n % 2 ^ 32
  s.hosted (fun s =>
    let h := s.host
    let used := (h.eqtail + 2 ^ 32 - n) % 2 ^ 32
    if h.owner = 0 ∨ h.eqsize.toNat < used then s
    else if h.ringFull ∧ used < h.eqsize.toNat then
      { s with host := { h with eqhead := n, ringFull := false }, out := s.out ++ [.msix 1] }
    else { s with host := { h with eqhead := n } })

/-- PLIM_WRITE: the host writes `evt.v` to plim (R533, R542). -/
def execPlimWrite (s : State) : Host.Outcome State Fault Refusal :=
  let v := s.evt.v.toNat % 4096
  s.hosted (fun s => if s.host.owner = 0 then s else s.withLimit (fun h => { h with plim := v }))

/-! ### The mailbox -/

/-- Bytes of the mailbox as a number (R538). -/
def HostSide.mboxNat (h : HostSide) (off len : Nat) : Nat := ofBytes ((List.range len).map (fun i => Sparse.get 0 h.mbox (off + i)))

/-- Write mailbox bytes from `off` on. -/
def HostSide.putMbox (h : HostSide) (off : Nat) (bs : List Byte) : HostSide :=
  { h with mbox := (number off bs).foldl (fun m p => Sparse.put 0 m p.1 p.2) h.mbox }

/-- The command completes with a status: byte 4 cleared, bytes 5 to 7 written (R538). -/
def State.mboxDone (s : State) (status : Nat) : State :=
  { s with host := s.host.putMbox 4 (0 :: toBytes 3 status) }

/-- The host writes mailbox bytes; one to byte 4 while it holds 1 is discarded, and an unknown code completes at once
(R538). -/
def State.mboxWrite (s : State) (off : Nat) (bs : List Byte) : State :=
  let busy := s.host.mboxNat 4 1 == 1
  let ps := (number off bs).filter (fun p => !(busy && p.1 == 4) && decide (p.1 < 256))
  let h : HostSide := { s.host with mbox := ps.foldl (fun m p => Sparse.put 0 m p.1 p.2) s.host.mbox }
  let s : State := { s with host := h }
  let code := h.mboxNat 0 4
  if !busy && h.mboxNat 4 1 == 1 && !(decide (1 ≤ code) && decide (code ≤ 4)) then s.mboxDone 2 else s

/-- A mailbox command of code `c` waits (R538). -/
def State.mboxAwaits (s : State) (c : Nat) : Bool := s.serving.isSome && s.host.mboxNat 4 1 == 1 && s.host.mboxNat 0 4 == c

/-- BAR0_REGISTER_WRITE: the host writes `evt.v` to the register at `evt.n`, or the bytes `evt.data` from mailbox offset `evt.n` on
(R533, R534). Registers that are read-only and reserved offsets discard it. -/
def execBar0RegisterWrite (s : State) : Host.Outcome State Fault Refusal :=
  let off := s.evt.n
  let v := s.evt.v
  let bs := s.evt.data
  if [0x08, 0x20, 0x48, 0x50].contains off then .refused .notEnabled
  else s.hosted (fun s =>
    let h := s.host
    let free := !s.jobRuns
    if h.owner = 0 then s
    else
      match off with
      | 0x10 => if free then { s with host := { h with jqbase := v } } else s
      | 0x18 => if free then { s with host := { h with jqsize := v } } else s
      | 0x30 => if free then { s with host := { h with eqbase := v } } else s
      | 0x38 => if free then { s with host := { h with eqsize := v } } else s
      | o => if 0x100 ≤ o ∧ o < 0x200 then s.mboxWrite (o - 0x100) bs else s)

/-- SEAL: Signet seals an image file and delivers the handle or the refusal report to whoever asked (R128, R135, R538). `evt.data`
is the file, `evt.m` its image number (0 for a new one), `evt.v` and `evt.k` the compact and the physical address of its data
section. With `evt.flag` firmware of die `evt.n` seals an image of its own; else the mailbox asked. -/
def execSeal (s : State) : Host.Outcome State Fault Refusal :=
  let e := s.evt
  let file := Memory.putAll [] 0 e.data
  let answer (r : Except (List Byte) W64) : List Byte := match r with | .ok h => toBytes 8 h.toNat | .error b => b
  if e.flag then
    if 4 ≤ e.n || !s.online e.n then .refused .notEnabled
    else
      let (r, s) := s.seal e.n e.m file e.data.length true e.v e.k
      .next { s with out := s.out ++ [.answer 0 (answer r)] }
  else
    match s.serving with
    | none => .refused .notEnabled
    | some d =>
      if !s.mboxAwaits 1 || e.data.length != s.host.mboxNat 16 8 then .refused .notEnabled
      else
        let (r, s) := s.seal d e.m file e.data.length false e.v e.k
        .next (({ s with out := s.out ++ [.host (s.host.mboxNat 24 8) (answer r)] } : State).mboxDone 0)

/-- APERTURE: the BAR2 base, 1 GiB aligned (R538). -/
def execAperture (s : State) : Host.Outcome State Fault Refusal :=
  let a := s.host.mboxNat 8 8
  if !s.mboxAwaits 2 then .refused .notEnabled
  else if a % 2 ^ 30 != 0 then .next (s.mboxDone 1)
  else .next (({ s with host := { s.host with bar2 := BitVec.ofNat 64 a } } : State).mboxDone 0)

/-- DUMPREAD: copy fatal dump bytes to the host (R538, R543). -/
def execDumpread (s : State) : Host.Outcome State Fault Refusal :=
  let off := s.host.mboxNat 8 8
  let len := s.host.mboxNat 16 8
  if !s.mboxAwaits 3 then .refused .notEnabled
  else if s.host.dump.length < off + len then .next (s.mboxDone 1)
  else .next (({ s with out := s.out ++ [.host (s.host.mboxNat 24 8) ((s.host.dump.drop off).take len)] } : State).mboxDone 0)

/-- MEAS: a measurement register of a die, into mailbox bytes 8 to 55 (R538, R539; log entry 32). -/
def execMeas (s : State) : Host.Outcome State Fault Refusal :=
  let d := s.host.mboxNat 8 8
  let i := s.host.mboxNat 16 8
  if !s.mboxAwaits 4 then .refused .notEnabled
  else if 4 ≤ d ∨ 8 ≤ i then .next (s.mboxDone 1)
  else .next (({ s with host := s.host.putMbox 8 (toBytes 48 (Sparse.get 0 (s.die d).meas i).toNat) } : State).mboxDone 0)

/-! ### Fatal errors -/

/-- The fatal dump: its header, then the control-core states, bootst and the last 1,024 event records (R544). -/
def State.fatalDump (s : State) (cause : Nat) : List Byte :=
  let states := (List.range 4).flatMap (fun d => Config.controlCoreState d s.free)
  let body := states ++ toBytes 8 s.bootst.toNat ++ s.host.events.flatMap (fun r => toBytes 32 r.toNat)
  let mask := (List.range 4).foldl (fun m d => m + b2n (s.online d) <<< d) 0
  let len := min (64 + body.length) (2 ^ 28)
  let header := 0x504D4446 + (cause % 256) <<< 32 + mask <<< 40 + (s.clock % 2 ^ 64) <<< 64 + len <<< 128
  (toBytes 64 header ++ body).take (2 ^ 28)

/-- A fatal error of a cause: every core stops, the dump is written, MSI-X vector 2 and a management event are raised (R544). -/
def State.fatalError (s : State) (cause : Nat) : State :=
  let dump := s.fatalDump cause
  { s with
    host := { s.host with fatal := true, dump := dump }
    free := s.free + 1
    out := s.out ++ [.msix 2, .mgmt (dump.take 64)] }

/-- FATAL_ERROR: a thermal trip, a firmware fault without return, or an error in both copies of a firmware structure; `evt.n` is the
cause that the dump shows, whose codes the manual does not list (R544). -/
def execFatalError (s : State) : Host.Outcome State Fault Refusal :=
  if s.host.fatal then .refused .notEnabled else .next (s.fatalError s.evt.n)

/-- COOLANT_CONDITION_CHANGE: the inlet is at `evt.n` °C and the flow at `evt.m` tenths of a litre per minute. At 50 °C a fatal
error follows (R27, R542). -/
def execCoolantConditionChange (s : State) : Host.Outcome State Fault Refusal :=
  let e := s.evt
  let s := s.withLimit (fun h => { h with inlet := e.n, flow := e.m })
  .next (if 50 ≤ e.n && !s.host.fatal then s.fatalError e.k else s)

/-! ### The management port -/

/-- The PLDM sensors of the management port: the inlet in °C, the flow in tenths of a litre per minute, and by other numbers those whose
values the machine does not hold, the temperatures of dies and HBM stacks and the package power (R543; log entry 6). -/
def State.sensor (s : State) (k : Nat) : BitVec 32 :=
  match k with
  | 0 => BitVec.ofNat 32 s.host.inlet
  | 1 => BitVec.ofNat 32 s.host.flow
  | k => Config.sensor k s.free

/-- READ_EVENTS: the records of the management queue from sequence number `evt.n` on; with `evt.flag` the port reads sensor `evt.m` (R537,
R543). -/
def execReadEvents (s : State) : Host.Outcome State Fault Refusal :=
  if s.evt.flag then .next { s with free := s.free + 1, out := s.out ++ [.mgmt (toBytes 4 (s.sensor s.evt.m).toNat)] }
  else
  let from_ (r : BitVec 256) : Bool := decide ((bits r.toNat 224 32 + 2 ^ 32 - s.evt.n % 2 ^ 32) % 2 ^ 32 < 2 ^ 31)
  .next { s with out := s.out ++ [.mgmt ((s.host.events.filter from_).flatMap (fun r => toBytes 32 r.toNat))] }

/-- READ_DUMP: `evt.m` bytes of the fatal dump from offset `evt.n` (R543). -/
def execReadDump (s : State) : Host.Outcome State Fault Refusal :=
  .next { s with out := s.out ++ [.mgmt ((s.host.dump.drop s.evt.n).take s.evt.m)] }

/-- A die begins to reset: it has lost its lineage and directory, and the allocated version numbers stay (R36, R543). -/
def Die.restart (x : Die) (clock : Nat) : Die := { x.lost with boot := 0, resetAt := clock }

/-- RESET_DIE: die `evt.n` is declared lost, then reset; its boot follows (R509, R539, R543). -/
def execResetDie (s : State) : Host.Outcome State Fault Refusal :=
  let d := s.evt.n
  if 4 ≤ d then .refused .notEnabled
  else
    let s := if s.online d then s.loseDie d else s
    .next (s.updDie d (fun x => x.restart s.clock))

/-- SET_LIMIT: the management limit becomes `evt.n` W (R542, R543). -/
def execSetLimit (s : State) : Host.Outcome State Fault Refusal :=
  .next (s.withLimit (fun h => { h with mgmtLim := s.evt.n }))

/-- IDENTIFY: ident and bootst (R543). -/
def execIdentify (s : State) : Host.Outcome State Fault Refusal :=
  .next { s with out := s.out ++ [.mgmt (toBytes 8 (s.bar0 0).toNat ++ toBytes 8 (s.bar0 0x60).toNat)] }

/-! ### Attestation -/

/-- Answer SPDM request number `code`, with message `evt.data`, on the transport it came over, MCTP with `evt.flag`, else DOE, in the
session of that transport (R541; log entry 6). -/
def State.spdm (s : State) (code : Nat) (extra : List Byte) : Host.Outcome State Fault Refusal :=
  let h := s.host
  let m := [toBytes 1 code ++ s.evt.data]
  .next { s with
    host := if s.evt.flag then { h with mctp := h.mctp ++ m } else { h with doe := h.doe ++ m }
    out := s.out ++ [.spdm s.evt.flag (Config.spdmAnswer code (if s.evt.flag then h.mctp else h.doe) (s.evt.data ++ extra))] }

/-- Measurement block `b`, 1 to 32: register `i - 1` of die `d` is block `8 d + i` (R541). -/
def State.measBlock (s : State) (b : Nat) : List Byte :=
  toBytes 1 b ++ toBytes 48 (Sparse.get 0 (s.die ((b - 1) / 8)).meas ((b - 1) % 8)).toNat

/-- GET_VERSION (R541). -/
def execGetVersion (s : State) : Host.Outcome State Fault Refusal := s.spdm 1 []

/-- GET_CAPABILITIES (R541). -/
def execGetCapabilities (s : State) : Host.Outcome State Fault Refusal := s.spdm 2 []

/-- NEGOTIATE_ALGORITHMS (R541). -/
def execNegotiateAlgorithms (s : State) : Host.Outcome State Fault Refusal := s.spdm 3 []

/-- GET_DIGESTS (R541). -/
def execGetDigests (s : State) : Host.Outcome State Fault Refusal := s.spdm 4 []

/-- GET_CERTIFICATE (R541). -/
def execGetCertificate (s : State) : Host.Outcome State Fault Refusal := s.spdm 5 []

/-- CHALLENGE (R541). -/
def execChallenge (s : State) : Host.Outcome State Fault Refusal := s.spdm 6 []

/-- GET_MEASUREMENTS of block `evt.n`, or of all blocks for 255 (R541). -/
def execGetMeasurements (s : State) : Host.Outcome State Fault Refusal :=
  let b := s.evt.n
  s.spdm 7 (if b = 255 then (List.range 32).flatMap (fun i => s.measBlock (i + 1)) else if 1 ≤ b ∧ b ≤ 32 then s.measBlock b else [])

/-! ### Boot -/

/-- DIE_RESET: the boot ROM of die `evt.n` verifies and measures the firmware image, the first `evt.m` bytes of `evt.data`; what
follows is its signature and key. `evt.list` gives the digests of the system images that the image lists. A failure fails the die
(R539, R540). -/
def execDieReset (s : State) : Host.Outcome State Fault Refusal :=
  let d := s.evt.n
  let digest := Config.sha384 (s.evt.data.take s.evt.m)
  if 4 ≤ d || (s.die d).boot != 0 then .refused .notEnabled
  else if Config.ecdsaVerifies digest (s.evt.data.drop s.evt.m) then
    .next (s.updDie d (fun x => ({ x with
      boot := 2, meas := [], sysList := s.evt.list.map (fun p => BitVec.ofNat 384 p.1) } : Die).extend 0 digest))
  else .next (s.updDie d (fun x => { x with boot := 4, offline := true, meas := [] }))

/-- DIE_READY: the firmware of die `evt.n` has booted, and the die and its cores are online; it has extended measurement registers 1 to
7 with the digests of its configuration, `evt.list` (R539, R540). -/
def execDieReady (s : State) : Host.Outcome State Fault Refusal :=
  let d := s.evt.n
  if 4 ≤ d || (s.die d).boot != 2 then .refused .notEnabled
  else
    let s := s.updDie d (fun x => s.evt.list.foldl (fun (x : Die) p => if 1 ≤ p.1 ∧ p.1 < 8 then x.extend p.1 (BitVec.ofNat 384 p.2) else x)
      { x with boot := 3, offline := false })
    let mine (c : Nat) : Bool := dieOf c == d
    .next { s with
      cores := s.cores.filter (fun p => !mine p.1)
      ctxs := s.ctxs.filter (fun p => !mine (coreOf p.1)) }

/-- BOOT_TIMEOUT: die `evt.n` is not ready 2^33 core cycles after its reset (R540). -/
def execBootTimeout (s : State) : Host.Outcome State Fault Refusal :=
  let x := s.die s.evt.n
  if 4 ≤ s.evt.n || x.boot == 3 || decide (s.clock < x.resetAt + 2 ^ 33) then .refused .notEnabled
  else .next (s.updDie s.evt.n (fun x => { x with offline := true }))

/-- PACKAGE_RESET: every register at its reset value, every die before its boot, a connected group of one (R539, R546). Allocated
version numbers stay (R36), and so do the package's index, the coolant and what the management port set. -/
def execPackageReset (s : State) : Host.Outcome State Fault Refusal :=
  let boot (d : Nat) : Nat × Die := (d, (s.die d).restart 0)
  .next { State.reset with
    dies := (List.range 4).map boot
    fab := { Fabric.reset with
      active := { Fabric.reset.active with tab := [(s.pkg, 0x600)] }
      shadow := { Fabric.reset.shadow with tab := [(s.pkg, 0x600)] }
      members := [(s.pkg, 0, 0, 0)]
      coord := s.pkg
      ring := [s.pkg] }
    host := { HostSide.reset with mgmtLim := s.host.mgmtLim, inlet := s.host.inlet, flow := s.host.flow }
    pkg := s.pkg, out := s.out, cur := s.cur, agenda := s.agenda, evt := s.evt, free := s.free }

end Sys2Proof.Machine
end

