-- ==== Sys2Proof/Machine/Power.lean ====
section
/-! DEFINITION. Leave from Sage: granting, renewing and expiry of leases (R221 to R223). -/

namespace Sys2Proof.Machine

/-- Cost of a lease of a class in hundredths of a watt (R221). -/
def leaseCost : Nat → Nat
  | 1 => 44 | 2 => 30 | _ => 120

/-- Costs of the unexpired leases of a core (R222). -/
def Core.leaveCosts (c : Core) : Nat := ([1, 2, 3].filter c.hasLease).foldl (fun n k => n + leaseCost k) 0

/-- Costs of all unexpired leases (R222). -/
def State.leaveCosts (s : State) : Nat := s.cores.foldl (fun n c => n + c.2.leaveCosts) 0

/-- A request fits the budget. R222 does not say whether the extended lease of a renewal counts again; the model adds no cost to the
lease that it extends (log entry 104). -/
def State.leaveFits (s : State) (core k : Nat) : Bool :=
  decide (s.leaveCosts + (if (s.core core).hasLease k then 0 else leaseCost k) ≤ s.sage.budget)

/-- Grant a lease, or extend an unexpired one from its expiry (R222). -/
def Core.grant (c : Core) (k : Nat) : Core :=
  let from_ := if c.hasLease k then Sparse.get 0 c.leases k else c.cycle
  { c with leases := Sparse.set c.leases k (from_ + 2 ^ 18) }

/-- SAGE_LEASE_GRANT: Sage grants the request at the head of its order, when the budget allows (R222). -/
def execSageLeaseGrant (s : State) : Host.Outcome State Fault Refusal :=
  match s.sage.queue with
  | [] => .refused .notEnabled
  | (core, k) :: rest =>
    if s.leaveFits core k then
      .next { (s.updCore core (fun c => c.grant k)) with sage := { s.sage with queue := rest } }
    else .refused .notEnabled

/-- LEASE_EXPIRY: the lease of class `evt.m` of core `evt.n` has reached its end (R222). -/
def execLeaseExpiry (s : State) : Host.Outcome State Fault Refusal :=
  let c := s.core s.evt.n
  match Sparse.find? c.leases s.evt.m with
  | some e => if e ≤ c.cycle then .next (s.updCore s.evt.n (fun c => { c with leases := Sparse.erase c.leases s.evt.m }))
    else .refused .notEnabled
  | none => .refused .notEnabled

/-- LEASE_RENEWAL: core `evt.n` asks ahead for its lease of class `evt.m`, which has fewer than 2^14 cycles left, when it issued a
command of the class in the last 2^16 cycles (R222). -/
def execLeaseRenewal (s : State) : Host.Outcome State Fault Refusal :=
  let c := s.core s.evt.n
  let k := s.evt.m
  let recent := match Sparse.find? c.lastUse k with | some u => decide (c.cycle - u < 2 ^ 16) | none => false
  if c.hasLease k && decide (Sparse.get 0 c.leases k - c.cycle < 2 ^ 14) && recent && !s.sage.queue.contains (s.evt.n, k) then
    .next { s with sage := { s.sage with queue := s.sage.queue ++ [(s.evt.n, k)] } }
  else .refused .notEnabled

end Sys2Proof.Machine
end

