-- ==== Sys2Proof/Machine/Issue.lean ====
section
/-! DEFINITION. How a core comes to issue a bundle: verdicts of its operations, current weights (R218 to R220), landings and
freezes (R205 to R210), which trap is taken (R404), the end of a bundle (R203, R232), and the issue width (R211 to R214). -/

namespace Sys2Proof

open Machine

/-! ### Verdicts of a presented bundle's operations -/

/-- A verdict that counts only while the predicate holds (R201). -/
def Machine.State.under (s : State) (p : Pred) (v : Verdict) : Verdict := if s.me.holds p then v else .issue

/-- What becomes of a presented S operation. -/
def Instr.verdictS (i : Instr) (s : State) : Verdict :=
  match i with
  | .ret p a => s.under p (s.retVerdict a)
  | .launch p .. | .launchm p .. | .qlvl p .. | .qstat p .. | .frz p .. | .frzThaw p .. | .drain p .. | .dscan p .. | .imgw p ..
  | .imgr p .. | .reconf p .. => s.under p s.latchVerdict
  | .tend p => s.under p s.tendVerdict
  | .steal p .. => s.under p s.stealVerdict
  | .prioSelf p .. | .lpscfg p .. | .stepmark p => s.under p (s.needTask .s)
  | .prioTask p .. => s.under p s.prioVerdict
  | .lpsnxt p .. => s.under p s.lpsVerdict
  | .bacqP p _ e r => s.under p (s.bacqPVerdict r.toNat ((s.me.g e).toNat % 2 ^ 17))
  | .bacqC p _ _ r => s.under p (s.bacqCVerdict r.toNat)
  | .brelP p c _ r => s.under p (s.brelVerdict r.toNat false ((s.me.g c).toNat % 2 ^ 17))
  | .brelC p r => s.under p (s.brelVerdict r.toNat true 0)
  | .trap p imm => s.under p (s.trapVerdict imm)
  | .eret p => s.under p s.eretVerdict
  | .sysrd p _ num => s.under p (s.sysrdVerdict num.toNat)
  | .syswr p _ num => s.under p (.trap (sysTrap num.toNat))
  | .tlbPageInvalidate p a => s.under p (s.invVerdict (ofAddr (s.me.g a)))
  | .tlbAllInvalidate p _ => s.under p (s.invVerdict (fun _ => true))
  | _ => .issue

/-- What becomes of a presented LD or ST operation. -/
def Instr.verdictMem (i : Instr) (s : State) : Verdict :=
  let span (p : Pred) (load : Bool) (ac : BitVec 3) (ea : W80) (n : Nat) : Verdict :=
    s.under p (if load then s.loadVerdict ac ea (spanPieces ea n) else s.storeVerdict ac ea (spanPieces ea n))
  let words (p : Pred) (a : BitVec 5) (ac : BitVec 3) (off : Nat → Int) : Verdict :=
    s.under p (s.loadVerdict ac (s.me.a a) (wordPieces (fun w => (addrOff (s.me.a a) : Int) + off w)))
  match i with
  | .ldw p _ a ac _ off => span p true ac (s.me.loadEa a off 4) 4
  | .ldd p _ a ac _ off => span p true ac (s.me.loadEa a off 8) 8
  | .ldl p _ a ac _ off => span p true ac (s.me.loadEa a off 256) 256
  | .ldls p _ a ac _ x => words p a ac (fun w => w * (s.me.g x).toInt)
  | .ldg p _ a ac _ x => let idx := s.me.src 32 x; words p a ac (fun w => (lineWord idx w).toInt * 4)
  | .tlnew p _ a .. | .tlrd p _ a .. | .tlqry p _ a _ | .tlrep p _ a _ => s.under p (s.tileVerdict true (s.me.a a))
  | .amoAdd p m | .amoMax p m | .amoMin p m | .amoAnd p m | .amoOr p m | .amoXch p m | .amoCas p m => s.under p (s.amoVerdict m)
  | .amoFadd p m => s.under p (s.faddVerdict m)
  | .stw p _ a ac off => span p false ac (s.me.storeEa a off 4) 4
  | .std p _ a ac off => span p false ac (s.me.storeEa a off 8) 8
  | .stl p _ a ac off | .puth p _ a ac off => span p false ac (s.me.storeEa a off 256) 256
  | .stlx p tt _ _ a ac off => span p false ac (s.me.storeEa a off (8 * tt.bits)) (8 * tt.bits)
  | .tlwr p _ _ _ a _ | .tlfin p a => s.under p (s.tileVerdict false (s.me.a a))
  | _ => .issue

/-- What becomes of a presented operation of any slot. -/
def Instr.verdict (i : Instr) (s : State) : Verdict :=
  match i with
  | .wait _ f pol y => s.waitVerdict f pol y
  | .arv _ n rel => s.arvVerdict n.toNat rel
  | .bwt _ n y => s.bwtVerdict n.toNat y
  | .fenceAcq _ sc => s.fenceWait .acq sc
  | .fenceRel _ sc => s.relVerdict sc
  | .fenceAll _ sc => s.allVerdict sc
  | .join _ n => s.joinVerdict n.toNat
  | .leave .. => s.needTask .sy
  | .hndl _ => s.hndlVerdict
  | .mcfg _ _ pm | .mwaitp _ pm => s.mcfgVerdict pm
  | .mldw p ty _ => s.mldwVerdict p ty
  | .mswap _ => s.mswapVerdict
  | .mstrm p ty _ _ pl _ _ yf => s.mstrmVerdict p ty pl yf
  | .mzero _ pm => s.mzeroVerdict pm
  | .mrdacc _ _ _ _ pl _ | .maddacc _ _ _ _ pl _ => s.accVerdict pl
  | .cpy p h => s.under p (s.copyVerdict 1 h)
  | .cred p h => s.under p (s.copyVerdict 2 h)
  | .cmc p h => s.under p (s.copyVerdict 3 h)
  | .cgat p h => s.under p (s.copyVerdict 4 h)
  | .apxb p rg _ | .ftst p rg .. => s.under p (s.weightsWait rg)
  | .ftcfg p rg zb => s.under p (s.ftcfgVerdict rg zb false)
  | .ftcfgNew p rg zb => s.under p (s.ftcfgVerdict rg zb true)
  | .ftstep p _ zb _ => s.under p (s.ftstepVerdict zb)
  | .ftsamp p _ zb _ => s.under p (s.ftsampVerdict zb)
  | i => (i.verdictS s).andThen (i.verdictMem s)

/-- An S operation whose result comes through a latch. -/
def Instr.latchS (i : Instr) (s : State) : Bool :=
  match i with
  | .launch p .. | .launchm p .. | .qlvl p .. | .qstat p .. | .prioTask p .. | .steal p .. | .frz p .. | .frzThaw p .. | .drain p ..
  | .dscan p .. | .imgw p .. | .imgr p .. | .reconf p .. => s.me.holds p
  | _ => false

/-- The alias class of an LD operation that takes a latch and makes a request (R206, R359); tile operations are in class 0. -/
def Instr.classLd (i : Instr) (s : State) : Option Nat :=
  let c (p : Pred) (ac : BitVec 3) : Option Nat := if s.me.holds p then some (ac.toNat % 4) else none
  match i with
  | .ldw p _ _ ac .. | .ldd p _ _ ac .. | .ldl p _ _ ac .. | .ldls p _ _ ac .. | .ldg p _ _ ac .. => c p ac
  | .tlnew p .. | .tlrd p .. | .tlqry p .. | .tlrep p .. => c p 0
  | .amoAdd p m | .amoMax p m | .amoMin p m | .amoAnd p m | .amoOr p m | .amoXch p m | .amoCas p m | .amoFadd p m => c p m.ac
  | _ => none

/-- The alias class of an ST operation. -/
def Instr.classSt (i : Instr) (s : State) : Option Nat :=
  let c (p : Pred) (ac : BitVec 3) : Option Nat := if s.me.holds p then some (ac.toNat % 4) else none
  match i with
  | .stw p _ _ ac _ | .std p _ _ ac _ | .stl p _ _ ac _ | .puth p _ _ ac _ => c p ac
  | .stlx p _ _ _ _ ac _ => c p ac
  | .tlwr p .. | .tlfin p _ => c p 0
  | _ => none

/-! ### Current weights (R218, R246) -/

/-- Weight charged in the issue cycle; a stream charges its lines itself (R218). -/
def Instr.weight : Instr → Nat
  | .nop _ => 0
  | .wait .. | .arv .. | .bwt .. | .fmt .. | .fenceAcq .. | .fenceRel .. | .fenceAll .. | .join .. | .leave .. | .yield _ | .hndl _ => 1
  | .mul .. | .mulh .. | .mulImm .. | .aidx .. => 2
  | .div .. | .rem .. => 3
  | .vadd _ _ ty .. | .vsub _ _ ty .. | .vmul _ _ ty .. | .vmin _ _ ty .. | .vmax _ _ ty .. | .vabs _ _ ty .. | .vneg _ _ ty ..
  | .vclamp _ _ ty .. => if ty.isI then 3 else 6
  | .vfma .. | .vfms .. | .vcmp .. | .vcvt .. | .vq8 .. | .vdq8 .. | .vamax .. => 6
  | .vrcp .. | .vrsq .. | .vexp2 .. | .vlog2 .. | .vsqrt .. | .vredsum .. | .vredmax .. | .vredmin .. => 7
  | .vmulh .. | .vand .. | .vor .. | .vxor .. | .vnot .. | .vshl .. | .vshr .. | .vsar .. | .vpopc .. | .vclz .. | .vsel .. | .vmov ..
  | .vbcast .. | .vperm .. | .viota .. | .vrot .. => 3
  | .mstrm .. => 0
  | .mcfg .. | .mldw .. | .mswap _ | .mzero .. | .mrdacc .. | .maddacc .. | .mwaitp .. => 4
  | .ldl .. | .ldls .. | .ldg .. | .stl .. | .stlx .. | .puth .. => 5
  | .ldw .. | .ldd .. | .tlnew .. | .tlrd .. | .tlqry .. | .tlrep .. | .amoAdd .. | .amoMax .. | .amoMin .. | .amoAnd .. | .amoOr ..
  | .amoXch .. | .amoCas .. | .amoFadd .. | .stw .. | .std .. | .tlwr .. | .tlfin .. => 2
  | .cpy .. | .cred .. | .cmc .. | .cgat .. | .cstat .. | .ccancel .. => 2
  | .xcvt .. | .xtrn .. | .xexp .. | .xpack .. => 4
  | .apxb .. | .apxe .. | .ftcfg .. | .ftcfgNew .. | .ftinv .. | .ftst .. | .ftstep .. | .ftsamp .. => 2
  | _ => 1

/-- What a stream charges in its first cycle, the cycle of its issue (R218). -/
def Instr.firstLine : Instr → Nat
  | .mstrm _ ty .. => streamWeight ty
  | _ => 0

/-- HALT, ERET and HNDL act after the bundle's other operations. -/
def Instr.last : Instr → Bool
  | .halt _ | .eret _ | .hndl _ => true
  | _ => false

/-- Loads whose own-window reads come after what the bundle does to its planes (R272). -/
def Instr.reads : Instr → Bool
  | .ldw .. | .ldd .. | .ldl .. | .ldls .. | .ldg .. => true
  | _ => false

/-- Order in which causes of traps are taken (R404): issue, report point, WAIT. -/
def Instr.trapRank (i : Instr) (x : TrapInfo) : Nat :=
  if x.rep then 1 else match i with | .wait .. => 2 | _ => 0

/-- What a declined freeze-form wait awaits (R371). -/
def Instr.awaits : Instr → Option Await
  | .wait _ f pol _ => some (.flag f pol)
  | .bwt _ n _ => some (.phase n.toNat)
  | _ => none

namespace Machine

/-- Charges of the 64 cycles up to `c`, those of streams in cycle `c` included (R220). -/
def Core.drawn (k : Core) (c : Nat) : Nat :=
  let lo := c + 1 - 64
  (k.charges.filter (fun x => lo ≤ x.1)).foldl (fun n x => n + x.2) 0 +
  k.drawing.foldl (fun n x => n + x.2.2 * overlap x.1 x.2.1 lo (c + 1 - lo)) 0

/-- The window test of R220 for a bundle of weight `w` in cycle `c`. -/
def Core.windowOk (k : Core) (c w : Nat) : Bool :=
  let r := k.drawn c
  r == 0 || decide (r + w ≤ k.pwrLim)

/-- A bundle of weight `w` is charged in this cycle; what the window has left behind is forgotten. -/
def Core.charge (k : Core) (w : Nat) : Core :=
  { k with
    charges := (if w = 0 then [] else [(k.cycle, w)]) ++ k.charges.filter (fun x => k.cycle < x.1 + 64)
    drawing := k.drawing.filter (fun x => k.cycle < x.1 + x.2.1 + 64) }

/-! ### What the presented bundle comes to -/

/-- The bundle as a whole finds room: two latches, two requests of one class (R206). -/
def State.bundleRoom (s : State) (ops : List Instr) : Verdict :=
  let q := s.me.sched
  let c := s.me
  let two := ops.any (fun i => i.latchS s) && ops.any (fun i => (i.classLd s).isSome) && decide (63 ≤ q.latches.length)
  let same := ops.any (fun i => match i.classLd s with
    | some k => ops.any (fun j => j.classSt s == some k) &&
        decide (31 ≤ (c.mem.reqs.filter (fun r => !r.op.isQueue && !r.op.isTeam && !r.acked && r.cls % 4 == k)).length)
    | none => false)
  freezeIf (two || same) .late

/-- Order in which causes of a freeze are counted (R210). -/
def Why.rank : Why → Nat
  | .sync => 0
  | .late | .load .. | .tend | .fence | .lps | .walk _ => 1
  | .busy | .sage _ true => 2
  | .bank => 3
  | .pwr | .sage _ false => 4

/-- What a presented bundle comes to. -/
inductive Present where
  | issue
  | trap (i : TrapInfo)
  | timer
  | freeze (ws : List Why)
  | hold
  | decline (a : Await)
  | timeout (a : Await)
deriving DecidableEq, Repr

/-- A TIMER that is due may be taken (R402). -/
def State.timerReady (s : State) : Bool := decide (s.me.mode = .task) && s.me.sys.timerDue && !s.retiring

/-- The bundle of operations `ops` comes to issue, to trap (R404), to freeze, to be held or to be declined (R205 to R223,
R370 to R373). -/
def State.judge (s : State) (ops : List Instr) : Present :=
  let vs := ops.map (fun i => (i, i.verdict s))
  let ws := (vs.filterMap (fun v => match v.2 with | .freeze w => some w | _ => none)) ++
    (match s.bundleRoom ops with | .freeze w => [w] | _ => [])
  let held := vs.any (fun v => match v.2 with | .hold => true | _ => false)
  let dec := vs.findSome? (fun v => match v.2 with | .decline a => some a | _ => none)
  let trap := leastBy (fun x : Nat × TrapInfo => x.1) (vs.filterMap (fun v => match v.2 with
    | .trap i => some (v.1.trapRank i, i)
    | _ => none))
  let late := vs.findSome? (fun v => match v.2 with
    | .freeze .sync => if 2 ^ 26 ≤ s.me.sched.waits.sync then v.1.awaits else none
    | _ => none)
  match ws, held, dec, trap with
  | [], false, none, some (_, i) => .trap i
  | _, _, _, _ =>
    if s.timerReady then .timer
    else match ws, held, dec with
      | [], false, none => .issue
      | [], false, some a => .decline a
      | [], true, _ => .hold
      | ws, _, _ => match late with | some a => .timeout a | none => .freeze ws

/-- A freeze cycle with its causes: counted once, under the first that applies (R210). -/
def State.freezeAll (s : State) (ws : List Why) : State :=
  match leastBy Why.rank ws with
  | none => s
  | some w => (ws.erase w).foldl State.alsoFreeze (s.freeze w)

/-! ### Landings -/

/-- Latches due at the presented bundle that hold it: without data, or with padding to pass (R205, R209). -/
def Sched.late (q : Sched) (cyc : Nat) : List Latch :=
  q.latches.filter (fun l => decide (l.due ≤ q.time) &&
    (l.stat == .pending || l.stat == .retry || decide (0 < l.pad) || (l.stat == .arrived && decide (cyc < l.ready))))

/-- A landing fault due at the presented bundle, the lowest latch first (R404). -/
def Sched.landFault (q : Sched) : Option Latch :=
  leastBy Latch.ord (q.latches.filter (fun l => decide (l.due ≤ q.time) && l.stat == .poisoned && l.pad == 0))

/-- One freeze cycle at a landing: padding runs down (R209). -/
def State.landFreeze (s : State) : State :=
  (s.freeze .late).updMe (fun c => { c with sched := { c.sched with
    latches := c.sched.latches.map (fun l => if l.due ≤ c.sched.time then { l with pad := l.pad - 1 } else l) } })

/-- Take the TIMER that is due (R401, R402). -/
def State.takeTimer (s : State) : State :=
  let i : TrapInfo := { cause := cTIMER, taddr := s.me.sys.timerAt, slot := 15, async := true, land := false, rep := false,
                        efl := 0, key := 0, cmd := none }
  (s.updMe (fun c => { c with sys := { c.sys with timerDue := false } })).takeTrap i

/-- TIMER falls due for a context whose armed timer its core's counter has reached (R402). -/
def Ctx.timerTick (c : Ctx) (cyc : Nat) : Ctx :=
  let w := c.sys.timer.toNat
  if bit w 63 && decide (w % 2 ^ 63 ≤ cyc) then
    { c with sys := { c.sys with timer := BitVec.ofNat 64 (w % 2 ^ 63), timerDue := true, timerAt := BitVec.ofNat 64 cyc } }
  else c

/-! ### The issue width -/

/-- The condition of a declined or yielded context holds (R212, R214, R394). -/
def State.awaitMet (s : State) (n : Nat) : Bool :=
  let c := s.ctx n
  let k := s.core (coreOf n)
  match c.sync.await with
  | none => true
  | some (.flag f pol) => c.flag f != pol || (c.waitFault f).isSome
  | some (.phase name) => !(c.bar name).arrived
  | some (.ringEmpty r) => (k.ring r).st (k.ring r).pi == 0
  | some (.ringFull r) => (k.ring r).st (k.ring r).ci == 2
  | some (.leases m) => [1, 2, 3].all (fun j => !bit m j || k.hasLease j)
  | some (.tile r) => (match s.verState r with | some (st, _, dead, _) => st == 3 || st == 6 || dead | none => !s.isRemote r)
  | some (.landing q) => c.sched.latches.all (fun l => l.req != q || l.stat == .arrived)

/-- What a yield still drains (R213): nothing that can go on, but for what waits behind a fault. -/
def Ctx.settled (c : Ctx) : Bool :=
  c.sched.latches.all (fun l => l.stat != .pending) &&
  (c.drained || c.sched.latches.any (fun l => l.stat == .poisoned || l.stat == .retry))

/-- A context in one of the modes that issue. -/
def Ctx.active (c : Ctx) : Bool := decide (c.mode = .task ∨ c.mode = .handler ∨ c.mode = .wake)

/-- A ready context (R214). -/
def State.readyCtx (s : State) (n : Nat) : Bool :=
  let c := s.ctx n
  c.active && !c.leaving && (!c.sync.yielded || (c.settled && s.awaitMet n))

/-- Send again the request of a latch that waits to be retried (R393, R395). -/
def Ctx.retry (c : Ctx) (l : Latch) : Ctx :=
  let id := c.mem.nextId
  match c.mem.reqs.find? (fun r => r.id == l.req) with
  | none => c
  | some r =>
    { c with
      mem := { c.mem with nextId := id + 1, reqs := c.mem.reqs.filter (fun x => x.id != r.id) ++ [r.again id] }
      sched := { c.sched with latches := c.sched.latches.map (fun x =>
        if x = l then { l with req := id, stat := .pending, due := c.sched.time + max l.dist 1 } else x) } }

/-- A yielded context takes the width: faults that its drain met are raised at once, what waited for a version is retried
(R214, R344, R395). -/
def Ctx.resumeWidth (c : Ctx) : Ctx :=
  if !c.sync.yielded then c
  else
    let t := c.sched.time
    let ref := match c.sync.await with | some (.tile r) => some r | _ => none
    let c : Ctx := { c with
      sync := { c.sync with await := none, yielded := false }
      sched := { c.sched with latches := c.sched.latches.map (fun (l : Latch) =>
        if l.stat == .poisoned then { l with due := min l.due t, pad := 0 } else l) }
      mem := { c.mem with cmds := c.mem.cmds.map (fun (m : Cmd) =>
        if m.stat = .stopped ∧ m.trap = cFUTEMPTY ∧ some m.taddr = ref then m.resume else m) } }
    (c.sched.latches.filter (fun (l : Latch) => l.stat == .retry)).foldl Ctx.retry c

/-- The core gives the width to the first ready context after the running one, which issues two cycles after this one, or to
none (R214). Where the bundle that gives up the width was declined, and so never issued, the two cycles count from the cycle of its
presentation (log entry 90). -/
def State.pass (s : State) (core : Nat) : State :=
  let own := (s.core core).running % 4
  match ([1, 2, 3, 0].map (fun i => 4 * core + (own + i) % 4)).find? s.readyCtx with
  | some n => (s.updCore core (fun k => { k with running := n, idle := false, switch := 1 })).updCtx n Ctx.resumeWidth
  | none => s.updCore core (fun k => { k with idle := true })

/-- The home of a version that a context waits for records it as a waiter (R42, R394). -/
def State.waitFuture (s : State) (n : Nat) : State :=
  let c := s.ctx n
  match c.sync.await, c.task with
  | some (.tile r), some t =>
    if s.isRemote r then s.waitOn r (s.prio t) s.pkg t.tid
    else (match s.tile? r with
      | some x => if x.state = 3 ∨ x.state = 6 then s else s.raiseWprio r (s.prio t)
      | none => s)
  | _, _ => s

/-- The running context gives up the width: it drains and another context runs (R212 to R214). -/
def State.giveWidth (s : State) (n : Nat) : State := ((s.drain n).waitFuture n).pass (coreOf n)

/-- A FUTEMPTY with no enabled handler: the context acts as in the yield choice, its read to be retried (R395). -/
def State.futureYield (s : State) (l : Latch) : State :=
  (s.updMe (fun c => { c with
    sched := { c.sched with latches := c.sched.latches.map (fun x => if x = l then { l with stat := .retry } else x) }
    sync := { c.sync with yielded := true, await := some (.tile l.taddr) } })).giveWidth s.cur

/-- A landing fault is raised, once what is due is written (R285, R393, R395, R403). -/
def State.raiseLanding (s : State) (l : Latch) : State :=
  if l.cause = cFUTEMPTY ∧ s.me.shadow.isNone ∧ s.me.noFutureHandler then s.futureYield l else s.takeTrap l.landTrap

/-- A trap is taken; a context that it stopped gives up the width. -/
def State.afterTrap (s : State) : State := if s.me.active then s else s.pass (coreOf s.cur)

/-! ### The end of a bundle -/

/-- The redirection after bundle `b` by the active loops that end there, `ls`, innermost first (R232): the loops that stay and the
counts written, then the next index. -/
def Ctx.endLoops (c : Ctx) (b : Nat) (ls : List LoopRec) : Ctx × Nat :=
  match ls with
  | [] => (c, b + 1)
  | l :: rest =>
    if l.last ≠ b then c.endLoops b rest
    else
      let v := c.lc l.n
      if 1 < v.toNat then
        ({ c with regs := { c.regs with lc := Sparse.set c.regs.lc l.n.toNat (v - 1) } }, l.first)
      else
        let c := { c with
          regs := { c.regs with lc := Sparse.set c.regs.lc l.n.toNat 0 }
          sched := { c.sched with loops := (c.sched.loops.reverse.erase l).reverse } }
        c.endLoops b rest

/-- The next bundle index (R203, R232): a branch's target after its delay bundles, else by the loops. -/
def Ctx.nextPc (c : Ctx) : Ctx :=
  let q := c.sched
  let d := q.dly - 1
  if q.dly = 1 then { c with sched := { q with dly := 0, pc := q.rtgt, jump := none } }
  else
    let c := { c with sched := { q with dly := d, jump := none } }
    match q.jump with
    | some (.inr l) => { c with sched := { c.sched with loops := c.sched.loops ++ [l], pc := q.pc + 1 } }
    | some (.inl b) => let (c, p) := c.endLoops b c.sched.loops.reverse; { c with sched := { c.sched with pc := p } }
    | none => let (c, p) := c.endLoops q.pc c.sched.loops.reverse; { c with sched := { c.sched with pc := p } }

/-- The rest of an issued bundle's cycle: transform beats, the next index, context time (R196, R283). On a surrogate path the next
index is the APXE's (R304). -/
def Ctx.endBundle (c : Ctx) : Ctx :=
  let q := c.sched
  let c := (c.beats q.time).nextPc
  let pc := match c.fit.invoc with
    | some i => if 0 < c.sched.empty then i.last else c.sched.pc
    | none => c.sched.pc
  let c := { c with
    sched := { c.sched with pc := pc, time := q.time + 1, ord := q.ord + 16, held := 0, waits := .reset, tskip := false, granted := false }
    cnt := { c.cnt with issued := c.cnt.issued + 1 } }
  c.prune.pruneCmds

/-- An empty bundle in place of the presented one (R304, R370). -/
def Ctx.emptyStep (c : Ctx) : Ctx :=
  let q := c.sched
  let c := c.beats q.time
  let c := { c with
    sched := { c.sched with time := q.time + 1, ord := q.ord + 16, held := 0, waits := .reset, empty := q.empty - 1 }
    cnt := { c.cnt with issued := c.cnt.issued + 1 } }
  c.prune

/-- What is due by the presented bundle is written (R197, R205, R285, R305). -/
def State.arriveAt (s : State) (n : Nat) : State :=
  let t := (s.ctx n).sched.time
  (s.settle n t).updCtx n (fun c => (c.closeXforms t).applyCmps t)

/-! ### Background work of a core's cycle -/

/-- A task off the width, or at a presented bundle, is taken off its context when nothing holds it (R420, R421, R430). -/
def State.takeOff (s : State) (n : Nat) : State :=
  let c := s.ctx n
  if c.sync.freezing then
    let t := c.task.bind (fun t => s.team? t.key)
    let s := s.freezeMember n
    match t with | some t => s.freezeNext t | none => s
  else s.takeImage n none

/-- The descriptor read that a trap found under way ends; the frame keeps the registers of before, ERET gives the sequencer back as
it then stands (R171). -/
def State.lateSeq (s : State) (n : Nat) : State :=
  let c := s.ctx n
  match c.shadow.bind Shadow.seq with
  | none => s
  | some q =>
    if q.ready ≠ 0 ∧ q.ready ≤ (s.core (coreOf n)).cycle then
      let s := (s.updCtx n (fun c => { c with seq := q })).seqConfigure n
      s.updCtx n (fun d => { d with seq := c.seq, shadow := d.shadow.map (fun h => { h with seq := some d.seq }) })
    else s

/-- What happens to a context in a core cycle whether or not it issues: its timer, the loop sequencer, its drain, a request to take
it off while it does not run. -/
def State.background (s : State) (n : Nat) : State :=
  match Sparse.find? s.ctxs n with
  | none => s
  | some c =>
    let core := coreOf n
    let k := s.core core
    let s := s.setCtx n (c.timerTick k.cycle)
    let s := (if c.seq.ready ≠ 0 ∧ c.seq.ready ≤ k.cycle then s.seqConfigure n else s).lateSeq n
    let s := if c.sync.yielded && !c.drained then s.drain n else s
    let c := s.ctx n
    if c.leaving && (k.idle || k.running != n) && s.quiet n && (!c.sync.yielded || c.settled) then s.takeOff n else s

/-- The background of a core's cycle (R153, R158, R207). -/
def State.coreBackground (s : State) (core : Nat) : State :=
  let s := ([0, 1, 2, 3].map (fun i => 4 * core + i)).foldl State.background (s.planeCycle core)
  ((s.updCore core (fun k => { k with stealWait := k.stealWait - 1 })).trackHead core).trackTeams

/-- A context begins or ends its wait for a version of another package: the home counts it (R42, R394). -/
def State.tellWait (s : State) (n : Nat) : State :=
  let c := s.ctx n
  let now := match c.sync.await with | some (.tile r) => if s.isRemote r then some r else none | _ => none
  if c.sync.told = now then s
  else
    let d := dieOf (coreOf n)
    let s := match c.sync.told with | some r => s.tell d r (17 + n <<< 8) [] | none => s
    let s := match now with | some r => s.tell d r (16 + n <<< 8) [] | none => s
    s.updCtx n (fun c => { c with sync := { c.sync with told := now } })

/-- The core cycle ends: window accesses follow what its contexts issued, own stores those that are due (R181, R240, R272). -/
def State.tick (s : State) (core : Nat) : State :=
  let s := ([0, 1, 2, 3].map (fun i => 4 * core + i)).foldl (fun s n => s.settleWindows n ((s.ctx n).sched.time - 1)) s
  let s := ([0, 1, 2, 3].map (fun i => 4 * core + i)).foldl State.tellWait s
  let s := (s.heldPieces core).updCore core (fun k => { k with cycle := k.cycle + 1 })
  { s with clock := max s.clock (s.core core).cycle }

/-- The bundle-cache line of the presented bundle (R202). -/
def State.inCache (s : State) : Bool :=
  s.myCore.cache.any (fun l => l.image == s.me.imageHandle && l.line == s.me.sched.pc / 4)

/-- Put a line into its set of four ways of the bundle cache, in place of the last unlocked one when the set is full; beside a set
whose ways are all locked, one further line is held while it is used (R202; log entry 13). -/
def Core.fillLine (k : Core) (h : W64) (line : Nat) : Core :=
  let l : CacheLine := { image := h, line := line, lock := none }
  let mates := k.cache.filter (fun x => x.set == l.set)
  let kept := mates.filter (fun x => x.lock.isSome)
  let rest := mates.filter (fun x => x.lock.isNone)
  { k with cache := l :: (rest.take (3 - kept.length) ++ kept ++ k.cache.filter (fun x => x.set != l.set)) }

/-! ### Indivisible steps of this chapter -/

/-- EXPOSED_RESULT_WRITE: exposed results of context `evt.n` that are due reach their destinations (R197, R200). -/
def execExposedResultWrite (s : State) : Host.Outcome State Fault Refusal :=
  let n := s.evt.n
  let c := s.ctx n
  let due (p : Pend) : Bool := decide (p.due ≤ c.sched.time)
  if c.sched.pend.any due then
    let ps := c.sched.pend.filter due
    .next (s.setCtx n (((c.writeAll (sortBy Pend.key ps)).updPend (fun l => l.filter (fun p => !due p))).noteLines
      (s.core (coreOf n)).cycle ps))
  else .refused .notEnabled

/-- The latest core cycle in which a level-2 access may still be on its way has passed (R208, R209). -/
def Latch.overdue (l : Latch) (cyc : Nat) : Bool :=
  l.stat == .pending && l.pad == 0 && decide (0 < l.worst) && decide (l.born + l.worst ≤ cyc)

/-- LOAD_LANDING: requests of the running context of core `evt.n` reach their landing cycle: the data there is written, else the core
freezes for this cycle, at level 2 no longer than the worst case of the source (R205, R209). -/
def execLoadLanding (s : State) : Host.Outcome State Fault Refusal :=
  let core := s.evt.n
  let k := s.core core
  let n := k.running
  let c := s.ctx n
  if k.idle || decide (0 < k.switch) || !c.active || c.sched.latches.all (fun l => decide (c.sched.time < l.due)) then .refused .notEnabled
  else if (c.sched.late k.cycle).isEmpty then
    (if c.sched.landFault.isSome then .refused .notEnabled else .next (s.settle n c.sched.time))
  else if (c.sched.late k.cycle).any (fun l => l.overdue k.cycle) then .refused .notEnabled
  else .next ({ (({ (s.planeCycle core) with cur := n } : State).landFreeze.tick core) with cur := s.cur })

/-- TIMER_EXPIRY: the core cycle counter has reached the compare value of context `evt.n` (R402). -/
def execTimerExpiry (s : State) : Host.Outcome State Fault Refusal :=
  let n := s.evt.n
  let c := s.ctx n
  let d := c.timerTick (s.core (coreOf n)).cycle
  if d.sys = c.sys then .refused .notEnabled else .next (s.setCtx n d)

/-- BUNDLE_CACHE_FILL: the line that the running context of core `evt.n` misses arrives from the image store (R202). -/
def execBundleCacheFill (s : State) : Host.Outcome State Fault Refusal :=
  let core := s.evt.n
  let k := s.core core
  let q : State := { s with cur := k.running }
  match q.myImage? with
  | none => .refused .notEnabled
  | some i =>
    if k.idle || !q.me.active || decide (i.bundles.length ≤ q.me.sched.pc) || q.inCache then .refused .notEnabled
    else .next (s.updCore core (fun k => k.fillLine i.handle (q.me.sched.pc / 4)))

/-- CONTEXT_SWITCH: the width of core `evt.n`, which no context holds or which its holder has lost, goes to the next ready context
(R214). -/
def execContextSwitch (s : State) : Host.Outcome State Fault Refusal :=
  let core := s.evt.n
  let k := s.core core
  let free := k.idle || !(s.ctx k.running).active || (s.ctx k.running).sync.yielded
  let s' := s.pass core
  if k.offline || !free || (s'.core core).idle then .refused .notEnabled else .next s'

/-- The running context of a core presents a decoded bundle. -/
def State.presented (s : State) (core : Nat) : Option (List Instr) :=
  let k := s.core core
  let q : State := { s with cur := k.running }
  if k.idle || decide (0 < k.switch) || !q.me.active then none
  else
    match q.myImage?.bind (fun i => i.bundles[q.me.sched.pc]?) with
    | some b => (match Decode.bundle b with | .ok l => some (l.map Prod.snd) | .error _ => none)
    | none => none

/-- Report a wait timeout to the die's control core, and decline the bundle (R371, R537). -/
def State.timeout (s : State) (a : Await) : State :=
  let n := s.cur
  ((s.decline a).controlEvent (dieOf (coreOf n)) (coreOf n) (n % 4) 1 0).giveWidth n

/-- WAIT_TIMEOUT: the WAIT or BWT that freezes core `evt.n` has failed for 2^26 cycles (R371). -/
def execWaitTimeout (s : State) : Host.Outcome State Fault Refusal :=
  let core := s.evt.n
  let q : State := { s with cur := (s.core core).running }
  match s.presented core with
  | none => .refused .notEnabled
  | some ops =>
    match q.judge ops with
    | .timeout a => .next ({ q.timeout a with cur := s.cur })
    | _ => .refused .notEnabled

/-- `k` freeze cycles of a core, each as `f` counts it in the running context. -/
def State.passCycles (s : State) (core k : Nat) (f : State → State) : State :=
  match k with
  | 0 => s
  | k + 1 =>
    let q : State := f { (s.planeCycle core) with cur := (s.core core).running }
    ({ (q.tick core) with cur := s.cur } : State).passCycles core k f

/-- The least number of cycles, at most `fuel`, after which a bundle of weight `w` passes the window test. -/
def Core.windowWait (k : Core) (c w fuel : Nat) : Nat :=
  match fuel with
  | 0 => 0
  | fuel + 1 => if k.windowOk c w then 0 else 1 + k.windowWait (c + 1) w fuel

/-- Current that a bundle makes in its issue cycle (R220). -/
def bundleWeight (ops : List Instr) : Nat := ops.foldl (fun n i => n + i.weight + i.firstLine) 0

/-- WINDOW_SUM_FREEZE_END: the window sum of core `evt.n` falls until its presented bundle may issue; the cycles until then count in
frz_pwr (R220). -/
def execWindowSumFreezeEnd (s : State) : Host.Outcome State Fault Refusal :=
  let core := s.evt.n
  let k := s.core core
  let q : State := { s with cur := k.running }
  match s.presented core with
  | none => .refused .notEnabled
  | some ops =>
    let w := k.windowWait k.cycle (bundleWeight ops) 4096
    if w = 0 || !(q.me.sched.late k.cycle).isEmpty || bit q.me.sys.timer.toNat 63 then .refused .notEnabled
    else match q.judge ops with
      | .issue => .next (s.passCycles core w (fun s => s.freeze .pwr))
      | _ => .refused .notEnabled

/-- `j` more cycles of every wait. -/
def Waits.after (q : Waits) (j : Nat) : Waits := { q with bank := q.bank + j, fence := q.fence + j, lps := q.lps + j }

/-- PADDED_FREEZE_END: a freeze of fixed length before the presented bundle of core `evt.n` runs out: the padding of its landings, or a
fence's or bank's padding or the wait after an LPSCFG, of which `evt.m` cycles remain (R171, R209, R341, R361). -/
def execPaddedFreezeEnd (s : State) : Host.Outcome State Fault Refusal :=
  let core := s.evt.n
  let k := s.core core
  let q : State := { s with cur := k.running }
  let pad := (q.me.sched.latches.filter (fun l => l.due ≤ q.me.sched.time)).foldl (fun m l => max m l.pad) 0
  if k.idle || decide (0 < k.switch) || !q.me.active || bit q.me.sys.timer.toNat 63 then .refused .notEnabled
  else if 0 < pad then .next (s.passCycles core pad State.landFreeze)
  else
    match s.presented core with
    | none => .refused .notEnabled
    | some ops =>
      let m := s.evt.m
      let at_ (j : Nat) : Present := (q.updMe (fun c => { c with sched := { c.sched with waits := c.sched.waits.after j } })).judge ops
      match at_ 0, at_ (m - 1), at_ m with
      | .freeze [a], .freeze [b], .issue =>
        if a = b ∧ [Why.fence, .lps, .bank].contains a then .next (s.passCycles core m (fun s => s.freeze a)) else .refused .notEnabled
      | _, _, _ => .refused .notEnabled

end Machine

end Sys2Proof
end

