-- ==== Sys2Proof/Machine/Dispatch.lean ====
section
/-! DEFINITION. The meaning of every instruction and indivisible step, one arm per constructor. -/

namespace Sys2Proof.Machine

/-- What an instruction does in a state: the context `cur` for slot operations, the argument `evt` for steps. -/
def exec (i : Instr) (s : State) : Host.Outcome State Fault Refusal :=
  match i with
  | .nop k => Sys2Proof.Machine.execNop k s
  | .wait k f pol y => Sys2Proof.Machine.execWait k f pol y s
  | .arv k n rel => Sys2Proof.Machine.execArv k n rel s
  | .bwt k n y => Sys2Proof.Machine.execBwt k n y s
  | .fmt k h v => Sys2Proof.Machine.execFmt k h v s
  | .fenceAcq k sc => Sys2Proof.Machine.execFenceAcq k sc s
  | .fenceRel k sc => Sys2Proof.Machine.execFenceRel k sc s
  | .fenceAll k sc => Sys2Proof.Machine.execFenceAll k sc s
  | .join k n => Sys2Proof.Machine.execJoin k n s
  | .leave k n => Sys2Proof.Machine.execLeave k n s
  | .yield k => Sys2Proof.Machine.execYield k s
  | .hndl k => Sys2Proof.Machine.execHndl k s
  | .add p d a b => Sys2Proof.Machine.execAdd p d a b s
  | .sub p d a b => Sys2Proof.Machine.execSub p d a b s
  | .mul p d a b => Sys2Proof.Machine.execMul p d a b s
  | .mulh p d a b u => Sys2Proof.Machine.execMulh p d a b u s
  | .div p d a b u => Sys2Proof.Machine.execDiv p d a b u s
  | .rem p d a b u => Sys2Proof.Machine.execRem p d a b u s
  | .and p d a b => Sys2Proof.Machine.execAnd p d a b s
  | .or p d a b => Sys2Proof.Machine.execOr p d a b s
  | .xor p d a b => Sys2Proof.Machine.execXor p d a b s
  | .shl p d a b => Sys2Proof.Machine.execShl p d a b s
  | .shr p d a b => Sys2Proof.Machine.execShr p d a b s
  | .sar p d a b => Sys2Proof.Machine.execSar p d a b s
  | .rot p d a b => Sys2Proof.Machine.execRot p d a b s
  | .clz p d a => Sys2Proof.Machine.execClz p d a s
  | .popc p d a => Sys2Proof.Machine.execPopc p d a s
  | .min p d a b u => Sys2Proof.Machine.execMin p d a b u s
  | .max p d a b u => Sys2Proof.Machine.execMax p d a b u s
  | .cmp p f a b c => Sys2Proof.Machine.execCmp p f a b c s
  | .sel p d a b f => Sys2Proof.Machine.execSel p d a b f s
  | .mov p d a => Sys2Proof.Machine.execMov p d a s
  | .addImm p d a imm => Sys2Proof.Machine.execAddImm p d a imm s
  | .subImm p d a imm => Sys2Proof.Machine.execSubImm p d a imm s
  | .mulImm p d a imm => Sys2Proof.Machine.execMulImm p d a imm s
  | .andImm p d a imm => Sys2Proof.Machine.execAndImm p d a imm s
  | .orImm p d a imm => Sys2Proof.Machine.execOrImm p d a imm s
  | .xorImm p d a imm => Sys2Proof.Machine.execXorImm p d a imm s
  | .shlImm p d a imm => Sys2Proof.Machine.execShlImm p d a imm s
  | .shrImm p d a imm => Sys2Proof.Machine.execShrImm p d a imm s
  | .sarImm p d a imm => Sys2Proof.Machine.execSarImm p d a imm s
  | .rotImm p d a imm => Sys2Proof.Machine.execRotImm p d a imm s
  | .minImm p d a imm u => Sys2Proof.Machine.execMinImm p d a imm u s
  | .maxImm p d a imm u => Sys2Proof.Machine.execMaxImm p d a imm u s
  | .cmpImm p f a imm c => Sys2Proof.Machine.execCmpImm p f a imm c s
  | .movImm p d imm => Sys2Proof.Machine.execMovImm p d imm s
  | .movh p d imm => Sys2Proof.Machine.execMovh p d imm s
  | .aadd p d a b => Sys2Proof.Machine.execAadd p d a b s
  | .aaddi p d a imm => Sys2Proof.Machine.execAaddi p d a imm s
  | .aidx p d a b j => Sys2Proof.Machine.execAidx p d a b j s
  | .acmp p f a b c => Sys2Proof.Machine.execAcmp p f a b c s
  | .amov p x d a => Sys2Proof.Machine.execAmov p x d a s
  | .amovh p d a => Sys2Proof.Machine.execAmovh p d a s
  | .ahome p d a b => Sys2Proof.Machine.execAhome p d a b s
  | .br p off => Sys2Proof.Machine.execBr p off s
  | .brc p d off => Sys2Proof.Machine.execBrc p d off s
  | .call p d off => Sys2Proof.Machine.execCall p d off s
  | .ret p a => Sys2Proof.Machine.execRet p a s
  | .loop p lc im a len cnt => Sys2Proof.Machine.execLoop p lc im a len cnt s
  | .fset p f v => Sys2Proof.Machine.execFset p f v s
  | .fmov p f a inv => Sys2Proof.Machine.execFmov p f a inv s
  | .kwr p k a => Sys2Proof.Machine.execKwr p k a s
  | .kwrImm p k imm => Sys2Proof.Machine.execKwrImm p k imm s
  | .zwr p z a => Sys2Proof.Machine.execZwr p z a s
  | .zwrImm p z imm => Sys2Proof.Machine.execZwrImm p z imm s
  | .launch p d a b => Sys2Proof.Machine.execLaunch p d a b s
  | .launchm p d a b => Sys2Proof.Machine.execLaunchm p d a b s
  | .tend p => Sys2Proof.Machine.execTend p s
  | .steal p d a f => Sys2Proof.Machine.execSteal p d a f s
  | .prioSelf p d imm => Sys2Proof.Machine.execPrioSelf p d imm s
  | .prioTask p d a imm => Sys2Proof.Machine.execPrioTask p d a imm s
  | .lpscfg p a => Sys2Proof.Machine.execLpscfg p a s
  | .lpsnxt p d f => Sys2Proof.Machine.execLpsnxt p d f s
  | .stepmark p => Sys2Proof.Machine.execStepmark p s
  | .qlvl p d a imm => Sys2Proof.Machine.execQlvl p d a imm s
  | .qstat p d a => Sys2Proof.Machine.execQstat p d a s
  | .bacqP p d e ring => Sys2Proof.Machine.execBacqP p d e ring s
  | .bacqC p d t ring => Sys2Proof.Machine.execBacqC p d t ring s
  | .brelP p c e ring => Sys2Proof.Machine.execBrelP p c e ring s
  | .brelC p ring => Sys2Proof.Machine.execBrelC p ring s
  | .brcfg p d a ring => Sys2Proof.Machine.execBrcfg p d a ring s
  | .trap p imm => Sys2Proof.Machine.execTrap p imm s
  | .eret p => Sys2Proof.Machine.execEret p s
  | .sysrd p d num => Sys2Proof.Machine.execSysrd p d num s
  | .syswr p a num => Sys2Proof.Machine.execSyswr p a num s
  | .halt p => Sys2Proof.Machine.execHalt p s
  | .frz p d a => Sys2Proof.Machine.execFrz p d a s
  | .frzThaw p d a => Sys2Proof.Machine.execFrzThaw p d a s
  | .drain p d a => Sys2Proof.Machine.execDrain p d a s
  | .dscan p d a b => Sys2Proof.Machine.execDscan p d a b s
  | .imgw p d a b inc bud => Sys2Proof.Machine.execImgw p d a b inc bud s
  | .imgr p d a b => Sys2Proof.Machine.execImgr p d a b s
  | .rtver p d => Sys2Proof.Machine.execRtver p d s
  | .lkev p d a => Sys2Proof.Machine.execLkev p d a s
  | .reconf p d a => Sys2Proof.Machine.execReconf p d a s
  | .vadd p w ty d a b s_ => Sys2Proof.Machine.execVadd p w ty d a b s_ s
  | .vsub p w ty d a b s_ => Sys2Proof.Machine.execVsub p w ty d a b s_ s
  | .vmul p w ty d a b s_ => Sys2Proof.Machine.execVmul p w ty d a b s_ s
  | .vfma p w ty d a b c => Sys2Proof.Machine.execVfma p w ty d a b c s
  | .vfms p w ty d a b c => Sys2Proof.Machine.execVfms p w ty d a b c s
  | .vmin p w ty d a b => Sys2Proof.Machine.execVmin p w ty d a b s
  | .vmax p w ty d a b => Sys2Proof.Machine.execVmax p w ty d a b s
  | .vabs p w ty d a => Sys2Proof.Machine.execVabs p w ty d a s
  | .vneg p w ty d a => Sys2Proof.Machine.execVneg p w ty d a s
  | .vclamp p w ty d a b c => Sys2Proof.Machine.execVclamp p w ty d a b c s
  | .vmulh p w ty d a b => Sys2Proof.Machine.execVmulh p w ty d a b s
  | .vrcp p w ty d a => Sys2Proof.Machine.execVrcp p w ty d a s
  | .vrsq p w ty d a => Sys2Proof.Machine.execVrsq p w ty d a s
  | .vexp2 p w ty d a => Sys2Proof.Machine.execVexp2 p w ty d a s
  | .vlog2 p w ty d a => Sys2Proof.Machine.execVlog2 p w ty d a s
  | .vsqrt p w ty d a => Sys2Proof.Machine.execVsqrt p w ty d a s
  | .vcvt p w ty tx d a part => Sys2Proof.Machine.execVcvt p w ty tx d a part s
  | .vq8 p w ty d a signed => Sys2Proof.Machine.execVq8 p w ty d a signed s
  | .vdq8 p w ty d a b signed => Sys2Proof.Machine.execVdq8 p w ty d a b signed s
  | .vand p w ty d a b => Sys2Proof.Machine.execVand p w ty d a b s
  | .vor p w ty d a b => Sys2Proof.Machine.execVor p w ty d a b s
  | .vxor p w ty d a b => Sys2Proof.Machine.execVxor p w ty d a b s
  | .vnot p w ty d a => Sys2Proof.Machine.execVnot p w ty d a s
  | .vshl p w ty d a n => Sys2Proof.Machine.execVshl p w ty d a n s
  | .vshr p w ty d a n => Sys2Proof.Machine.execVshr p w ty d a n s
  | .vsar p w ty d a n => Sys2Proof.Machine.execVsar p w ty d a n s
  | .vpopc p w ty d a => Sys2Proof.Machine.execVpopc p w ty d a s
  | .vclz p w ty d a => Sys2Proof.Machine.execVclz p w ty d a s
  | .vcmp p w ty c d a b => Sys2Proof.Machine.execVcmp p w ty c d a b s
  | .vsel p w ty d a b c => Sys2Proof.Machine.execVsel p w ty d a b c s
  | .vmov p w ty d a => Sys2Proof.Machine.execVmov p w ty d a s
  | .vbcast p w ty d a n => Sys2Proof.Machine.execVbcast p w ty d a n s
  | .vperm p w ty d a b => Sys2Proof.Machine.execVperm p w ty d a b s
  | .viota p w ty d n => Sys2Proof.Machine.execViota p w ty d n s
  | .vrot p w ty d a n => Sys2Proof.Machine.execVrot p w ty d a n s
  | .vredsum p w ty d a => Sys2Proof.Machine.execVredsum p w ty d a s
  | .vredmax p w ty d a => Sys2Proof.Machine.execVredmax p w ty d a s
  | .vredmin p w ty d a => Sys2Proof.Machine.execVredmin p w ty d a s
  | .vamax p w ty mx a => Sys2Proof.Machine.execVamax p w ty mx a s
  | .mcfg p ty pm => Sys2Proof.Machine.execMcfg p ty pm s
  | .mldw p ty gl => Sys2Proof.Machine.execMldw p ty gl s
  | .mswap p => Sys2Proof.Machine.execMswap p s
  | .mstrm p ty gl n pl cb arow yf => Sys2Proof.Machine.execMstrm p ty gl n pl cb arow yf s
  | .mzero p pm => Sys2Proof.Machine.execMzero p pm s
  | .mrdacc p tt gl row pl part => Sys2Proof.Machine.execMrdacc p tt gl row pl part s
  | .maddacc p ty gl row pl part => Sys2Proof.Machine.execMaddacc p ty gl row pl part s
  | .mwaitp p pm => Sys2Proof.Machine.execMwaitp p pm s
  | .ldw p d a ac dist off => Sys2Proof.Machine.execLdw p d a ac dist off s
  | .ldd p d a ac dist off => Sys2Proof.Machine.execLdd p d a ac dist off s
  | .ldl p l a ac dist off => Sys2Proof.Machine.execLdl p l a ac dist off s
  | .ldls p l a ac dist s_ => Sys2Proof.Machine.execLdls p l a ac dist s_ s
  | .ldg p l a ac dist x => Sys2Proof.Machine.execLdg p l a ac dist x s
  | .tlnew p d a dist n => Sys2Proof.Machine.execTlnew p d a dist n s
  | .tlrd p l a dist off => Sys2Proof.Machine.execTlrd p l a dist off s
  | .tlqry p l a dist => Sys2Proof.Machine.execTlqry p l a dist s
  | .tlrep p d a dist => Sys2Proof.Machine.execTlrep p d a dist s
  | .amoAdd p m => Sys2Proof.Machine.execAmoAdd p m s
  | .amoMax p m => Sys2Proof.Machine.execAmoMax p m s
  | .amoMin p m => Sys2Proof.Machine.execAmoMin p m s
  | .amoAnd p m => Sys2Proof.Machine.execAmoAnd p m s
  | .amoOr p m => Sys2Proof.Machine.execAmoOr p m s
  | .amoXch p m => Sys2Proof.Machine.execAmoXch p m s
  | .amoCas p m => Sys2Proof.Machine.execAmoCas p m s
  | .amoFadd p m => Sys2Proof.Machine.execAmoFadd p m s
  | .stw p s_ a ac off => Sys2Proof.Machine.execStw p s_ a ac off s
  | .std p s_ a ac off => Sys2Proof.Machine.execStd p s_ a ac off s
  | .stl p s_ a ac off => Sys2Proof.Machine.execStl p s_ a ac off s
  | .stlx p tt mx s_ a ac off => Sys2Proof.Machine.execStlx p tt mx s_ a ac off s
  | .tlwr p tt mx s_ a off => Sys2Proof.Machine.execTlwr p tt mx s_ a off s
  | .tlfin p a => Sys2Proof.Machine.execTlfin p a s
  | .puth p s_ a ac off => Sys2Proof.Machine.execPuth p s_ a ac off s
  | .cpy p h => Sys2Proof.Machine.execCpy p h s
  | .cred p h => Sys2Proof.Machine.execCred p h s
  | .cmc p h => Sys2Proof.Machine.execCmc p h s
  | .cgat p h => Sys2Proof.Machine.execCgat p h s
  | .cstat p fl kb => Sys2Proof.Machine.execCstat p fl kb s
  | .ccancel p fl => Sys2Proof.Machine.execCcancel p fl s
  | .xcvt p x => Sys2Proof.Machine.execXcvt p x s
  | .xtrn p x => Sys2Proof.Machine.execXtrn p x s
  | .xexp p x xr => Sys2Proof.Machine.execXexp p x xr s
  | .xpack p x => Sys2Proof.Machine.execXpack p x s
  | .apxb p rg len => Sys2Proof.Machine.execApxb p rg len s
  | .apxe p rg => Sys2Proof.Machine.execApxe p rg s
  | .ftcfg p rg zb => Sys2Proof.Machine.execFtcfg p rg zb s
  | .ftcfgNew p rg zb => Sys2Proof.Machine.execFtcfgNew p rg zb s
  | .ftinv p rg => Sys2Proof.Machine.execFtinv p rg s
  | .ftst p rg mask f => Sys2Proof.Machine.execFtst p rg mask f s
  | .ftstep p rg zb fl => Sys2Proof.Machine.execFtstep p rg zb fl s
  | .ftsamp p rg zb fl => Sys2Proof.Machine.execFtsamp p rg zb fl s
  | .pageWalkPreload p a => Sys2Proof.Machine.execPageWalkPreload p a s
  | .tlbPageInvalidate p a => Sys2Proof.Machine.execTlbPageInvalidate p a s
  | .tlbAllInvalidate p a => Sys2Proof.Machine.execTlbAllInvalidate p a s
  | .pageTableRootWrite p a => Sys2Proof.Machine.execPageTableRootWrite p a s
  | .pwrLimWrite p a => Sys2Proof.Machine.execPwrLimWrite p a s
  | .handlerWordWrite p a ctl x => Sys2Proof.Machine.execHandlerWordWrite p a ctl x s
  | .futureEmptyWordWrite p a => Sys2Proof.Machine.execFutureEmptyWordWrite p a s
  | .futemptyInline p a => Sys2Proof.Machine.execFutemptyInline p a s
  | .trapWordWrite p a => Sys2Proof.Machine.execTrapWordWrite p a s
  | .timerWrite p a => Sys2Proof.Machine.execTimerWrite p a s
  | .tframeWrite p a => Sys2Proof.Machine.execTframeWrite p a s
  | .preemptRequest p a x => Sys2Proof.Machine.execPreemptRequest p a x s
  | .contextResume p a x => Sys2Proof.Machine.execContextResume p a x s
  | .checkpointAreaWrite p a => Sys2Proof.Machine.execCheckpointAreaWrite p a s
  | .linDmaxWrite p a => Sys2Proof.Machine.execLinDmaxWrite p a s
  | .checkpointPeriodWrite p a steps => Sys2Proof.Machine.execCheckpointPeriodWrite p a steps s
  | .exposedResultWrite => Sys2Proof.Machine.execExposedResultWrite s
  | .latchDataArrival => Sys2Proof.Machine.execLatchDataArrival s
  | .loadLanding => Sys2Proof.Machine.execLoadLanding s
  | .timerExpiry => Sys2Proof.Machine.execTimerExpiry s
  | .bundleCacheFill => Sys2Proof.Machine.execBundleCacheFill s
  | .contextSwitch => Sys2Proof.Machine.execContextSwitch s
  | .waitTimeout => Sys2Proof.Machine.execWaitTimeout s
  | .sageLeaseGrant => Sys2Proof.Machine.execSageLeaseGrant s
  | .leaseExpiry => Sys2Proof.Machine.execLeaseExpiry s
  | .leaseRenewal => Sys2Proof.Machine.execLeaseRenewal s
  | .weightBlockLoad => Sys2Proof.Machine.execWeightBlockLoad s
  | .accumulatorRowWrite => Sys2Proof.Machine.execAccumulatorRowWrite s
  | .maddaccRowWrite => Sys2Proof.Machine.execMaddaccRowWrite s
  | .heldWindowAccess => Sys2Proof.Machine.execHeldWindowAccess s
  | .windowAccess => Sys2Proof.Machine.execWindowAccess s
  | .transformBeat => Sys2Proof.Machine.execTransformBeat s
  | .surrogateResult => Sys2Proof.Machine.execSurrogateResult s
  | .apxComparison => Sys2Proof.Machine.execApxComparison s
  | .fittingOpComplete => Sys2Proof.Machine.execFittingOpComplete s
  | .copyCommandStart => Sys2Proof.Machine.execCopyCommandStart s
  | .copyBurst => Sys2Proof.Machine.execCopyBurst s
  | .copyCompletion => Sys2Proof.Machine.execCopyCompletion s
  | .memoryAccessPerform => Sys2Proof.Machine.execMemoryAccessPerform s
  | .atomicApply => Sys2Proof.Machine.execAtomicApply s
  | .writeAcknowledge => Sys2Proof.Machine.execWriteAcknowledge s
  | .pageWalk => Sys2Proof.Machine.execPageWalk s
  | .wakeDelivery => Sys2Proof.Machine.execWakeDelivery s
  | .handlerStart => Sys2Proof.Machine.execHandlerStart s
  | .barrierEntryOperation => Sys2Proof.Machine.execBarrierEntryOperation s
  | .barrierNotification => Sys2Proof.Machine.execBarrierNotification s
  | .taskDispatch => Sys2Proof.Machine.execTaskDispatch s
  | .teamDispatch => Sys2Proof.Machine.execTeamDispatch s
  | .teamMigrate => Sys2Proof.Machine.execTeamMigrate s
  | .freeTeamSlotsAdvertise => Sys2Proof.Machine.execFreeTeamSlotsAdvertise s
  | .localTaskStart => Sys2Proof.Machine.execLocalTaskStart s
  | .corePreemption => Sys2Proof.Machine.execCorePreemption s
  | .autoSteal => Sys2Proof.Machine.execAutoSteal s
  | .tlfinApply => Sys2Proof.Machine.execTlfinApply s
  | .useRelease => Sys2Proof.Machine.execUseRelease s
  | .contentDestroyed => Sys2Proof.Machine.execContentDestroyed s
  | .patrolScrub => Sys2Proof.Machine.execPatrolScrub s
  | .recoveryRequest => Sys2Proof.Machine.execRecoveryRequest s
  | .restoreComplete => Sys2Proof.Machine.execRestoreComplete s
  | .replicationComplete => Sys2Proof.Machine.execReplicationComplete s
  | .jobEnd => Sys2Proof.Machine.execJobEnd s
  | .engineFault => Sys2Proof.Machine.execEngineFault s
  | .dieLoss => Sys2Proof.Machine.execDieLoss s
  | .buddyRingChange => Sys2Proof.Machine.execBuddyRingChange s
  | .imageCopyComplete => Sys2Proof.Machine.execImageCopyComplete s
  | .checkpointTrigger => Sys2Proof.Machine.execCheckpointTrigger s
  | .controlPortFrz => Sys2Proof.Machine.execControlPortFrz s
  | .controlPortDrain => Sys2Proof.Machine.execControlPortDrain s
  | .controlPortDscan => Sys2Proof.Machine.execControlPortDscan s
  | .controlPortImgw => Sys2Proof.Machine.execControlPortImgw s
  | .controlPortImgr => Sys2Proof.Machine.execControlPortImgr s
  | .controlPortReconf => Sys2Proof.Machine.execControlPortReconf s
  | .flitTransmit => Sys2Proof.Machine.execFlitTransmit s
  | .flitReceive => Sys2Proof.Machine.execFlitReceive s
  | .ackReceive => Sys2Proof.Machine.execAckReceive s
  | .ackTimer => Sys2Proof.Machine.execAckTimer s
  | .nakReceive => Sys2Proof.Machine.execNakReceive s
  | .trainReceive => Sys2Proof.Machine.execTrainReceive s
  | .losDetection => Sys2Proof.Machine.execLosDetection s
  | .restripeTimerEnd => Sys2Proof.Machine.execRestripeTimerEnd s
  | .wavelengthRelock => Sys2Proof.Machine.execWavelengthRelock s
  | .heldTimeout => Sys2Proof.Machine.execHeldTimeout s
  | .heldDirectionRelock => Sys2Proof.Machine.execHeldDirectionRelock s
  | .packetHop => Sys2Proof.Machine.execPacketHop s
  | .packetDelivery => Sys2Proof.Machine.execPacketDelivery s
  | .e2eAckReceive => Sys2Proof.Machine.execE2eAckReceive s
  | .linkDownReport => Sys2Proof.Machine.execLinkDownReport s
  | .tableWrite => Sys2Proof.Machine.execTableWrite s
  | .advanceMark => Sys2Proof.Machine.execAdvanceMark s
  | .advanceDone => Sys2Proof.Machine.execAdvanceDone s
  | .advanceTimeout => Sys2Proof.Machine.execAdvanceTimeout s
  | .auditSend => Sys2Proof.Machine.execAuditSend s
  | .auditReceive => Sys2Proof.Machine.execAuditReceive s
  | .drainMarkerReceive => Sys2Proof.Machine.execDrainMarkerReceive s
  | .drainAnswerReceive => Sys2Proof.Machine.execDrainAnswerReceive s
  | .drainDoneReceive => Sys2Proof.Machine.execDrainDoneReceive s
  | .holdMarkReceive => Sys2Proof.Machine.execHoldMarkReceive s
  | .ownerWrite => Sys2Proof.Machine.execOwnerWrite s
  | .jobDoorbell => Sys2Proof.Machine.execJobDoorbell s
  | .eqheadWrite => Sys2Proof.Machine.execEqheadWrite s
  | .plimWrite => Sys2Proof.Machine.execPlimWrite s
  | .bar0RegisterWrite => Sys2Proof.Machine.execBar0RegisterWrite s
  | .seal => Sys2Proof.Machine.execSeal s
  | .aperture => Sys2Proof.Machine.execAperture s
  | .dumpread => Sys2Proof.Machine.execDumpread s
  | .meas => Sys2Proof.Machine.execMeas s
  | .readEvents => Sys2Proof.Machine.execReadEvents s
  | .readDump => Sys2Proof.Machine.execReadDump s
  | .resetDie => Sys2Proof.Machine.execResetDie s
  | .setLimit => Sys2Proof.Machine.execSetLimit s
  | .identify => Sys2Proof.Machine.execIdentify s
  | .getVersion => Sys2Proof.Machine.execGetVersion s
  | .getCapabilities => Sys2Proof.Machine.execGetCapabilities s
  | .negotiateAlgorithms => Sys2Proof.Machine.execNegotiateAlgorithms s
  | .getDigests => Sys2Proof.Machine.execGetDigests s
  | .getCertificate => Sys2Proof.Machine.execGetCertificate s
  | .challenge => Sys2Proof.Machine.execChallenge s
  | .getMeasurements => Sys2Proof.Machine.execGetMeasurements s
  | .dieReset => Sys2Proof.Machine.execDieReset s
  | .bootTimeout => Sys2Proof.Machine.execBootTimeout s
  | .packageReset => Sys2Proof.Machine.execPackageReset s
  | .coolantConditionChange => Sys2Proof.Machine.execCoolantConditionChange s
  | .fatalError => Sys2Proof.Machine.execFatalError s
  | .directoryOperation => Sys2Proof.Machine.execDirectoryOperation s
  | .hostTileLoad => Sys2Proof.Machine.execHostTileLoad s
  | .streamLineEntry => Sys2Proof.Machine.execStreamLineEntry s
  | .weightsLoaded => Sys2Proof.Machine.execWeightsLoaded s
  | .windowSumFreezeEnd => Sys2Proof.Machine.execWindowSumFreezeEnd s
  | .paddedFreezeEnd => Sys2Proof.Machine.execPaddedFreezeEnd s
  | .dieReady => Sys2Proof.Machine.execDieReady s

end Sys2Proof.Machine
end

