-- ==== Sys2Proof/Machine/Cycle.lean ====
section
/-! DEFINITION. One core cycle: what the running context's presented bundle comes to, and the issue of its operations (R196 to R232,
R399 to R405). -/

namespace Sys2Proof.Machine

/-- Run operations one after another. -/
def runOps (s : State) (l : List Instr) : Host.Outcome State Fault Refusal :=
  match l with
  | [] => .next s
  | i :: r => match exec i s with
    | .next s' => runOps s' r
    | o => o

/-- The order in which a bundle's operations act: slot order, with loads after the M operations, and HALT, ERET and HNDL last (R102,
R272, R392, R411, R415). -/
def actOrder (ops : List Instr) : List Instr :=
  ops.filter (fun i => !i.last && !i.reads) ++ ops.filter Instr.reads ++ ops.filter Instr.last

/-- After a bundle that ended or restored its schedule: the context goes on after an ERET that left it its task, else it gives up the
width; the ERET's bundle counts as issued (R211, R226, R392, R411). -/
def State.afterOver (s : State) (n : Nat) (ops : List Instr) : State :=
  let back := ops.any (fun i => match i with | .eret _ => true | _ => false)
  let s := s.updCtx n (fun c => { c with
    sched := { c.sched with ended := false, granted := false }
    cnt := { c.cnt with issued := c.cnt.issued + b2n back } })
  let c := s.ctx n
  if c.sync.yielded && c.active then s.giveWidth n
  else if !c.active || ops.any (fun i => match i with | .hndl _ => true | _ => false) then s.pass (coreOf n)
  else s

/-- After an issued bundle: the next one, and the width given up at a yield point (R203, R212). -/
def State.afterBundle (s : State) (n : Nat) (ops : List Instr) : State :=
  if (s.ctx n).sched.ended then s.afterOver n ops
  else
    let s := s.updCtx n Ctx.endBundle
    if (s.ctx n).sync.yielded then s.giveWidth n else if (s.ctx n).active then s else s.pass (coreOf n)

/-- Issue the presented bundle of operations `ops` (R196, R201). -/
def State.issueBundle (s : State) (ops : List Instr) : Host.Outcome State Fault Refusal :=
  let n := s.cur
  let w := ops.foldl (fun m i => m + i.weight) 0
  let s := (s.updMe (fun c => { c with sched := { c.sched with granted := true } })).updCore (coreOf n) (fun k => k.charge w)
  match runOps s (actOrder ops) with
  | .next s => .next (({ s with cur := n } : State).afterBundle n ops)
  | o => o

/-- What a presented bundle of operations comes to in this cycle. -/
def State.presentOps (s : State) (ops : List Instr) : Host.Outcome State Fault Refusal :=
  let n := s.cur
  let k := s.myCore
  let s := s.updMe (fun c => { c with sync := { c.sync with tending := false } })
  match s.judge ops with
  | .issue => if k.windowOk k.cycle (bundleWeight ops) then s.issueBundle ops else .next (s.freeze .pwr)
  | .trap i => .next (s.takeTrap i).afterTrap
  | .timer => .next s.takeTimer.afterTrap
  | .freeze ws =>
    let s := s.freezeAll ws
    let s := ws.foldl (fun s w => match w with | .walk a => s.askPage a | _ => s) s
    .next (if ws.contains .tend then s.retireAsk else s)
  | .hold =>
    if k.windowOk k.cycle 1 then .next ((s.updCore (coreOf n) (fun k => k.charge 1)).updMe Ctx.emptyStep) else .next (s.freeze .pwr)
  | .decline a => .next ((s.decline a).giveWidth n)
  | .timeout a => .next (s.timeout a)

/-- The fetch waits: a TIMER that is due is taken, else the cycle is a freeze cycle (R202, R210, R402). -/
def State.fetchWait (s : State) : State := if s.timerReady then s.takeTimer.afterTrap else s.freeze .late

/-- Fetch the presented bundle and see what it comes to (R202, R203, R401). -/
def State.fetch (s : State) : Host.Outcome State Fault Refusal :=
  match s.myImage? with
  | none => .next s.fetchWait
  | some i =>
    match i.bundles[s.me.sched.pc]? with
    | none =>
      let x : TrapInfo := { cause := cPCRANGE, taddr := BitVec.ofNat 64 s.me.sched.pc, slot := 15, async := false, land := false,
                            rep := false, efl := 0, key := 0, cmd := none }
      .next (s.takeTrap x).afterTrap
    | some b =>
      if !s.inCache then .next s.fetchWait
      else match Decode.bundle b with
        | .ok l => s.presentOps (l.map Prod.snd)
        | .error _ => .fault .badBundle

/-- Steps of a request of context `n` for its pieces `ks`. -/
def reqSteps (n : Nat) (r : Req) (ks : List Nat) : List (Instr × EvtArg) :=
  let e (k : Nat) : EvtArg := { evtZero with n := n, m := r.id, k := k }
  ks.flatMap (fun k => [(.memoryAccessPerform, e k), (.windowAccess, e k), (.heldWindowAccess, e k)]) ++
  [(.atomicApply, e 0), (.directoryOperation, e 0), (.tlfinApply, e 0), (.wakeDelivery, e 0), (.writeAcknowledge, e 0), (.latchDataArrival, e 0)]

/-- Those of some steps that can occur, one after another. -/
def State.tryAll (s : State) (l : List (Instr × EvtArg)) : State :=
  match l with
  | [] => s
  | (i, e) :: r => match exec i { s with evt := e } with
    | .next s' => ({ s' with evt := s.evt } : State).tryAll r
    | _ => s.tryAll r

/-- At level 2 the data of an access is there by the worst case of its source: what the context asked for up to that access is
performed, and the data arrives (R208, R209; log entry 108). -/
def State.forced (s : State) (n : Nat) : State :=
  let c := s.ctx n
  let cyc := (s.core (coreOf n)).cycle
  let ls := c.sched.latches.filter (fun l => decide (l.due ≤ c.sched.time) && l.overdue cyc)
  match leastBy (fun x => 2 ^ 64 - x) (ls.map Latch.ord) with
  | none => s
  | some o => s.tryAll ((c.mem.reqs.filter (fun r => r.ord ≤ o)).flatMap (fun r => reqSteps n r (List.range r.pieces.length)))

/-- The presented bundle of context `cur` is a TEND that issues in this cycle. -/
def State.endsNow (s : State) : Bool :=
  match s.presented (coreOf s.cur) with
  | some ops => ops.any (fun i => match i with | .tend _ => true | _ => false) && (match s.judge ops with | .issue => true | _ => false)
  | none => false

/-- One cycle of the context that holds the width: landings first, then a request to leave, a surrogate path's empty bundles, the
presented bundle; of a TEND and a request to freeze of one cycle the TEND comes (R205, R304, R399, R420, R430). -/
def State.present (s : State) : Host.Outcome State Fault Refusal :=
  let n := s.cur
  let s := s.forced n
  let q := s.me.sched
  match q.landFault with
  | some l => .next ((s.arriveAt n).raiseLanding l).afterTrap
  | none =>
    if !(q.late s.myCore.cycle).isEmpty then .next (if s.timerReady then (s.arriveAt n).takeTimer.afterTrap else s.landFreeze)
    else
      let s := s.arriveAt n
      let tend := s.me.sync.freezing && decide (s.me.sync.asked = s.myCore.cycle) && s.endsNow
      if s.me.leaving && !s.retiring && !tend then
        .next (if s.quiet n then (s.takeOff n).pass (coreOf n) else s.freeze .late)
      else if 0 < s.me.sched.empty then
        .next (if s.timerReady then s.takeTimer.afterTrap
          else if s.myCore.windowOk s.myCore.cycle 0 then s.updMe Ctx.emptyStep else s.freeze .pwr)
      else s.fetch

/-- One core cycle of core `core` (R196, R207, R214). -/
def State.coreCycle (s : State) (core : Nat) : Host.Outcome State Fault Refusal :=
  if (s.core core).offline || !s.online (dieOf core) || s.host.fatal || decide (1024 ≤ core) then .next s
  else
    let s := s.coreBackground core
    let k := s.core core
    if k.idle then .next ((s.pass core).tick core)
    else if 0 < k.switch then .next ((s.updCore core (fun k => { k with switch := k.switch - 1 })).tick core)
    else if !(s.ctx k.running).active then .next ((s.pass core).tick core)
    else
      match ({ s with cur := k.running } : State).present with
      | .next s' => .next (s'.tick core)
      | o => o

/-! ### What moves when nothing is named (log entry 4) -/

/-- An argument of three numbers. -/
def arg (n m k : Nat) : EvtArg := { evtZero with n := n, m := m, k := k }

/-- Steps that may carry on what context `n` has under way. -/
def State.ctxSteps (s : State) (n : Nat) : List (Instr × EvtArg) :=
  let c := s.ctx n
  c.mem.reqs.flatMap (fun r => reqSteps n r [r.pieces.findIdx (fun p => !p.done && p.bad.isNone)]) ++
  [(.copyCommandStart, arg n 0 0), (.copyCompletion, arg n 0 0), (.barrierEntryOperation, arg n 0 0)] ++
  c.sync.bars.map (fun b => (.barrierNotification, arg n b.1 0)) ++
  [(.fittingOpComplete, arg n 0 0), (.weightsLoaded, arg n 0 0), (.handlerStart, arg n 0 0)]

/-- Steps that may carry on what a core has under way. -/
def State.coreSteps (s : State) (core : Nat) : List (Instr × EvtArg) :=
  [(.bundleCacheFill, arg core 0 0)] ++ ([0, 1, 2, 3].map (fun d => (Instr.pageWalk, arg d 0 0))) ++
  ([0, 1, 2, 3].flatMap (fun i => s.ctxSteps (4 * core + i))) ++
  [(.copyBurst, arg core 0 0), (.sageLeaseGrant, arg 0 0 0), (.localTaskStart, arg core 0 0), (.taskDispatch, arg (dieOf core) 0 0)]

/-- The first of these steps that can occur. -/
def State.firstStep (s : State) (l : List (Instr × EvtArg)) : State :=
  match l with
  | [] => s
  | (i, e) :: r => match exec i { s with evt := e } with
    | .next s' => s'
    | _ => s.firstStep r

/-- With nothing named, the core of context `cur` plays a cycle; when it issued nothing, the first step that carries on what it waits
for follows. -/
def State.default (s : State) : Host.Outcome State Fault Refusal :=
  let core := coreOf s.cur
  match s.coreCycle core with
  | .next s' =>
    if (s'.core core).idle || decide (0 < (s'.ctx (s'.core core).running).sched.held) then .next (s'.firstStep (s'.coreSteps core))
    else .next s'
  | o => o

/-- Play one move: a core cycle, or an indivisible step with its argument. -/
def State.play (s : State) (m : Move) : Host.Outcome State Fault Refusal :=
  match m with
  | .cycle => s.coreCycle (coreOf s.cur)
  | .core c => s.coreCycle c
  | .event i e => if (encode i).isSome then .refused .notEnabled else exec i { s with evt := e }

/-! ### Placing an instruction -/

/-- An image of one bundle, an entry (hk = 01 or as the word has it). -/
def oneImage (w : BitVec 64) : Image :=
  { handle := 0x10001, bundles := [bundleOf .sy w], entries := [0], handlers := [], regions := [], sys := true, digest := 0
    data := [], dataAt := 0, ready := true, file := [] }

/-- A root task of an image at level 0. -/
def oneTask (h : W64) : Task :=
  { tid := mkTid 0 0 0
    desc := { image := h, entry := 0, prio := 0, lvl := 0, exact := 0, ins := [], outs := [], args := [], team := 0, rank := 0
              tsize := 1, job := 0 }
    level := 0, base := 0, born := 0, slept := 0, rebuilt := false, redispatched := false, restored := false, target := 0
    pin := none, dataSec := 0, apxIn := false, pkg := 0 }

/-- The state with a task of a one-bundle image started on context 0 of core 0, which holds the width, its bundle in the bundle cache
(log entry 3). -/
def State.placeWord (s : State) (w : BitVec 64) : State :=
  let i := oneImage w
  let e : QEntry := { queue := 0, task := oneTask i.handle, stat := .loc 0 0, image := none }
  let s := s.updDie 0 (fun x => { x with images := i :: x.images, entries := e :: x.entries, offline := false })
  let s := s.startTask 0 e
  let s := s.updCore 0 (fun k => ({ k with running := 0, idle := false, switch := 0, offline := false } : Core).fillLine i.handle 0)
  { s with cur := 0, agenda := [] }

end Sys2Proof.Machine
end

