-- ==== Sys2Proof/Machine/Step.lean ====
section
/-! DEFINITION. One step of the package, and the placing of an instruction where the next step runs it. -/

namespace Sys2Proof.Machine

/-- One step: the first move of the agenda, or the default one (log entry 4). -/
def step (s : State) : Host.Outcome State Fault Refusal :=
  match s.agenda with
  | [] => s.default
  | m :: rest => ({ s with agenda := rest } : State).play m

/-- The state in which the next step runs the bundle whose SY slot holds the word `w` (log entry 3). -/
def State.withFetchWord (s : State) (nbits w : Nat) : State := s.placeWord (BitVec.ofNat 64 (w % 2 ^ min nbits 32))

end Sys2Proof.Machine
end

