-- ==== Sys2Proof/Safety.lean ====
section
/-! DEFINITION. What claims speak of: when an operation issues, what it then schedules, what it leaves alone, the memory invariant, and
what a run of steps is. -/

namespace Sys2Proof.Machine

/-- An operation with predicate `p` and verdict `v` issues: its predicate holds (R105), and either nothing it meets holds it back,
or its whole bundle was found to issue (R196). -/
def State.issues (s : State) (p : Pred) (v : Verdict) : Prop :=
  s.me.holds p = true ∧ (v = .issue ∨ s.me.sched.granted = true)

/-- The running context with one more result in flight: the operation of slot `z` that issues now writes `v` to `d` at its context
time + `lat` (R197). Nothing else of the machine differs. -/
def State.scheduled (s : State) (z : Slot) (lat : Nat) (d : Dest) (v : Line) : State :=
  s.setCtx s.cur { s.ctx s.cur with sched := { (s.ctx s.cur).sched with pend := (s.ctx s.cur).sched.pend ++
    [{ due := (s.ctx s.cur).sched.time + lat, ord := (s.ctx s.cur).sched.ord + z.num, slot := z, dest := d, val := v }] } }

/-- Executing `i` in `s` answers the next state in which a value that has the property `P` is on its way to `d`, and nothing else
differs. -/
def State.schedulesBy (s : State) (i : Instr) (z : Slot) (lat : Nat) (d : Dest) (P : Line → Prop) : Prop :=
  ∃ v : Line, exec i s = .next (s.scheduled z lat d v) ∧ P v

/-- A scalar result: the property is of the 64-bit value written. -/
def State.schedulesG (s : State) (i : Instr) (lat : Nat) (d : BitVec 6) (P : W64 → Prop) : Prop :=
  ∃ v : W64, exec i s = .next (s.scheduled .s lat (.g d) (v.zeroExtend 2048)) ∧ P v

/-- An address result. -/
def State.schedulesA (s : State) (i : Instr) (lat : Nat) (d : BitVec 5) (P : W80 → Prop) : Prop :=
  ∃ v : W80, exec i s = .next (s.scheduled .s lat (.a d) (v.zeroExtend 2048)) ∧ P v

/-- A flag result. -/
def State.schedulesF (s : State) (i : Instr) (lat : Nat) (f : BitVec 4) (P : Prop) : Prop :=
  ∃ b : Bool, exec i s = .next (s.scheduled .s lat (.f f) (if b then 1 else 0)) ∧ (b = true ↔ P)

/-- Every byte of memory reads in `t` as it reads in `s` (R179: physical addresses have 46 bits). -/
def State.sameBytes (s t : State) : Prop := ∀ a, a < 2 ^ 46 → t.readByte a = s.readByte a

/-- Every byte of memory outside [lo, lo + n) reads in `t` as it reads in `s`. -/
def State.sameBytesOutside (s t : State) (lo n : Nat) : Prop :=
  ∀ a, a < 2 ^ 46 → (a < lo ∨ lo + n ≤ a) → t.readByte a = s.readByte a

/-- The registers of a context that programs name, its planes and its trap and special registers are the same. -/
def Ctx.sameRegs (c d : Ctx) : Prop :=
  d.regs = c.regs ∧ d.planes = c.planes ∧ d.sys = c.sys ∧ d.seq = c.seq ∧ d.shadow = c.shadow ∧ d.mode = c.mode ∧ d.task = c.task

/-- Nothing but the schedule of the running context differs. -/
def State.onlySchedule (s t : State) : Prop :=
  t = s ∨ ∃ q : Sched, t = s.setCtx s.cur { s.ctx s.cur with sched := q }

/-- Memory is in its canonical form. -/
def State.memOk (s : State) : Prop := Memory.wf s.mem

/-- The truth of a condition between 64-bit values (R113, R229). -/
def condTruth (c : Cond) (x y : W64) : Prop :=
  match c with
  | .eq => x.toNat = y.toNat
  | .ne => x.toNat ≠ y.toNat
  | .lt => x.toInt < y.toInt
  | .le => x.toInt ≤ y.toInt
  | .gt => y.toInt < x.toInt
  | .ge => y.toInt ≤ x.toInt
  | .ltu => x.toNat < y.toNat
  | .leu => x.toNat ≤ y.toNat
  | .gtu => y.toNat < x.toNat
  | .geu => y.toNat ≤ x.toNat

/-- The 48-bit offset and the 32 upper bits of an address register (R177, R230). -/
def offOf (a : W80) : Nat := a.toNat % 2 ^ 48

/-- Executing `i` in `s` answers a next state, of which `P` holds. -/
def State.nextWith (s : State) (i : Instr) (P : State → Prop) : Prop := ∃ t, exec i s = .next t ∧ P t

/-- A line result of vector slot `w`: the property is of the line written. -/
def State.schedulesV (s : State) (i : Instr) (w : Bool) (lat : Nat) (d : LineRef) (P : Line → Prop) : Prop :=
  s.schedulesBy i (if w then .v1 else .v0) lat (.line d) P

/-- A line result of vector slot `w` that rounds by fmt: in mode RS (fmt.rm = 4) rsn advances by one (R81, R243). -/
def State.schedulesR (s : State) (i : Instr) (w : Bool) (lat : Nat) (d : LineRef) (P : Line → Prop) : Prop :=
  ∃ v : Line, P v ∧ exec i s = .next ((s.scheduled (if w then .v1 else .v0) lat (.line d) v).updMe (fun c => { c with regs :=
    { c.regs with rsn := if c.regs.fmt.toNat % 8 = 4 then c.regs.rsn + 1 else c.regs.rsn } }))

/-- The running context takes one more latch (R206): for the destination `d` of an operation of slot `z` with the arrival distance
`dist`, whose landing cycle is t + max(dist, 1) (R205). Its registers are as before. -/
def State.takesLatch (s t : State) (z : Slot) (dist : Nat) (d : Dest) : Prop :=
  t.cur = s.cur ∧ t.me.regs = s.me.regs ∧
  ∃ l : Latch, t.me.sched.latches = s.me.sched.latches ++ [l] ∧ l.slot = z ∧ l.dest = d ∧
    l.due = s.me.sched.time + max dist 1 ∧ l.dist = dist

/-- One more request of the running context is under way, made by `op`. -/
def State.requests (s t : State) (op : ReqOp) : Prop :=
  ∃ r : Req, t.me.mem.reqs = s.me.mem.reqs ++ [r] ∧ r.op = op

/-- One more result of the running context is on its way to `d`, due `lat` cycles from now. -/
def State.gains (s t : State) (lat : Nat) (d : Dest) (v : Line) : Prop :=
  ∃ p ∈ t.me.sched.pend, p.due = s.me.sched.time + lat ∧ p.dest = d ∧ p.val = v

/-- Row `r` of accumulator plane 0 or 1, column `r` of weight plane 2 (wa) or 3 (ws), as a number. -/
def Planes.row (x : Planes) (k r : Nat) : Nat :=
  if k < 2 then (x.accRow k r).toNat else (Sparse.get 0 (if k = 2 then x.wa else x.ws) r).toNat

/-- Fewer than 32 requests of an alias class of the running context are unacknowledged (R466). -/
def State.queueRoom (s : State) (cls : Nat) : Prop :=
  (s.me.mem.reqs.filter (fun r => !r.op.isQueue && !r.op.isTeam && !r.acked && r.cls % 4 == cls % 4)).length < 32

/-- Nothing holds back a memory access of class `cls` at `ea`: its queue and the walk queue of its home have room, no copy command reserves a
bank of the core, nor, at level 2, has one of the context reserved it for a time (R192, R340, R341, R466). -/
def State.roomy (s : State) (cls : Nat) (ea : W80) : Prop :=
  s.queueRoom cls ∧ (addrHome ea / 4 = s.pkg → (s.die (addrHome ea % 4)).walks.length < 1024) ∧ s.reservations (s.cur / 4) = [] ∧
  (s.me.level = 2 → s.me.mem.cmds = [])

/-- Nothing waits to reach a grid or an accumulator plane of core `k` (R181, R272): its contexts have no own store on its way, and no
request has a piece held. -/
def State.windowsQuiet (s : State) (k : Nat) : Prop :=
  (∀ n, n / 4 = k → (s.ctx n).sched.stores = []) ∧ ∀ n, ∀ r ∈ (s.ctx n).mem.reqs, ∀ p ∈ r.pieces, p.held = false

/-- No byte of [a, a + n) lies in an image store, which only Signet writes (R127). -/
def State.outsideStore (s : State) (a n : Nat) : Prop := ∀ k, k < n → s.inStore (a + k) = false

/-- An address of the self alias (R178, R183): home 0x7FFF, the middle field 0. -/
def isSelf (ea : W80) : Prop := ea.toNat / 2 ^ 48 = 0x7FFF * 2 ^ 17

/-- What RECONF finds at the descriptor address `e` of an engine of context `n` when it may begin (R474, R475, R480): descriptor, route tables and
member list in the plain working area, well formed and readable, this package a member, no reconfiguration going on, and requests of a
die not yet acknowledged, which the drain waits for. -/
def State.reconfReady (s : State) (n : Nat) (e : W80) : Prop :=
  let base := plainBase n
  let desc := s.readNat (base + offOf e) 128
  let ptr (k : Nat) : Nat := base + desc / 2 ^ (64 * k) % 2 ^ 48
  let own (k size : Nat) : Prop := desc / 2 ^ (64 * k) % 2 ^ 64 / 2 ^ 48 = 0x7FFF ∧ desc / 2 ^ (64 * k) % 2 ^ 48 + size ≤ 0x20000
  let size := 8 * (desc / 2 ^ 21 % 2 ^ 13 + 1)
  n < 4096 ∧ isSelf e ∧ offOf e % 128 = 0 ∧ offOf e + 128 ≤ 0x20000 ∧ s.fab.advancing = false ∧ s.fab.rcf = none ∧
  reconfOk desc s.fab.active.ver.toNat = true ∧ own 1 116736 ∧ own 2 size ∧ ptr 1 % 256 = 0 ∧ ptr 2 % 64 = 0 ∧ (s.die (n / 1024)).bad = [] ∧
  (∃ ms, membersOf desc (s.readMem (ptr 2) size) = some ms ∧ ms.any (fun m => m.1 == s.pkg) = true) ∧
  ∃ k, k < 4 ∧ s.online k = true ∧ ∃ q ∈ (s.die k).e2e.store, q.cls ≠ 2

/-- Packet number `i` of the package, `p`, has op `op` and is at its destination, an online die, under the active route version (R462, R465). -/
def State.arrives (s : State) (i : Nat) (p : Packet) (op : BitVec 8) : Prop :=
  ∃ t, s.fab.transit[i]? = some t ∧ t.pkt = p ∧ s.arrived t = true ∧ p.ver = s.fab.active.ver ∧ p.op = op ∧ p.cls ≠ 3 ∧ p.body.length ≤ 280 ∧
    s.online p.ddie.toNat = true

/-- Such a packet is the next of its stream that the die accepts (R468, R469). -/
def State.brings (s : State) (i : Nat) (p : Packet) (op : BitVec 8) : Prop :=
  s.arrives i p op ∧ (s.die p.ddie.toNat).e2e.held = [] ∧ p.seq.toNat = Sparse.get 0 (s.die p.ddie.toNat).e2e.low (streamKey p)

/-- The tree of pairwise additions over the terms `x 0` to `x (2^k − 1)` (R96): node `i` of level `k` adds nodes 2i and 2i + 1 of the
level below. -/
def pairTree (add : Nat → Nat → Nat) (x : Nat → Nat) (k i : Nat) : Nat :=
  match k with
  | 0 => x i
  | k + 1 => add (pairTree add x k (2 * i)) (pairTree add x k (2 * i + 1))

/-- No store to the own scratchpad and no access that may still reach it is on its way in the running context, so that an access there
acts in its turn (R319, R358). -/
def State.ownQuiet (s : State) : Prop :=
  s.me.sched.stores = [] ∧ ∀ r ∈ s.me.mem.reqs, r.ownWaits s.pkg (s.cur / 4) = false

end Sys2Proof.Machine

namespace Sys2Proof

open Machine

/-- The destinations of the results that an operation schedules: for those operations that only read registers and schedule results or
redirect issue. These are NOP and FMT; the integer, address, flag and staging operations and BR, BRC, CALL and LOOP; CSTAT, RTVER and
LKEV; and every operation of the vector slots that takes no rounding value. None for another operation. -/
def Instr.writes (i : Instr) : Option (List Dest) :=
  match i with
  | .nop .. | .br .. => some []
  | .fmt _ h _ => some [.fmtHalf h]
  | .add _ d _ _ | .sub _ d _ _ | .mul _ d _ _ | .mulh _ d _ _ _ | .div _ d _ _ _ | .rem _ d _ _ _ | .and _ d _ _ | .or _ d _ _
  | .xor _ d _ _ | .shl _ d _ _ | .shr _ d _ _ | .sar _ d _ _ | .rot _ d _ _ | .clz _ d _ | .popc _ d _ | .min _ d _ _ _
  | .max _ d _ _ _ | .sel _ d _ _ _ | .mov _ d _ => some [.g d]
  | .cmp _ f _ _ _ | .cmpImm _ f _ _ _ | .acmp _ f _ _ _ | .fset _ f _ | .fmov _ f _ _ => some [.f f]
  | .addImm _ d _ _ | .subImm _ d _ _ | .mulImm _ d _ _ | .andImm _ d _ _ | .orImm _ d _ _ | .xorImm _ d _ _ | .shlImm _ d _ _
  | .shrImm _ d _ _ | .sarImm _ d _ _ | .rotImm _ d _ _ | .minImm _ d _ _ _ | .maxImm _ d _ _ _ | .movImm _ d _ | .movh _ d _
  | .amovh _ d _ | .brc _ d _ | .call _ d _ | .rtver _ d | .lkev _ d _ => some [.g d]
  | .aadd _ d _ _ | .aaddi _ d _ _ | .aidx _ d _ _ _ | .ahome _ d _ _ => some [.a d]
  | .amov _ x d _ => some [if x = 0 ∨ x = 1 then .a (d.truncate 5) else .g d]
  | .loop _ n _ _ _ _ => some [.lc n]
  | .cstat _ _ k => some [.k k]
  | .kwr _ k _ | .kwrImm _ k _ => some [.k k]
  | .zwr _ z _ | .zwrImm _ z _ => some [.z z]
  | .vmin _ _ _ d _ _ | .vmax _ _ _ d _ _ | .vabs _ _ _ d _ | .vneg _ _ _ d _ | .vclamp _ _ _ d _ _ _ | .vmulh _ _ _ d _ _
  | .vand _ _ _ d _ _ | .vor _ _ _ d _ _ | .vxor _ _ _ d _ _ | .vnot _ _ _ d _ | .vshl _ _ _ d _ _ | .vshr _ _ _ d _ _
  | .vsar _ _ _ d _ _ | .vpopc _ _ _ d _ | .vclz _ _ _ d _ | .vcmp _ _ _ _ d _ _ | .vsel _ _ _ d _ _ _ | .vmov _ _ _ d _
  | .vbcast _ _ _ d _ _ | .vperm _ _ _ d _ _ | .viota _ _ _ d _ | .vrot _ _ _ d _ _ | .vq8 _ _ _ d _ _ | .vdq8 _ _ _ d _ _ _
  | .vrsq _ _ _ d _ | .vexp2 _ _ _ d _ | .vlog2 _ _ _ d _ | .vredsum _ _ _ d _ | .vredmax _ _ _ d _ | .vredmin _ _ _ d _ => some [.line d]
  | .vamax _ _ _ m _ => some [.mx m]
  | _ => none

/-- The predicate under which an operation is skipped as a whole (R105, R201). The operations of the M slot and of the transform unit
occupy their windows and beats whatever it is (R270, R286), and the SY slot has none. -/
def Instr.skipPred (i : Instr) : Option Pred :=
  match i with
  | .add p .. | .sub p .. | .mul p .. | .mulh p .. | .div p .. | .rem p .. | .and p .. | .or p .. | .xor p .. | .shl p .. | .shr p ..
  | .sar p .. | .rot p .. | .clz p .. | .popc p .. | .min p .. | .max p .. | .cmp p .. | .sel p .. | .mov p .. | .addImm p ..
  | .subImm p .. | .mulImm p .. | .andImm p .. | .orImm p .. | .xorImm p .. | .shlImm p .. | .shrImm p .. | .sarImm p ..
  | .rotImm p .. | .minImm p .. | .maxImm p .. | .cmpImm p .. | .movImm p .. | .movh p .. | .aadd p .. | .aaddi p .. | .aidx p ..
  | .acmp p .. | .amov p .. | .amovh p .. | .ahome p .. | .br p .. | .brc p .. | .call p .. | .ret p .. | .loop p .. | .fset p ..
  | .fmov p .. | .kwr p .. | .kwrImm p .. | .zwr p .. | .zwrImm p .. | .launch p .. | .launchm p .. | .tend p | .steal p ..
  | .prioSelf p .. | .prioTask p .. | .lpscfg p .. | .lpsnxt p .. | .stepmark p | .qlvl p .. | .qstat p .. | .bacqP p .. | .bacqC p ..
  | .brelP p .. | .brelC p .. | .brcfg p .. | .trap p .. | .eret p | .sysrd p .. | .syswr p .. | .halt p | .frz p .. | .frzThaw p ..
  | .drain p .. | .dscan p .. | .imgw p .. | .imgr p .. | .rtver p .. | .lkev p .. | .reconf p .. | .vadd p .. | .vsub p ..
  | .vmul p .. | .vfma p .. | .vfms p .. | .vmin p .. | .vmax p .. | .vabs p .. | .vneg p .. | .vclamp p .. | .vmulh p .. | .vrcp p ..
  | .vrsq p .. | .vexp2 p .. | .vlog2 p .. | .vsqrt p .. | .vcvt p .. | .vq8 p .. | .vdq8 p .. | .vand p .. | .vor p .. | .vxor p ..
  | .vnot p .. | .vshl p .. | .vshr p .. | .vsar p .. | .vpopc p .. | .vclz p .. | .vcmp p .. | .vsel p .. | .vmov p .. | .vbcast p ..
  | .vperm p .. | .viota p .. | .vrot p .. | .vredsum p .. | .vredmax p .. | .vredmin p .. | .vamax p .. | .ldw p .. | .ldd p ..
  | .ldl p .. | .ldls p .. | .ldg p .. | .tlnew p .. | .tlrd p .. | .tlqry p .. | .tlrep p .. | .amoAdd p .. | .amoMax p ..
  | .amoMin p .. | .amoAnd p .. | .amoOr p .. | .amoXch p .. | .amoCas p .. | .amoFadd p .. | .stw p .. | .std p .. | .stl p ..
  | .stlx p .. | .tlwr p .. | .tlfin p .. | .puth p .. | .cpy p .. | .cred p .. | .cmc p .. | .cgat p .. | .cstat p .. | .ccancel p ..
  | .apxb p .. | .apxe p .. | .ftcfg p .. | .ftcfgNew p .. | .ftinv p .. | .ftst p .. | .ftstep p .. | .ftsamp p ..
  | .pageWalkPreload p .. | .tlbPageInvalidate p .. | .tlbAllInvalidate p .. | .pageTableRootWrite p .. | .pwrLimWrite p ..
  | .handlerWordWrite p .. | .futureEmptyWordWrite p .. | .futemptyInline p .. | .trapWordWrite p .. | .timerWrite p ..
  | .tframeWrite p .. | .preemptRequest p .. | .contextResume p .. | .checkpointAreaWrite p .. | .linDmaxWrite p ..
  | .checkpointPeriodWrite p .. => some p
  | _ => none

end Sys2Proof
end

