-- ==== Sys2Proof/Certificates/Slice0/Obligations.lean ====
section
/-! DEFINITION. The statements for the provers, each with the rule of the spec that it formalises. -/

section

open Sys2Proof Sys2Proof.Machine

/-- Register forms of the integer operations (R227): the value on its way to gd, in one cycle or, for a product, three.

CLZ and POPC (R227): the top one bit stands below the leading zeros, and the one bits are counted. -/
def Obligations.IntegerRegisterFormsScheduleTheirResult : Prop :=
  (∀ (s : State) (p : Pred) (d a b : BitVec 6), s.me.holds p = true →
     let x := s.me.g a
     let y := s.me.g b
     let sh := y.toNat % 64
     s.schedulesG (.add p d a b) 1 d (fun v => v.toNat = (x.toNat + y.toNat) % 2 ^ 64) ∧
     s.schedulesG (.sub p d a b) 1 d (fun v => v.toNat = (2 ^ 64 + x.toNat - y.toNat) % 2 ^ 64) ∧
     s.schedulesG (.mul p d a b) 3 d (fun v => v.toNat = (x.toNat * y.toNat) % 2 ^ 64) ∧
     s.schedulesG (.mulh p d a b true) 3 d (fun v => v.toNat = x.toNat * y.toNat / 2 ^ 64) ∧
     s.schedulesG (.mulh p d a b false) 3 d (fun v => v.toInt = x.toInt * y.toInt / 2 ^ 64) ∧
     s.schedulesG (.and p d a b) 1 d (fun v => ∀ i, v.getLsbD i = (x.getLsbD i && y.getLsbD i)) ∧
     s.schedulesG (.or p d a b) 1 d (fun v => ∀ i, v.getLsbD i = (x.getLsbD i || y.getLsbD i)) ∧
     s.schedulesG (.xor p d a b) 1 d (fun v => ∀ i, v.getLsbD i = (x.getLsbD i != y.getLsbD i)) ∧
     s.schedulesG (.shl p d a b) 1 d (fun v => v.toNat = x.toNat * 2 ^ sh % 2 ^ 64) ∧
     s.schedulesG (.shr p d a b) 1 d (fun v => v.toNat = x.toNat / 2 ^ sh) ∧
     s.schedulesG (.sar p d a b) 1 d (fun v => v.toInt = x.toInt / 2 ^ sh) ∧
     s.schedulesG (.rot p d a b) 1 d (fun v => ∀ i, i < 64 → v.getLsbD ((i + sh) % 64) = x.getLsbD i) ∧
     (∀ u, s.schedulesG (.min p d a b u) 1 d (fun v => (v = x ∨ v = y) ∧
       (if u then v.toNat ≤ x.toNat ∧ v.toNat ≤ y.toNat else v.toInt ≤ x.toInt ∧ v.toInt ≤ y.toInt))) ∧
     (∀ u, s.schedulesG (.max p d a b u) 1 d (fun v => (v = x ∨ v = y) ∧
       (if u then x.toNat ≤ v.toNat ∧ y.toNat ≤ v.toNat else x.toInt ≤ v.toInt ∧ y.toInt ≤ v.toInt))) ∧
     s.schedulesG (.mov p d a) 1 d (fun v => v = x)) ∧
  (∀ (s : State) (p : Pred) (d a : BitVec 6), s.me.holds p = true →
     let x := s.me.g a
     s.schedulesG (.clz p d a) 1 d (fun v => v.toNat ≤ 64 ∧ (∀ i, 64 - v.toNat ≤ i → x.getLsbD i = false) ∧
       (v.toNat < 64 → x.getLsbD (63 - v.toNat) = true)) ∧
     s.schedulesG (.popc p d a) 1 d (fun v => v.toNat = ((List.range 64).filter (fun i => x.getLsbD i)).length))

/-- Immediate forms of the integer operations (R227): b is sext(imm32). -/
def Obligations.IntegerImmediateFormsUseTheSignExtendedImmediate : Prop :=
  ∀ (s : State) (p : Pred) (d a : BitVec 6) (imm : BitVec 32), s.me.holds p = true →
    let x := s.me.g a
    let y : W64 := imm.signExtend 64
    let sh := y.toNat % 64
    s.schedulesG (.addImm p d a imm) 1 d (fun v => v.toNat = (x.toNat + y.toNat) % 2 ^ 64) ∧
    s.schedulesG (.subImm p d a imm) 1 d (fun v => v.toNat = (2 ^ 64 + x.toNat - y.toNat) % 2 ^ 64) ∧
    s.schedulesG (.mulImm p d a imm) 3 d (fun v => v.toNat = (x.toNat * y.toNat) % 2 ^ 64) ∧
    s.schedulesG (.andImm p d a imm) 1 d (fun v => ∀ i, v.getLsbD i = (x.getLsbD i && y.getLsbD i)) ∧
    s.schedulesG (.orImm p d a imm) 1 d (fun v => ∀ i, v.getLsbD i = (x.getLsbD i || y.getLsbD i)) ∧
    s.schedulesG (.xorImm p d a imm) 1 d (fun v => ∀ i, v.getLsbD i = (x.getLsbD i != y.getLsbD i)) ∧
    s.schedulesG (.shlImm p d a imm) 1 d (fun v => v.toNat = x.toNat * 2 ^ sh % 2 ^ 64) ∧
    s.schedulesG (.shrImm p d a imm) 1 d (fun v => v.toNat = x.toNat / 2 ^ sh) ∧
    s.schedulesG (.sarImm p d a imm) 1 d (fun v => v.toInt = x.toInt / 2 ^ sh) ∧
    s.schedulesG (.rotImm p d a imm) 1 d (fun v => ∀ i, i < 64 → v.getLsbD ((i + sh) % 64) = x.getLsbD i) ∧
    (∀ u, s.schedulesG (.minImm p d a imm u) 1 d (fun v => (v = x ∨ v = y) ∧
      (if u then v.toNat ≤ x.toNat ∧ v.toNat ≤ y.toNat else v.toInt ≤ x.toInt ∧ v.toInt ≤ y.toInt))) ∧
    (∀ u, s.schedulesG (.maxImm p d a imm u) 1 d (fun v => (v = x ∨ v = y) ∧
      (if u then x.toNat ≤ v.toNat ∧ y.toNat ≤ v.toNat else x.toInt ≤ v.toInt ∧ y.toInt ≤ v.toInt))) ∧
    s.schedulesG (.movImm p d imm) 1 d (fun v => v = y) ∧
    s.schedulesG (.movh p d imm) 1 d (fun v => v.extractLsb' 32 32 = imm ∧ v.extractLsb' 0 32 = (s.me.g d).extractLsb' 0 32)

/-- R228, every case of DIV and REM: by zero, the one signed overflow, and the exact quotient rounded toward zero. -/
def Obligations.DivideAndRemainderDefineEveryCase : Prop :=
  ∀ (s : State) (p : Pred) (d a b : BitVec 6) (u : Bool), s.me.holds p = true →
    let x := s.me.g a
    let y := s.me.g b
    s.schedulesG (.div p d a b u) 18 d (fun q =>
      (y.toNat = 0 → q.toNat = 0xFFFFFFFFFFFFFFFF) ∧
      (u = false → x.toInt = -2 ^ 63 → y.toInt = -1 → q.toInt = -2 ^ 63) ∧
      (u = true → y.toNat ≠ 0 → q.toNat = x.toNat / y.toNat) ∧
      (u = false → y.toNat ≠ 0 → ¬(x.toInt = -2 ^ 63 ∧ y.toInt = -1) → q.toInt = x.toInt.tdiv y.toInt)) ∧
    s.schedulesG (.rem p d a b u) 18 d (fun r =>
      (y.toNat = 0 → r = x) ∧
      (u = false → x.toInt = -2 ^ 63 → y.toInt = -1 → r.toNat = 0) ∧
      (u = true → y.toNat ≠ 0 → r.toNat = x.toNat - y.toNat * (x.toNat / y.toNat)) ∧
      (u = false → y.toNat ≠ 0 → ¬(x.toInt = -2 ^ 63 ∧ y.toInt = -1) →
        r.toInt = x.toInt - y.toInt * x.toInt.tdiv y.toInt))

/-- R229: CMP writes the truth of its condition to a flag, SEL one of two registers by a flag; f0 keeps reading 1 whatever is written
to it (R12). -/
def Obligations.CompareWritesTheConditionAndSelectChoosesByFlag : Prop :=
  ∀ (s : State) (p : Pred) (d a b : BitVec 6) (f : BitVec 4) (imm : BitVec 32) (c : Cond), s.me.holds p = true →
    s.schedulesF (.cmp p f a b c) 1 f (condTruth c (s.me.g a) (s.me.g b)) ∧
    s.schedulesF (.cmpImm p f a imm c) 1 f (condTruth c (s.me.g a) (imm.signExtend 64)) ∧
    s.schedulesG (.sel p d a b f) 1 d (fun v => (s.me.flag f = true → v = s.me.g a) ∧ (s.me.flag f = false → v = s.me.g b)) ∧
    (∀ v : Line, s.me.regs.write (.f 0) v = s.me.regs ∧ s.me.flag 0 = true)

/-- R233: FSET writes its value and FMOV a flag, inverted on request.

KWR and ZWR (R234): a register or a sign-extended immediate goes to staging. -/
def Obligations.FlagAndStagingWritesScheduleTheirValue : Prop :=
  (∀ (s : State) (p : Pred) (f a : BitVec 4) (v inv : Bool), s.me.holds p = true →
     s.schedulesF (.fset p f v) 1 f (v = true) ∧
     s.schedulesF (.fmov p f a inv) 1 f (s.me.flag a ≠ inv) ∧
     (∀ x : Line, s.me.regs.write (.f 0) x = s.me.regs)) ∧
  (∀ (s : State) (p : Pred) (k : BitVec 4) (z : BitVec 3) (a : BitVec 6) (imm : BitVec 32), s.me.holds p = true →
     exec (.kwr p k a) s = .next (s.scheduled .s 1 (.k k) ((s.me.g a).zeroExtend 2048)) ∧
     exec (.kwrImm p k imm) s = .next (s.scheduled .s 1 (.k k) ((imm.signExtend 64).zeroExtend 2048)) ∧
     exec (.zwr p z a) s = .next (s.scheduled .s 1 (.z z) ((s.me.g a).zeroExtend 2048)) ∧
     exec (.zwrImm p z imm) s = .next (s.scheduled .s 1 (.z z) ((imm.signExtend 64).zeroExtend 2048)))

/-- R230: offset arithmetic wraps modulo 2^48 and keeps bits [79:48]; the moves between a and g registers; AHOME.

ACMP (R230): the registers compare as 80-bit unsigned values. -/
def Obligations.AddressOperationsKeepTheUpperBitsAndCompareUnsigned : Prop :=
  (∀ (s : State) (p : Pred) (d a : BitVec 5) (b : BitVec 6) (e g : BitVec 6) (j : BitVec 24) (imm : BitVec 32), s.me.holds p = true →
     let x := s.me.a a
     s.schedulesA (.aadd p d a b) 1 d (fun v => v.extractLsb' 48 32 = x.extractLsb' 48 32 ∧
       (offOf v : Int) = ((offOf x : Int) + (s.me.g b).toInt) % 2 ^ 48) ∧
     s.schedulesA (.aaddi p d a imm) 1 d (fun v => v.extractLsb' 48 32 = x.extractLsb' 48 32 ∧
       (offOf v : Int) = ((offOf x : Int) + imm.toInt) % 2 ^ 48) ∧
     s.schedulesA (.aidx p d a b j) 3 d (fun v => v.extractLsb' 48 32 = x.extractLsb' 48 32 ∧
       (offOf v : Int) = ((offOf x : Int) + (s.me.g b).toInt * j.toInt) % 2 ^ 48) ∧
     s.schedulesA (.amov p 0 (d.zeroExtend 6) (a.zeroExtend 6)) 1 d (fun v => v = x) ∧
     s.schedulesA (.amov p 1 (d.zeroExtend 6) g) 1 d (fun v => v.toNat = (s.me.g g).toNat) ∧
     s.schedulesG (.amov p 2 e (a.zeroExtend 6)) 1 e (fun v => v.toNat = x.toNat % 2 ^ 64) ∧
     s.schedulesG (.amovh p e a) 1 e (fun v => v.toNat = x.toNat / 2 ^ 64) ∧
     s.schedulesA (.ahome p d a b) 1 d (fun v => v.toNat % 2 ^ 65 = x.toNat % 2 ^ 65 ∧
       v.toNat / 2 ^ 65 = (s.me.g b).toNat % 2 ^ 15)) ∧
  (∀ (s : State) (p : Pred) (f : BitVec 4) (a b : BitVec 5), s.me.holds p = true →
     let x := (s.me.a a).toNat
     let y := (s.me.a b).toNat
     s.schedulesF (.acmp p f a b .eq) 1 f (x = y) ∧ s.schedulesF (.acmp p f a b .ne) 1 f (x ≠ y) ∧
     s.schedulesF (.acmp p f a b .ltu) 1 f (x < y) ∧ s.schedulesF (.acmp p f a b .leu) 1 f (x ≤ y) ∧
     s.schedulesF (.acmp p f a b .gtu) 1 f (y < x) ∧ s.schedulesF (.acmp p f a b .geu) 1 f (y ≤ x))

/-- Branches (R231): the target is the bundle's index and the signed offset, issue moves there after two delay bundles, BRC counts its
register down while it is not 0, CALL links the index after the delay bundles. RET to an index outside the image traps PCRANGE.

A taken branch at index i issues i + 1 and i + 2 and then its target, at context time t + 3 (R203), when no loop is active. -/
def Obligations.BranchesIssueTheirTargetThreeBundlesLater : Prop :=
  (∀ (s : State) (p : Pred) (d a : BitVec 6) (off : BitVec 25), s.me.holds p = true →
     let pc := s.me.sched.pc
     let goes (n : Int) (t : State) : Prop :=
       t.me.sched.dly = 3 ∧ (0 ≤ n → n < 2 ^ 24 → (t.me.sched.rtgt : Int) = n) ∧ t.me.sched.pc = pc ∧ s.me.sameRegs t.me ∧ s.sameBytes t
     s.nextWith (.br p off) (fun t => goes (pc + off.toInt) t ∧ t.me.sched.pend = s.me.sched.pend) ∧
     (s.me.g d = 0 → exec (.brc p d off) s = .next s) ∧
     (s.me.g d ≠ 0 → s.nextWith (.brc p d off) (fun t => goes (pc + off.toInt) t ∧
       s.gains t 1 (.g d) ((s.me.g d - 1).zeroExtend 2048))) ∧
     s.nextWith (.call p d off) (fun t => goes (pc + off.toInt) t ∧ s.gains t 1 (.g d) ((BitVec.ofNat 64 (pc + 3)).zeroExtend 2048)) ∧
     ((s.me.g a).toNat < s.bundleCount → s.nextWith (.ret p a) (fun t =>
       (s.bundleCount ≤ 2 ^ 24 → goes (s.me.g a).toNat t) ∧ t.me.sched.pend = s.me.sched.pend)) ∧
     (s.bundleCount ≤ (s.me.g a).toNat → s.me.sched.granted = false →
       exec (.ret p a) s = .next (s.takeTrap (.issue .s 0x03 (s.me.g a))))) ∧
  (∀ (c : Ctx) (target : Nat), c.sched.loops = [] → c.sched.jump = none → c.fit.invoc = none →
     let b : Ctx := { c with sched := { c.sched with rtgt := target, dly := 3 } }
     b.endBundle.sched.pc = c.sched.pc + 1 ∧
     b.endBundle.endBundle.sched.pc = c.sched.pc + 2 ∧
     b.endBundle.endBundle.endBundle.sched.pc = target ∧
     b.endBundle.endBundle.endBundle.sched.time = c.sched.time + 3 ∧
     b.endBundle.endBundle.endBundle.sched.dly = 0)

/-- LOOP (R232): the body is the `len` bundles that follow; a count of 0 skips it, another is written to lc one cycle later.

At the last bundle of the innermost active loop (R232): with a count above 1 the body starts again and the count falls by one; else
the loop ends with its count at 0, and with no other loop active the next bundle follows. -/
def Obligations.LoopsStartSkipRepeatAndLeave : Prop :=
  (∀ (s : State) (p : Pred) (lc : BitVec 3) (im : Bool) (a len : BitVec 6) (cnt : BitVec 24), s.me.holds p = true →
     let n : Nat := if im then cnt.toNat else (s.me.g a).toNat % 2 ^ 32
     let pc := s.me.sched.pc
     (n = 0 → s.nextWith (.loop p lc im a len cnt) (fun t =>
       t.me.sched.jump = some (.inl (pc + len.toNat)) ∧ t.me.sched.pend = s.me.sched.pend ∧ s.me.sameRegs t.me ∧ s.sameBytes t)) ∧
     (n ≠ 0 → s.nextWith (.loop p lc im a len cnt) (fun t =>
       t.me.sched.jump = some (.inr { n := lc, first := pc + 1, last := pc + len.toNat }) ∧
       s.gains t 1 (.lc lc) (BitVec.ofNat 2048 n) ∧ s.me.sameRegs t.me ∧ s.sameBytes t))) ∧
  (∀ (c : Ctx) (ls : List LoopRec) (l : LoopRec), c.sched.loops = ls ++ [l] → c.sched.pc = l.last → c.sched.jump = none → c.sched.dly = 0 →
     c.fit.invoc = none →
     (1 < (c.lc l.n).toNat → c.endBundle.sched.pc = l.first ∧ c.endBundle.sched.loops = ls ++ [l] ∧
       ((c.endBundle.lc l.n).toNat = (c.lc l.n).toNat - 1) ∧ ∀ n, n ≠ l.n → c.endBundle.lc n = c.lc n) ∧
     ((c.lc l.n).toNat ≤ 1 → ls = [] → c.endBundle.sched.pc = c.sched.pc + 1 ∧ c.endBundle.sched.loops = [] ∧
       (c.endBundle.lc l.n).toNat = 0))

/-- Frame: an operation that only reads registers and schedules results leaves every register, plane, trap and special register, every
byte of memory, every other context and everything else of the package as it was; each result it adds is for its destination. -/
def Obligations.RegisterOperationsChangeOnlyTheirSchedule : Prop :=
  ∀ (s t : State) (i : Instr) (ds : List Dest), i.writes = some ds → exec i s = .next t →
    s.onlySchedule t ∧ s.me.sameRegs t.me ∧ s.sameBytes t ∧ (∀ n, n ≠ s.cur → t.ctx n = s.ctx n) ∧
    t.me.sched.latches = s.me.sched.latches ∧ t.me.sched.stores = s.me.sched.stores ∧
    ∃ ps, t.me.sched.pend = s.me.sched.pend ++ ps ∧ ∀ x ∈ ps, x.dest ∈ ds

/-- The predicate of an operation, for the slots that have one and whose operations are skipped when it is false (R105, R201): S, V0, V1,
LD, ST and the engine operations but those of the transform unit, which occupies its beats, and APXB, APXE. The M slot's operations are
apart (R270). -/
def Obligations.FalsePredicateChangesNothing : Prop :=
  ∀ (s : State) (p : Pred), s.me.holds p = false → ∀ (i : Instr), i.skipPred = some p → exec i s = .next s

/-- NOP, FMT, YIELD and WAIT (R111, R217, R369, R370, R374).

Fences (R361): with every earlier access complete, its level-2 bound passed and no store-type fault to report, a fence issues; accesses
issued from then on follow the stores issued before. -/
def Obligations.SyncOperationsComplete : Prop :=
  (∀ (s : State) (k : BitVec 2) (h : Bool) (v : BitVec 16) (f : BitVec 4) (pol y : Bool),
     exec (.nop k) s = .next s ∧
     exec (.fmt k h v) s = .next (s.scheduled .sy 4 (.fmtHalf h) (v.zeroExtend 2048)) ∧
     s.nextWith (.yield k) (fun t => t.me.sync.yielded = true ∧ t.me.sched = s.me.sched ∧ s.me.sameRegs t.me ∧ s.sameBytes t) ∧
     (s.me.flag f ≠ pol → (∀ m ∈ s.me.mem.cmds, m.stat = .stopped → m.hdr.fl ≠ f) → (∀ o ∈ s.me.fit.ops, o.fl = f → o.err = none) →
       exec (.wait k f pol y) s = .next s)) ∧
  (∀ (s : State) (k : BitVec 2) (sc : Scope), (∀ r ∈ s.me.mem.reqs, r.acked = true ∧ ∀ b, r.bound = some b → b ≤ s.me.sched.time) →
     s.me.mem.due = [] →
     ∀ i, i = .fenceAcq k sc ∨ i = .fenceRel k sc ∨ i = .fenceAll k sc → s.nextWith i (fun t =>
       t.me.sched.fence = s.me.sched.ord ∧ t.me.sched.pend = s.me.sched.pend ∧ s.me.sameRegs t.me ∧ s.sameBytes t))

/-- Barrier operations (R376, R378, R379) of a first-run task: JOIN makes it a member, ARV sends an arrival, BWT issues once its arrival
is notified, LEAVE ends the membership. Each of JOIN, ARV and LEAVE sends one operation to the entry.

ARV and BWT trap BARSTATE, taddr the name, and every barrier operation without a task traps NOTASK (R378, R401). -/
def Obligations.BarrierOperationsSendWaitAndTrap : Prop :=
  (∀ (s : State) (k : BitVec 2) (n : BitVec 12) (y : Bool) (task : Task), s.me.task = some task → task.rebuilt = false →
     let view := s.me.bar n.toNat
     let bound := ((s.die (s.barDie task.key)).bar? task.key n.toNat).isSome = true
     (view.member = true → view.arrived = false → bound → s.nextWith (.arv k n false) (fun t =>
       t.me.bar n.toNat = { member := true, arrived := true, made := true } ∧
       t.me.sync.out = s.me.sync.out ++ [(.arrive, n.toNat, 0)] ∧ s.me.sameRegs t.me ∧ s.sameBytes t)) ∧
     (view.made = true → view.arrived = false → s.nextWith (.bwt k n y) (fun t =>
       t.me.sync = s.me.sync ∧ t.me.sched.fence = s.me.sched.ord ∧ s.me.sameRegs t.me ∧ s.sameBytes t)) ∧
     (bound → s.nextWith (.join k n) (fun t => t.me.bar n.toNat = { view with member := true } ∧
       t.me.sync.out = s.me.sync.out ++ [(.join, n.toNat, 0)] ∧ s.me.sameRegs t.me ∧ s.sameBytes t)) ∧
     s.nextWith (.leave k n) (fun t => t.me.bar n.toNat = { view with member := false } ∧
       t.me.sync.out = s.me.sync.out ++ [(.leave, n.toNat, 0)] ∧ s.me.sameRegs t.me ∧ s.sameBytes t)) ∧
  (∀ (s : State) (k : BitVec 2) (n : BitVec 12) (y rel : Bool), s.me.sched.granted = false →
     let name : W64 := n.zeroExtend 64
     (∀ task, s.me.task = some task → task.rebuilt = false →
       (((s.me.bar n.toNat).member = false ∨ (s.me.bar n.toNat).arrived = true) →
         exec (.arv k n rel) s = .next (s.takeTrap (.issue .sy 0x0B name))) ∧
       ((s.me.bar n.toNat).made = false → exec (.bwt k n y) s = .next (s.takeTrap (.issue .sy 0x0B name)))) ∧
     (s.me.task = none → ∀ i, i = .arv k n rel ∨ i = .bwt k n y ∨ i = .join k n ∨ i = .leave k n →
       exec i s = .next (s.takeTrap (.issue .sy 0x05 0))))

/-- HNDL (R392): in a wake handler whose accesses are complete, its own stores performed and nothing to report, the handler ends, and its wake
entry is gone; with a further wake queued and the context armed the next one starts. A task that issues it traps HNDLCTX. -/
def Obligations.HandlerEndTakesTheNextWake : Prop :=
  ∀ (s : State) (k : BitVec 2),
    (s.me.task = none → (∀ r ∈ s.me.mem.reqs, r.acked = true ∧ ∀ b, r.bound = some b → b ≤ s.me.sched.time) → s.me.mem.due = [] →
      s.me.sched.stores = [] → s.nextWith (.hndl k) (fun t => t.me.task = none ∧ t.me.sched.ended = true ∧
        ((s.me.sys.hctl.toNat / 2 ^ 63 = 1 ∧ 1 < s.me.sync.wakes.length) →
          t.me.mode = .wake ∧ t.me.sched.pc = s.me.sys.hctl.toNat % 2 ^ 24 ∧ t.me.sync.wakes = s.me.sync.wakes.drop 1 ∧
          t.me.g 0 = ((s.me.sync.wakes.drop 1).head?.map Prod.fst).getD 0 ∧
          t.me.g 1 = ((s.me.sync.wakes.drop 1).head?.map Prod.snd).getD 0))) ∧
    (∀ task, s.me.task = some task → s.me.sched.granted = false → exec (.hndl k) s = .next (s.takeTrap (.issue .sy 0x0D 0)))

/-- LAUNCH, LAUNCHM, QLVL, QSTAT and PRIO.task (R166, R170): with a latch free each sends its request and takes a latch for gd, of
distance 96 when the queue is on the issuer's own die and 160 otherwise. -/
def Obligations.QueueOperationsSendTheirRequest : Prop :=
  ∀ (s : State) (p : Pred) (d b e : BitVec 6) (a : BitVec 5) (imm : BitVec 32), s.me.holds p = true → s.me.sched.latches.length < 64 →
    let sel := s.me.g b
    let far (die : Nat) : Nat := if die = s.cur / 4 / 256 then 96 else 160
    let asks (i : Instr) (die : Nat) (op : ReqOp) : Prop :=
      s.nextWith i (fun t => s.takesLatch t .s (far die) (.g d) ∧ s.requests t op ∧ s.sameBytes t)
    asks (.launch p d a b) (sel.toNat / 64 % 4) (.launch sel) ∧
    asks (.launchm p d a b) (sel.toNat / 64 % 4) (.launchm sel) ∧
    asks (.qlvl p d b imm) (sel.toNat / 64 % 4) (.qlvl sel imm.toNat) ∧
    asks (.qstat p d b) (sel.toNat / 64 % 4) (.qstat sel) ∧
    (s.me.task.isSome = true → asks (.prioTask p d e imm) ((s.me.g e).toNat / 2 ^ 46 % 4) (.prio (s.me.g e) (imm.toNat % 8)))

/-- PRIO.self, STEPMARK, LPSCFG, LPSNXT and STEAL of a task (R162, R169, R170, R171, R172).

The nest's iterations (R162): in a nest that R161 allows, the loop at position k has as its index the linear index over the counts of
the positions inside it, modulo its own count. -/
def Obligations.TaskOperationsOfOneContext : Prop :=
  (∀ (s : State) (p : Pred) (d g : BitVec 6) (a : BitVec 5) (f : BitVec 4) (imm : BitVec 32) (task : Task), s.me.holds p = true →
     s.me.task = some task →
     let job := s.job task.desc.job
     let q := s.me.seq
     s.nextWith (.prioSelf p d imm) (fun t => s.gains t 1 (.g d) ((BitVec.ofNat 64 task.base).zeroExtend 2048) ∧
       (task.rebuilt = true → t.me.task = some task) ∧
       (task.rebuilt = false → ∃ u, t.me.task = some u ∧ u.tid = task.tid ∧ u.base = imm.toNat % 8)) ∧
     (task.rebuilt = false → (s.pkg, task.tid) ∉ job.marks → s.nextWith (.stepmark p) (fun t =>
       (t.job task.desc.job).steps = job.steps + 1 ∧ (s.pkg, task.tid) ∈ (t.job task.desc.job).marks ∧ t.me = s.me ∧ s.sameBytes t)) ∧
     ((task.rebuilt = true ∨ (s.pkg, task.tid) ∈ job.marks) → exec (.stepmark p) s = .next s) ∧
     s.nextWith (.lpscfg p a) (fun t => t.me.seq.conf = false ∧ t.me.seq.tcfg = s.me.sched.time ∧ s.me.regs = t.me.regs) ∧
     (q.conf = true → q.bad = false → q.tcfg + 8 ≤ s.me.sched.time →
       (q.cur < q.hi → s.nextWith (.lpsnxt p d f) (fun t => t.me.seq = { q with cur := q.cur + 1 } ∧ s.gains t 3 (.f f) 0 ∧
         s.gains t 3 (.g d) ((BitVec.ofNat 64 (nestIndex q.desc q.cur (nestNd q.desc))).zeroExtend 2048))) ∧
       (q.hi ≤ q.cur → s.nextWith (.lpsnxt p d f) (fun t => t.me.seq = q ∧ s.gains t 3 (.f f) 1 ∧
         s.gains t 3 (.g d) ((0x8000000000000000 : W64).zeroExtend 2048)))) ∧
     (s.me.sched.latches.length < 64 → s.nextWith (.steal p d g f) (fun t => s.takesLatch t .s 40 (.g d) ∧
       ((0x100 < (s.me.g g).toNat ∨ (s.me.g g).toNat = s.cur / 4 % 256) →
         ∀ l, t.me.sched.latches = s.me.sched.latches ++ [l] → l.stat = .arrived ∧ l.data = 0 ∧ l.flag = some (f, true))))) ∧
  (∀ (d : BitVec 256) (v k : Nat), nestBad d = false → k < nestNd d →
     let inner := (List.range (nestNd d - 1 - k)).foldl (fun n i => n * nestCount d (nestPerm d (k + 1 + i))) 1
     nestIndex d v (nestNd d) / 2 ^ (10 * nestPerm d k) % 2 ^ 10 = v / inner % nestCount d (nestPerm d k))

/-- TEND (R61, R168): with an open output it traps OUTOPEN, taddr the output; with none, every access, copy and fitting operation complete,
its level-2 bound passed, no fault to report and no lineage to wait for, the task ends and its context is free.

Operations that need a task trap NOTASK without one, at issue, slot S, taddr 0 (R401). -/
def Obligations.TaskEndNeedsFinishedOutputsAndATask : Prop :=
  (∀ (s : State) (p : Pred) (task : Task), s.me.holds p = true → s.me.task = some task →
     (∀ r, s.me.sched.granted = false → s.firstOpen = some r → exec (.tend p) s = .next (s.takeTrap (.issue .s 0x06 r))) ∧
     (s.firstOpen = none → (∀ r ∈ s.me.mem.reqs, r.acked = true ∧ ∀ b, r.bound = some b → b ≤ s.me.sched.time) →
       (∀ m ∈ s.me.mem.cmds, m.stat = .done ∨ m.stat = .stopped) → s.me.mem.due = [] → s.me.fit.ops = [] → s.retireWaits = false →
       s.nextWith (.tend p) (fun t => t.me.task = none ∧ t.me.sched.ended = true))) ∧
  (∀ (s : State) (p : Pred) (d g : BitVec 6) (a : BitVec 5) (f : BitVec 4) (imm : BitVec 32), s.me.holds p = true → s.me.task = none →
     s.me.sched.granted = false →
     ∀ i, i = .tend p ∨ i = .steal p d g f ∨ i = .prioSelf p d imm ∨ i = .prioTask p d g imm ∨ i = .stepmark p ∨ i = .lpscfg p a ∨
       i = .lpsnxt p d f → exec i s = .next (s.takeTrap (.issue .s 0x05 0)))

/-- Ring operations (R384, R387) on a configured ring whose slot is in the state they need: the slot moves on, the index too, the address and
the tag are written one cycle later, a release acts two cycles later (tags count as they were before this cycle's own fills, R386); BRCFG configures the ring and writes 0, or changes nothing and writes
1 or 2.

Ring operations trap BRSTATE at issue, taddr the ring number: on an unconfigured ring, a BREL without a slot to release, a count above
the slot size (R385). -/
def Obligations.RingOperationsMoveTheirSlotOrTrap : Prop :=
  (∀ (s : State) (p : Pred) (d : BitVec 5) (e g : BitVec 6) (r : BitVec 3) (err : Bool), s.me.holds p = true →
     let x := s.myRing r.toNat
     let y := s.seenRing r.toNat
     let ring (t : State) : Ring := (t.core (s.cur / 4)).ring r.toNat
     let n := (s.me.g e).toNat % 2 ^ 17
     let addr (t : State) (k : Nat) : Prop := ∃ v : W80, s.gains t 1 (.a d) (v.zeroExtend 2048) ∧ v.toNat / 2 ^ 65 = 0x7FFF ∧
       v.toNat % 2 ^ 65 = 256 * (x.desc.toNat % 2 ^ 14) + k * (256 * (x.desc.toNat / 2 ^ 16 % 2 ^ 8 + 1))
     (x.conf = true → n ≤ x.slotBytes → x.pi < 16 → y.st x.pi = 0 → s.nextWith (.bacqP p d e r) (fun t => addr t x.pi ∧
       ring t = { x with tags := Sparse.set x.tags x.pi (BitVec.ofNat 64 (1 + n * 2 ^ 32)), pi := (x.pi + 1) % x.slots } ∧ s.sameBytes t)) ∧
     (x.conf = true → x.ci < 16 → y.st x.ci = 2 → s.nextWith (.bacqC p d g r) (fun t => addr t x.ci ∧
       s.gains t 1 (.g g) ((Sparse.get 0 x.tags x.ci).zeroExtend 2048) ∧ (ring t).st x.ci = 3 ∧ (ring t).ci = (x.ci + 1) % x.slots ∧
       (ring t).pi = x.pi ∧ s.sameBytes t)) ∧
     (x.conf = true → n ≤ x.slotBytes → s.brelsComing r.toNat false < y.countSt 1 → s.nextWith (.brelP p e err r) (fun t =>
       t.me.regs = s.me.regs ∧ s.sameBytes t ∧ ∃ o, t.me.sched.stores = s.me.sched.stores ++ [o] ∧ o.due = s.me.sched.time + 2 ∧
         o.brel = some (r.toNat, false, err, n))) ∧
     (x.conf = true → s.brelsComing r.toNat true < y.countSt 3 → s.nextWith (.brelC p r) (fun t =>
       t.me.regs = s.me.regs ∧ s.sameBytes t ∧ ∃ o, t.me.sched.stores = s.me.sched.stores ++ [o] ∧ o.due = s.me.sched.time + 2 ∧
         o.brel = some (r.toNat, true, false, 0))) ∧
     s.nextWith (.brcfg p e g r) (fun t =>
       let w := s.me.g g
       let busy := x.conf = true ∧ x.countSt 0 < x.slots
       (busy → s.gains t 1 (.g e) 1 ∧ ring t = x) ∧
       (¬busy → ringBad w = true → s.gains t 1 (.g e) 2 ∧ ring t = x) ∧
       (¬busy → ringBad w = false → s.gains t 1 (.g e) 0 ∧
         ring t = { conf := true, desc := w, owner := s.cur, pi := 0, ci := 0, tags := [], was := none }))) ∧
  (∀ (s : State) (p : Pred) (d : BitVec 5) (e g : BitVec 6) (r : BitVec 3) (err : Bool), s.me.holds p = true → s.me.sched.granted = false →
     let x := s.seenRing r.toNat
     let n := (s.me.g e).toNat % 2 ^ 17
     let traps (i : Instr) : Prop := exec i s = .next (s.takeTrap (.issue .s 0x0C (r.zeroExtend 64)))
     ((x.conf = false ∨ x.slotBytes < n) → traps (.bacqP p d e r)) ∧
     (x.conf = false → traps (.bacqC p d g r)) ∧
     ((x.conf = false ∨ x.slotBytes < n ∨ ∀ k, k < x.slots → x.st k ≠ 1) → traps (.brelP p e err r)) ∧
     ((x.conf = false ∨ ∀ k, k < x.slots → x.st k ≠ 3) → traps (.brelC p r)))

/-- TRAP raises cause TRAP with its immediate unless its bundle is presented again (R417); ERET outside a handler traps ERETCTX (R411);
HALT stops the context at the index after its bundle (R415). -/
def Obligations.TrapAndHaltOperations : Prop :=
  ∀ (s : State) (p : Pred) (imm : BitVec 32), s.me.holds p = true →
    (s.me.sched.tskip = false → s.me.sched.granted = false →
      exec (.trap p imm) s = .next (s.takeTrap (.issue .s 0x01 (imm.zeroExtend 64)))) ∧
    (s.me.sched.tskip = true → exec (.trap p imm) s = .next s) ∧
    (s.me.shadow = none → s.me.sched.granted = false → exec (.eret p) s = .next (s.takeTrap (.issue .s 0x0F 0))) ∧
    s.nextWith (.halt p) (fun t => t.me.mode = .stopped ∧ t.me.sys.tcause.toNat % 256 = 0x32 ∧ t.me.sys.taddr = 0 ∧
      t.me.task = s.me.task ∧ (s.me.sched.pc + 1 < 2 ^ 24 → t.me.sys.tcause.toNat / 2 ^ 24 % 2 ^ 24 = s.me.sched.pc + 1))

/-- ERET (R411) once every landing of the handler is there: what is in flight completes first, then the frame is read. A frame of more than 128
records, or with a record that R410 calls malformed, stops the context with FRAMEBAD, taddr the place (R414). Else the context time, the
presented bundle and the registers are those of the frame: g8 to g63, a4 to a31, the grid and the flags that an engine wrote stay as the
handler left them; a RES record is in flight again (R412). A landing not yet there freezes the core, a faulting one traps. -/
def Obligations.ReturnRestoresTheFrame : Prop :=
  ∀ (s : State) (p : Pred) (h : Shadow), s.me.holds p = true → s.me.shadow = some h → h.base + 0xA000 ≤ 0x20000 → s.cur < 4096 →
    let n := s.cur
    let now := s.myCore.cycle
    let there (l : Latch) : Prop := l.stat = .arrived ∧ l.ready ≤ now ∧ (l.pad = 0 ∨ l.born + l.worst ≤ now)
    let q := s.drain n
    let c := q.ctx n
    let base := plainBase n + h.base
    let read (off len : Nat) : Nat := q.readNat (base + off) len
    let rec_ (i : Nat) : FrameRec := q.frameRec base i
    let stops (place : Nat) : Prop := s.nextWith (.eret p) (fun t => (t.ctx n).mode = .stopped ∧ (t.ctx n).sys.tcause.toNat % 256 = 0x31 ∧
      (t.ctx n).sys.taddr.toNat = place ∧ (t.ctx n).task = s.me.task)
    ((∀ l ∈ s.me.sched.latches, there l) →
      (128 < read 768 1 → stops (h.base + 768)) ∧
      (∀ i, read 768 1 ≤ 128 → i < read 768 1 → q.recBad (rec_ i) = true → (∀ j, j < i → q.recBad (rec_ j) = false) →
        stops (h.base + 5120 + 16 * i)) ∧
      (read 768 1 ≤ 128 → (∀ i, i < read 768 1 → q.recBad (rec_ i) = false) → s.nextWith (.eret p) (fun t => t.me.sched.ended = true ∧
        (h.inline = false → ∃ e : BitVec 16, c.shadow = some { h with engine := e } ∧ t.me.shadow = none ∧
          t.me.sched.time = h.t ∧ t.me.sched.pc = read 16 3 ∧ t.me.sched.rtgt = read 19 3 ∧ t.me.sched.dly = read 22 1 % 4 ∧
          t.me.sched.tskip = (read 22 1).testBit 2 ∧ t.me.mode = (if s.me.task.isSome then .task else .wake) ∧
          (∀ i : BitVec 6, i.toNat < 8 → (t.me.g i).toNat = read (64 + 8 * i.toNat) 8) ∧
          (∀ i : BitVec 6, 8 ≤ i.toNat → t.me.g i = c.g i) ∧
          (∀ i : BitVec 5, i.toNat < 4 → t.me.a i = BitVec.ofNat 80 (read (128 + 16 * i.toNat) 16)) ∧
          (∀ i : BitVec 5, 4 ≤ i.toNat → t.me.a i = c.a i) ∧
          (∀ i : BitVec 4, i ≠ 0 → t.me.flag i = if e.getLsbD i.toNat then c.flag i else (read 24 2).testBit i.toNat) ∧
          (∀ i : BitVec 4, t.me.l i = BitVec.ofNat 2048 (read (1024 + 256 * i.toNat) 256)) ∧
          (∀ i : BitVec 4, (t.me.k i).toNat = read (192 + 8 * i.toNat) 8) ∧
          (∀ i : BitVec 3, (t.me.z i).toNat = read (320 + 8 * i.toNat) 8) ∧
          (∀ i : BitVec 3, i.toNat < 6 → (t.me.lc i).toNat = read (384 + 4 * i.toNat) 4) ∧
          (∀ i : BitVec 2, (t.me.mx i).toNat = read (48 + 4 * i.toNat) 4) ∧
          t.me.regs.fmt.toNat = read 28 4 % 16 ∧ t.me.regs.rsn.toNat = read 32 8 ∧
          t.me.regs.xst = BitVec.ofNat 64 (read 40 8) &&& 0x8000007F00FFFFFF ∧ t.me.regs.grid = c.regs.grid ∧
          ∀ i x, i < read 768 1 → (rec_ i).kind = 1 → Dest.ofCode (rec_ i).dkind (rec_ i).dest = some x →
            ∃ r ∈ t.me.sched.pend, r.due = h.t + (rec_ i).rem ∧ r.dest = x ∧ r.val = (rec_ i).value)))) ∧
    (∀ l, s.me.sched.granted = false → s.me.sched.latches = [l] →
      (l.stat ≠ .poisoned → ¬there l → exec (.eret p) s = .next (s.freeze .late)) ∧
      (l.stat = .poisoned → exec (.eret p) s = .next (s.takeTrap l.landTrap)))

/-- SYSRD (R418) writes the number's value one cycle later; a number that is not assigned traps SYSNUM, taddr the number. Some of the
numbers (R147, R216, R225, R282, R400, R402). A settled handler has read tcause and taddr (R413). -/
def Obligations.SystemNumberReads : Prop :=
  ∀ (s : State) (p : Pred) (d : BitVec 6) (num : BitVec 12), s.me.holds p = true →
    let reads (k : BitVec 12) (v : W64) : Prop := s.nextWith (.sysrd p d k) (fun t =>
      s.gains t 1 (.g d) (v.zeroExtend 2048) ∧ t.me.regs = s.me.regs ∧ t.me.sys = s.me.sys ∧ s.sameBytes t)
    (∀ v, s.sysNumber num.toNat = some v → reads num v) ∧
    (s.sysNumber num.toNat = none → s.me.sched.granted = false →
      exec (.sysrd p d num) s = .next (s.takeTrap (.issue .s 0x0E (num.zeroExtend 64)))) ∧
    (∀ task, s.me.task = some task → reads 0x020 (BitVec.ofNat 64 task.tid) ∧ reads 0x021 (BitVec.ofNat 64 task.desc.rank) ∧
      reads 0x024 (BitVec.ofNat 64 task.desc.job)) ∧
    reads 0x038 (s.me.regs.fmt.zeroExtend 64) ∧ reads 0x039 s.me.regs.rsn ∧ reads 0x03A s.me.regs.xst ∧
    reads 0x050 (BitVec.ofNat 64 s.myCore.pwrLim) ∧ reads 0x060 (BitVec.ofNat 64 s.myCore.cycle) ∧
    reads 0x0D0 s.me.sys.futWord ∧ reads 0x0D4 s.me.sys.trapWord ∧ reads 0x0D6 s.me.sys.timer ∧ reads 0x0D8 s.me.sys.tcause ∧
    reads 0x0D9 s.me.sys.taddr ∧ reads 0x0DA s.me.sys.tframe ∧
    (∀ h, s.me.shadow = some h → s.nextWith (.sysrd p d 0x0D8) (fun t => ∃ k, t.me.shadow = some k ∧ k.readCause = true) ∧
      s.nextWith (.sysrd p d 0x0D9) (fun t => ∃ k, t.me.shadow = some k ∧ k.readAddr = true))

/-- SYSWR of the context's own trap numbers (R393, R394, R402): a value that its row allows is taken, another is discarded; a number that
is read-only or not assigned traps SYSNUM (R418).

SYSWR of the numbers that firmware writes (R186, R193, R194, R219, R388, R416, R420, R444, R447, R501): a preload freezes until its page is
walked; an invalidation needs no access that uses the translation. -/
def Obligations.SystemNumberWrites : Prop :=
  (∀ (s : State) (p : Pred) (a : BitVec 6) (num : BitVec 12), s.me.holds p = true →
     let w := s.me.g a
     (s.me.sched.granted = false → exec (.syswr p a num) s = .next (s.takeTrap (.issue .s 0x0E (num.zeroExtend 64)))) ∧
     (s.wordOk w = true → s.nextWith (.trapWordWrite p a) (fun t => t.me.sys = { s.me.sys with trapWord := w } ∧ t.me.regs = s.me.regs)) ∧
     (s.wordOk w = false → exec (.trapWordWrite p a) s = .next s) ∧
     (s.wordOk w = true → s.nextWith (.futureEmptyWordWrite p a) (fun t => t.me.sys = { s.me.sys with futWord := w } ∧
       t.me.regs = s.me.regs)) ∧
     (s.wordOk w = false → exec (.futureEmptyWordWrite p a) s = .next s) ∧
     s.nextWith (.futemptyInline p a) (fun t => t.me.regs = s.me.regs ∧ t.me.sys = s.me.sys ∧
       ∀ h, s.me.shadow = some h → h.ref.isSome = true → t.me.shadow = some { h with inline := true }) ∧
     s.nextWith (.timerWrite p a) (fun t => t.me.sys = { s.me.sys with timer := w } ∧ t.me.regs = s.me.regs) ∧
     (w.toNat % 1024 = 0 → w.toNat + 0xA000 ≤ 0x20000 → s.nextWith (.tframeWrite p a) (fun t =>
       t.me.sys = { s.me.sys with tframe := w } ∧ t.me.regs = s.me.regs)) ∧
     (¬(w.toNat % 1024 = 0 ∧ w.toNat + 0xA000 ≤ 0x20000) → exec (.tframeWrite p a) s = .next s)) ∧
  (∀ (s : State) (p : Pred) (a : BitVec 6) (x : BitVec 2), s.me.holds p = true →
     let w := s.me.g a
     let core := s.cur / 4
     let die := core / 256
     let n := 4 * core + x.toNat
     let c := s.ctx n
     let job : Nat := match s.me.task with | some t => t.desc.job | none => 0
     let home := w.toNat / 2 ^ 48
     let off := w.toNat % 2 ^ 48
     ((s.hasWalk w = false ∨ s.me.mem.preload = some (w, true)) → s.nextWith (.pageWalkPreload p a) (fun t => t.me.regs = s.me.regs ∧
       t.me.sys = s.me.sys ∧ t.me.sched = s.me.sched ∧ t.me.mem.preload = none)) ∧
     (s.hasWalk w = true → s.me.mem.preload ≠ some (w, true) → s.me.sched.granted = false →
       exec (.pageWalkPreload p a) s = .next ((s.askPage w).freeze (.walk w))) ∧
     ((∀ e ∈ s.cached, e.covers home off = true → s.using e = false) → s.nextWith (.tlbPageInvalidate p a) (fun t =>
       (∀ e ∈ t.cached, e.covers home off = false) ∧ t.me = s.me ∧ s.sameBytes t)) ∧
     ((∀ e ∈ s.cached, s.using e = false) → s.nextWith (.tlbAllInvalidate p a) (fun t => t.cached = [] ∧ t.me = s.me ∧ s.sameBytes t)) ∧
     (rootOk die w = true → s.nextWith (.pageTableRootWrite p a) (fun t => (t.die die).root = w ∧ t.me = s.me)) ∧
     (rootOk die w = false → exec (.pageTableRootWrite p a) s = .next s) ∧
     s.nextWith (.pwrLimWrite p a) (fun t => (t.core core).pwrLim = max 64 (w.toNat % 2 ^ 16) ∧ t.me = s.me) ∧
     s.nextWith (.handlerWordWrite p a false x) (fun t => (t.ctx n).sys.himg = w) ∧
     (w.toNat / 2 ^ 24 % 2 ^ 39 = 0 → s.isHandler c.sys.himg (w.toNat % 2 ^ 24) = true →
       s.nextWith (.handlerWordWrite p a true x) (fun t => (t.ctx n).sys.hctl = w ∧ (t.ctx n).sys.himg = c.sys.himg)) ∧
     (c.task.isSome = true → s.nextWith (.preemptRequest p a x) (fun t => (t.ctx n).sync.preempt = true)) ∧
     (c.task.isNone = true → s.nextWith (.preemptRequest p a x) (fun t => t.ctx n = c)) ∧
     (c.mode = .stopped → c.sys.tcause.toNat % 256 = 0x32 → c.sys.tcause.toNat / 2 ^ 15 % 2 = 0 → s.nextWith (.contextResume p a x) (fun t =>
       (t.ctx n).mode = (if c.shadow.isSome then .handler else if c.task.isSome then .task else .wake) ∧ (t.ctx n).sched = c.sched)) ∧
     ((c.mode ≠ .stopped ∨ c.sys.tcause.toNat % 256 = 0x30 ∨ c.sys.tcause.toNat % 256 = 0x31 ∨ c.sys.tcause.toNat / 2 ^ 15 % 2 = 1) →
       exec (.contextResume p a x) s = .next s) ∧
     (c.resumable = true → c.sys.tcause.toNat % 256 ≠ 0x32 → s.nextWith (.contextResume p a x) (fun t => t.ctx n = (s.restoreFrame n).ctx n)) ∧
     (w.toNat % 65536 = 0 → s.nextWith (.checkpointAreaWrite p a) (fun t => (t.job job).area = w ∧ t.me = s.me)) ∧
     s.nextWith (.linDmaxWrite p a) (fun t => (t.die die).lin.dmax = max 1 (w.toNat % 16) ∧ t.me = s.me) ∧
     s.nextWith (.checkpointPeriodWrite p a false) (fun t => (t.job job).period = w.toNat ∧ (t.job job).every = (s.job job).every) ∧
     s.nextWith (.checkpointPeriodWrite p a true) (fun t => (t.job job).every = w.toNat ∧ (t.job job).period = (s.job job).period))

/-- Integer vector arithmetic (R245, R247, R249, R250): every element exact modulo 2^b, or exact and then saturated with the s bit; written two
cycles later (R246). -/
def Obligations.VectorIntegerArithmeticIsExact : Prop :=
  ∀ (s : State) (p : Pred) (w : Bool) (ty : Ty) (d : LineRef) (a b c : Src), s.me.holds p = true → ty.isI = true →
    let x (e : Nat) : Int := elemInt ty (s.me.src ty.bits a) e
    let y (e : Nat) : Int := elemInt ty (s.me.src ty.bits b) e
    let z (e : Nat) : Int := elemInt ty (s.me.src ty.bits c) e
    let n : Int := 2 ^ ty.bits
    let each (i : Instr) (P : Line → Nat → Prop) : Prop := s.schedulesV i w 2 d (fun v => ∀ e, e < ty.elems → P v e)
    each (.vadd p w ty d a b false) (fun v e => (lineElem ty.bits v e : Int) = (x e + y e) % n) ∧
    each (.vsub p w ty d a b false) (fun v e => (lineElem ty.bits v e : Int) = (x e - y e) % n) ∧
    each (.vmul p w ty d a b false) (fun v e => (lineElem ty.bits v e : Int) = x e * y e % n) ∧
    each (.vadd p w ty d a b true) (fun v e => elemInt ty v e = max ty.lo (min ty.hi (x e + y e))) ∧
    each (.vsub p w ty d a b true) (fun v e => elemInt ty v e = max ty.lo (min ty.hi (x e - y e))) ∧
    each (.vmul p w ty d a b true) (fun v e => elemInt ty v e = max ty.lo (min ty.hi (x e * y e))) ∧
    each (.vmin p w ty d a b) (fun v e => elemInt ty v e = min (x e) (y e)) ∧
    each (.vmax p w ty d a b) (fun v e => elemInt ty v e = max (x e) (y e)) ∧
    each (.vabs p w ty d a) (fun v e => (lineElem ty.bits v e : Int) = (x e).natAbs % n) ∧
    each (.vneg p w ty d a) (fun v e => (lineElem ty.bits v e : Int) = (0 - x e) % n) ∧
    each (.vclamp p w ty d a b c) (fun v e => elemInt ty v e = min (max (x e) (y e)) (z e)) ∧
    each (.vmulh p w ty d a b) (fun v e => (lineElem ty.bits v e : Int) = x e * y e / n % n)

/-- Bitwise operations, shifts, comparison, selection and moves of integer elements (R256, R257, R258, R259), by bits of the elements.

Moves of patterns (R258, R259), for every type: a copy, a selection, a broadcast of one element, a permutation, a count, a rotation. -/
def Obligations.VectorBitAndMoveOperations : Prop :=
  (∀ (s : State) (p : Pred) (w : Bool) (ty : Ty) (d : LineRef) (a b : Src) (k : BitVec 8), s.me.holds p = true → ty.isI = true →
     k.toNat < ty.bits →
     let x (e : Nat) : Nat := lineElem ty.bits (s.me.src ty.bits a) e
     let y (e : Nat) : Nat := lineElem ty.bits (s.me.src ty.bits b) e
     let each (i : Instr) (P : Line → Nat → Prop) : Prop := s.schedulesV i w 2 d (fun v => ∀ e, e < ty.elems → P v e)
     let bitwise (i : Instr) (f : Bool → Bool → Bool) : Prop := each i (fun v e => ∀ j, j < ty.bits →
       (lineElem ty.bits v e).testBit j = f ((x e).testBit j) ((y e).testBit j))
     bitwise (.vand p w ty d a b) (fun u v => u && v) ∧
     bitwise (.vor p w ty d a b) (fun u v => u || v) ∧
     bitwise (.vxor p w ty d a b) (fun u v => u != v) ∧
     bitwise (.vnot p w ty d a) (fun u _ => !u) ∧
     each (.vshl p w ty d a k) (fun v e => lineElem ty.bits v e = x e * 2 ^ k.toNat % 2 ^ ty.bits) ∧
     each (.vshr p w ty d a k) (fun v e => lineElem ty.bits v e = x e / 2 ^ k.toNat) ∧
     each (.vsar p w ty d a k) (fun v e => signed ty.bits (lineElem ty.bits v e) = signed ty.bits (x e) / 2 ^ k.toNat) ∧
     each (.vpopc p w ty d a) (fun v e => lineElem ty.bits v e = ((List.range ty.bits).filter (fun j => (x e).testBit j)).length) ∧
     each (.vclz p w ty d a) (fun v e => lineElem ty.bits v e ≤ ty.bits ∧ x e < 2 ^ (ty.bits - lineElem ty.bits v e) ∧
       (x e ≠ 0 → 2 ^ (ty.bits - 1 - lineElem ty.bits v e) ≤ x e)) ∧
     (∀ o : Cond, o.forVcmp = true → each (.vcmp p w ty o d a b) (fun v e =>
       let u := elemInt ty (s.me.src ty.bits a) e
       let t := elemInt ty (s.me.src ty.bits b) e
       let holds : Prop := match o with
         | .eq => u = t | .ne => u ≠ t | .lt => u < t | .le => u ≤ t | .gt => t < u | .ge => t ≤ u | _ => False
       (holds → lineElem ty.bits v e = 2 ^ ty.bits - 1) ∧ (¬holds → lineElem ty.bits v e = 0)))) ∧
  (∀ (s : State) (p : Pred) (w : Bool) (ty : Ty) (d : LineRef) (a b c : Src) (k : BitVec 8), s.me.holds p = true → k.toNat < ty.elems →
     let el (v : Line) (e : Nat) : Nat := lineElem ty.bits v e
     let x := s.me.src ty.bits a
     let y := s.me.src ty.bits b
     let z := s.me.src ty.bits c
     let each (i : Instr) (lat : Nat) (P : Line → Nat → Prop) : Prop := s.schedulesV i w lat d (fun v => ∀ e, e < ty.elems → P v e)
     each (.vmov p w ty d a) 2 (fun v e => el v e = el x e) ∧
     each (.vsel p w ty d a b c) 2 (fun v e => (el z e ≠ 0 → el v e = el x e) ∧ (el z e = 0 → el v e = el y e)) ∧
     each (.vbcast p w ty d a k) 3 (fun v e => el v e = el x k.toNat) ∧
     each (.vperm p w ty d a b) 3 (fun v e => el v e = el x (el y e % ty.elems)) ∧
     each (.viota p w ty d k) 2 (fun v e => el v e = (k.toNat + e) % 2 ^ ty.bits) ∧
     each (.vrot p w ty d a k) 3 (fun v e => el v e = el x ((e + k.toNat) % ty.elems)))

/-- Float arithmetic of the vector slots (R247, R248, R251): every element is the model's single rounding of the exact value; a NaN operand
gives the canonical NaN (R73); latencies of R246; in mode RS rsn advances by one where fmt.rm rounds. -/
def Obligations.VectorFloatArithmeticRoundsOnce : Prop :=
  ∀ (s : State) (p : Pred) (w : Bool) (ty : Ty) (d : LineRef) (a b c : Src) (sb : Bool), s.me.holds p = true → ty.isF = true →
    let r := s.me.rnd
    let num (q : Src) (e : Nat) : Machine.Num := elemNum ty r.ftz (s.me.src ty.bits q) e
    let rd : Bool := decide (r.mode = 3)
    let lat : Nat := if ty = .f32 then 4 else 3
    let rounded (i : Instr) (l : Nat) (f : Nat → Machine.Num × Bool) : Prop := s.schedulesR i w l d (fun v => ∀ e, e < ty.elems →
      lineElem ty.bits v e = r.float ty e (f e).1 (f e).2 ∧ ((f e).1 = .nan → lineElem ty.bits v e = ty.nan))
    let nearest (i : Instr) (f : Nat → Machine.Num × Bool) : Prop := s.schedulesV i w 8 d (fun v => ∀ e, e < ty.elems →
      lineElem ty.bits v e = s.me.rndNe.float ty e (f e).1 (f e).2 ∧ ((f e).1 = .nan → lineElem ty.bits v e = ty.nan))
    rounded (.vadd p w ty d a b sb) lat (fun e => (sumNums rd [num a e, num b e], false)) ∧
    rounded (.vsub p w ty d a b sb) lat (fun e => (sumNums rd [num a e, (num b e).neg], false)) ∧
    rounded (.vmul p w ty d a b sb) lat (fun e => ((num a e).mul (num b e), false)) ∧
    rounded (.vfma p w ty d a b c) lat (fun e => (sumNums rd [(num a e).mul (num b e), num c e], false)) ∧
    rounded (.vfms p w ty d a b c) lat (fun e => (sumNums rd [(num a e).mul (num b e), (num c e).neg], false)) ∧
    rounded (.vrcp p w ty d a) 8 (fun e => recip (num a e)) ∧
    rounded (.vsqrt p w ty d a) 8 (fun e => sqrtNum (num a e)) ∧
    nearest (.vrsq p w ty d a) (fun e => rsqNum (num a e)) ∧
    nearest (.vexp2 p w ty d a) (fun e => exp2Num (num a e)) ∧
    nearest (.vlog2 p w ty d a) (fun e => log2Num (num a e))

/-- Special cases of the sums, products and functions before rounding (R74, R76, R248, R251). -/
def Obligations.ExactValuesHaveTheirSpecialCases : Prop :=
  ∀ (x y z : Machine.Num) (rd sg : Bool) (n : Nat) (e : Int),
    Machine.Num.nan.mul x = .nan ∧ x.mul .nan = .nan ∧ sumNums rd [.nan, x] = .nan ∧ sumNums rd [x, .nan] = .nan ∧
    (Machine.Num.inf sg).mul (.fin rd 0 e) = .nan ∧ (Machine.Num.fin rd 0 e).mul (.inf sg) = .nan ∧
    sumNums rd [.inf sg, .inf (!sg)] = .nan ∧ sumNums rd [(Machine.Num.inf sg).mul (.fin rd 0 e), z] = .nan ∧
    sumNums rd [.fin true 0 e, .fin true 0 e] = .fin true 0 0 ∧ sumNums rd [.fin false 0 e, .fin false 0 e] = .fin false 0 0 ∧
    sumNums rd [.fin sg 0 e, .fin (!sg) 0 e] = .fin rd 0 0 ∧
    (recip (.fin sg 0 e)).1 = .inf sg ∧ (recip (.inf sg)).1 = .fin sg 0 0 ∧
    (rsqNum (.fin sg 0 e)).1 = .inf sg ∧ (rsqNum (.inf false)).1 = .fin false 0 0 ∧
    (sqrtNum (.inf false)).1 = .inf false ∧ (log2Num (.fin sg 0 e)).1 = .inf true ∧ (log2Num (.inf false)).1 = .inf false ∧
    (exp2Num (.inf true)).1 = .fin false 0 0 ∧ (exp2Num (.inf false)).1 = .inf false ∧ (exp2Num (.fin sg 0 e)).1 = .fin false 1 0 ∧
    (0 < n → (sqrtNum (.fin true n e)).1 = .nan ∧ (rsqNum (.fin true n e)).1 = .nan ∧ (log2Num (.fin true n e)).1 = .nan) ∧
    (∃ k f, (sqrtNum (.fin sg 0 e)).1 = .fin sg k f ∧ k = 0) ∧
    y.neg.neg = y

/-- VMIN, VMAX, VABS, VNEG and VCLAMP of class F (R249): a NaN operand gives the canonical NaN, else the sign is cleared or inverted, or one of
the operands, subnormals flushed under ftz, is copied. VCMP of class F (R257): with a NaN only ne holds. -/
def Obligations.VectorFloatSelectionKeepsPatterns : Prop :=
  ∀ (s : State) (p : Pred) (w : Bool) (ty : Ty) (d : LineRef) (a b c : Src), s.me.holds p = true → ty.isF = true →
    let ftz := s.me.regs.fmt.toNat / 8 % 2 = 1
    let pat (q : Src) (e : Nat) : Nat := flushPat ty (decide ftz) (lineElem ty.bits (s.me.src ty.bits q) e)
    let num (q : Src) (e : Nat) : Machine.Num := decodeNum ty (pat q e)
    let top : Nat := 2 ^ (ty.bits - 1)
    let each (i : Instr) (P : Nat → Nat → Prop) : Prop := s.schedulesV i w 2 d (fun v => ∀ e, e < ty.elems → P e (lineElem ty.bits v e))
    let one (i : Instr) : Prop := each i (fun e r => (num a e = .nan ∨ num b e = .nan → r = ty.nan) ∧
      (num a e ≠ .nan → num b e ≠ .nan → r = pat a e ∨ r = pat b e))
    one (.vmin p w ty d a b) ∧ one (.vmax p w ty d a b) ∧
    each (.vmin p w ty d a b) (fun e r => num a e ≠ .nan → num b e ≠ .nan →
      (num a e).lt (decodeNum ty r) = false ∧ (num b e).lt (decodeNum ty r) = false) ∧
    each (.vmax p w ty d a b) (fun e r => num a e ≠ .nan → num b e ≠ .nan →
      (decodeNum ty r).lt (num a e) = false ∧ (decodeNum ty r).lt (num b e) = false) ∧
    each (.vabs p w ty d a) (fun e r => (num a e = .nan → r = ty.nan) ∧ (num a e ≠ .nan → r = pat a e % top)) ∧
    each (.vneg p w ty d a) (fun e r => (num a e = .nan → r = ty.nan) ∧ (num a e ≠ .nan → r = (pat a e + top) % 2 ^ ty.bits)) ∧
    each (.vclamp p w ty d a b c) (fun e r => (num a e = .nan ∨ num b e = .nan ∨ num c e = .nan → r = ty.nan) ∧
      (num a e ≠ .nan → num b e ≠ .nan → num c e ≠ .nan → r = pat a e ∨ r = pat b e ∨ r = pat c e)) ∧
    (∀ o : Cond, o.forVcmp = true → each (.vcmp p w ty o d a b) (fun e r => (r = 0 ∨ r = 2 ^ ty.bits - 1) ∧
      (num a e = .nan ∨ num b e = .nan → (r = 0 ↔ o ≠ .ne))))

/-- LNS6 arithmetic (R247), VCVT (R252, R253), VQ8 and VDQ8 (R254, R255), the reductions (R260) and VAMAX (R261): latency and result. VREDSUM of
class F adds the flushed elements in the tree of R96, RS taken as RNE; VREDMAX and VREDMIN give an element that none exceeds or goes below, or the
canonical NaN when one is NaN. -/
def Obligations.ConversionsReductionsAndLogarithms : Prop :=
  ∀ (s : State) (p : Pred) (w : Bool) (ty tx : Ty) (d : LineRef) (a b : Src) (k : BitVec 8) (sg : Bool) (m : BitVec 2), s.me.holds p = true →
    let r := s.me.rnd
    let x := s.me.src ty.bits a
    let y := s.me.src ty.bits b
    let x8 := s.me.src 8 a
    let y8 := s.me.src 8 b
    let ne : Rnd := { Rnd.ne with ftz := r.ftz }
    let scale (j : Nat) : Nat := q8Scale (((List.range 64).map (fun i => elemNum ty r.ftz x (64 * j + i)))) sg r.ftz
    let ln (i : Instr) (lat : Nat) (f : Nat → Nat) : Prop := s.schedulesV i w lat d (fun v => ∀ e, e < 256 → lineElem 8 v e = f e)
    let reduces (i : Instr) (P : Nat → Prop) : Prop := s.schedulesV i w 6 d (fun v => ∃ z, P z ∧ ∀ e, e < ty.elems → lineElem ty.bits v e = z)
    let conv (e : Nat) (v : Line) : Prop :=
      (ty.elems = tx.elems → lineElem tx.bits v e = r.convElem ty tx e (lineElem ty.bits x e)) ∧
      (ty.elems < tx.elems → (e / ty.elems = k.toNat → lineElem tx.bits v e = r.convElem ty tx e (lineElem ty.bits x (e % ty.elems))) ∧
        (e / ty.elems ≠ k.toNat → lineElem tx.bits v e = 0)) ∧
      (tx.elems < ty.elems → lineElem tx.bits v e = r.convElem ty tx e (lineElem ty.bits x (k.toNat * tx.elems + e)))
    let el (e : Nat) : Nat := lineElem ty.bits x e
    let pat (e : Nat) : Nat := flushPat ty r.ftz (el e)
    let num (e : Nat) : Machine.Num := decodeNum ty (pat e)
    let tree := s.me.rndTree
    let add (u v : Nat) : Nat := tree.float ty 0 (sumNums (decide (tree.mode = 3))
      [decodeNum ty (flushPat ty r.ftz u), decodeNum ty (flushPat ty r.ftz v)]) false
    let level : Nat := if ty.bits = 32 then 6 else if ty.bits = 16 then 7 else 8
    let extreme (i : Instr) (before : Machine.Num → Machine.Num → Bool) (le : Int → Int → Prop) : Prop :=
      (ty.isF = true → (∃ e, e < ty.elems ∧ num e = .nan) → reduces i (fun z => z = ty.nan)) ∧
      (ty.isF = true → (∀ e, e < ty.elems → num e ≠ .nan) →
        reduces i (fun z => (∃ e, e < ty.elems ∧ z = pat e) ∧ ∀ e, e < ty.elems → before (num e) (decodeNum ty z) = false)) ∧
      (ty.isI = true → reduces i (fun z => ∃ e, e < ty.elems ∧ z = el e ∧ ∀ j, j < ty.elems → le (elemInt ty x j) (elemInt ty x e)))
    ln (.vmul p w .ln6 d a b false) 2 (fun e => ln6Mul (lineElem 8 x8 e) (lineElem 8 y8 e)) ∧
    ln (.vadd p w .ln6 d a b false) 3 (fun e => ln6Add (decodeLn6 (lineElem 8 x8 e)) (decodeLn6 (lineElem 8 y8 e))) ∧
    ln (.vsub p w .ln6 d a b false) 3 (fun e => ln6Add (decodeLn6 (lineElem 8 x8 e)) (decodeLn6 (lineElem 8 y8 e)).neg) ∧
    ((tx ≠ .ln6 ∧ ¬(ty.isI = true ∧ tx.isI = true)) → s.schedulesR (.vcvt p w ty tx d a k) w 3 d (fun v => ∀ e, e < tx.elems → conv e v)) ∧
    ((tx = .ln6 ∨ (ty.isI = true ∧ tx.isI = true)) → s.schedulesV (.vcvt p w ty tx d a k) w 3 d (fun v => ∀ e, e < tx.elems → conv e v)) ∧
    ((ty = .f32 ∨ ty = .bf16) → s.schedulesV (.vq8 p w ty d a sg) w 6 d (fun v =>
      (∀ e, e < ty.elems → lineElem 8 v e = q8Code (scale (e / 64)) sg (elemNum ty r.ftz x e)) ∧
      (∀ j, j < ty.elems / 64 → lineElem 32 v (32 + j) = scale j) ∧
      (∀ j, 16 * (ty.elems / 64) ≤ j → j < 64 → ¬(32 ≤ j ∧ j < 32 + ty.elems / 64) → lineElem 32 v j = 0))) ∧
    ((ty = .f32 ∨ ty = .bf16) → s.schedulesV (.vdq8 p w ty d a b sg) w 3 d (fun v => ∀ e, e < ty.elems →
      let c := lineElem 8 x e
      let q := f32 (flushPat .f32 r.ftz (lineElem 32 y (32 + e / 64)))
      (q = .nan → lineElem ty.bits v e = ty.nan) ∧
      lineElem ty.bits v e = ne.float ty e (Machine.Num.mul (if sg then .fin (decide (128 ≤ c)) (signed 8 c).natAbs 0 else .fin false c 0) q) false)) ∧
    (ty.isI = true → reduces (.vredsum p w ty d a) (fun z => z = ((List.range ty.elems).map el).sum % 2 ^ ty.bits)) ∧
    (ty.isF = true → reduces (.vredsum p w ty d a) (fun z => z = pairTree add pat level 0)) ∧
    extreme (.vredmax p w ty d a) (fun u v => v.lt u) (fun u v => u ≤ v) ∧
    extreme (.vredmin p w ty d a) (fun u v => u.lt v) (fun u v => v ≤ u) ∧
    (let mag (e : Nat) : Nat := Rnd.ne.float .f32 0 (elemNum ty r.ftz x e).abs false
     ∃ z : Nat, exec (.vamax p w ty m a) s = .next (s.scheduled (if w then .v1 else .v0) 6 (.mx m) (BitVec.ofNat 2048 z)) ∧
       (∀ e, e < ty.elems → elemNum ty r.ftz x e ≠ .nan → mag e ≤ z) ∧
       (z = 0 ∨ ∃ e, e < ty.elems ∧ elemNum ty r.ftz x e ≠ .nan ∧ z = mag e))

/-- The M operations that find their planes free (R264 to R268, R274 to R281): what each does to the planes, what it leaves in flight, which
busy windows it opens. -/
def Obligations.MatrixOperationsActOnFreePlanes : Prop :=
  ∀ (s : State) (p : Pred) (ty tt : Ty) (gl : LineRef) (n arow row part : BitVec 6) (pl yf : Bool) (cb qm : BitVec 2) (pm : BitVec 4),
    s.me.holds p = true →
    let x := s.me.planes
    let now := s.myCore.cycle
    let k := if pl then 1 else 0
    let free (j : Nat) : Prop := x.freeAt j ≤ now
    let does (i : Instr) (P : State → Planes → Prop) : Prop :=
      s.nextWith i (fun t => t.me.regs = s.me.regs ∧ t.mem = s.mem ∧ P t t.me.planes)
    let cleared (q : Planes) (named : Nat → Bool) : Prop := ∀ j r, j < 4 → r < 64 → q.row j r = if named j then 0 else x.row j r
    ((∀ j, j < 4 → pm.toNat.testBit j = true → free j) → does (.mcfg p ty pm) (fun _ q => cleared q pm.toNat.testBit ∧
      ∀ j, j < 4 → q.fmt j = if pm.toNat.testBit j then ty else x.fmt j)) ∧
    ((∀ j, j < 2 → qm.toNat.testBit j = true → free j) → does (.mzero p qm) (fun _ q => cleared q qm.toNat.testBit ∧
      ∀ j, j < 4 → q.fmt j = x.fmt j)) ∧
    (free 3 → x.fws = ty → does (.mldw p ty gl) (fun _ q => q.freeAt 3 = now + ty.mN + 1 ∧ q.acc = x.acc ∧ q.wa = x.wa ∧ q.ws = x.ws ∧
      q.hidden = x.hidden ++ [.wload (now + ty.mN) ((List.range ty.mN).map (fun j => s.me.regs.line (gl.plus j)))])) ∧
    (free 2 → free 3 → does (.mswap p) (fun _ q => q = { x with wa := x.ws, ws := x.wa, fwa := x.fws, fws := x.fwa })) ∧
    ((ty = .f8e4 ∨ ty = .f8e5 ∨ ty = .ln6 → now < Sparse.get 0 s.myCore.leases 1) → s.myCore.arrayFree = true →
      Sparse.get 0 x.busyOther 2 ≤ now → Sparse.get 0 x.busyOther k ≤ now → x.fmt k = ty → x.fwa = ty →
      does (.mstrm p ty gl n pl cb arow yf) (fun t q => q.acc = x.acc ∧ now + n.toNat + 1 ≤ q.freeAt 2 ∧
        now + n.toNat + ty.mP + 1 ≤ q.freeAt k ∧ (t.core (s.cur / 4)).drawing = s.myCore.drawing ++ [(now, n.toNat + 1, streamWeight ty)] ∧
        ∃ st, q.streams = x.streams ++ [st] ∧ st.cyc = now ∧ st.pl = k ∧ st.row = arow.toNat ∧ st.cb = cb.toNat ∧ st.ty = ty ∧
          st.n = n.toNat + 1 ∧ st.live = true ∧ st.wa = x.wa ∧
          st.lines = (List.range (n.toNat + 1)).map (fun j => s.me.regs.line (gl.plus j)))) ∧
    (free k → ∃ v : Line, exec (.mrdacc p tt gl row pl part) s = .next ((s.scheduled .m 4 (.line gl) v).updMe (fun c => { c with regs :=
        { c.regs with rsn := if c.regs.fmt.toNat % 8 = 4 then c.regs.rsn + 1 else c.regs.rsn } })) ∧
      ∀ e, e < tt.elems → lineElem tt.bits v e = if e / 32 = part.toNat then
        s.me.rnd.convElem .f32 tt e (accElem (x.accRow k row.toNat) (e % 32)) else 0) ∧
    (free k → does (.maddacc p ty gl row pl part) (fun _ q => q.acc = x.acc ∧ q.freeAt k = now + 5 ∧
      q.hidden = x.hidden ++ [.madd (now + 4) k row.toNat ty part.toNat (s.me.regs.line gl)])) ∧
    ((∀ j, j < 4 → pm.toNat.testBit j = true → free j) → exec (.mwaitp p pm) s = .next s)

/-- M operations before their planes are free: the core freezes and counts the cycle in frz_busy (R267), whatever the predicate (R270). An MLDW
of another format than that of ws traps MFMT with the mask of ws (R269); a false one does not, opens its busy window and changes no plane
(R270). -/
def Obligations.MatrixOperationsWaitAndCheckFormats : Prop :=
  ∀ (s : State) (p : Pred) (ty tt : Ty) (gl : LineRef) (row part : BitVec 6) (pl : Bool) (qm : BitVec 2) (pm : BitVec 4),
    s.me.sched.granted = false →
    let x := s.me.planes
    let now := s.myCore.cycle
    let busy (j : Nat) : Prop := now < x.freeAt j
    let waits (i : Instr) : Prop := exec i s = .next (s.freeze .busy) ∧ (s.freeze .busy).me.cnt = { s.me.cnt with busy := s.me.cnt.busy + 1 }
    (∀ j, j < 4 → busy j → pm.toNat.testBit j = true → waits (.mcfg p ty pm) ∧ waits (.mwaitp p pm)) ∧
    (∀ j, j < 2 → busy j → qm.toNat.testBit j = true → waits (.mzero p qm)) ∧
    (busy 3 → waits (.mldw p ty gl)) ∧
    (busy 2 ∨ busy 3 → waits (.mswap p)) ∧
    (busy (if pl then 1 else 0) → waits (.mrdacc p tt gl row pl part) ∧ waits (.maddacc p ty gl row pl part)) ∧
    (¬busy 3 → x.fws ≠ ty → s.me.holds p = true → exec (.mldw p ty gl) s = .next (s.takeTrap (.issue .m 0x08 8))) ∧
    (¬busy 3 → s.me.holds p = false → s.nextWith (.mldw p ty gl) (fun t => t.me.planes.freeAt 3 = now + ty.mN + 1 ∧
      t.me.planes.hidden = x.hidden ∧ t.me.planes.ws = x.ws))

/-- The hidden effects of the matrix engine at their core cycles (R266): the block of an MLDW enters ws (R275); a line of a stream enters the
array, and P cycles later its accumulator row is written, every column of its block as the exact sum of the old value and the K products
rounded once, the other columns as they were (R277); an MADDACC adds its elements (R280). -/
def Obligations.MatrixEffectsComeAtTheirCycles : Prop :=
  ∀ (s : State), let n := s.evt.n
    let x := (s.ctx n).planes
    let now := (s.core (n / 4)).cycle
    let does (i : Instr) (P : Planes → Prop) : Prop := s.nextWith i (fun t => (t.ctx n).regs = (s.ctx n).regs ∧ t.mem = s.mem ∧
      P (t.ctx n).planes)
    (∀ d cols, x.hidden.filter Hidden.isLoad = [.wload d cols] → d ≤ now → does .weightBlockLoad (fun q =>
      q.hidden.filter Hidden.isLoad = [] ∧ q.acc = x.acc ∧ q.wa = x.wa ∧ ∀ j, Sparse.get 0 q.ws j = cols.getD j 0)) ∧
    (∀ d k row ty part l, x.hidden.filter (fun h => !h.isLoad) = [.madd d k row ty part l] → d ≤ now → does .maddaccRowWrite (fun q =>
      q.ws = x.ws ∧ (∀ j, j < 32 → accElem (q.accRow k row) j = Rnd.ne.float .f32 0
        (sumNums false [decodeNum .f32 (accElem (x.accRow k row) j), decodeNum ty (lineElem ty.bits l (32 * part + j))]) false % 2 ^ 32) ∧
      ∀ k' r', 64 * k' + r' ≠ 64 * k + row → q.accRow k' r' = x.accRow k' r')) ∧
    (∀ st, x.streams = [st] → st.live = true → st.written < st.n → now = st.cyc + st.ty.mP + st.written → does .accumulatorRowWrite (fun q =>
      q.ws = x.ws ∧ q.wa = x.wa ∧
      (∀ j, j < 32 → accElem (q.accRow st.pl (st.row + st.written)) j =
        if st.cb * st.ty.mN ≤ j ∧ j < st.cb * st.ty.mN + st.ty.mN then passElem st.ty (accElem (x.accRow st.pl (st.row + st.written)) j)
          (st.lines.getD st.written 0) (Sparse.get 0 st.wa (j - st.cb * st.ty.mN)) % 2 ^ 32
        else accElem (x.accRow st.pl (st.row + st.written)) j) ∧
      (∀ k' r', 64 * k' + r' ≠ 64 * st.pl + (st.row + st.written) → q.accRow k' r' = x.accRow k' r') ∧
      q.streams = if st.written + 1 = st.n then [] else [{ st with written := st.written + 1 }])) ∧
    (∀ st, x.streams = [st] → st.entered < st.n → now = st.cyc + st.entered → does .streamLineEntry (fun q =>
      q.acc = x.acc ∧ q.streams = [{ st with entered := st.entered + 1 }]))

/-- LDW, LDD, LDL, LDLS and LDG (R205, R206, R316, R321) with room (R206, R466): each takes a latch for its destination and writes nothing. One
whose bytes all lie in the context's own working area (R183, R319) has the bytes as they stand at its issue, little-endian, when no store and no
access of the context to its own scratchpad is still on its way before it (R358). -/
def Obligations.LoadsTakeALatchForTheirBytes : Prop :=
  ∀ (s : State) (p : Pred) (d gs : BitVec 6) (l : BitVec 4) (a : BitVec 5) (ac : BitVec 3) (dist : BitVec 12) (off : BitVec 10) (x : Src),
    s.me.holds p = true → s.me.sched.latches.length < 64 →
    let base := plainBase s.cur
    let takes (i : Instr) (ea : W80) (dest : Dest) (P : Latch → Prop) : Prop := s.roomy ac.toNat ea → s.nextWith i (fun t =>
      s.takesLatch t .ld dist.toNat dest ∧ t.me.planes = s.me.planes ∧ t.mem = s.mem ∧
      (s.cur < 4096 → isSelf ea → s.ownQuiet → ∀ q, t.me.sched.latches = s.me.sched.latches ++ [q] → P q))
    let span (ea : W80) (size : Nat) (q : Latch) : Prop := offOf ea + size ≤ 0x20000 → s.badAt (base + offOf ea) size = false →
      (size = 256 → offOf ea % 256 = 0) → q.stat = .arrived ∧ q.data.toNat = s.readNat (base + offOf ea) size
    let words (ea : W80) (step : Nat → Int) (q : Latch) : Prop :=
      (∀ w, w < 64 → 0 ≤ (offOf ea : Int) + step w ∧ (offOf ea : Int) + step w + 4 ≤ 0x20000 ∧
        s.badAt (base + ((offOf ea : Int) + step w).toNat) 4 = false) →
      q.stat = .arrived ∧ ∀ w, w < 64 → lineElem 32 q.data w = s.readNat (base + ((offOf ea : Int) + step w).toNat) 4
    let e4 := s.me.loadEa a off 4
    let e8 := s.me.loadEa a off 8
    let eL := s.me.loadEa a off 256
    takes (.ldw p d a ac dist off) e4 (.g d) (span e4 4) ∧
    takes (.ldd p d a ac dist off) e8 (.g d) (span e8 8) ∧
    takes (.ldl p l a ac dist off) eL (.land l) (span eL 256) ∧
    takes (.ldls p l a ac dist gs) (s.me.a a) (.land l) (words (s.me.a a) (fun w => (w : Int) * (s.me.g gs).toInt)) ∧
    takes (.ldg p l a ac dist x) (s.me.a a) (.land l) (words (s.me.a a) (fun w => (lineWord (s.me.src 32 x) w).toInt * 4))

/-- The atomics (R347) with room: each takes a latch for gd; on an aligned address in the context's own working area its request carries the
operand and the old gd. AMO.FADD at level 1 or 2 traps DETVIOL, taddr the address (R349). -/
def Obligations.AtomicsTakeALatchForTheirOldValue : Prop :=
  ∀ (s : State) (p : Pred) (m : Amo), s.me.holds p = true →
    let ea := s.me.a m.a
    let n := if m.wide then 8 else 4
    let takes (i : Instr) (op : BitVec 8) : Prop := s.me.sched.latches.length < 64 → s.roomy m.ac.toNat ea → s.nextWith i (fun t =>
      s.takesLatch t .ld m.dist.toNat (.g m.d) ∧ t.me.planes = s.me.planes ∧ t.mem = s.mem ∧
      (s.cur < 4096 → isSelf ea → offOf ea + n ≤ 0x20000 → offOf ea % n = 0 →
        s.requests t (.atomic op m.wide m.u (s.me.g m.v) (s.me.g m.d))))
    takes (.amoAdd p m) 0x20 ∧ takes (.amoMax p m) 0x21 ∧ takes (.amoMin p m) 0x22 ∧ takes (.amoAnd p m) 0x23 ∧ takes (.amoOr p m) 0x24 ∧
    takes (.amoXch p m) 0x25 ∧ takes (.amoCas p m) 0x26 ∧ (s.me.level = 0 → takes (.amoFadd p m) 0x27) ∧
    (1 ≤ s.me.level → s.me.sched.granted = false →
      exec (.amoFadd p m) s = .next (s.takeTrap (.issue .ld 0x04 (BitVec.ofNat 64 (addrHome ea * 2 ^ 48 + offOf ea)))))

/-- STW, STD, STL, STLX and PUTH (R316, R322, R323, R350) with room: no byte of memory changes at issue. A store into the context's own working
area, which no image store meets (R127), is performed two cycles later with the bytes read at issue (R319); a PUTH is under way as a request. STLX also sends the amax of the line
to mx, at t+3, and takes one rsn value in mode RS (R323). -/
def Obligations.StoresSendTheirBytes : Prop :=
  ∀ (s : State) (p : Pred) (g : BitVec 6) (x : Src) (a : BitVec 5) (ac : BitVec 3) (off : BitVec 14) (tt : Ty) (mx : BitVec 2),
    s.me.holds p = true →
    let v := s.me.src 32 x
    let sends (i : Instr) (ea : W80) (R : Regs) (P : State → Prop) : Prop := s.roomy ac.toNat ea → s.nextWith i (fun t =>
      t.me.regs = R ∧ t.me.planes = s.me.planes ∧ t.me.sched.latches = s.me.sched.latches ∧ t.mem = s.mem ∧ P t)
    let own (ea : W80) (bs : List Byte) (t : State) : Prop := s.cur < 4096 → isSelf ea → offOf ea + bs.length ≤ 0x20000 →
      (8 < bs.length → offOf ea % bs.length = 0) → s.outsideStore (plainBase s.cur + offOf ea) bs.length → ∃ o, t.me.sched.stores = s.me.sched.stores ++ [o] ∧ o.due = s.me.sched.time + 2 ∧
        o.addr = plainBase s.cur + offOf ea ∧ o.data = bs ∧ o.brel = none
    let e4 := s.me.storeEa a off 4
    let e8 := s.me.storeEa a off 8
    let eL := s.me.storeEa a off 256
    let eX := s.me.storeEa a off (8 * tt.bits)
    sends (.stw p g a ac off) e4 s.me.regs (own e4 (toBytes 4 (s.me.g g).toNat)) ∧
    sends (.std p g a ac off) e8 s.me.regs (own e8 (toBytes 8 (s.me.g g).toNat)) ∧
    sends (.stl p x a ac off) eL s.me.regs (own eL (lineBytes v)) ∧
    sends (.stlx p tt mx x a ac off) eX { s.me.regs with
      rsn := if s.me.regs.fmt.toNat % 8 = 4 then s.me.regs.rsn + 1 else s.me.regs.rsn } (fun t =>
      own eX ((List.range 64).flatMap (fun w => toBytes (tt.bits / 8) (s.me.rnd.convElem .f32 tt w (lineElem 32 v w)))) t ∧
      s.gains t 3 (.mx mx) (BitVec.ofNat 2048 (amax (lineNums .f32 (s.me.regs.fmt.toNat / 8 % 2 = 1) v)))) ∧
    sends (.puth p x a ac off) eL s.me.regs (fun t => s.cur < 4096 → isSelf eL → offOf eL + 256 ≤ 0x20000 → offOf eL % 256 = 0 →
      s.outsideStore (plainBase s.cur + offOf eL) 256 → s.requests t .puth)

/-- The tile operations (R324 to R332) with room: each sends its request; those with a result take a latch. TLNEW allocates at the die its
pointer's home field names, the issuer's own for 0x7FFF (R327); TLWR carries its line, and the amax goes to mx at t+3 when it converts (R329); a
TLFIN counts at once as finished for its task (R330, R61). -/
def Obligations.TileOperationsSendTheirRequest : Prop :=
  ∀ (s : State) (p : Pred) (d g : BitVec 6) (l : BitVec 4) (a : BitVec 5) (dist : BitVec 12) (off : BitVec 10) (o14 : BitVec 14) (tt : Ty)
    (mx : BitVec 2) (x : Src), s.me.holds p = true → s.pkg < 6144 → s.queueRoom 0 →
    let q := s.me.a a
    let ref : W64 := q.truncate 64
    let v := s.me.src 32 x
    let takes (i : Instr) (op : ReqOp) (dest : Dest) (P : Req → Prop) : Prop := s.me.sched.latches.length < 64 → s.nextWith i (fun t =>
      s.takesLatch t .ld dist.toNat dest ∧ t.mem = s.mem ∧ ∃ r, t.me.mem.reqs = s.me.mem.reqs ++ [r] ∧ r.op = op ∧ r.base = q ∧ P r)
    let sends (i : Instr) (op : ReqOp) (P : State → Prop) : Prop := s.nextWith i (fun t => t.me.regs = s.me.regs ∧ t.mem = s.mem ∧
      t.me.sched.latches = s.me.sched.latches ∧ s.requests t op ∧ P t)
    takes (.tlnew p d a dist g) (.tlnew (s.me.g g)) (.g d) (fun r =>
      r.home = if addrHome q = 0x7FFF then 4 * s.pkg + s.cur / 1024 else addrHome q) ∧
    takes (.tlrd p l a dist off) (.tlrd off) (.land l) (fun r => r.home = refHome ref) ∧
    takes (.tlqry p l a dist) .tlqry (.land l) (fun r => r.home = refHome ref) ∧
    takes (.tlrep p d a dist) .tlrep (.g d) (fun r => r.home = refHome ref) ∧
    sends (.tlwr p tt mx x a o14) (.tlwr v o14 (tt == .f32) tt s.me.regs.fmt) (fun t => tt ≠ .f32 →
      s.gains t 3 (.mx mx) (BitVec.ofNat 2048 (amax (lineNums .f32 (s.me.regs.fmt.toNat / 8 % 2 = 1) v)))) ∧
    sends (.tlfin p a) .tlfin (fun t => t.me.mem.fins = s.me.mem.fins ++ [ref])

/-- CPY, CRED, CMC and CGAT (R333, R334, R343) with room in the queue and the leases that the bytes they move need (R221, R342): a command with
the operation's staging values joins the context's queue, its flag is cleared at t+1, its status is run (R345), and one that rounds into plain
memory takes its rsn values in mode RS (R81, R336). CSTAT writes the status word of the flag's latest command at t+2, of a forgotten one the word
that was kept. CCANCEL ends the commands of a flag, every one for flag 0, with cause CANCEL, and changes no other (R345). -/
def Obligations.CopyOperationsWorkOnTheQueue : Prop :=
  ∀ (s : State) (p : Pred) (h : CpyHdr) (fl kb : BitVec 4), s.me.holds p = true →
    let old := s.me.mem.cmds
    let leased (k : Nat) : Prop := s.myCore.cycle < Sparse.get 0 s.myCore.leases k
    let issues (i : Instr) (op : BitVec 5) : Prop :=
      let m := s.peekTable s.cur (s.newCmd op h)
      (old.filter (fun m => decide (m.stat ≠ .done))).length < 8 → (0x100000 < m.bytes → leased 2) →
      (((m.dest 0).remote s.pkg = true ∧ 0x10000 < m.bytes) ∨ 0x10000 < m.farBytes s.pkg → leased 3) →
      let rounds : Prop := op ≠ 2 ∧ m.sTy?.isSome = true ∧ m.dTy?.isSome = true ∧ m.sTy ≠ m.dTy ∧ m.dt = false ∧ s.me.regs.fmt.toNat % 8 = 4
      s.nextWith i (fun t => t.mem = s.mem ∧ t.me.planes = s.me.planes ∧ t.me.sched.latches = s.me.sched.latches ∧
        t.me.regs = { s.me.regs with rsn := t.me.regs.rsn } ∧ (rounds → t.me.regs.rsn = s.me.regs.rsn + BitVec.ofNat 64 ((m.count + 255) / 256)) ∧
        (¬rounds → t.me.regs.rsn = s.me.regs.rsn) ∧ t.me.copyStatus h.fl = 1 ∧
        (h.fl ≠ 0 → s.gains t 1 (.f h.fl) 0) ∧ (h.fl = 0 → t.me.sched.pend = s.me.sched.pend) ∧
        ∃ m, t.me.mem.cmds = old ++ [m] ∧ m.op = op ∧ m.hdr = h ∧ m.stat = .queued ∧ m.off = 0 ∧ m.fmt = s.me.regs.fmt ∧
          m.rsn = s.me.regs.rsn ∧ m.stage.length = cpyRegs (op == 3 || op == 4) h.nd.toNat ∧
          ∀ i, i < m.stage.length → m.stage.getD i 0 = s.me.k (h.kb + BitVec.ofNat 4 i))
    let named (m : Cmd) : Prop := m.stat ≠ .done ∧ (fl = 0 ∨ m.hdr.fl = fl)
    issues (.cpy p h) 1 ∧ issues (.cred p h) 2 ∧ issues (.cmc p h) 3 ∧ issues (.cgat p h) 4 ∧
    (∃ v : W64, exec (.cstat p fl kb) s = .next (s.scheduled .e0 2 (.k kb) (v.zeroExtend 2048)) ∧
      (old.filter (fun m => m.hdr.fl == fl) = [] → v = Sparse.get 0 s.me.mem.last fl.toNat) ∧
      ∀ m, (old.filter (fun m => m.hdr.fl == fl)).getLast? = some m → m.cause < 256 → m.off < 2 ^ 48 →
        (v.toNat % 2 = 1 ↔ m.stat ≠ .done ∧ m.cause = 0) ∧ (v.toNat / 2 % 2 = 1 ↔ m.stat = .done ∧ m.cause = 0) ∧
        (v.toNat / 4 % 2 = 1 ↔ m.cause ≠ 0) ∧ v.toNat / 2 ^ 8 % 2 ^ 8 = m.cause ∧ (m.cause ≠ 0 → v.toNat / 2 ^ 16 = m.off)) ∧
    ((old.map Cmd.id).Nodup → s.nextWith (.ccancel p fl) (fun t => t.mem = s.mem ∧ t.me.regs = { s.me.regs with f := t.me.regs.f } ∧
      (∀ x ∈ t.me.mem.cmds, ∃ m ∈ old, x.id = m.id ∧ (¬named m → x = m) ∧
        (named m → x.stat = .done ∧ x.cause = 6 ∧ x.off = m.off ∧ x.resv = false)) ∧
      (∀ m ∈ old, m.stat ≠ .done → ¬named m → m ∈ t.me.mem.cmds) ∧
      ((∀ k r, ((s.core k).ring r).conf = false) → ∀ m ∈ old, named m → t.me.flag m.hdr.fl = true)))

/-- XCVT, XTRN, XEXP and XPACK (R283, R284, R286): the operation joins the unit, its time origin t or the end of the last operation before it;
under a false predicate too, when it will do nothing; an XCVT takes one rsn value a destination line in mode RS (R287). A beat (R284) lets what is
due be written first, reads its source lines then, and sends the converted lines of an XCVT three cycles on (R287), the eight transposed ones of an
XTRN from the next cycle on (R288), the expanded line of an XEXP five cycles on, or its end at a decode error (R291, R292), the lines of an XPACK
after its last beat (R290), and the writes of the flag (R284). -/
def Obligations.TransformOperationsJoinTheUnit : Prop :=
  ∀ (s : State) (p : Pred) (x : Xf) (xr : BitVec 4),
    let lines (t u : Ty) : Nat := if t.elems ≤ u.elems then (x.n.toNat + 1) / (u.elems / t.elems) else t.elems / u.elems * (x.n.toNat + 1)
    let joins (i : Instr) (op : BitVec 4) (r : BitVec 4) : Prop := s.nextWith i (fun t => t.mem = s.mem ∧ t.me.planes = s.me.planes ∧
      t.me.sched.pend = s.me.sched.pend ∧ t.me.regs = { s.me.regs with rsn := t.me.regs.rsn } ∧
      (∀ u v, op = 1 → x.tf.ty? = some u → x.tt.ty? = some v → s.me.holds p = true → s.me.regs.fmt.toNat % 8 = 4 →
        t.me.regs.rsn = s.me.regs.rsn + BitVec.ofNat 64 (lines u v)) ∧
      ((op ≠ 1 ∨ s.me.holds p = false ∨ s.me.regs.fmt.toNat % 8 ≠ 4) → t.me.regs.rsn = s.me.regs.rsn) ∧ ∃ o,
      t.me.sched.xforms = s.me.sched.xforms ++ [o] ∧ o.op = op ∧ o.x = x ∧ o.xr = r ∧ o.live = s.me.holds p ∧ o.beat = 0 ∧
      o.fmt = s.me.regs.fmt ∧ o.rsn = s.me.regs.rsn ∧
      s.me.sched.time ≤ o.t0 ∧ (∀ q ∈ s.me.sched.xforms, q.idle ≤ o.t0) ∧ (s.me.sched.xforms = [] → o.t0 = s.me.sched.time))
    joins (.xcvt p x) 1 0 ∧ joins (.xtrn p x) 2 0 ∧ joins (.xexp p x xr) 3 xr ∧ joins (.xpack p x) 4 0 ∧
    (let n := s.evt.n
     let c := s.ctx n
     let now := c.sched.time
     let q := s.settleAll n now
     let w := q.ctx n
     ∀ o, c.sched.xforms = [o] → o.live = true → o.beat < o.beats → o.t0 + o.beat = now → o.fin = none →
       (∀ l ∈ c.sched.latches, now < l.due ∨ (l.stat = .arrived ∧ l.pad = 0)) → s.nextWith .transformBeat (fun t =>
         let b := o.beat
         let r := o.dst.elems / o.src.elems
         let sends (due : Nat) (d : Dest) (P : Line → Prop) : Prop := ∃ q ∈ (t.ctx n).sched.pend, q.due = due ∧ q.dest = d ∧ P q.val
         t.mem = q.mem ∧ (t.ctx n).regs = w.regs ∧ (t.ctx n).planes = w.planes ∧ ∃ y : Xform, (t.ctx n).sched.xforms = [y] ∧
         y.beat = b + 1 ∧ y.x = o.x ∧ y.t0 = o.t0 ∧ (∀ j ∈ o.reads b, y.line j = w.regs.line (o.x.a.plus j)) ∧
         (∀ j, j ∉ o.reads b → y.line j = o.line j) ∧
         (o.op = 1 → r ≤ 1 → sends (now + 3) (.line (o.x.d.plus b)) (fun v => ∀ e, e < o.dst.elems → lineElem o.dst.bits v e =
           (let k := o.src.elems / o.dst.elems
            (o.rnd w b).convElem o.src o.dst e (lineElem o.src.bits (y.line (b / k)) (b % k * o.dst.elems + e))))) ∧
         (o.op = 1 → 1 < r → b % r + 1 = r → sends (now + 3) (.line (o.x.d.plus (b / r))) (fun v => ∀ e, e < o.dst.elems →
           lineElem o.dst.bits v e = (o.rnd w (b / r)).convElem o.src o.dst e
             (lineElem o.src.bits (y.line (r * (b / r) + e / o.src.elems)) (e % o.src.elems)))) ∧
         (o.op = 2 → b % 8 = 7 → ∀ j, j < 8 → sends (now + 1 + j) (.line (o.x.d.plus (b - 7 + j))) (fun v => ∀ e, e < o.src.elems →
           lineElem o.src.bits v e = lineElem o.src.bits (y.line (8 * (b / 8) + e % 8)) (8 * (e / 8) + j))) ∧
         (o.op = 3 → o.err = false → (∀ v, y.expLine b = some v → y.err = false ∧ sends (now + 5) (.line (o.x.d.plus b)) (fun u => u = v)) ∧
           (y.expLine b = none → y.err = true) ∧
           (o.x.fl ≠ 0 → (y.expLine b = none ∨ b + 1 = o.count) → sends (now + 5) (.f o.x.fl) (fun v => v = 1))) ∧
         (o.op = 4 → b + 1 = o.count → ∀ i, i < o.packLines → sends (now + 5 + i) (.line (o.x.d.plus i)) (fun v =>
           v = lineOfBytes ((y.stream.drop (256 * i)).take 256))) ∧
         (o.x.fl ≠ 0 → b = 0 → sends (now + 1) (.f o.x.fl) (fun v => v = 0) ∧
           (o.op ≠ 3 → sends o.last (.f o.x.fl) (fun v => v = 1)))))

/-- APXB (R302 to R304, R306): an invocation opens with the input vector; the state and the sampling test say whether it records and whether
Sorrel runs beside; in SERVE and not sampled, Sorrel's outputs come 48 cycles later behind 47 empty bundles. APXE closes it, keeps the sample in
the buffer and makes the comparison ready where the invocation asks for them (R305, R307), once the engine has finished. FTCFG and FTCFG.new bind
a region to a loaded weight version that they may use, the latter with the version it makes (R303, R310, R313); FTINV releases it, FTST tests the
view's state (R314), FTSTEP and FTSAMP begin background work on what R310 allows (R315). -/
def Obligations.RegionAndFittingOperations : Prop :=
  ∀ (s : State) (p : Pred) (rg f fl : BitVec 4) (len : BitVec 12) (zb : BitVec 3) (mask : BitVec 5), s.me.holds p = true →
    let r := rg.toNat
    let n := s.cur
    let v := s.me.fit.view r
    let now := s.me.sched.time
    let w := s.me.z zb
    let w2 := s.me.z (zb + 1)
    let off := w2.toNat % 2 ^ 17
    let cap := w2.toNat / 2 ^ 32 % 2 ^ 7
    let base := plainBase n
    let ins : List W64 := match s.me.task with | some k => k.desc.ins | none => []
    let outs : List W64 := match s.me.task with | some k => k.desc.outs | none => []
    let binds (i : Instr) (st : Nat) (Q : State → Prop) : Prop :=
      (s.me.fit.views.filter (fun q => q.1 != r && q.2.wref != 0)).length < 4 → bufBad w2 = false → n < 4096 →
      s.nextWith i (fun t => t.me.regs = s.me.regs ∧ t.me.sched = s.me.sched ∧ t.me.planes = s.me.planes ∧
        (t.me.fit.view r).wref = w ∧ (t.me.fit.view r).loaded = true ∧ (t.me.fit.view r).state = st ∧ (t.me.fit.view r).nsamp = 0 ∧
        (t.me.fit.view r).npass = 0 ∧ (t.me.fit.view r).nfail = 0 ∧ (t.me.fit.view r).inv = v.inv ∧ (t.me.fit.view r).bufOff = off ∧
        (t.me.fit.view r).cap = cap ∧ (∀ c ∈ t.me.fit.cmps, c.rg ≠ r) ∧ (∀ k, k < 512 * cap → t.readByte (base + off + k) = 0) ∧ Q t)
    (∀ x, s.item? n r = some x → (v.wref = 0 ∨ v.loaded = true) →
      let sampled := apxSampled r x.k ins v.inv
      let both : Prop := v.state = 2 ∨ (v.state = 3 ∧ sampled = true)
      let serve : Prop := v.state = 3 ∧ sampled = false
      let input := asF32 x.ti (s.me.vec x.ti x.inl x.nin)
      let ys (q : RegEntry) := Words.sorrel q.words x.dst input
      s.nextWith (.apxb p rg len) (fun t => t.mem = s.mem ∧ t.me.regs = s.me.regs ∧ (t.me.fit.view r).inv = v.inv + 1 ∧
        (∃ i, t.me.fit.invoc = some i ∧ i.rg = r ∧ i.t = now ∧ i.last = s.me.sched.pc + len.toNat ∧ i.input = input ∧
          (i.both = true ↔ both) ∧ (i.serve = true ↔ serve) ∧ (i.record = true ↔ v.state = 2 ∨ (v.state ≠ 0 ∧ sampled = true)) ∧
          (both ∨ serve → ∀ q, s.regEntry? n v.wref = some q → i.ys = ys q)) ∧
        (¬serve → t.me.sched = s.me.sched ∧ (t.me.fit.view r).served = v.served) ∧
        (serve → t.me.sched.empty = 47 ∧ (t.me.fit.view r).served = true ∧ ∀ q, s.regEntry? n v.wref = some q → ∀ j, j < x.nlo →
          ∃ l, s.gains t 48 (.line (x.outl j)) l ∧ ∀ e, e < x.dst.elems →
            lineElem x.dst.bits l e = (ys q).getD (j * x.dst.elems + e) 0 % 2 ^ x.dst.bits))) ∧
    (∀ x i, s.item? n r = some x → s.me.fit.invoc = some i → i.rg = r →
      let out := s.me.vec x.dst x.outl x.nout
      let keeps : Prop := i.record = true ∧ v.nsamp < v.cap
      let place := base + v.bufOff + 512 * v.nsamp
      (i.late = true → s.me.sched.granted = false → exec (.apxe p rg) s = .next (s.freeze .late)) ∧
      (i.late = false → n < 4096 → v.bufOff + 512 * v.cap ≤ 0x20000 → s.nextWith (.apxe p rg) (fun t =>
        t.me.fit.invoc = none ∧ t.me.regs = s.me.regs ∧ t.me.sched = s.me.sched ∧
        (keeps → (t.me.fit.view r).nsamp = v.nsamp + 1 ∧ s.sameBytesOutside t place 512 ∧
          t.readMem place 512 = wordBytes (padWords i.input) ++ wordBytes (padWords (asF32 x.dst out))) ∧
        (¬keeps → (t.me.fit.view r).nsamp = v.nsamp ∧ t.mem = s.mem) ∧ (i.both = false → t.me.fit.cmps = s.me.fit.cmps) ∧
        (i.both = true → t.me.fit.cmps = s.me.fit.cmps ++ [Cmp.mk r (max now (i.t + 48)) true (passes x.dst x.eabs x.erel i.ys out)])))) ∧
    ((∀ i, s.me.fit.invoc = some i → i.rg ≠ r) → exec (.apxe p rg) s = .next s) ∧
    (∀ x y q, s.item? n r = some x → s.fitTile n w = some (some y) → y.isF32 64 (netOf x.shape x.par).rows = true → s.regEntry? n w = some q →
      ((s.me.level = 0 ∨ w ∈ ins) → y.state = 3 →
        let hd := q.words
        binds (.ftcfg p rg zb) (if Words.img hd = s.me.imageHandle ∧ Words.rg hd = r ∧ Words.shape hd = x.shape ∧ 1 ≤ Words.state hd ∧ Words.state hd ≤ 3 then Words.state hd else 0)
          (fun t => s.sameBytesOutside t (base + off) (512 * cap))) ∧
      (s.writable n w = true → (netOf x.shape x.par).lines ≤ q.nlines →
        (s.isRemote w = false → y.loc % 2 ^ 44 + 256 * y.rows ≤ 0x3000000000 ∧ y.loc < 2 ^ 46) → binds (.ftcfgNew p rg zb) 1 (fun t =>
          let made := newWords w s.me.imageHandle x y.rows
          (s.isRemote w = false → y.discards w s.me.task = false → t.readMem y.loc (256 * y.rows) = wordBytes made ∧
            (y.state = 1 → ∃ z, t.tile? w = some z ∧ z.state = 2)) ∧
          (s.isRemote w = true → ∀ i, i < y.rows → ∃ m ∈ t.me.mem.reqs, m.base = w.zeroExtend 80 ∧ ∃ b : Line,
            m.op = .tlwr b (BitVec.ofNat 14 i) true .f32 s.me.regs.fmt ∧ lineBytes b = wordBytes ((made.drop (64 * i)).take 64))))) ∧
    s.nextWith (.ftinv p rg) (fun t => (t.me.fit.view r).state = 0 ∧ (t.me.fit.view r).wref = 0 ∧ (∀ c ∈ t.me.fit.cmps, c.rg ≠ r) ∧
      t.me.regs = s.me.regs ∧ t.me.sched = s.me.sched ∧ t.mem = s.mem) ∧
    ((v.wref = 0 ∨ v.loaded = true) → exec (.ftst p rg mask f) s =
      .next (s.scheduled .e1 1 (.f f) (if mask.toNat.testBit v.state then 1 else 0))) ∧
    ((s.me.level = 0 ∨ (w ∈ ins ∧ w2 ∈ outs)) → s.nextWith (.ftstep p rg zb fl) (fun t => t.mem = s.mem ∧ t.me.regs = s.me.regs ∧
      (fl ≠ 0 → s.gains t 1 (.f fl) 0) ∧
      ∃ o, t.me.fit.ops = s.me.fit.ops ++ [o] ∧ o.step = true ∧ o.rg = r ∧ o.w = w ∧ o.w2 = w2 ∧ o.fl = fl ∧ o.err = none)) ∧
    ((s.me.level = 0 ∨ w ∈ outs) → s.nextWith (.ftsamp p rg zb fl) (fun t => t.mem = s.mem ∧ t.me.regs = s.me.regs ∧
      (fl ≠ 0 → s.gains t 1 (.f fl) 0) ∧
      (v.state ≠ 0 → (t.me.fit.view r).nsamp = 0 ∧ (t.me.fit.view r).npass = 0 ∧ (t.me.fit.view r).nfail = 0) ∧
      (v.state = 0 → t.me.fit.view r = v) ∧
      ∃ o, t.me.fit.ops = s.me.fit.ops ++ [o] ∧ o.step = false ∧ o.rg = r ∧ o.w = w ∧ o.fl = fl ∧ o.nsamp = v.nsamp ∧ o.npass = v.npass ∧
        o.nfail = v.nfail ∧ o.inv = v.inv ∧ o.recs = s.readMem (base + v.bufOff) (512 * v.nsamp) ∧ o.err = none))

/-- The team operations and RECONF (R429 to R443, R474, R480), each a yield point whose status is a landing of distance 1: FRZ asks the next
running member to freeze and ends FROZEN when every one is frozen, FRZ.thaw lets them go on, DRAIN sends its markers, DSCAN lists granules into
the issuer's plain working area and clears them, IMGW without inc or bud puts the image of a drained team whose open outputs are all homed here
into an area of this package, IMGR goes on to read one, RECONF with its descriptor, tables and members in the plain working area begins the
drain of the package. RTVER and LKEV write the fabric word and a link's status (R478, R479). -/
def Obligations.TeamOperationsAndFabricReads : Prop :=
  ∀ (s : State) (p : Pred) (d a b : BitVec 6) (x y : BitVec 5), s.me.holds p = true → s.me.sched.latches.length < 64 →
    (∀ q ∈ s.me.mem.reqs, q.id ≠ s.me.mem.nextId) →
    let n := s.cur
    let base := plainBase n
    let lands (i : Instr) (P : State → Req → Prop) : Prop := s.nextWith i (fun t => s.takesLatch t .s 1 (.g d) ∧
      t.me.sync.yielded = true ∧ ∃ r, t.me.mem.reqs = s.me.mem.reqs ++ [r] ∧ P t r)
    let status (r : Req) (v : Nat) : Prop := r.performed = true ∧ r.data = toBytes 8 v
    let e := s.me.a x
    let len := s.me.g b
    let start := len.toNat % 2 ^ 32
    let set := ((s.die (n / 1024)).dirty.filter (fun q => q.2 && decide (start ≤ q.1))).map Prod.fst
    let got := set.take (len.toNat / 2 ^ 32 % 2 ^ 16 + 1)
    (∀ tm, s.team? (s.me.g a).toNat = some tm → tm.key ≠ 0 → tm.key < 2 ^ 32 → tm.job = s.me.jobTeam.1 → tm.key ≠ s.me.jobTeam.2 →
      n ∉ s.memberCtxs tm →
      (tm.state = 0 → s.anyStopped tm = false → (∀ m ∈ s.memberCtxs tm, (s.ctx m).mode = .frozen) → lands (.frz p d a) (fun t r =>
        status r 0 ∧ ∃ u ∈ t.teams, u.key = tm.key ∧ u.state = 1)) ∧
      (tm.state = 0 → s.anyStopped tm = false → (∀ m ∈ s.memberCtxs tm, (s.ctx m).sync.freezing = false) →
        ∀ m, (s.memberCtxs tm).find? (fun k => decide ((s.ctx k).mode ≠ .frozen)) = some m → lands (.frz p d a) (fun t r =>
          r.performed = false ∧ (t.ctx m).sync.freezing = true ∧ t.teams = s.teams)) ∧
      (tm.state ≠ 0 → lands (.frzThaw p d a) (fun t r => status r 0 ∧ (∃ u ∈ t.teams, u.key = tm.key ∧ u.state = 0) ∧
        ∀ m ∈ s.memberCtxs tm, (t.ctx m).mode ≠ .frozen)) ∧
      (tm.state ≠ 0 → lands (.drain p d a) (fun t r => r.performed = false ∧ t.teams = s.teams ∧
        ∀ die, s.memberDies tm = [die] → ∀ k ∈ (s.die die).e2e.targets, k ∈ (t.die die).e2e.drains)) ∧
      (let q := s.yieldOp (.team 0x78 0 ((s.me.g a).zeroExtend 80) (imageOperand (s.me.a y))) d
       let ea := s.me.a y
       ∀ outs, q.writingAll ((q.ranked tm).map QEntry.task) [] = some outs →
       let img := q.teamImage tm (((q.ranked tm).zip outs).map (fun m => q.memberImage tm false m.1 m.2)) (q.bindings tm) false 0
       tm.state = 2 → badFormat ea = false → offOf ea % 65536 = 0 → ¬(addrHome ea ≠ selfHome ∧ addrHome ea < 24576 ∧ addrHome ea / 4 ≠ s.pkg) →
       (q.areaPages n (addrHome ea) (offOf ea) img.2.1 false true).1.isSome = true → lands (.imgw p d a y false false) (fun t r =>
         status r (img.2.1 * 2 ^ 8 % 2 ^ 64) ∧ ∃ u ∈ t.teams, u.key = tm.key ∧ u.image = addrCompact ea))) ∧
    (n < 4096 → isSelf e → offOf e % 4 = 0 → offOf e + 4 * got.length ≤ 0x20000 → start < 3153920 → (∀ g ∈ got, g < 2 ^ 32) →
      lands (.dscan p d x b) (fun t r => (∃ v, status r v ∧ v / 2 ^ 8 % 2 ^ 32 = got.length) ∧
        (∀ i, i < got.length → t.readNat (base + offOf e + 4 * i) 4 = got.getD i 0) ∧
        (∀ g ∈ got, g ≠ dirtyNo n 0 → g ≠ dirtyNo n 1 → Sparse.get false (t.die (n / 1024)).dirty g = false))) ∧
    lands (.imgr p d x b) (fun t r => r.op = .team 0x79 0 e len ∧ r.performed = false ∧ t.mem = s.mem) ∧
    (s.reconfReady n e → lands (.reconf p d x) (fun t r => r.performed = false ∧ ∃ c, t.fab.rcf = some c ∧ c.step = 1 ∧
      c.desc.toNat = s.readNat (base + offOf e) 128 ∧ c.ctx = some (n, r.id) ∧ t.fab.active = s.fab.active)) ∧
    s.schedulesG (.rtver p d) 1 d (fun v => s.fab.gid < 2 ^ 13 → 1 ≤ s.fab.size → s.fab.size ≤ 2 ^ 13 →
      v.toNat % 2 ^ 8 = s.fab.active.ver.toNat ∧ v.toNat / 2 ^ 8 % 2 ^ 13 = s.fab.gid ∧ v.toNat / 2 ^ 21 % 2 ^ 13 = s.fab.size - 1 ∧
      (v.toNat / 2 ^ 34 % 2 = 1 ↔ s.fab.advancing = true) ∧ (v.toNat / 2 ^ 35 % 2 = 1 ↔ s.fab.rcf.isSome = true) ∧
      v.toNat / 2 ^ 36 = s.fab.nadv % 2 ^ 28) ∧
    s.schedulesG (.lkev p d a) 4 d (fun v =>
      let l := s.link ((s.me.g a).toNat % 512) ((s.me.g a).toNat.testBit 9)
      (1024 ≤ (s.me.g a).toNat → v.toNat = 0x8000000000000000) ∧
      ((s.me.g a).toNat < 1024 → l.st < 8 → l.rst < 16 → l.nrs < 2 ^ 16 → l.nrp < 2 ^ 24 → v.toNat % 8 = l.st ∧
        v.toNat / 2 ^ 4 % 2 ^ 16 = l.mask.toNat ∧ v.toNat / 2 ^ 20 % 2 ^ 4 = l.rst ∧ v.toNat / 2 ^ 24 % 2 ^ 16 = l.nrs ∧
        v.toNat / 2 ^ 40 = l.nrp))

/-- What carries a context and its core on: due results are written (R197, R200); arrived data lands, or the core freezes for it (R205); an armed
timer falls due (R402); the bundle cache is filled (R202); a free width goes to a ready context (R214); a wait gives up after 2^26 cycles
(R371); the window sum falls until the bundle may issue (R220); landing padding runs out (R209); leases are granted, end and are asked for
ahead (R222). -/
def Obligations.ContextAndCoreSteps : Prop :=
  ∀ (s : State), let k := s.evt.n
    let c := s.ctx k
    let core := s.core k
    let n := core.running
    let r := s.ctx n
    let q : State := { s with cur := n }
    let runs : Prop := core.idle = false ∧ core.switch = 0 ∧ r.active = true
    let cost (a b : Nat) : Nat := if (s.core a).hasLease b then 0 else if b = 1 then 44 else if b = 2 then 30 else 120
    ((∃ p ∈ c.sched.pend, p.due ≤ c.sched.time) → s.nextWith .exposedResultWrite (fun t => t.mem = s.mem ∧ (t.ctx k).planes = c.planes ∧
      (∀ p ∈ (t.ctx k).sched.pend, c.sched.time < p.due) ∧ ∀ p, c.sched.pend = [p] → (t.ctx k).regs = c.regs.write p.dest p.val)) ∧
    (runs → ∀ l, r.sched.latches = [l] → l.due ≤ r.sched.time → l.flag = none → r.sched.pend = [] → r.sched.stores = [] →
      (l.stat = .arrived → l.pad = 0 → l.ready ≤ core.cycle → s.nextWith .loadLanding (fun t => t.mem = s.mem ∧
        (t.ctx n).regs = r.regs.write l.dest l.data ∧ (t.ctx n).sched.latches = [] ∧ (t.ctx n).sched.time = r.sched.time)) ∧
      (l.stat = .pending → l.overdue core.cycle = false → s.windowsQuiet k → s.nextWith .loadLanding (fun t => t.mem = s.mem ∧ (t.ctx n).regs = r.regs ∧ (t.ctx n).sched.time = r.sched.time ∧
        (t.ctx n).cnt = { r.cnt with late := r.cnt.late + 1 } ∧ (t.core k).cycle = core.cycle + 1))) ∧
    (2 ^ 63 ≤ c.sys.timer.toNat → c.sys.timer.toNat - 2 ^ 63 ≤ (s.core (k / 4)).cycle → s.nextWith .timerExpiry (fun t =>
      (t.ctx k).regs = c.regs ∧ (t.ctx k).sys = { c.sys with
        timer := BitVec.ofNat 64 (c.sys.timer.toNat % 2 ^ 63), timerDue := true, timerAt := BitVec.ofNat 64 (s.core (k / 4)).cycle })) ∧
    (n / 4 = k → core.idle = false → r.active = true → (∃ i, q.myImage? = some i ∧ r.sched.pc < i.bundles.length) → q.inCache = false →
      s.nextWith .bundleCacheFill (fun t => ({ t with cur := n } : State).inCache = true ∧ t.ctx n = r ∧ t.mem = s.mem)) ∧
    (core.offline = false → core.idle = true → (∃ m, m / 4 = k ∧ s.readyCtx m = true) → s.nextWith .contextSwitch (fun t =>
      (t.core k).idle = false ∧ (t.core k).switch = 1 ∧ (t.core k).running / 4 = k ∧ s.readyCtx (t.core k).running = true)) ∧
    (∀ ops a, s.presented k = some ops → q.judge ops = .timeout a → s.nextWith .waitTimeout (fun t => t.cur = s.cur ∧
      Out.control (n / 1024) (BitVec.ofNat 256 (n / 4 + n % 4 * 2 ^ 10 + 2 ^ 12)) ∈ t.out)) ∧
    (∀ ops, s.presented k = some ops → q.judge ops = .issue → core.windowOk core.cycle (bundleWeight ops) = false →
      r.sched.late core.cycle = [] → r.sys.timer.toNat < 2 ^ 63 → s.windowsQuiet k → s.nextWith .windowSumFreezeEnd (fun t => ∃ w, 0 < w ∧
        (t.core k).cycle = core.cycle + w ∧ (t.ctx n).cnt = { r.cnt with pwr := r.cnt.pwr + w } ∧ (t.ctx n).regs = r.regs ∧
        (∀ j, j < w → core.windowOk (core.cycle + j) (bundleWeight ops) = false) ∧
        (w < 4096 → (t.core k).windowOk (t.core k).cycle (bundleWeight ops) = true))) ∧
    (runs → r.sys.timer.toNat < 2 ^ 63 → s.windowsQuiet k → (∃ l ∈ r.sched.latches, l.due ≤ r.sched.time ∧ 0 < l.pad) → s.nextWith .paddedFreezeEnd (fun t =>
      (t.ctx n).regs = r.regs ∧ (∀ l ∈ (t.ctx n).sched.latches, l.due ≤ r.sched.time → l.pad = 0) ∧ ∃ m, (t.core k).cycle = core.cycle + m ∧
        (t.ctx n).cnt = { r.cnt with late := r.cnt.late + m } ∧ (∃ l ∈ r.sched.latches, l.due ≤ r.sched.time ∧ l.pad = m) ∧
        ∀ l ∈ r.sched.latches, l.due ≤ r.sched.time → l.pad ≤ m)) ∧
    (∀ a b rest, s.sage.queue = (a, b) :: rest → s.leaveCosts + cost a b ≤ s.sage.budget → s.nextWith .sageLeaseGrant (fun t =>
      t.sage = { s.sage with queue := rest } ∧ Sparse.get 0 (t.core a).leases b =
        (if (s.core a).hasLease b then Sparse.get 0 (s.core a).leases b else (s.core a).cycle) + 2 ^ 18)) ∧
    (∀ e, Sparse.find? core.leases s.evt.m = some e → e ≤ core.cycle → s.nextWith .leaseExpiry (fun t =>
      (t.core k).hasLease s.evt.m = false ∧ t.sage = s.sage)) ∧
    (∀ e u, Sparse.find? core.leases s.evt.m = some e → core.cycle < e → e < core.cycle + 2 ^ 14 →
      Sparse.find? core.lastUse s.evt.m = some u → core.cycle < u + 2 ^ 16 → (k, s.evt.m) ∉ s.sage.queue → s.nextWith .leaseRenewal (fun t =>
        t.sage.queue = s.sage.queue ++ [(k, s.evt.m)] ∧ t.core k = core))

/-- Comparisons of regions take effect (R303, R305); surrogate lines are written, or an engine still at work finishes (R304); a background fitting
operation whose flag its issue has cleared ends: on versions of this package with the version written and its flag set, or with the error it
found kept (R307, R308, R315), and once what it wrote on another package is acknowledged; the weights of a VALID version of this package reach
an empty working memory of the quad, and another package's entry its FTCFG (R298, R313; what that package answers is the step's, log entry
101). -/
def Obligations.RegionAndFittingSteps : Prop :=
  ∀ (s : State), let k := s.evt.n
    let c := s.ctx k
    (∀ m, c.fit.cmps = [m] → m.c < c.sched.time → s.nextWith .apxComparison (fun t =>
      let v := c.fit.view m.rg
      let w := (t.ctx k).fit.view m.rg
      (t.ctx k).fit.cmps = [] ∧ (t.ctx k).regs = c.regs ∧ t.mem = s.mem ∧
      (v.state = 0 → w = v) ∧ (v.state ≠ 0 → m.pass = true → w = { v with npass := min 255 (v.npass + 1) }) ∧
      (v.state ≠ 0 → m.pass = false → w.nfail = min 255 (v.nfail + 1) ∧ w.npass = v.npass ∧ (v.state = 2 → w.state = 1) ∧
        (v.state = 3 → w.state = 4) ∧ (v.state = 1 ∨ v.state = 4 → w.state = v.state)))) ∧
    (∀ p x, c.sched.pend = [p] → p.due ≤ c.sched.time → p.slot = .e1 → p.dest = .line x → p.ord % 16 = 8 → c.fit.invoc.isSome = true →
      s.nextWith .surrogateResult (fun t => (t.ctx k).regs = c.regs.setLine x p.val ∧ (t.ctx k).sched.pend = [] ∧ t.mem = s.mem)) ∧
    (∀ i, c.fit.invoc = some i → i.late = true → c.sched.pend = [] → s.nextWith .surrogateResult (fun t =>
      (t.ctx k).fit.invoc = some { i with late := false } ∧ (t.ctx k).regs = c.regs ∧ t.mem = s.mem)) ∧
    (∀ o, c.fit.ops = [o] → o.err = none → (o.fl ≠ 0 → ∀ p ∈ c.sched.pend, p.dest = .f o.fl → p.slot ≠ .e1) →
      let ends (t : State) : Prop := (t.ctx k).fit.ops = [] ∧ (o.fl ≠ 0 → (t.ctx k).flag o.fl = true)
      (o.sent = [] → (∀ r ∈ s.fitRefs k o, s.isRemote r = false ∧ s.spoilt r = false) → ∃ seen, s.lookAll (s.fitRefs k o) s.evt.data = some seen ∧
        (∀ r w z, s.fitRun k o seen = .ok (r, w) → s.tile? r = some z → z.discards r c.task = false → z.loc % 2 ^ 44 + 4 * w.length ≤ 0x3000000000 →
          z.loc < 2 ^ 46 → s.nextWith .fittingOpComplete (fun t => ends t ∧ t.readMem z.loc (4 * w.length) = wordBytes w ∧
            s.sameBytesOutside t z.loc (4 * w.length) ∧ (z.state = 1 → ∃ y, t.tile? r = some y ∧ y.state = 2))) ∧
        (∀ e, s.fitRun k o seen = .error e → s.nextWith .fittingOpComplete (fun t => t.mem = s.mem ∧ (t.ctx k).regs = c.regs ∧
          (t.ctx k).fit.ops = [{ o with err := some e }])) ∧
        (s.tile? o.w = none → ∃ e, s.fitRun k o seen = .error e ∧ e.cause = 0x20 ∧ e.taddr = o.w)) ∧
      (o.sent ≠ [] → (∀ r ∈ c.mem.reqs, r.id ∈ o.sent → r.acked = true) → s.nextWith .fittingOpComplete (fun t => ends t ∧ t.mem = s.mem))) ∧
    (∀ ref rg y, c.fit.want = some (ref, rg, false) → s.isRemote ref = false → s.tile? ref = some y → y.state = 3 → s.badAt y.loc y.region = false →
      s.quad (k / 16) = [] → (s.tileWords y y.rows 64).net.params ≤ 32768 → s.nextWith .weightsLoaded (fun t => (t.ctx k).fit.want = none ∧
        t.mem = s.mem ∧ ∃ e, t.regEntry? k ref = some e ∧ e.words = s.tileWords y y.rows 64)) ∧
    (∀ ref rg new, c.fit.want = some (ref, rg, new) → s.isRemote ref = true → c.fit.answer = none → s.fitReach ref = true →
      farEntry ≤ s.evt.data.length → (tileOfBody (s.evt.data.take farEntry)).state ≠ 0 → s.nextWith .weightsLoaded (fun t =>
        (t.ctx k).fit.want = none ∧ t.mem = s.mem ∧ t.fitTile k ref = some (some (tileOfBody (s.evt.data.take farEntry)))))

/-- Accesses at their homes. A piece of a store writes its bytes and no other byte, a piece of a load reads its bytes (R351 to R353), in the
windows too; an access to a busy plane is held there (R181, R272). A control core's write changes the bytes it names (R367). An atomic reads
the old value and writes the new one in one step (R347), in the order in which arrivals of one cycle come to the port (R348). A performed write is acknowledged, a fault kept for the next report point (R351,
R368); data or a fault reaches its latch (R206), of an operation on a version once the mirror holds its changes (R510); a walk loads its translation (R191, R192). -/
def Obligations.AccessesArePerformedAtTheirHomes : Prop :=
  ∀ (s : State), let n := s.evt.n
    let id := s.evt.m
    let data (i : Instr) (r : Req) (p : Piece) (a : Nat) : Prop :=
      (r.op = .store → p.pos + p.len ≤ r.data.length → s.nextWith i (fun t => s.sameBytesOutside t a p.len ∧
        ∀ j, j < p.len → t.readByte (a + j) = r.data.getD (p.pos + j) 0)) ∧
      (∀ x, r.op = .load x → s.badAt a p.len = false → s.nextWith i (fun t => t.mem = s.mem ∧ ∃ q, t.req? n id = some q ∧
        q.data = r.data.take p.pos ++ s.readMem a p.len ++ r.data.drop (p.pos + p.len)))
    (∀ r p a, s.req? n id = some r → s.readyPiece n r s.evt.k = some (p, a) → a % 4 + p.len ≤ 4 → a < 2 ^ 46 →
      (r.op = .store → s.mayWrite n r a = true) →
      (s.evt.flag = false → ((∃ d, placeOf a = .hbm d) ∨ (∃ x o, placeOf a = .tile x o) ∨ ∃ x o, placeOf a = .plain x o) →
        data .memoryAccessPerform r p a) ∧
      (((∃ x o, placeOf a = .grid x o) ∨ ∃ x k o, placeOf a = .acc x k o) → (∀ j, j < p.len → s.shielded (a + j) = false) →
        (p.held = false → s.windowOpen a = true → data .windowAccess r p a) ∧
        (p.held = true → s.windowOpen a = true → data .heldWindowAccess r p a) ∧
        (p.held = false → s.windowOpen a = false → r.op = .store ∨ (∃ x, r.op = .load x) → s.nextWith .windowAccess (fun t => t.mem = s.mem ∧ (t.ctx n).regs = (s.ctx n).regs ∧
          (t.ctx n).planes = (s.ctx n).planes ∧ ∃ q, t.req? n id = some q ∧ (q.pieces.getD s.evt.k p).held = true)))) ∧
    (let a := s.evt.w
     let home := a.toNat / 2 ^ 48
     ∀ e pa kd, s.evt.flag = true → s.evt.k = 1 → s.evt.data ≠ [] → a.toNat % 2 ^ 16 + s.evt.data.length ≤ 2 ^ 16 → home / 4 = s.pkg →
       s.online (home % 4) = true → s.walk home (a.toNat % 2 ^ 48) true = (.ok e, s) → e.use (a.toNat % 2 ^ 48) false true = .hit pa kd →
       pa % 2 ^ 44 + s.evt.data.length ≤ 0x3000000000 → pa < 2 ^ 46 → s.inStore pa = false → s.nextWith .memoryAccessPerform (fun t =>
         s.sameBytesOutside t pa s.evt.data.length ∧ ∀ j, j < s.evt.data.length → t.readByte (pa + j) = s.evt.data.getD j 0)) ∧
    (∀ r p a op wide u v cmp, s.req? n id = some r → r.op = .atomic op wide u v cmp → s.readyPiece n r 0 = some (p, a) →
      p.len = (if wide then 8 else 4) → a % p.len = 0 → a % 2 ^ 44 + p.len ≤ 0x3000000000 → a < 2 ^ 46 → s.badAt a p.len = false →
      s.mayCome (portOf a) (sourceRank s.pkg n) = true →
      let old := s.readNat a p.len
      let m := 2 ^ (8 * p.len)
      s.nextWith .atomicApply (fun t => s.sameBytesOutside t a p.len ∧ (∃ q, t.req? n id = some q ∧ q.data = toBytes p.len old) ∧
        (op = 0x20 → t.readNat a p.len = (old + v.toNat) % m) ∧ (op = 0x21 → u = true → t.readNat a p.len = max old (v.toNat % m)) ∧
        (op = 0x22 → u = true → t.readNat a p.len = min old (v.toNat % m)) ∧
        (op = 0x21 → u = false → t.readNat a p.len = if signed (8 * p.len) old < signed (8 * p.len) v.toNat then v.toNat % m else old) ∧
        (op = 0x22 → u = false → t.readNat a p.len = if signed (8 * p.len) v.toNat < signed (8 * p.len) old then v.toNat % m else old) ∧
        (op = 0x27 → t.readNat a p.len = Rnd.ne.float .f32 0 (sumNums false [f32 old, f32 (v.toNat % m)]) false % m) ∧ (op = 0x23 → t.readNat a p.len = old &&& (v.toNat % m)) ∧
        (op = 0x24 → t.readNat a p.len = old ||| (v.toNat % m)) ∧ (op = 0x25 → t.readNat a p.len = v.toNat % m) ∧
        (op = 0x26 → t.readNat a p.len = if old = cmp.toNat % m then v.toNat % m else old))) ∧
    (∀ r, s.req? n id = some r → r.op = .store → r.acked = false → r.performed = true ∨ r.fault.isSome = true →
      (∀ o ∈ (s.ctx n).fit.ops, id ∉ o.sent) → s.nextWith .writeAcknowledge (fun t => (∀ q ∈ (t.ctx n).mem.reqs, q.id = id → q.acked = true) ∧ t.mem = s.mem ∧
        (t.ctx n).regs = (s.ctx n).regs ∧ (t.ctx n).mem.due = (s.ctx n).mem.due ++ (match r.fault with
          | some f => [(r.ord, r.slot, f)]
          | none => []))) ∧
    (∀ r l, s.req? n id = some r → r.op.isLoad = true → r.acked = false → (s.ctx n).shadow = none → (s.ctx n).sync.yielded = false →
      (s.ctx n).sched.latches = [l] → l.req = id → l.flag = none → s.unmirrored r = false →
      (r.performed = true → r.fault = none → s.nextWith .latchDataArrival (fun t => t.mem = s.mem ∧ (t.ctx n).regs = (s.ctx n).regs ∧
        (t.ctx n).sched.latches = [{ l with stat := .arrived, data := lineOfBytes r.data }])) ∧
      (∀ f, r.fault = some f → s.nextWith .latchDataArrival (fun t => t.mem = s.mem ∧ (t.ctx n).regs = (s.ctx n).regs ∧
        (t.ctx n).sched.latches = [{ l with stat := .poisoned, cause := f.cause, taddr := f.taddr }]))) ∧
    (∀ w e, (s.die n).walking = [w] → (s.die n).walks = [] → id = 0 → w.pkg = s.pkg → w.write = false → s.walk w.home w.off false = (.ok e, s) →
      (∀ i, i < 4 → (s.ctx (4 * w.core + i)).mem.reqs = []) → s.nextWith .pageWalk (fun t => (t.die n).walking = [] ∧
        (t.core w.core).utlb.head? = some e ∧ t.mem = s.mem))

/-- Wakes and barriers between contexts: a delivered PUTH queues a wake at an armed destination, or tells its die's control core (R390); a
dormant context starts its handler on a queued wake (R391); an operation reaches its barrier entry, whose phase completes with the last
arrival (R377); a notification ends the arrival in the context's view (R378). -/
def Obligations.WakesAndBarrierSteps : Prop :=
  ∀ (s : State), let n := s.evt.n
    let c := s.ctx n
    (∀ r x, s.req? n s.evt.m = some r → r.op = .puth → r.performed = true → r.wakes = some x →
      (∀ o ∈ c.sched.stores, o.ord ≠ r.ord) →
      ((s.ctx x).sys.armed = true → s.nextWith .wakeDelivery (fun t => t.mem = s.mem ∧ (t.ctx x).regs = (s.ctx x).regs ∧
        (t.ctx x).sync.wakes = (s.ctx x).sync.wakes ++ [(addrCompact r.base, BitVec.ofNat 64 (n / 4 + n % 4 * 2 ^ 10 + s.pkg * 2 ^ 12))])) ∧
      ((s.ctx x).sys.armed = false → s.nextWith .wakeDelivery (fun t => t.mem = s.mem ∧ (t.ctx x).sync.wakes = (s.ctx x).sync.wakes ∧
        Out.control (x / 1024) (BitVec.ofNat 256 (x / 4 + x % 4 * 2 ^ 10 + 3 * 2 ^ 12)) ∈ t.out))) ∧
    (∀ va place rest, c.mode = .free → c.sys.armed = true → c.sync.wakes = (va, place) :: rest → s.nextWith .handlerStart (fun t =>
      (t.ctx n).mode = .wake ∧ (t.ctx n).task = none ∧ (t.ctx n).sched.pc = c.sys.hctl.toNat % 2 ^ 24 ∧ (t.ctx n).g 0 = va ∧
      (t.ctx n).g 1 = place ∧ (∀ i : BitVec 6, 2 ≤ i.toNat → (t.ctx n).g i = 0) ∧ (t.ctx n).sys.himg = c.sys.himg ∧ t.mem = s.mem)) ∧
    (∀ op name ord rest k i b, c.sync.out = (op, name, ord) :: rest → c.task = some k → let d := s.barDie k.key
      c.ownDone s.pkg (n / 4) ord = true → s.mayCome (s.barSpot k.key name) k.desc.rank = true →
      (s.die d).bar? k.key name = some (i, b) → s.nextWith .barrierEntryOperation (fun t => (t.ctx n).sync.out = rest ∧
        t.mem = s.mem ∧ ∃ y, Sparse.find? (t.die d).bars i = some y ∧ y.name = b.name ∧ y.team = b.team ∧
          (op = .join → (∀ m ∈ b.members, m.1 ≠ k.desc.rank) → b.a < b.e + 1 → y.e = b.e + 1 ∧ y.a = b.a ∧ y.phase = b.phase) ∧
          (op = .leave → b.members.find? (fun m => m.1 == k.desc.rank) = some (k.desc.rank, false, false) → b.a + 1 < b.e →
            y.e = b.e - 1 ∧ y.a = b.a ∧ y.phase = b.phase) ∧
          (op = .arrive → b.members.find? (fun m => m.1 == k.desc.rank) = some (k.desc.rank, false, false) →
            (b.a + 1 < b.e → y.a = b.a + 1 ∧ y.e = b.e ∧ y.phase = b.phase) ∧
            (b.a + 1 = b.e → y.a = 0 ∧ y.phase = b.phase + 1 ∧ k.desc.rank ∈ y.notify)))) ∧
    (∀ k i b, c.task = some k → let d := s.barDie k.key
      (s.die d).bar? k.key s.evt.m = some (i, b) → k.desc.rank ∈ b.notify → s.nextWith .barrierNotification (fun t =>
        ((t.ctx n).bar s.evt.m) = { c.bar s.evt.m with arrived := false } ∧ (t.ctx n).regs = c.regs ∧ t.mem = s.mem ∧
        Sparse.find? (t.die d).bars i = some { b with notify := b.notify.erase k.desc.rank }))

/-- The dispatchers and the cores' own scheduling: the first ready task that a die can place goes to the local queue of a core, one in a cycle,
when no team that fits comes before it (R151); a team that fits is placed at once, or reserves contexts as the next choice (R157), or migrates
after 2^20 cycles, a masked one when the cores of all its copies are offline (the model's choice, log entry 96); free slots are advertised; a core starts its first local entry in the launch state (R147, R152); a task long at
the head pre-empts (R153); an idle core steals (R158 to R160). -/
def Obligations.DispatchAndSchedulingSteps : Prop :=
  ∀ (s : State), let d := s.evt.n
    let x := s.die d
    let c := s.evt.n
    let core := s.core c
    let fits (e : QEntry) : Prop := e ∈ x.entries ∧ s.takeable d e = true ∧ (s.placeFor d e).isSome = true
    (d < 4 → s.online d = true → s.fresh (.take d) = true → (∃ e, fits e) →
      (∀ e, fits e → (∀ y, fits y → s.entryKey e ≤ s.entryKey y) → s.ahead d (s.entryKey e) = false) → s.nextWith .taskDispatch (fun t => ∃ e k, fits e ∧ s.placeFor d e = some k ∧
      (∀ y, fits y → s.entryKey e ≤ s.entryKey y) ∧ { e with stat := .loc k s.clock } ∈ (t.die d).entries ∧ t.mem = s.mem)) ∧
    (∀ tm, s.team? s.evt.m = some tm → tm.die = d → s.online d = true →
      (s.teamReady tm = true → let r := s.reserve tm
        (r.length = (s.members tm).length → s.fresh (.take d) = true → s.ahead d (s.teamKey tm) = false → s.nextWith .teamDispatch (fun t =>
          ∃ u ∈ t.teams, u.key = tm.key ∧ u.placed = true ∧ u.state = 0 ∧ u.reserved = [])) ∧
        (r.length ≠ (s.members tm).length → s.teamFirst tm = true → r ≠ tm.reserved → s.nextWith .teamDispatch (fun t => ∃ u ∈ t.teams, u.key = tm.key ∧
          u.placed = tm.placed ∧ u.reserved = r))) ∧
      (∀ since, tm.choice = some since → since + 2 ^ 20 ≤ s.clock → tm.placed = false →
        (tm.masked = true → ∀ e ∈ s.members tm, (s.core (e.task.pin.getD 0)).offline = true) → (∃ e, e < 4 ∧ e ≠ d ∧ s.online e = true ∧ tm.tsize - tm.ended.length ≤ (s.die e).slots) → s.nextWith .teamMigrate (fun t =>
          ∃ u ∈ t.teams, u.key = tm.key ∧ u.die < 4 ∧ u.die ≠ d ∧ s.online u.die = true ∧ u.reserved = [] ∧ u.choice = none ∧
            tm.tsize - tm.ended.length ≤ (s.die u.die).slots))) ∧
    (d < 4 → s.online d = true → x.advert = 0 ∨ x.advert + 2 ^ 16 ≤ s.clock → s.nextWith .freeTeamSlotsAdvertise (fun t =>
      (t.die d).slots = (s.freeOf d).length ∧ (t.die d).entries = x.entries ∧ t.mem = s.mem)) ∧
    (∀ e m rest, s.localFirst c = some e → s.freeCtxs c = m :: rest → e.image = none → s.nextWith .localTaskStart (fun t =>
      (t.ctx m).mode = .task ∧ (∃ k, (t.ctx m).task = some k ∧ k.tid = e.task.tid ∧ k.desc = e.task.desc) ∧
      (t.ctx m).sched.pc = e.task.desc.entry ∧ (t.ctx m).sched.time = 0 ∧ (t.ctx m).regs = { Regs.reset with g := number 0 e.task.desc.args } ∧
      (t.ctx m).planes = Planes.reset ∧ t.mem = s.mem)) ∧
    (∀ e m since, s.localFirst c = some e → core.head = some (e.task.tid, since) → since + 2 ^ 16 ≤ core.cycle →
      (s.die (c / 256)).frozen.length < 1024 → s.victimCtx c (s.prio e.task) = some m → (s.ctx m).sync.preempt = false →
      s.nextWith .corePreemption (fun t => (t.ctx m).sync.preempt = true ∧ (t.ctx m).regs = (s.ctx m).regs ∧ t.mem = s.mem)) ∧
    (core.offline = false → core.stealWait = 0 → s.localQueue c = [] → (s.freeCtxs c).length = 4 →
      s.fresh (.attempt c) = true →
      let v := 256 * (c / 256) + (c % 256 + 1 + core.rot % 255) % 256
      s.fresh (.victim v) = true →
      (∀ e, s.stealFrom v = some e → s.nextWith .autoSteal (fun t => t.mem = s.mem ∧ (t.core c).stealWait = 0 ∧ (t.core c).tried = 0 ∧
        ∃ y ∈ t.localQueue c, y.task.tid = e.task.tid)) ∧
      (s.stealFrom v = none → s.nextWith .autoSteal (fun t => t.mem = s.mem ∧ (t.core c).rot = (core.rot + 1) % 255 ∧
        (core.tried ≠ 254 → (t.core c).tried = core.tried + 1 ∧ (t.core c).stealWait = 0) ∧
        (core.tried = 254 → (t.core c).tried = 0 ∧ (t.core c).stealWait = 256))))

/-- The copy engine: the only command of a context, without a wait for banks or an acquire, starts when its checks pass and its destination is
no tile, or stops with the fault that a check met (R337, R344); a burst of one FP32 element within the context's own working area moves its
bytes and no other (R333, R336); a command whose writes are acknowledged and whose release is done completes with its flag (R339, R343). What
other packages hold of a command comes with the step (log entry 100). -/
def Obligations.CopyEngineSteps : Prop :=
  ∀ (s : State), let n := s.evt.n
    let c := s.ctx n
    (∀ m, c.mem.cmds = [m] → m.stat = .queued → c.mode ≠ .frozen → c.leaving = false → s.banksTaken n m = false → m.acq = false →
      (m.argsOk && s.windowWaits n m) = false → s.startNeeds n m ≤ s.evt.data.length →
      (∀ l q, s.startChecks n m = (.ok l, q) → m.dt = false → s.nextWith .copyCommandStart (fun t => t.mem = q.mem ∧
        (t.ctx n).regs = (q.ctx n).regs ∧ ∀ x ∈ (t.ctx n).mem.cmds, x.id = m.id → x.stat = .running ∧ x.table = l ∧ x.cause = 0)) ∧
      (∀ f q, s.startChecks n m = (.error f, q) → s.nextWith .copyCommandStart (fun t => t.mem = q.mem ∧
        ∀ x ∈ (t.ctx n).mem.cmds, x.id = m.id → x.stat = .stopped ∧ x.cause = copyCause f.cause ∧ x.trap = f.cause ∧ x.off = m.off))) ∧
    (∀ k m o p, s.nextCopy n = some (k, m) → k < 4096 → m.op = 1 → m.sTy = .f32 → m.dTy = .f32 → m.total = m.off + 1 →
      m.srcs m.off = [.va selfHome o none] → m.dest m.off = .va selfHome p none → o % 4 = 0 → p % 4 = 0 → o + 4 ≤ 0x20000 →
      p + 4 ≤ 0x20000 → s.badAt (plainBase k + o) 4 = false → s.inStore (plainBase k + p) = false → s.fresh (.burst n) = true → s.nextWith .copyBurst (fun t =>
        t.readNat (plainBase k + p) 4 = s.readNat (plainBase k + o) 4 ∧ s.sameBytesOutside t (plainBase k + p) 4 ∧
        ∀ x ∈ (t.ctx k).mem.cmds, x.id = m.id → x.stat = .draining ∧ x.off = m.total)) ∧
    (∀ m, c.mem.cmds = [m] → m.stat = .draining → m.far = [] → s.copyReleased n m = true → c.mode ≠ .frozen →
      (∀ p ∈ c.sched.pend, p.dest = .f m.hdr.fl → p.slot ≠ .e0) → s.nextWith .copyCompletion (fun t => (t.ctx n).flag m.hdr.fl = true ∧
        (c.level ≠ 2 → (t.ctx n).mem.cmds = []) ∧ t.mem = s.mem ∧
        (m.cause = 0 → (t.ctx n).copyStatus m.hdr.fl = 2)))

/-- Versions at their home directory on this package, in the order that arrivals of one cycle take (R44): TLNEW of a new number creates a FUTURE
version in HBM (R36, R41, R327), TLRD reads a VALID one (R328), a raw TLWR of the producer makes a FUTURE one WRITING (R45, R329), TLQRY answers
the entry (R331), TLFIN makes it VALID (R45, R330); a host load is VALID and replicated, where the buddy home is on another package WRITING
until it has its copy, without a buddy home not replicated (R66; log entry 93); a release counts down the uses and frees with the last (R52,
R520); destroyed content makes a version LOST and asks for its recovery (R45, R512); a scrubbed error marks its line (R545); recovery from a
replica begins, at the greatest priority that asks for it (R517), and ends (R513); a replica on this package is complete (R332, R502). -/
def Obligations.DirectoryAndRecoverySteps : Prop :=
  ∀ (s : State), let n := s.evt.n
    let id := s.evt.m
    let w := s.evt.w
    let home := refHome w
    let d := home % 4
    let here (h : Nat) : Prop := s.answers h = h ∧ h / 4 = s.pkg ∧ h < 24576 ∧ s.online (h % 4) = true
    (∀ r, s.req? n id = some r → s.evt.flag = false → r.performed = false → r.fault = none → here r.home → (s.ctx n).tileFirst r = true →
      s.mayTouch r = true →
      let ref : W64 := r.base.truncate 64
      let task := (s.ctx n).task
      let does (P : State → Req → Prop) : Prop := s.nextWith .directoryOperation (fun t => (t.ctx n).regs = (s.ctx n).regs ∧
        ∃ q, t.req? n id = some q ∧ q.performed = true ∧ P t q)
      (r.op = .tlnew 0 → shapeOk ref = true → (s.hbmPlace (r.home % 4) (newTile ref.toNat 0).region).1.isSome = true → ref.toNat.testBit 35 = false →
        let num := (s.die (r.home % 4)).nextTile
        0 < num → num < 2 ^ 33 → Sparse.get 0 (s.die (r.home % 4)).versions num = 0 → does (fun t q => q.fault = none ∧
          q.data = toBytes 8 (mkRef r.home num 1).toNat ∧ ∃ y, t.tile? (mkRef r.home num 1) = some y ∧ y.state = 1 ∧ y.prod = none ∧
            y.rows8 = ref.toNat % 2 ^ 9 ∧ y.cols8 = ref.toNat / 2 ^ 9 % 2 ^ 9 ∧ y.efmt = ref.toNat / 2 ^ 18 % 2 ^ 5 ∧
            y.uses = ref.toNat / 2 ^ 23 % 2 ^ 12)) ∧
      (r.op = .tlnew 0 → shapeOk ref = false → does (fun t q => q.fault = some { cause := 0x21, taddr := mkRef r.home 0 0 } ∧ t.mem = s.mem)) ∧
      (∀ off y, r.op = .tlrd off → s.tile? ref = some y → y.state = 3 → let p := tilePos y r.base off.toInt 256
        inRegion y p 256 = true → s.badAt (y.loc + p.toNat) 256 = false → does (fun t q => q.fault = none ∧
          q.data = s.readMem (y.loc + p.toNat) 256 ∧ t.mem = s.mem)) ∧
      (∀ src off fmt y, r.op = .tlwr src off true .f32 fmt → s.tile? ref = some y → y.state = 1 → y.producer s.pkg ref task = true →
        y.discards ref task = false → let p := tilePos y r.base off.toInt 256
        inRegion y p 256 = true → y.loc % 2 ^ 44 + y.region ≤ 0x3000000000 → y.loc + y.region ≤ 2 ^ 46 → does (fun t q => q.fault = none ∧
          t.readMem (y.loc + p.toNat) 256 = lineBytes src ∧ s.sameBytesOutside t (y.loc + p.toNat) 256 ∧
          ∃ z, t.tile? ref = some z ∧ z.state = 2)) ∧
      (∀ y, r.op = .tlqry → s.tile? ref = some y → does (fun t q => q.data = s.entryBytes ref y ∧ t.mem = s.mem)) ∧
      (∀ y, r.op = .tlfin → s.tile? ref = some y → y.state = 2 → y.producer s.pkg ref task = true → y.discards ref task = false →
        (s.ctx n).finReady s.pkg (n / 4) r = true → s.nextWith .tlfinApply (fun t => ∃ z, t.tile? ref = some z ∧ z.state = 3 ∧ z.apx = s.apxOf n))) ∧
    (here home → s.tile? w = none → refNum w ≠ 0 → refVer w ≠ 0 → shapeOk s.evt.v = true →
      (s.hbmPlace d (newTile s.evt.v.toNat id).region).1.isSome = true → (∀ k, ∀ e ∈ (s.die k).entries, e.task.desc.exact = 0) →
      let loads (st : Nat) (repl : Bool) : Prop := s.nextWith .hostTileLoad (fun t => ∃ y, t.tile? w = some y ∧ y.state = st ∧ y.repl = repl ∧
        y.nolin = true ∧ y.job = id ∧ t.readMem y.loc (min s.evt.data.length y.region) = s.evt.data.take y.region ∧
        (st = 2 → w ∈ (t.die d).lin.copying))
      (∀ b, s.buddy d = some (s.pkg, b) → loads 3 true) ∧ (s.buddy d = none → loads 3 false) ∧
      (∀ p b, s.buddy d = some (p, b) → p ≠ s.pkg → loads 2 false)) ∧
    (∀ y, here home → s.tile? w = some y →
      ((w, n, id) ∈ (s.die d).lin.releases → y.marked = [] → y.usesinit ≠ 0 → y.state = 3 → s.mayCome (.directory w) 5 = true →
        (1 < y.uses → s.nextWith .useRelease (fun t => t.tile? w = some { y with uses := y.uses - 1 })) ∧
        (y.uses = 1 → s.nextWith .useRelease (fun t => t.tile? w = none ∨ ∃ z, t.tile? w = some z ∧ z.state = 6))) ∧
      (w ∈ (s.die d).lin.reports → y.state = 3 → y.recoverable = true → s.mayCome (.directory w) 3 = true → s.nextWith .contentDestroyed (fun t =>
        t.tile? w = some { y with state := 4 } ∧ (w, y.wprio) ∈ (t.die d).lin.requests ∧ t.mem = s.mem)) ∧
      (∀ p, (s.die d).lin.requests = [(w, p)] → y.state = 4 → y.repl = true → Sparse.find? (s.die d).lin.rebuilds w.toNat = none →
        s.mayCome (.directory w) 4 = true → s.nextWith .recoveryRequest (fun t => (∃ z, t.tile? w = some z ∧ z.state = 5) ∧ (t.die d).lin.requests = [] ∧
          Sparse.find? (t.die d).lin.rebuilds w.toNat = some (.restore, max (max p y.wprio) (s.namedPrio w)))) ∧
      (∀ p b c, Sparse.find? (s.die d).lin.rebuilds w.toNat = some (.restore, p) → b < 4 → Sparse.find? (s.die b).replicas w.toNat = some c →
        y.again = false → y.kept = false → y.usesinit = 0 → (s.allocate d (hbmRange d).1 (hbmRange d).2 y.region).1.isSome = true →
        s.nextWith .restoreComplete (fun t => (∃ z, t.tile? w = some z ∧ z.state = 3 ∧ z.depth = 0) ∧
          Sparse.find? (t.die d).lin.rebuilds w.toNat = none)) ∧
      (∀ b, w ∈ (s.die d).lin.copying → s.buddy d = some (s.pkg, b) → y.state = 3 → s.record? w = none →
        (s.die d).e2e.sending w = false → s.nextWith .replicationComplete (fun t => t.tile? w = some { y with repl := true, depth := 0, kept := false } ∧
          Sparse.find? (t.die b).replicas w.toNat = some (s.tileBytes y) ∧ t.mem = s.mem))) ∧
    (((∃ k, placeOf n = .hbm k) ∨ (∃ k o, placeOf n = .tile k o) ∨ ∃ k o, placeOf n = .plain k o) → s.nextWith .patrolScrub (fun t =>
      t.badAt n 1 = true ∧ t.mem = s.mem ∧ ∀ m, t.ctx m = s.ctx m))

/-- Jobs and losses: a job's versions are FREED at its end (R65); a faulty core goes offline with what it runs (R508); a lost die is offline, its
contexts free (R509); another package's is noted; firmware sets the buddy ring (R185, R505); a missing image arrives from a die of this package, or with a wrong
digest refuses with NOSEAL the tasks that wait for it (R127; that the step tells of the digest is the model's form, log entry 63); a checkpoint
falls due after its period (R444, R447). -/
def Obligations.JobsAndLosses : Prop :=
  ∀ (s : State), let n := s.evt.n
    let h := s.evt.w
    s.nextWith .jobEnd (fun t => Sparse.find? t.jobs n = none ∧ ∀ r y, s.tile? r = some y → y.job = n →
      t.tile? r = none ∨ ∃ z, t.tile? r = some z ∧ z.state = 6) ∧
    (n < 1024 → (s.core n).offline = false → s.online (n / 256) = true → s.nextWith .engineFault (fun t => (t.core n).offline = true ∧
      ∀ i, i < 4 → (t.ctx (4 * n + i)).mode = .free ∧ (t.ctx (4 * n + i)).task = none)) ∧
    (n = s.pkg → n < 6144 → s.evt.m < 4 → s.online s.evt.m = true → s.nextWith .dieLoss (fun t => t.online s.evt.m = false ∧
      ∀ k, k / 1024 = s.evt.m → (t.ctx k).mode = .free)) ∧
    (n ≠ s.pkg → n < 6144 → s.evt.m < 4 → 4 * n + s.evt.m ∉ s.fab.gone → s.nextWith .dieLoss (fun t => 4 * n + s.evt.m ∈ t.fab.gone)) ∧
    s.nextWith .buddyRingChange (fun t => (∀ p, p ∈ t.fab.ring ↔ p ∈ s.evt.list.map Prod.fst) ∧
      (∀ q ∈ s.evt.list, ∀ d, d < 4 → q.2.testBit d = true → 4 * q.1 + d ∈ t.fab.gone)) ∧
    (n < 4 → s.online n = true → s.image? n h = none → (∃ e ∈ (s.die n).entries, e.task.desc.image = h) →
      (s.evt.flag = false → (∃ x i, x < 4 ∧ s.image? x h = some i) → s.nextWith .imageCopyComplete (fun t => (t.image? n h).isSome = true ∧
        t.mem = s.mem ∧ (t.die n).entries = (s.die n).entries)) ∧
      (s.evt.flag = true → (s.die n).waitEntry = [] → s.nextWith .imageCopyComplete (fun t =>
        (∀ e ∈ (t.die n).entries, e.task.desc.image = h → ∃ m, e.stat = .running m ∧ m / 1024 ≠ n) ∧
        ∀ e ∈ (s.die n).entries, e.task.desc.image = h → (∀ m, e.stat ≠ .running m) → (e.task.tid, rNOSEAL) ∈ (t.die n).withdrawn))) ∧
    (let j := s.job n
     0 < j.period → j.last + j.period ≤ s.clock → s.nextWith .checkpointTrigger (fun t => (t.job n).last = s.clock ∧
       (t.job n).area = j.area ∧ t.mem = s.mem ∧ ∃ d x, .control d x ∈ t.out))

/-- The control port of a die (R446): go keeps the operands and begins the operation, a finished one clears go and leaves its status word; FRZ of a
team whose members are all frozen, DRAIN and its end, DSCAN of dirty granules into the plain working area of context 0, IMGW without inc or bud of
a drained team whose open outputs are all homed here into an area of this package, IMGR and RECONF, which go on. An operation that is not listed
answers 0x8000_0000_0000_0000. -/
def Obligations.ControlPortOperations : Prop :=
  ∀ (s : State), let d := s.evt.n
    let w := s.evt.w
    let v := s.evt.v
    let x := (s.die d).port
    let op := s.evt.m % 2 ^ 8
    let n := 1024 * d
    let base := plainBase n
    let e := addrOfCompact w
    let begun : State := s.updDie d (fun y => { y with port := { y.port with op := BitVec.ofNat 64 s.evt.m, a := w, b := v, go := true } })
    let ends (i : Instr) (P : State → W64 → Prop) : Prop := s.nextWith i (fun t => (t.die d).port.go = false ∧ P t (t.die d).port.st)
    let goes (i : Instr) (P : State → Prop) : Prop := s.nextWith i (fun t => (t.die d).port =
      { op := BitVec.ofNat 64 s.evt.m, a := w, b := v, go := true, st := x.st } ∧ P t)
    let start := v.toNat % 2 ^ 32
    let got := (((s.die d).dirty.filter (fun q => q.2 && decide (start ≤ q.1))).map Prod.fst).take (v.toNat / 2 ^ 32 % 2 ^ 16 + 1)
    d < 4 → s.online d = true →
    (x.go = false →
      (∀ tm, s.team? w.toNat = some tm → tm.key = w.toNat → 0 < tm.key → tm.key < 2 ^ 32 →
        (op = 0x75 → s.evt.m / 2 ^ 8 % 2 ^ 4 = 0 → tm.state = 0 → s.anyStopped tm = false → (∀ m ∈ s.memberCtxs tm, (s.ctx m).mode = .frozen) →
          ends .controlPortFrz (fun t st => st = 0 ∧ ∃ u ∈ t.teams, u.key = tm.key ∧ u.state = 1)) ∧
        (op = 0x76 → tm.state ≠ 0 → goes .controlPortDrain (fun t => t.teams = s.teams ∧ t.mem = s.mem)) ∧
        (∀ outs, begun.writingAll ((begun.ranked tm).map QEntry.task) [] = some outs →
         let img := begun.teamImage tm (((begun.ranked tm).zip outs).map (fun m => begun.memberImage tm false m.1 m.2)) (begun.bindings tm) false 0
         op = 0x78 → s.evt.m / 2 ^ 8 % 2 ^ 4 = 0 → tm.state = 2 → v.toNat < 2 ^ 63 → offOf (addrOfCompact v) % 65536 = 0 →
           ¬(addrHome (addrOfCompact v) ≠ selfHome ∧ addrHome (addrOfCompact v) < 24576 ∧ addrHome (addrOfCompact v) / 4 ≠ s.pkg) →
           (begun.areaPages n (addrHome (addrOfCompact v)) (offOf (addrOfCompact v)) img.2.1 false true).1.isSome = true →
           ends .controlPortImgw (fun t st => st.toNat = img.2.1 * 2 ^ 8 % 2 ^ 64 ∧ ∃ u ∈ t.teams, u.key = tm.key ∧
             u.image = addrCompact (addrOfCompact v)))) ∧
      (op = 0x77 → w.toNat < 2 ^ 63 → isSelf e → offOf e % 4 = 0 → offOf e + 4 * got.length ≤ 0x20000 → start < 3153920 → (∀ g ∈ got, g < 2 ^ 32) →
        ends .controlPortDscan (fun t st => st.toNat / 2 ^ 8 % 2 ^ 32 = got.length ∧
          (∀ i, i < got.length → t.readNat (base + offOf e + 4 * i) 4 = got.getD i 0) ∧
          ∀ g ∈ got, g ≠ dirtyNo n 0 → g ≠ dirtyNo n 1 → Sparse.get false (t.die d).dirty g = false)) ∧
      (op = 0x79 → goes .controlPortImgr (fun t => t.mem = s.mem ∧ t.teams = s.teams)) ∧
      (op = 0x7E → w.toNat < 2 ^ 63 → s.reconfReady n e → goes .controlPortReconf (fun t => ∃ c, t.fab.rcf = some c ∧ c.step = 1 ∧
        c.desc.toNat = s.readNat (base + offOf e) 128 ∧ c.ctx = none ∧ c.die = d ∧ t.fab.active = s.fab.active)) ∧
      (op ∉ ([0x75, 0x76, 0x77, 0x78, 0x79, 0x7E] : List Nat) → ends .controlPortFrz (fun t st => st = 0x8000000000000000 ∧ t.mem = s.mem ∧
        t.teams = s.teams ∧ t.fab = s.fab))) ∧
    (∀ tm, x.go = true → x.op.toNat % 2 ^ 8 = 0x76 → s.team? x.a.toNat = some tm → tm.key = x.a.toNat → 0 < tm.key → tm.key < 2 ^ 32 →
      tm.state ≠ 0 → (∀ k ∈ s.memberDies tm, (s.die k).e2e.drains = []) → s.coming (s.memberCtxs tm) = false →
      ends .controlPortDrain (fun t st => st = 0 ∧ ∃ u ∈ t.teams, u.key = tm.key ∧ u.state = 2))

/-- Links: a flit goes out on the wavelengths of its units and a sequenced one is kept (R451, R452), a resend counts (R483); a good flit in sequence is accepted and a whole packet enters
the package, a bad one is answered with a NAK (R452), a restriping direction receives nothing (R547); an ACK frees what it covers (R452), the ACK timer sends
one, a NAK resends; a TRAIN and a loss of light restripe on the new mask, fewer than 4 wavelengths are DOWN (R454, R455); the timer
and a relock, 2^22 cycles after the loss, end and begin a restripe (R454, R456); a held direction relocks or goes DOWN (R475, R489). -/
def Obligations.LinkSteps : Prop :=
  ∀ (s : State), let n := s.evt.n
    let f := s.evt.flit
    let out := s.link n false
    let in_ := s.link n true
    let b := s.evt.flag
    let at_ := s.link n b
    let mask : BitVec 16 := BitVec.ofNat 16 s.evt.m
    let lost := mask &&& in_.mask
    let wave : BitVec 16 := 1 <<< s.evt.m
    let lit (k : BitVec 16) : Nat := if maskCount k = 16 then 0 else 1
    n < 512 →
    (∀ g rest, out.st ≤ 1 → out.out = g :: rest →
      (g ∉ out.buf → (g.sequenced = true → out.buf.length < 4096) → s.nextWith .flitTransmit (fun t =>
        t.out = s.out ++ [.flit n g (unitWaves out.mask out.flits)] ∧
        t.link n false = { out with out := rest, flits := out.flits + 1, buf := if g.sequenced then out.buf ++ [g] else out.buf })) ∧
      (g ∈ out.buf → out.nrp < 0xFFFFFF → s.nextWith .flitTransmit (fun t =>
        t.out = s.out ++ [.flit n g (unitWaves out.mask out.flits)] ∧
        t.link n false = { out with out := rest, flits := out.flits + 1, nrp := out.nrp + 1 }))) ∧
    (in_.st ≤ 1 →
      (f.good = true → f.sequenced = true → f.seq.toNat = in_.seq → s.nextWith .flitReceive (fun t =>
        (t.link n true).seq = (in_.seq + 1) % 8192 ∧ (t.link n true).nak = false ∧ t.mem = s.mem ∧
        (f.kind = 1 → headBodies f.pay = 0 → t.fab.transit = s.fab.transit ++ [⟨packetFrom f.pay [], some n, false⟩]) ∧
        (f.kind = 3 → in_.buf = [] → t.fab.transit = s.fab.transit))) ∧
      (f.good = false → in_.nak = false → s.nextWith .flitReceive (fun t => t.link n true = { in_ with nak := true } ∧
        ∃ g, (t.link n false).out = out.out ++ [g] ∧ g.kind = 5)) ∧
      (0 < in_.unacked → in_.since + 845 ≤ s.clock → s.nextWith .ackTimer (fun t => (t.link n true).unacked = 0 ∧ (t.link n true).seq = in_.seq ∧
        ∃ g, (t.link n false).out = out.out ++ [g] ∧ g.kind = 4)) ∧
      (lost ≠ 0 → 4 ≤ maskCount (in_.mask &&& ~~~lost) → s.nextWith .losDetection (fun t => (t.link n true).st = 2 ∧
        (t.link n true).mask = in_.mask &&& ~~~lost ∧ (t.link n true).rst = 0 ∧ (t.link n true).since = s.clock ∧
        ∃ g, (t.link n false).out = out.out ++ [g] ∧ g.kind = 6)) ∧
      (lost ≠ 0 → maskCount (in_.mask &&& ~~~lost) < 4 → s.nextWith .losDetection (fun t => (t.link n true).st = 4 ∧
        (out.st < 3 → (t.link n false).st = 4)))) ∧
    (in_.st = 2 → exec .flitReceive s = .next s) ∧
    (out.st ≤ 2 → s.nextWith .ackReceive (fun t => (t.link n false).buf = out.buf.filter (fun g => !below g.seq.toNat s.evt.k) ∧
      (t.link n false).out = out.out ∧ t.link n true = in_)) ∧
    (out.st ≤ 2 → s.nextWith .nakReceive (fun t => (t.link n false).buf = out.buf ∧ t.link n true = in_ ∧
      (∀ g ∈ out.buf, below g.seq.toNat s.evt.k = false → g ∈ (t.link n false).out) ∧ ∀ g ∈ out.out, g ∈ out.buf ∨ g ∈ (t.link n false).out)) ∧
    (out.st ≤ 2 → b = true → s.nextWith .trainReceive (fun t => t.link n false = { out with peer := some (s.evt.w.truncate 8) } ∧
      t.link n true = { in_ with end_ := some s.evt.k })) ∧
    (out.st ≤ 1 → b = false → 4 ≤ maskCount mask → s.nextWith .trainReceive (fun t => (t.link n false).st = 2 ∧ (t.link n false).mask = mask ∧
      (t.link n false).trainE = s.evt.k ∧ (t.link n false).buf = out.buf)) ∧
    (at_.st = 2 → b = true → at_.since + 5280 ≤ s.clock → at_.relock = 0 → s.nextWith .restripeTimerEnd (fun t =>
      (t.link n true).st = lit at_.mask ∧ (t.link n true).rst = 0 ∧ (t.link n true).mask = at_.mask)) ∧
    (at_.st = 2 → b = false → s.nextWith .restripeTimerEnd (fun t => (t.link n false).st = lit at_.mask ∧
      (∀ g ∈ at_.buf, below g.seq.toNat at_.trainE = false → g ∈ (t.link n false).out) ∧ (t.link n false).buf = at_.buf)) ∧
    (s.evt.m < 16 → in_.mask &&& wave = 0 → (Sparse.find? in_.dark s.evt.m).getD 0 + 2 ^ 22 ≤ s.clock →
      (in_.st = 1 → 4 ≤ maskCount (in_.mask ||| wave) → s.nextWith .wavelengthRelock (fun t => (t.link n true).st = 2 ∧
        (t.link n true).mask = in_.mask ||| wave)) ∧
      (in_.st = 2 → s.nextWith .wavelengthRelock (fun t => t.link n true = { in_ with relock := in_.relock ||| wave }))) ∧
    (at_.st = 3 → (∀ r, s.fab.rcf = some r → r.step ≠ 3 ∨ ∃ m ∈ r.held, ∃ c, (m, c) ≠ (n, b) ∧ (s.link m c).st = 3) →
      (at_.since + 82500000 ≤ s.clock → s.nextWith .heldTimeout (fun t => (t.link n b).st = 4 ∧ (t.link n b).buf = [])) ∧
      (at_.since + 33005280 ≤ s.clock → 4 ≤ maskCount mask → s.nextWith .heldDirectionRelock (fun t => (t.link n b).st = lit mask ∧
        (t.link n b).mask = mask ∧ (t.link n b).seq = 0 ∧ (t.link n b).buf = [])))

/-- Packets inside a package: one of an old route version, or without a way, is dropped (R461, R465), the others go out on a link with permits and spend one per
flit (R460, R461); one delivered twice acts once and is acknowledged again (R466, R468); a write of another package stores its bytes and is answered (R460,
R462); an end-to-end acknowledgement takes what it covers out of the store, a multicast packet once every destination has acknowledged it (R466, R470); a table write
enters the shadow tables (R467); a drain marker is answered (R472). -/
def Obligations.PacketSteps : Prop :=
  ∀ (s : State) (p : Packet), let i := s.evt.n
    let d := p.ddie.toNat
    let e := (s.die d).e2e
    let gone := s.fab.transit.eraseIdx i
    let acks (t : State) : Prop := ∃ a ∈ t.fab.transit, a.pkt.op = 9 ∧ a.pkt.cls = 2 ∧ a.pkt.dpkg = p.spkg ∧ a.pkt.ddie = p.sdie
    (∀ x, s.fab.transit[i]? = some x →
      (x.pkt.ver ≠ s.fab.active.ver → s.nextWith .packetHop (fun t => t.fab.transit = gone ∧ t.mem = s.mem)) ∧
      (x.pkt.ver = s.fab.active.ver → x.here = false → x.pkt.mc = false → let r := s.routeTo x.pkt.dpkg.toNat
        r.testBit 10 = false →
        (r.testBit 9 = false → s.nextWith .packetHop (fun t => t.fab.transit = gone ∧ t.mem = s.mem)) ∧
        (∀ n, r.testBit 9 = true → candidates r = [n] → (s.link n false).st < 3 → x.pkt.vc ≠ 3 →
          (∃ v, v < 3 ∧ x.pkt.flits ≤ s.room n (vcKey x.pkt.cls.toNat v false)) → s.nextWith .packetHop (fun t => t.fab.transit = gone ∧
            (t.link n false).out.length = (s.link n false).out.length + x.pkt.flits ∧ ∃ v, v < 3 ∧
              t.permits n (vcKey x.pkt.cls.toNat v false) + x.pkt.flits = s.permits n (vcKey x.pkt.cls.toNat v false))))) ∧
    (∀ a, s.brings i p 2 → p.aux.toNat.testBit 60 = false → tagSize p.aux = 4 → p.body.length = 4 →
      (s.packetPlaces p).1 = .ok [(a, 0, 4)] → (∀ k, k < 4 → inWindow (a + k) = false) → a + 4 ≤ 2 ^ 46 → s.inStore a = false →
      s.mayCome (portOf a) (sourceRank p.spkg.toNat (bits p.aux.toNat 32 12)) = true → s.nextWith .packetDelivery (fun t => t.readMem a 4 = p.body ∧ acks t ∧
        p.seq.toNat < Sparse.get 0 (t.die d).e2e.low (streamKey p))) ∧
    (s.arrives i p 2 → e.held = [] → p.seq.toNat < Sparse.get 0 e.low (streamKey p) → s.nextWith .packetDelivery (fun t => t.mem = s.mem ∧ acks t ∧
        (t.die d).e2e = e)) ∧
    (s.arrives i p 9 → p.aux.toNat.testBit 0 = false → e.waiting = [] → s.fab.rcf = none → s.nextWith .e2eAckReceive (fun t => t.fab.transit = gone ∧
      (t.die d).e2e.waiting = [] ∧ (t.die d).e2e.store = e.store.filter (fun q => q.mc ||
        !(destKey q == 4 * p.spkg.toNat + p.sdie.toNat && decide (q.seq.toNat < p.addr.toNat))))) ∧
    (s.arrives i p 9 → p.aux.toNat.testBit 0 = true → s.fab.rcf = none → s.nextWith .e2eAckReceive (fun t => t.fab.transit = gone ∧
      ∀ q, q ∈ (t.die d).e2e.store ↔ q ∈ e.store ∧ (q.mc = true → ∀ x ∈ e.sets, x.1 = q.seq.toNat →
        ∃ k ∈ x.2, x.1 < p.addr.toNat → k ≠ 4 * p.spkg.toNat + p.sdie.toNat))) ∧
    (s.brings i p 12 → p.addr.toNat < 6144 → s.nextWith .tableWrite (fun t => t.fab.active = s.fab.active ∧
      t.fab.shadow.ver = p.aux.truncate 8 ∧ acks t ∧
      Sparse.get 0 t.fab.shadow.tab p.addr.toNat = BitVec.ofNat 128 (ofBytes (p.body.take 16)))) ∧
    (s.brings i p 10 → s.nextWith .drainMarkerReceive (fun t => acks t ∧ t.mem = s.mem ∧
      ((∃ a ∈ t.fab.transit, a.pkt.op = 11 ∧ a.pkt.dpkg = p.spkg ∧ a.pkt.ddie = p.sdie) ∨
        ∃ a ∈ (t.die d).e2e.waiting, a.op = 11 ∧ a.dpkg = p.spkg ∧ a.ddie = p.sdie))) ∧
    (s.brings i p 11 → s.fab.rcf = none → s.nextWith .drainAnswerReceive (fun t => acks t ∧ t.mem = s.mem ∧
      (t.die d).e2e.drains = e.drains.erase (4 * p.spkg.toNat + p.sdie.toNat)))

/-- The connected group: a link report starts an advance or asks for a further one (R467, R471); a mark makes the shadow tables active, other marks are
ignored (R467); an answer is counted, a package that stays silent leaves the group (R467, R471); the audit mark is sent, LOSTPERMIT follows where a VC does not
add up, and a replayed mark is ignored (R476); a drain done is counted, the hold mark holds the links (R475, R488). -/
def Obligations.GroupSteps : Prop :=
  ∀ (s : State), let n := s.evt.n
    let f := s.fab
    let ver : BitVec 8 := BitVec.ofNat 8 s.evt.m
    let in_ := s.link n true
    let out := s.link n false
    (f.coord = s.pkg → f.rcf = none → (∃ m ∈ f.members, m.1 = n) → s.nextWith .linkDownReport (fun t => t.fab.active = f.active ∧ t.mem = s.mem ∧
      (f.adv = none → ∃ a, t.fab.adv = some a ∧ a.ver = f.active.ver + 1 ∧ a.due = f.members.map Prod.fst ∧ a.sent = false) ∧
      ∀ a, f.adv = some a → t.fab.adv = some { a with again := true })) ∧
    (n < 512 → f.shadow.ver ≠ ver ∨ f.active.ver = ver → exec .advanceMark s = .next s) ∧
    (n < 512 → f.shadow.ver = ver → f.active.ver ≠ ver → s.nextWith .advanceMark (fun t => t.fab.active = f.shadow ∧ t.fab.nadv = f.nadv + 1)) ∧
    (∀ a, n = 512 → f.coord = s.pkg → f.adv = some a → a.sent = false → a.ver = ver → s.tablesAcked = true →
      s.nextWith .advanceMark (fun t => t.fab.active = f.shadow ∧ t.fab.nadv = f.nadv + 1)) ∧
    (∀ p a, s.brings n p 13 → f.adv = some a → p.aux.truncate 8 = a.ver → let due := a.due.filter (fun q => q != p.spkg.toNat)
      (due ≠ [] → s.nextWith .advanceDone (fun t => t.fab.adv = some { a with due := due } ∧ t.fab.active = f.active)) ∧
      (due = [] → a.again = false → s.nextWith .advanceDone (fun t => t.fab.adv = none ∧ t.fab.active = f.active))) ∧
    (∀ a, f.coord = s.pkg → f.adv = some a → a.sent = true → n ∈ a.due → n ≠ s.pkg → a.mark + 2 ^ 26 ≤ s.clock →
      s.nextWith .advanceTimeout (fun t => t.fab.members = f.members.filter (fun m => m.1 != n) ∧ t.fab.size = t.fab.members.length ∧
        t.fab.active = f.active ∧ t.host.seqno = (s.host.seqno + 1) % 2 ^ 32)) ∧
    (n < 512 → out.st ≤ 1 → out.audit / 2 ^ 22 < s.clock / 2 ^ 22 → s.nextWith .auditSend (fun t => (t.link n false).seq = (out.seq + 1) % 8192 ∧
      t.link n true = in_ ∧ ∃ g, (t.link n false).out = out.out ++ [g] ∧ g.kind = 3 ∧ g.seq.toNat = out.seq % 8192)) ∧
    (n < 512 → in_.st ≤ 1 →
      ((∀ x ∈ number 0 s.evt.list, 12 ≤ x.1 ∨ auditDiff in_ x.1 x.2.1 x.2.2 = 0) → exec .auditReceive s = .next s) ∧
      (s.evt.flag = true → exec .auditReceive s = .next s) ∧
      (s.evt.flag = false → (∃ x ∈ number 0 s.evt.list, x.1 < 12 ∧ auditDiff in_ x.1 x.2.1 x.2.2 ≠ 0) → s.nextWith .auditReceive (fun t => t.fab = f ∧ t.mem = s.mem ∧
        ∃ r, Out.control (n / 128) r ∈ t.out ∧ r.toNat % 2 ^ 16 = 5))) ∧
    (f.coord = s.pkg → (∃ m ∈ f.members, m.1 = n) → n ∉ f.drained →
      ((∃ m ∈ f.members, m.1 ≠ n ∧ m.1 ∉ f.drained) → s.nextWith .drainDoneReceive (fun t => t.fab = { f with drained := f.drained ++ [n] } ∧
        t.mem = s.mem)) ∧
      ((∀ m ∈ f.members, m.1 = n ∨ m.1 ∈ f.drained) → f.rcf = none → s.nextWith .drainDoneReceive (fun t => t.fab.drained = []))) ∧
    (∀ r, f.rcf = some r → r.step = 2 → r.held ≠ [] → s.nextWith .holdMarkReceive (fun t => t.fab.rcf = some { r with step := 3 } ∧
      ∀ k ∈ r.held, (t.link k false).st = 3 ∧ (t.link k true).st = 3))

/-- The host's writes while a die serves it (R533, R534, R540): the owner takes and releases the package, other writes of a package without owner are discarded; a
doorbell and an event-ring head are taken within their rings (R536, R537); plim sets the limit, with Sage's budget and every core's pwr_lim (R542); the ring
registers change while no job runs (R533). The mailbox commands SEAL, APERTURE, DUMPREAD and MEAS act and end with status 0 (R538). -/
def Obligations.HostCommands : Prop :=
  ∀ (s : State), let h := s.host
    let n := s.evt.n
    let v := s.evt.v
    let idx := n % 2 ^ 32
    let arg (o : Nat) : Nat := h.mboxNat o 8
    let done (t : State) : Prop := t.host.mboxNat 4 1 = 0 ∧ t.host.mboxNat 5 3 = 0
    let lim (x : Nat) : Nat := max 600 (min x 3400)
    s.serving.isSome = true →
    (v ≠ 0 → h.owner = 0 → s.nextWith .ownerWrite (fun t => t.host = { h with owner := v } ∧ t.mem = s.mem)) ∧
    (v ≠ 0 → h.owner ≠ 0 → exec .ownerWrite s = .next s) ∧
    (v = 0 → s.nextWith .ownerWrite (fun t => t.host.owner = 0 ∧ t.host.jqbase = 0 ∧ t.host.jqsize = 0 ∧ t.host.jqtail = 0 ∧ t.host.jqhead = 0 ∧
      t.host.eqbase = 0 ∧ t.host.eqsize = 0 ∧ t.host.eqtail = 0 ∧ t.host.eqhead = 0)) ∧
    (h.owner = 0 → exec .jobDoorbell s = .next s ∧ exec .eqheadWrite s = .next s ∧ exec .plimWrite s = .next s ∧
      (n ∉ ([0x08, 0x20, 0x48, 0x50] : List Nat) → exec .bar0RegisterWrite s = .next s)) ∧
    (h.owner ≠ 0 →
      (h.fatal = false → (idx + 2 ^ 32 - h.jqhead) % 2 ^ 32 ≤ h.jqsize.toNat → s.evt.flag = true ∨ h.jqhead = idx →
        s.nextWith .jobDoorbell (fun t => t = { s with host := { h with jqtail := idx } })) ∧
      (h.jqsize.toNat < (idx + 2 ^ 32 - h.jqhead) % 2 ^ 32 → exec .jobDoorbell s = .next s) ∧
      ((h.eqtail + 2 ^ 32 - idx) % 2 ^ 32 ≤ h.eqsize.toNat → s.nextWith .eqheadWrite (fun t => t.host.eqhead = idx ∧ t.mem = s.mem ∧
        (h.ringFull = true → (h.eqtail + 2 ^ 32 - idx) % 2 ^ 32 < h.eqsize.toNat → t.host.ringFull = false ∧ t.out = s.out ++ [.msix 1]))) ∧
      s.nextWith .plimWrite (fun t => t.host.plim = v.toNat % 2 ^ 12 ∧ t.mem = s.mem ∧
        let p := min (lim t.host.plim) (min (lim h.mgmtLim) (lim (if h.inlet ≤ 40 ∧ 20 ≤ h.flow then 3400 else 2400)))
        (p ≠ h.limit → t.sage.budget = 100 * (p - 2660) ∧ ∀ i, i < 1024 → (t.core i).pwrLim = max 64 (2560 * p / 3400)) ∧
        (p = h.limit → t.sage = s.sage ∧ t.cores = s.cores)) ∧
      (s.jobRuns = false →
        (n = 0x10 → s.nextWith .bar0RegisterWrite (fun t => t.host = { h with jqbase := v })) ∧
        (n = 0x18 → s.nextWith .bar0RegisterWrite (fun t => t.host = { h with jqsize := v })) ∧
        (n = 0x30 → s.nextWith .bar0RegisterWrite (fun t => t.host = { h with eqbase := v })) ∧
        (n = 0x38 → s.nextWith .bar0RegisterWrite (fun t => t.host = { h with eqsize := v }))) ∧
      (s.jobRuns = true → n ∈ ([0x10, 0x18, 0x30, 0x38] : List Nat) → exec .bar0RegisterWrite s = .next s) ∧
      (n ∉ ([0x08, 0x10, 0x18, 0x20, 0x30, 0x38, 0x48, 0x50] : List Nat) → n < 0x100 ∨ 0x200 ≤ n → exec .bar0RegisterWrite s = .next s) ∧
      (n = 0x104 → s.evt.data = [1] → h.mboxNat 4 1 ≠ 1 → s.nextWith .bar0RegisterWrite (fun t => t.mem = s.mem ∧
        (1 ≤ h.mboxNat 0 4 → h.mboxNat 0 4 ≤ 4 → t.host.mboxNat 4 1 = 1) ∧
        (h.mboxNat 0 4 = 0 ∨ 4 < h.mboxNat 0 4 → t.host.mboxNat 4 1 = 0 ∧ t.host.mboxNat 5 3 = 2))) ∧
      (∀ b, 0x108 ≤ n → n < 0x200 → s.evt.data = [b] → s.nextWith .bar0RegisterWrite (fun t => t.mem = s.mem ∧
        (h.mboxNat 4 1 ≠ 1 → t.host.mboxNat (n - 0x100) 1 = b.toNat)))) ∧
    (∀ d w q, s.serving = some d → s.mboxAwaits 1 = true → s.evt.flag = false → s.evt.data.length = arg 16 →
      s.seal d s.evt.m (Memory.putAll [] 0 s.evt.data) s.evt.data.length false v s.evt.k = (.ok w, q) → s.nextWith .seal (fun t => done t ∧
        t.out = q.out ++ [.host (q.host.mboxNat 24 8) (toBytes 8 w.toNat)] ∧ ∃ i ∈ (t.die d).images, i.handle = w)) ∧
    (s.mboxAwaits 2 = true → arg 8 % 2 ^ 30 = 0 → s.nextWith .aperture (fun t => done t ∧ t.host.bar2.toNat = arg 8 ∧ t.out = s.out)) ∧
    (s.mboxAwaits 3 = true → arg 8 + arg 16 ≤ h.dump.length → s.nextWith .dumpread (fun t => done t ∧ t.mem = s.mem ∧
      t.out = s.out ++ [.host (arg 24) ((h.dump.drop (arg 8)).take (arg 16))])) ∧
    (s.mboxAwaits 4 = true → arg 8 < 4 → arg 16 < 8 → s.nextWith .meas (fun t => done t ∧ t.mem = s.mem ∧
      t.host.mboxNat 8 48 = (Sparse.get 0 (s.die (arg 8)).meas (arg 16)).toNat))

/-- The management port and attestation (R541, R543): READ_EVENTS sends the records from a sequence number on, READ_DUMP bytes of the dump, IDENTIFY ident and
bootst; a sensor read gives the inlet's and the flow's readings (their numbers are the model's, log entry 6); RESET_DIE loses a die and begins its reset; SET_LIMIT
sets the management limit (R542). An SPDM request joins the session of the transport it came over and is answered on it; what the answer holds is left open (log
entry 6).

Boot and power: a verified firmware image is measured, one that is not fails its die (R539); a ready die is online with its cores and contexts at reset, one
that stays unready is offline (R540); a package reset leaves a group of one (R546); the coolant sets the limit, 50 °C is fatal (R542); a fatal error keeps its dump
and raises MSI-X vector 2 (R544). -/
def Obligations.ManagementBootAndPower : Prop :=
  (∀ (s : State), let n := s.evt.n
     let sends (i : Instr) (b : List Byte) : Prop := exec i s = .next { s with out := s.out ++ [.mgmt b] }
     let h := s.host
     let answers (i : Instr) (code : BitVec 8) : Prop := ∃ b, exec i s = .next { s with
       host := if s.evt.flag then { h with mctp := h.mctp ++ [code :: s.evt.data] } else { h with doe := h.doe ++ [code :: s.evt.data] }
       out := s.out ++ [.spdm s.evt.flag b] }
     (s.evt.flag = true → s.evt.m < 2 → ∃ r, r = (if s.evt.m = 0 then h.inlet else h.flow) % 2 ^ 32 ∧
       s.nextWith .readEvents (fun t => t.host = h ∧ t.out = s.out ++ [.mgmt (toBytes 4 r)])) ∧
     (s.evt.flag = false → s.nextWith .readEvents (fun t => ∃ rs : List (BitVec 256), t = { s with out := s.out ++ [.mgmt (rs.flatMap (fun r => toBytes 32 r.toNat))] } ∧
       (∀ r ∈ rs, r ∈ s.host.events) ∧ ∀ r ∈ s.host.events, n < 2 ^ 31 → n ≤ r.toNat / 2 ^ 224 → r.toNat / 2 ^ 224 < 2 ^ 31 → r ∈ rs)) ∧
     sends .readDump ((s.host.dump.drop n).take s.evt.m) ∧
     (∃ a b, sends .identify (toBytes 8 a ++ toBytes 8 b) ∧ a % 2 ^ 8 = 0x41 ∧ a / 2 ^ 8 % 2 ^ 16 = 4 ∧
       ∀ d, d < 4 → b / 2 ^ (4 * d) % 2 ^ 4 = (s.die d).boot % 2 ^ 4) ∧
     (n < 4 → s.nextWith .resetDie (fun t => (t.die n).boot = 0 ∧ t.online n = false ∧ (t.die n).root = 0 ∧ (t.die n).meas = [] ∧ (t.die n).tiles = [])) ∧
     s.nextWith .setLimit (fun t => t.host = { s.host with mgmtLim := n } ∧ t.mem = s.mem ∧
       (t.host.limit ≠ s.host.limit → t.sage.budget = 100 * (t.host.limit - 2660))) ∧
     answers .getVersion 1 ∧ answers .getCapabilities 2 ∧ answers .negotiateAlgorithms 3 ∧ answers .getDigests 4 ∧ answers .getCertificate 5 ∧
     answers .challenge 6 ∧ answers .getMeasurements 7) ∧
  (∀ (s : State), let n := s.evt.n
     let x := s.die n
     let image := s.evt.data.take s.evt.m
     let good := Config.ecdsaVerifies (Config.sha384 image) (s.evt.data.drop s.evt.m)
     let fatal (t : State) (cause : Nat) : Prop := t.host.fatal = true ∧ ofBytes (t.host.dump.take 4) = 0x504D4446 ∧
       (∃ b, (t.host.dump.drop 4).head? = some b ∧ b.toNat = cause % 2 ^ 8) ∧ t.out = s.out ++ [.msix 2, .mgmt (t.host.dump.take 64)]
     (n < 4 → x.boot = 0 → s.nextWith .dieReset (fun t => (good = true → (t.die n).boot = 2 ∧ (t.die n).offline = x.offline ∧
       (t.die n).sysList = s.evt.list.map (fun p => BitVec.ofNat 384 p.1) ∧
       Sparse.get 0 (t.die n).meas 0 = Config.sha384 (toBytes 48 0 ++ toBytes 48 (Config.sha384 image).toNat) ∧
       ∀ i, 1 ≤ i → Sparse.get 0 (t.die n).meas i = 0) ∧
       (good = false → (t.die n).boot = 4 ∧ t.online n = false))) ∧
     (n < 4 → x.boot = 2 → s.nextWith .dieReady (fun t => (t.die n).boot = 3 ∧ t.online n = true ∧ t.mem = s.mem ∧
       (∀ i v, s.evt.list = [(i, v)] → 1 ≤ i → i < 8 → Sparse.get 0 (t.die n).meas i =
         Config.sha384 (toBytes 48 (Sparse.get 0 x.meas i).toNat ++ toBytes 48 (BitVec.ofNat 384 v).toNat)) ∧
       (∀ c, c / 256 = n → t.core c = Core.reset) ∧ (∀ k, k / 1024 = n → t.ctx k = Ctx.reset) ∧ ∀ k, k / 1024 ≠ n → t.ctx k = s.ctx k)) ∧
     (n < 4 → x.boot ≠ 3 → x.resetAt + 2 ^ 33 ≤ s.clock → s.nextWith .bootTimeout (fun t => t.online n = false ∧ t.mem = s.mem ∧
       ∀ d, d ≠ n → t.die d = s.die d)) ∧
     s.nextWith .packageReset (fun t => t.pkg = s.pkg ∧ t.mem = State.reset.mem ∧ t.ctxs = State.reset.ctxs ∧ t.cores = State.reset.cores ∧
       t.host.owner = 0 ∧ t.fab.active.ver = 0 ∧ t.fab.gid = 0 ∧ t.fab.size = 1 ∧ t.fab.members = [(s.pkg, 0, 0, 0)] ∧ t.fab.coord = s.pkg ∧
       Sparse.get 0 t.fab.active.tab s.pkg = 0x600 ∧ ∀ d, d < 4 → (t.die d).boot = 0 ∧ (t.die d).versions = (s.die d).versions) ∧
     (n < 50 → s.nextWith .coolantConditionChange (fun t => t.host = { s.host with inlet := n, flow := s.evt.m } ∧ t.mem = s.mem)) ∧
     (50 ≤ n → s.host.fatal = false → s.nextWith .coolantConditionChange (fun t => fatal t s.evt.k)) ∧
     (s.host.fatal = false → s.nextWith .fatalError (fun t => fatal t n ∧ t.mem = s.mem)))

/-- Words that the spec writes out decode to the operations it names: the encoding examples of the slots. An SY word with hk = 11 and opcodes
0x0C to 0x1F are refused (R110, R111). -/
def Obligations.WrittenOutWordsDecode : Prop :=
  decodeSlot .sy 0x02600000 = .ok (some (.wait 0 3 false false)) ∧
  decodeSlot .sy 0x0A800000 = .ok (some (.fenceAcq 0 .die)) ∧
  decodeSlot .sy 0x04023000 = .ok (some (.arv 0 17 true)) ∧
  decodeSlot .sy 0x1000A000 = .ok (some (.join 0 5)) ∧
  decodeSlot .s 0x210C200000001000 = .ok (some (.addImm Pred.always 3 2 1)) ∧
  decodeSlot .s 0x4C500300004B0000 = .ok (some (.loop Pred.always 2 true 0 12 300)) ∧
  decodeSlot .s 0x48000FFFFFD00000 = .ok (some (.br Pred.always (BitVec.ofInt 25 (-6)))) ∧
  decodeSlot .s 0x6C18030000000A00 = .ok (some (.bacqC Pred.always 6 12 2)) ∧
  decodeSlot .s 0x6024430000000000 = .ok (some (.launch Pred.always 9 4 12)) ∧
  decodeSlot .s 0x7100000000000000 = .ok (some (.eret Pred.always)) ∧
  decodeSlot .s 0x73003000000D6000 = .ok (some (.timerWrite Pred.always 3)) ∧
  decodeSlot .s 0x771461C000000000 = .ok (some (.dscan Pred.always 5 6 7)) ∧
  decodeSlot .s 0x7D14600000000000 = .ok (some (.lkev Pred.always 5 6)) ∧
  decodeSlot .v0 0x2900942E10020000 = .ok (some (.vcmp Pred.always false .f32 .lt ⟨.h, 9⟩ (.line ⟨.v, 2⟩) (.bcast 1))) ∧
  decodeSlot .v0 0x0400400470400000 = .ok (some (.vfma Pred.always false .f32 ⟨.h, 4⟩ (.line ⟨.h, 0⟩) (.line ⟨.v, 7⟩) (.line ⟨.h, 4⟩))) ∧
  decodeSlot .m 0x0204800000000000 = .ok (some (.mldw Pred.always .f32 ⟨.v, 8⟩)) ∧
  decodeSlot .m 0x041007E800000000 = .ok (some (.mstrm Pred.always .bf16 ⟨.h, 0⟩ 31 true 1 0 false)) ∧
  decodeSlot .ld 0x4039025800C0 = .ok (some (.amoAdd Pred.always ⟨7, 4, 0, 1200, false, false, 6⟩)) ∧
  decodeSlot .ld 0x0810C0140120 = .ok (some (.ldls Pred.always 2 3 0 40 9)) ∧
  decodeSlot .st 0x088620200020 = .ok (some (.stlx Pred.always .bf16 0 (.line ⟨.v, 3⟩) 2 0 1)) ∧
  decodeSlot .e0 0x04D4900000000040 = .ok (some (.cpy Pred.always ⟨3, false, true, 2, 2, 4, false, 0, 1⟩)) ∧
  decodeSlot .e1 0x0380820A01060000 = .ok (some (.xexp Pred.always ⟨.bs4, .bf16, ⟨.h, 8⟩, ⟨.h, 40⟩, 1, 6⟩ 0)) ∧
  decodeSlot .e1 0x8230000000000000 = .ok (some (.apxe Pred.always 3)) ∧
  ∀ (w : BitVec 64), w.toNat < 2 ^ 32 →
    (w.toNat / 2 ^ 30 ≠ 3 → 0x0C ≤ w.toNat / 2 ^ 25 % 32 → decodeSlot .sy w = .error .opcode) ∧
    (w.toNat / 2 ^ 30 = 3 → ∃ e, decodeSlot .sy w = .error e)

/-- The word of every well-formed operation fits its slot and decodes to that operation, with every operand at every value that the encoding admits. A
SYSWR of a number that has a row of its own is that row's operation (R418). -/
def Obligations.DecodeOfEncodeIsTheOperation : Prop :=
  ∀ (i : Instr) (z : Slot) (w : BitVec 64), encode i = some (z, w) → i.wf = true →
    w.toNat < 2 ^ z.width ∧ decodeSlot z w = .ok (some i.named)

/-- A slot word that decodes to an operation is the word that encodes it: no bit of a word is dropped, and no two words decode to one operation. -/
def Obligations.EncodeOfDecodeIsTheWord : Prop :=
  ∀ (i : Instr) (z : Slot) (w : BitVec 64), w.toNat < 2 ^ z.width → decodeSlot z w = .ok (some i) → encode i = some (z, w) ∧ i.wf = true

/-- Memory keeps its canonical form: from every state that has it, every step that answers a next state keeps it. -/
def Obligations.EveryStepKeepsMemoryCanonical : Prop :=
  ∀ (s t : State), s.memOk → step s = .next t → t.memOk

/-- Right after reset (R179, R186, R219, R222, R380, R388, R393, R402, R479, R501, R533, R539, R546): memory is canonical, every table row that gives a reset
value has it, every context is free. Values that the spec does not give are in log entries 1, 2 and 12 and are not stated here. -/
def Obligations.ResetLeavesTheGivenValues : Prop :=
  let s := State.reset
  let h := s.host
  s.memOk ∧ s.sage.budget = 74000 ∧ s.sage.queue = [] ∧
  (∀ n, (s.ctx n).mode = .free ∧ (s.ctx n).task = none ∧ (s.ctx n).sys.trapWord = 0 ∧ (s.ctx n).sys.futWord = 0 ∧ (s.ctx n).sys.timer = 0 ∧
    (s.ctx n).sys.himg = 0 ∧ (s.ctx n).sys.hctl = 0 ∧ (s.ctx n).flag 0 = true) ∧
  (∀ c, (s.core c).pwrLim = 2560 ∧ ∀ r, ((s.core c).ring r).conf = false) ∧
  (∀ d, (s.die d).root = 0 ∧ (s.die d).lin.dmax = 4 ∧ (∀ i, Sparse.get 0 (s.die d).meas i = 0)) ∧
  (∀ n rx, (s.link n rx).word.toNat = 0xFFFF * 2 ^ 4) ∧
  h.owner = 0 ∧ h.jqbase = 0 ∧ h.jqsize = 0 ∧ h.jqhead = 0 ∧ h.eqbase = 0 ∧ h.eqsize = 0 ∧ h.eqtail = 0 ∧ h.eqhead = 0 ∧ h.plim = 3400 ∧
  s.fab.active.ver = 0 ∧ s.fab.shadow.ver = 0 ∧ s.fab.gid = 0 ∧ s.fab.size = 1 ∧ s.fab.members = [(s.pkg, 0, 0, 0)] ∧
  (s.routeTo s.pkg).testBit 9 = true ∧ (s.routeTo s.pkg).testBit 10 = true ∧ ∀ p, p ≠ s.pkg → s.routeTo p = 0

/-- A step runs the decoded bundle (R196, R203). Where core `c`'s turn is next, the context that holds its width is active and nothing landing, leaving or
empty comes first, the bundle at its index is in the bundle cache and decodes to `l`, and it is found to issue, the step charges the bundle's weight, runs
its operations in slot order with HALT, ERET and HNDL last, each by `exec`, then moves on from the bundle and ends the core's cycle. A bundle of one operation beside
its SY NOP runs that operation; an SY operation alone runs itself. -/
def Obligations.StepRunsTheDecodedBundle : Prop :=
  (∀ (s : State) (c : Nat) (rest : List Move) (i : Image) (b : BitVec 512) (l : List (Slot × Instr)),
    s.agenda = .core c :: rest → c < 1024 → (s.core c).offline = false → s.online (c / 256) = true → s.host.fatal = false →
    let v := ({ s with agenda := rest } : State).coreBackground c
    let n := (v.core c).running
    let w := { v with cur := n }
    let q := w.arriveAt n
    let ops := l.map Prod.snd
    (v.core c).idle = false → (v.core c).switch = 0 → (v.ctx n).active = true → (v.ctx n).sched.landFault = none →
    (v.ctx n).sched.late w.myCore.cycle = [] → q.me.leaving = false → q.me.sched.empty = 0 → q.myImage? = some i →
    i.bundles[q.me.sched.pc]? = some b → q.inCache = true → Decode.bundle b = .ok l →
    let u := q.updMe (fun c => { c with sync := { c.sync with tending := false } })
    u.judge ops = .issue → q.myCore.windowOk q.myCore.cycle (bundleWeight ops) = true →
    step s = match runOps ((u.updMe (fun c => { c with sched := { c.sched with granted := true } })).updCore (n / 4)
        (fun k => k.charge (ops.foldl (fun m i => m + i.weight) 0))) (actOrder ops) with
      | .next t => .next ((({ t with cur := n } : State).afterBundle n ops).tick c)
      | o => o) ∧
  (∀ (s : State) (k : BitVec 2) (i : Instr), runOps s (actOrder [.nop k, i]) = exec i s) ∧
  ∀ (s : State) (i : Instr), runOps s (actOrder [i]) = exec i s

/-- Results in flight (R197, R200, R12, R98): what is due at context time `t` reaches its register, of two results for one the later-issued one is kept, an amax register
keeps the larger of its value and the result; what is due later stays in flight, and a register for which nothing is due keeps its value. -/
def Obligations.ResultsLandAtTheirCycle : Prop :=
  ∀ (c : Ctx) (t : Nat), c.sched.latches = [] →
    let d := c.settleRegs t
    let due (x : Dest) : Prop := ∃ p ∈ c.sched.pend, p.due ≤ t ∧ p.dest = x
    (d.sched.pend = c.sched.pend.filter (fun p => decide (t < p.due))) ∧ d.planes = c.planes ∧ d.sys = c.sys ∧
    (∀ p ∈ c.sched.pend, p.due ≤ t → (∀ q ∈ c.sched.pend, q.due ≤ t → q.dest = p.dest → q = p ∨ q.ord < p.ord) →
      (∀ i, p.dest = .g i → d.g i = p.val.truncate 64) ∧ (∀ i, p.dest = .a i → d.a i = p.val.truncate 80) ∧
      (∀ i, p.dest = .lc i → d.lc i = p.val.truncate 32) ∧ (∀ i, p.dest = .k i → d.k i = p.val.truncate 64) ∧
      (∀ i, p.dest = .z i → d.z i = p.val.truncate 64) ∧ (∀ i, p.dest = .land i → d.l i = p.val) ∧
      (∀ i, p.dest = .f i → i ≠ 0 → d.flag i = p.val.getLsbD 0)) ∧
    (∀ i, ¬due (.g i) → d.g i = c.g i) ∧ (∀ i, ¬due (.a i) → d.a i = c.a i) ∧ (∀ i, ¬due (.lc i) → d.lc i = c.lc i) ∧
    (∀ i, ¬due (.k i) → d.k i = c.k i) ∧ (∀ i, ¬due (.z i) → d.z i = c.z i) ∧ (∀ i, ¬due (.land i) → d.l i = c.l i) ∧
    (∀ i, ¬due (.f i) → d.flag i = c.flag i) ∧ d.flag 0 = true ∧
    (∀ i, (c.mx i).toNat ≤ (d.mx i).toNat ∧ ∀ p ∈ c.sched.pend, p.due ≤ t → p.dest = .mx i → p.val.toNat % 2 ^ 32 ≤ (d.mx i).toNat) ∧
    (∀ i, d.mx i = c.mx i ∨ ∃ p ∈ c.sched.pend, p.due ≤ t ∧ p.dest = .mx i ∧ (d.mx i).toNat = p.val.toNat % 2 ^ 32)

/-- Taking a trap (R400, R402, R403, R405, R407, R414): with no handler running, what is due is written, tcause and taddr are set, the frame at tframe holds the index, g0 to
g7 and a0 to a3, no other byte changes, and the handler starts at its index with nothing in flight; without an enabled handler the context stops where it is. A frame that does
not fit, or a trap in a handler that has not read its cause, stops with DOUBLE; in one that has, with the cause and inh = 1. -/
def Obligations.TrapEntrySavesTheContextAndStartsTheHandler : Prop :=
  ∀ (s : State) (i : TrapInfo), i.cause < 2 ^ 8 → i.slot < 2 ^ 4 → s.me.sched.pc < 2 ^ 24 → s.cur < 4096 →
    let n := s.cur
    let q := (s.settle n s.me.sched.time).settleWindows n s.me.sched.time
    let old := q.ctx n
    let base := plainBase n + old.sys.tframe.toNat
    let t := s.takeTrap i
    let new := t.ctx n
    let cause := new.sys.tcause.toNat
    let w := old.sys.handlerFor i.cause
    (s.me.shadow = none → old.sys.tframe.toNat % 1024 = 0 → old.sys.tframe.toNat + 0xA000 ≤ 0x20000 →
      cause % 2 ^ 8 = i.cause ∧ cause / 2 ^ 8 % 2 ^ 4 = i.slot ∧ (i.land = false → cause / 2 ^ 24 % 2 ^ 24 = s.me.sched.pc) ∧
      new.sys.taddr = i.taddr ∧ new.regs = old.regs ∧ new.planes = old.planes ∧ q.sameBytesOutside t base 40960 ∧
      t.readNat (base + 16) 3 = s.me.sched.pc ∧
      ((old.regs.g.map Prod.fst).Nodup → (old.regs.a.map Prod.fst).Nodup → (∀ x ∈ old.regs.mx, x.1 < 4) →
        (∀ r : BitVec 6, r.toNat < 8 → t.readNat (base + 64 + 8 * r.toNat) 8 = (old.g r).toNat) ∧
        ∀ r : BitVec 5, r.toNat < 4 → t.readNat (base + 128 + 16 * r.toNat) 16 = (old.a r).toNat) ∧
      (w.toNat.testBit 63 = true → new.mode = .handler ∧ new.shadow.isSome = true ∧ new.sched.pc = w.toNat % 2 ^ 24 ∧
        new.sched.time = s.me.sched.time ∧ new.sched.pend = [] ∧ new.sched.latches = [] ∧ new.sched.loops = [] ∧ 11 ≤ (t.core (n / 4)).switch) ∧
      (w.toNat.testBit 63 = false → new.mode = .stopped ∧ new.sched.pc = s.me.sched.pc)) ∧
    (s.me.shadow = none → ¬(old.sys.tframe.toNat % 1024 = 0 ∧ old.sys.tframe.toNat + 0xA000 ≤ 0x20000) →
      new.mode = .stopped ∧ cause % 2 ^ 8 = 0x30 ∧ t.mem = q.mem) ∧
    (∀ h, s.me.mode = .handler → s.me.shadow = some h → new.mode = .stopped ∧ new.regs = s.me.regs ∧ new.sched = s.me.sched ∧ t.mem = s.mem ∧
      (h.readCause = true → h.readAddr = true → cause % 2 ^ 8 = i.cause ∧ cause / 2 ^ 15 % 2 = 1 ∧ new.sys.taddr = i.taddr) ∧
      (¬(h.readCause = true ∧ h.readAddr = true) → cause % 2 ^ 8 = 0x30 ∧ cause / 2 ^ 15 % 2 = 0))

end
end

