-- ==== Sys2Proof/Laws/Sparse.lean ====
section
/-! SUPPORT. Sparse maps: reading after writing, and the keys that a write leaves. -/

namespace Sys2Proof.Machine

variable {α : Type}

theorem Sparse.get_insert_same (d : α) (m : Sparse α) (k : Nat) (v : α) (h : ∀ p ∈ m, p.1 ≠ k) :
    Sparse.get d (Sparse.insert m k v) k = v := by
  induction m with
  | nil => simp [Sparse.insert, Sparse.get]
  | cons p r ih =>
    have hp : p.1 ≠ k := h p (by simp)
    simp only [Sparse.insert]
    split
    · simp [Sparse.get]
    · simpa [Sparse.get, hp] using ih (fun q hq => h q (by simp [hq]))

theorem Sparse.get_insert_ne (d : α) (m : Sparse α) (k j : Nat) (v : α) (h : k ≠ j) :
    Sparse.get d (Sparse.insert m k v) j = Sparse.get d m j := by
  induction m with
  | nil => simp [Sparse.insert, Sparse.get, h]
  | cons p r ih =>
    simp only [Sparse.insert]
    split
    · simp [Sparse.get, h]
    · simp [Sparse.get, ih]

theorem Sparse.not_mem_erase (m : Sparse α) (k : Nat) : ∀ p ∈ Sparse.erase m k, p.1 ≠ k := by
  induction m with
  | nil => simp [Sparse.erase]
  | cons p r ih =>
    intro q hq
    simp only [Sparse.erase] at hq
    split at hq
    · exact ih q hq
    · rcases List.mem_cons.mp hq with rfl | h
      · assumption
      · exact ih q h

theorem Sparse.get_erase_same (d : α) (m : Sparse α) (k : Nat) : Sparse.get d (Sparse.erase m k) k = d := by
  induction m with
  | nil => rfl
  | cons p r ih =>
    simp only [Sparse.erase]
    split
    · exact ih
    · rename_i h
      simp [Sparse.get, h, ih]

theorem Sparse.get_erase_ne (d : α) (m : Sparse α) (k j : Nat) (h : k ≠ j) :
    Sparse.get d (Sparse.erase m k) j = Sparse.get d m j := by
  induction m with
  | nil => rfl
  | cons p r ih =>
    simp only [Sparse.erase]
    split
    · rename_i e
      have : p.1 ≠ j := by omega
      simp [Sparse.get, this, ih]
    · simp [Sparse.get, ih]

@[simp] theorem Sparse.get_set_same (d : α) (m : Sparse α) (k : Nat) (v : α) : Sparse.get d (Sparse.set m k v) k = v :=
  Sparse.get_insert_same d _ k v (Sparse.not_mem_erase m k)

theorem Sparse.get_set_ne (d : α) (m : Sparse α) (k j : Nat) (v : α) (h : k ≠ j) :
    Sparse.get d (Sparse.set m k v) j = Sparse.get d m j := by
  rw [Sparse.set, Sparse.get_insert_ne d _ k j v h, Sparse.get_erase_ne d m k j h]

/-- Reading after writing, both cases. -/
theorem Sparse.get_set (d : α) (m : Sparse α) (k j : Nat) (v : α) :
    Sparse.get d (Sparse.set m k v) j = if k = j then v else Sparse.get d m j := by
  by_cases h : k = j
  · subst h; simp
  · simp [h, Sparse.get_set_ne d m k j v h]

@[simp] theorem Sparse.get_put_same [DecidableEq α] (d : α) (m : Sparse α) (k : Nat) (v : α) :
    Sparse.get d (Sparse.put d m k v) k = v := by
  unfold Sparse.put
  split
  · rename_i h; rw [Sparse.get_erase_same, h]
  · simp

theorem Sparse.get_put_ne [DecidableEq α] (d : α) (m : Sparse α) (k j : Nat) (v : α) (h : k ≠ j) :
    Sparse.get d (Sparse.put d m k v) j = Sparse.get d m j := by
  unfold Sparse.put
  split
  · exact Sparse.get_erase_ne d m k j h
  · exact Sparse.get_set_ne d m k j v h

/-- The keys after erasing are among the keys before. -/
theorem Sparse.mem_of_mem_erase (m : Sparse α) (k : Nat) : ∀ p ∈ Sparse.erase m k, p ∈ m := by
  induction m with
  | nil => simp [Sparse.erase]
  | cons p r ih =>
    intro q hq
    simp only [Sparse.erase] at hq
    split at hq
    · exact List.mem_cons_of_mem _ (ih q hq)
    · rcases List.mem_cons.mp hq with rfl | h
      · simp
      · exact List.mem_cons_of_mem _ (ih q h)

theorem Sparse.mem_insert (m : Sparse α) (k : Nat) (v : α) : ∀ p ∈ Sparse.insert m k v, p = (k, v) ∨ p ∈ m := by
  induction m with
  | nil => simp [Sparse.insert]
  | cons p r ih =>
    intro q hq
    simp only [Sparse.insert] at hq
    split at hq
    · simpa using hq
    · rcases List.mem_cons.mp hq with rfl | h
      · simp
      · rcases ih q h with h | h <;> simp [h]

theorem Sparse.rising_erase (m : Sparse α) (k : Nat) (h : (m.map Prod.fst).Pairwise (· < ·)) :
    ((Sparse.erase m k).map Prod.fst).Pairwise (· < ·) := by
  induction m with
  | nil => simp [Sparse.erase]
  | cons p r ih =>
    simp only [List.map_cons, List.pairwise_cons] at h
    simp only [Sparse.erase]
    split
    · exact ih h.2
    · simp only [List.map_cons, List.pairwise_cons]
      refine ⟨fun a ha => ?_, ih h.2⟩
      obtain ⟨q, hq, rfl⟩ := List.mem_map.mp ha
      exact h.1 _ (List.mem_map_of_mem (Sparse.mem_of_mem_erase r k q hq))

theorem Sparse.rising_insert (m : Sparse α) (k : Nat) (v : α) (h : (m.map Prod.fst).Pairwise (· < ·))
    (hk : ∀ p ∈ m, p.1 ≠ k) : ((Sparse.insert m k v).map Prod.fst).Pairwise (· < ·) := by
  induction m with
  | nil => simp [Sparse.insert]
  | cons p r ih =>
    have hp : p.1 ≠ k := hk p (by simp)
    have h' := h
    simp only [List.map_cons, List.pairwise_cons] at h
    simp only [Sparse.insert]
    split
    · rename_i hlt
      simp only [List.map_cons, List.pairwise_cons]
      refine ⟨fun a ha => ?_, h.1, h.2⟩
      rcases List.mem_cons.mp ha with rfl | ha
      · exact hlt
      · exact Nat.lt_trans hlt (h.1 a ha)
    · rename_i hlt
      simp only [List.map_cons, List.pairwise_cons]
      refine ⟨fun a ha => ?_, ih h.2 (fun q hq => hk q (by simp [hq]))⟩
      obtain ⟨q, hq, rfl⟩ := List.mem_map.mp ha
      rcases Sparse.mem_insert r k v q hq with rfl | hq
      · show p.1 < k
        omega
      · exact h.1 _ (List.mem_map_of_mem hq)

/-- A write keeps the keys rising. -/
theorem Sparse.rising_set (m : Sparse α) (k : Nat) (v : α) (h : (m.map Prod.fst).Pairwise (· < ·)) :
    ((Sparse.set m k v).map Prod.fst).Pairwise (· < ·) :=
  Sparse.rising_insert _ k v (Sparse.rising_erase m k h) (Sparse.not_mem_erase m k)

theorem Sparse.rising_of_sorted (m : Sparse α) (h : Sparse.sorted m = true) : (m.map Prod.fst).Pairwise (· < ·) := by
  have key : ∀ (m : Sparse α), Sparse.sorted m = true → (m.map Prod.fst).Pairwise (· < ·) := by
    intro m
    induction m with
    | nil => simp
    | cons p r ih =>
      intro h
      cases r with
      | nil => simp
      | cons q r =>
        simp only [Sparse.sorted, Bool.and_eq_true, decide_eq_true_eq] at h
        have hr := ih h.2
        simp only [List.map_cons, List.pairwise_cons] at hr ⊢
        refine ⟨fun a ha => ?_, hr⟩
        rcases List.mem_cons.mp ha with rfl | ha
        · exact h.1
        · exact Nat.lt_trans h.1 (hr.1 a ha)
  exact key m h

theorem Sparse.erase_of_not_mem (m : Sparse α) (k : Nat) (h : ∀ p ∈ m, p.1 ≠ k) : Sparse.erase m k = m := by
  induction m with
  | nil => rfl
  | cons p r ih =>
    have h1 := h p (List.mem_cons_self ..)
    simp [Sparse.erase, h1, ih (fun q hq => h q (List.mem_cons_of_mem _ hq))]

theorem Sparse.erase_insert (m : Sparse α) (k : Nat) (v : α) (h : ∀ p ∈ m, p.1 ≠ k) :
    Sparse.erase (Sparse.insert m k v) k = m := by
  induction m with
  | nil => simp [Sparse.insert, Sparse.erase]
  | cons p r ih =>
    have h1 := h p (List.mem_cons_self ..)
    have h2 := fun q hq => h q (List.mem_cons_of_mem p hq)
    simp only [Sparse.insert]
    split
    · simp [Sparse.erase, h1, Sparse.erase_of_not_mem r k h2]
    · simp [Sparse.erase, h1, ih h2]

/-- The later of two writes to one key stands. -/
@[simp] theorem Sparse.set_set (m : Sparse α) (k : Nat) (v w : α) : Sparse.set (Sparse.set m k v) k w = Sparse.set m k w := by
  unfold Sparse.set
  rw [Sparse.erase_insert _ _ _ (Sparse.not_mem_erase m k)]

end Sys2Proof.Machine
end

