-- ==== Sys2Proof/Laws/State.lean ====
section
/-! SUPPORT. State: what each update leaves, field by field, and reading the part that it wrote. -/

namespace Sys2Proof.Machine

variable (s : State)

/-! ### `setCtx` -/

@[simp] theorem State.setCtx_dies (n : Nat) (c : Ctx) : (s.setCtx n c).dies = s.dies := rfl
@[simp] theorem State.setCtx_cores (n : Nat) (c : Ctx) : (s.setCtx n c).cores = s.cores := rfl
@[simp] theorem State.setCtx_quads (n : Nat) (c : Ctx) : (s.setCtx n c).quads = s.quads := rfl
@[simp] theorem State.setCtx_mem (n : Nat) (c : Ctx) : (s.setCtx n c).mem = s.mem := rfl
@[simp] theorem State.setCtx_teams (n : Nat) (c : Ctx) : (s.setCtx n c).teams = s.teams := rfl
@[simp] theorem State.setCtx_jobs (n : Nat) (c : Ctx) : (s.setCtx n c).jobs = s.jobs := rfl
@[simp] theorem State.setCtx_fab (n : Nat) (c : Ctx) : (s.setCtx n c).fab = s.fab := rfl
@[simp] theorem State.setCtx_host (n : Nat) (c : Ctx) : (s.setCtx n c).host = s.host := rfl
@[simp] theorem State.setCtx_sage (n : Nat) (c : Ctx) : (s.setCtx n c).sage = s.sage := rfl
@[simp] theorem State.setCtx_pkg (n : Nat) (c : Ctx) : (s.setCtx n c).pkg = s.pkg := rfl
@[simp] theorem State.setCtx_clock (n : Nat) (c : Ctx) : (s.setCtx n c).clock = s.clock := rfl
@[simp] theorem State.setCtx_walksOut (n : Nat) (c : Ctx) : (s.setCtx n c).walksOut = s.walksOut := rfl
@[simp] theorem State.setCtx_epoch (n : Nat) (c : Ctx) : (s.setCtx n c).epoch = s.epoch := rfl
@[simp] theorem State.setCtx_stamps (n : Nat) (c : Ctx) : (s.setCtx n c).stamps = s.stamps := rfl
@[simp] theorem State.setCtx_portable (n : Nat) (c : Ctx) : (s.setCtx n c).portable = s.portable := rfl
@[simp] theorem State.setCtx_descs (n : Nat) (c : Ctx) : (s.setCtx n c).descs = s.descs := rfl
@[simp] theorem State.setCtx_out (n : Nat) (c : Ctx) : (s.setCtx n c).out = s.out := rfl
@[simp] theorem State.setCtx_cur (n : Nat) (c : Ctx) : (s.setCtx n c).cur = s.cur := rfl
@[simp] theorem State.setCtx_agenda (n : Nat) (c : Ctx) : (s.setCtx n c).agenda = s.agenda := rfl
@[simp] theorem State.setCtx_evt (n : Nat) (c : Ctx) : (s.setCtx n c).evt = s.evt := rfl
@[simp] theorem State.setCtx_free (n : Nat) (c : Ctx) : (s.setCtx n c).free = s.free := rfl

/-! ### `updCtx` -/

@[simp] theorem State.updCtx_dies (n : Nat) (f : Ctx → Ctx) : (s.updCtx n f).dies = s.dies := rfl
@[simp] theorem State.updCtx_cores (n : Nat) (f : Ctx → Ctx) : (s.updCtx n f).cores = s.cores := rfl
@[simp] theorem State.updCtx_quads (n : Nat) (f : Ctx → Ctx) : (s.updCtx n f).quads = s.quads := rfl
@[simp] theorem State.updCtx_mem (n : Nat) (f : Ctx → Ctx) : (s.updCtx n f).mem = s.mem := rfl
@[simp] theorem State.updCtx_teams (n : Nat) (f : Ctx → Ctx) : (s.updCtx n f).teams = s.teams := rfl
@[simp] theorem State.updCtx_jobs (n : Nat) (f : Ctx → Ctx) : (s.updCtx n f).jobs = s.jobs := rfl
@[simp] theorem State.updCtx_fab (n : Nat) (f : Ctx → Ctx) : (s.updCtx n f).fab = s.fab := rfl
@[simp] theorem State.updCtx_host (n : Nat) (f : Ctx → Ctx) : (s.updCtx n f).host = s.host := rfl
@[simp] theorem State.updCtx_sage (n : Nat) (f : Ctx → Ctx) : (s.updCtx n f).sage = s.sage := rfl
@[simp] theorem State.updCtx_pkg (n : Nat) (f : Ctx → Ctx) : (s.updCtx n f).pkg = s.pkg := rfl
@[simp] theorem State.updCtx_clock (n : Nat) (f : Ctx → Ctx) : (s.updCtx n f).clock = s.clock := rfl
@[simp] theorem State.updCtx_walksOut (n : Nat) (f : Ctx → Ctx) : (s.updCtx n f).walksOut = s.walksOut := rfl
@[simp] theorem State.updCtx_epoch (n : Nat) (f : Ctx → Ctx) : (s.updCtx n f).epoch = s.epoch := rfl
@[simp] theorem State.updCtx_stamps (n : Nat) (f : Ctx → Ctx) : (s.updCtx n f).stamps = s.stamps := rfl
@[simp] theorem State.updCtx_portable (n : Nat) (f : Ctx → Ctx) : (s.updCtx n f).portable = s.portable := rfl
@[simp] theorem State.updCtx_descs (n : Nat) (f : Ctx → Ctx) : (s.updCtx n f).descs = s.descs := rfl
@[simp] theorem State.updCtx_out (n : Nat) (f : Ctx → Ctx) : (s.updCtx n f).out = s.out := rfl
@[simp] theorem State.updCtx_cur (n : Nat) (f : Ctx → Ctx) : (s.updCtx n f).cur = s.cur := rfl
@[simp] theorem State.updCtx_agenda (n : Nat) (f : Ctx → Ctx) : (s.updCtx n f).agenda = s.agenda := rfl
@[simp] theorem State.updCtx_evt (n : Nat) (f : Ctx → Ctx) : (s.updCtx n f).evt = s.evt := rfl
@[simp] theorem State.updCtx_free (n : Nat) (f : Ctx → Ctx) : (s.updCtx n f).free = s.free := rfl

/-! ### `setMe` -/

@[simp] theorem State.setMe_dies (c : Ctx) : (s.setMe c).dies = s.dies := rfl
@[simp] theorem State.setMe_cores (c : Ctx) : (s.setMe c).cores = s.cores := rfl
@[simp] theorem State.setMe_quads (c : Ctx) : (s.setMe c).quads = s.quads := rfl
@[simp] theorem State.setMe_mem (c : Ctx) : (s.setMe c).mem = s.mem := rfl
@[simp] theorem State.setMe_teams (c : Ctx) : (s.setMe c).teams = s.teams := rfl
@[simp] theorem State.setMe_jobs (c : Ctx) : (s.setMe c).jobs = s.jobs := rfl
@[simp] theorem State.setMe_fab (c : Ctx) : (s.setMe c).fab = s.fab := rfl
@[simp] theorem State.setMe_host (c : Ctx) : (s.setMe c).host = s.host := rfl
@[simp] theorem State.setMe_sage (c : Ctx) : (s.setMe c).sage = s.sage := rfl
@[simp] theorem State.setMe_pkg (c : Ctx) : (s.setMe c).pkg = s.pkg := rfl
@[simp] theorem State.setMe_clock (c : Ctx) : (s.setMe c).clock = s.clock := rfl
@[simp] theorem State.setMe_walksOut (c : Ctx) : (s.setMe c).walksOut = s.walksOut := rfl
@[simp] theorem State.setMe_epoch (c : Ctx) : (s.setMe c).epoch = s.epoch := rfl
@[simp] theorem State.setMe_stamps (c : Ctx) : (s.setMe c).stamps = s.stamps := rfl
@[simp] theorem State.setMe_portable (c : Ctx) : (s.setMe c).portable = s.portable := rfl
@[simp] theorem State.setMe_descs (c : Ctx) : (s.setMe c).descs = s.descs := rfl
@[simp] theorem State.setMe_out (c : Ctx) : (s.setMe c).out = s.out := rfl
@[simp] theorem State.setMe_cur (c : Ctx) : (s.setMe c).cur = s.cur := rfl
@[simp] theorem State.setMe_agenda (c : Ctx) : (s.setMe c).agenda = s.agenda := rfl
@[simp] theorem State.setMe_evt (c : Ctx) : (s.setMe c).evt = s.evt := rfl
@[simp] theorem State.setMe_free (c : Ctx) : (s.setMe c).free = s.free := rfl

/-! ### `updMe` -/

@[simp] theorem State.updMe_dies (f : Ctx → Ctx) : (s.updMe f).dies = s.dies := rfl
@[simp] theorem State.updMe_cores (f : Ctx → Ctx) : (s.updMe f).cores = s.cores := rfl
@[simp] theorem State.updMe_quads (f : Ctx → Ctx) : (s.updMe f).quads = s.quads := rfl
@[simp] theorem State.updMe_mem (f : Ctx → Ctx) : (s.updMe f).mem = s.mem := rfl
@[simp] theorem State.updMe_teams (f : Ctx → Ctx) : (s.updMe f).teams = s.teams := rfl
@[simp] theorem State.updMe_jobs (f : Ctx → Ctx) : (s.updMe f).jobs = s.jobs := rfl
@[simp] theorem State.updMe_fab (f : Ctx → Ctx) : (s.updMe f).fab = s.fab := rfl
@[simp] theorem State.updMe_host (f : Ctx → Ctx) : (s.updMe f).host = s.host := rfl
@[simp] theorem State.updMe_sage (f : Ctx → Ctx) : (s.updMe f).sage = s.sage := rfl
@[simp] theorem State.updMe_pkg (f : Ctx → Ctx) : (s.updMe f).pkg = s.pkg := rfl
@[simp] theorem State.updMe_clock (f : Ctx → Ctx) : (s.updMe f).clock = s.clock := rfl
@[simp] theorem State.updMe_walksOut (f : Ctx → Ctx) : (s.updMe f).walksOut = s.walksOut := rfl
@[simp] theorem State.updMe_epoch (f : Ctx → Ctx) : (s.updMe f).epoch = s.epoch := rfl
@[simp] theorem State.updMe_stamps (f : Ctx → Ctx) : (s.updMe f).stamps = s.stamps := rfl
@[simp] theorem State.updMe_portable (f : Ctx → Ctx) : (s.updMe f).portable = s.portable := rfl
@[simp] theorem State.updMe_descs (f : Ctx → Ctx) : (s.updMe f).descs = s.descs := rfl
@[simp] theorem State.updMe_out (f : Ctx → Ctx) : (s.updMe f).out = s.out := rfl
@[simp] theorem State.updMe_cur (f : Ctx → Ctx) : (s.updMe f).cur = s.cur := rfl
@[simp] theorem State.updMe_agenda (f : Ctx → Ctx) : (s.updMe f).agenda = s.agenda := rfl
@[simp] theorem State.updMe_evt (f : Ctx → Ctx) : (s.updMe f).evt = s.evt := rfl
@[simp] theorem State.updMe_free (f : Ctx → Ctx) : (s.updMe f).free = s.free := rfl

/-! ### `updCore` -/

@[simp] theorem State.updCore_dies (n : Nat) (f : Core → Core) : (s.updCore n f).dies = s.dies := rfl
@[simp] theorem State.updCore_ctxs (n : Nat) (f : Core → Core) : (s.updCore n f).ctxs = s.ctxs := rfl
@[simp] theorem State.updCore_quads (n : Nat) (f : Core → Core) : (s.updCore n f).quads = s.quads := rfl
@[simp] theorem State.updCore_mem (n : Nat) (f : Core → Core) : (s.updCore n f).mem = s.mem := rfl
@[simp] theorem State.updCore_teams (n : Nat) (f : Core → Core) : (s.updCore n f).teams = s.teams := rfl
@[simp] theorem State.updCore_jobs (n : Nat) (f : Core → Core) : (s.updCore n f).jobs = s.jobs := rfl
@[simp] theorem State.updCore_fab (n : Nat) (f : Core → Core) : (s.updCore n f).fab = s.fab := rfl
@[simp] theorem State.updCore_host (n : Nat) (f : Core → Core) : (s.updCore n f).host = s.host := rfl
@[simp] theorem State.updCore_sage (n : Nat) (f : Core → Core) : (s.updCore n f).sage = s.sage := rfl
@[simp] theorem State.updCore_pkg (n : Nat) (f : Core → Core) : (s.updCore n f).pkg = s.pkg := rfl
@[simp] theorem State.updCore_clock (n : Nat) (f : Core → Core) : (s.updCore n f).clock = s.clock := rfl
@[simp] theorem State.updCore_walksOut (n : Nat) (f : Core → Core) : (s.updCore n f).walksOut = s.walksOut := rfl
@[simp] theorem State.updCore_epoch (n : Nat) (f : Core → Core) : (s.updCore n f).epoch = s.epoch := rfl
@[simp] theorem State.updCore_stamps (n : Nat) (f : Core → Core) : (s.updCore n f).stamps = s.stamps := rfl
@[simp] theorem State.updCore_portable (n : Nat) (f : Core → Core) : (s.updCore n f).portable = s.portable := rfl
@[simp] theorem State.updCore_descs (n : Nat) (f : Core → Core) : (s.updCore n f).descs = s.descs := rfl
@[simp] theorem State.updCore_out (n : Nat) (f : Core → Core) : (s.updCore n f).out = s.out := rfl
@[simp] theorem State.updCore_cur (n : Nat) (f : Core → Core) : (s.updCore n f).cur = s.cur := rfl
@[simp] theorem State.updCore_agenda (n : Nat) (f : Core → Core) : (s.updCore n f).agenda = s.agenda := rfl
@[simp] theorem State.updCore_evt (n : Nat) (f : Core → Core) : (s.updCore n f).evt = s.evt := rfl
@[simp] theorem State.updCore_free (n : Nat) (f : Core → Core) : (s.updCore n f).free = s.free := rfl

/-! ### `updDie` -/

@[simp] theorem State.updDie_cores (d : Nat) (f : Die → Die) : (s.updDie d f).cores = s.cores := rfl
@[simp] theorem State.updDie_ctxs (d : Nat) (f : Die → Die) : (s.updDie d f).ctxs = s.ctxs := rfl
@[simp] theorem State.updDie_quads (d : Nat) (f : Die → Die) : (s.updDie d f).quads = s.quads := rfl
@[simp] theorem State.updDie_mem (d : Nat) (f : Die → Die) : (s.updDie d f).mem = s.mem := rfl
@[simp] theorem State.updDie_teams (d : Nat) (f : Die → Die) : (s.updDie d f).teams = s.teams := rfl
@[simp] theorem State.updDie_jobs (d : Nat) (f : Die → Die) : (s.updDie d f).jobs = s.jobs := rfl
@[simp] theorem State.updDie_fab (d : Nat) (f : Die → Die) : (s.updDie d f).fab = s.fab := rfl
@[simp] theorem State.updDie_host (d : Nat) (f : Die → Die) : (s.updDie d f).host = s.host := rfl
@[simp] theorem State.updDie_sage (d : Nat) (f : Die → Die) : (s.updDie d f).sage = s.sage := rfl
@[simp] theorem State.updDie_pkg (d : Nat) (f : Die → Die) : (s.updDie d f).pkg = s.pkg := rfl
@[simp] theorem State.updDie_clock (d : Nat) (f : Die → Die) : (s.updDie d f).clock = s.clock := rfl
@[simp] theorem State.updDie_walksOut (d : Nat) (f : Die → Die) : (s.updDie d f).walksOut = s.walksOut := rfl
@[simp] theorem State.updDie_epoch (d : Nat) (f : Die → Die) : (s.updDie d f).epoch = s.epoch := rfl
@[simp] theorem State.updDie_stamps (d : Nat) (f : Die → Die) : (s.updDie d f).stamps = s.stamps := rfl
@[simp] theorem State.updDie_portable (d : Nat) (f : Die → Die) : (s.updDie d f).portable = s.portable := rfl
@[simp] theorem State.updDie_descs (d : Nat) (f : Die → Die) : (s.updDie d f).descs = s.descs := rfl
@[simp] theorem State.updDie_out (d : Nat) (f : Die → Die) : (s.updDie d f).out = s.out := rfl
@[simp] theorem State.updDie_cur (d : Nat) (f : Die → Die) : (s.updDie d f).cur = s.cur := rfl
@[simp] theorem State.updDie_agenda (d : Nat) (f : Die → Die) : (s.updDie d f).agenda = s.agenda := rfl
@[simp] theorem State.updDie_evt (d : Nat) (f : Die → Die) : (s.updDie d f).evt = s.evt := rfl
@[simp] theorem State.updDie_free (d : Nat) (f : Die → Die) : (s.updDie d f).free = s.free := rfl

/-! ### `come`: an arrival changes the stamps alone -/

@[simp] theorem State.come_dies (p : Spot) (k : Nat) : (s.come p k).dies = s.dies := rfl
@[simp] theorem State.come_cores (p : Spot) (k : Nat) : (s.come p k).cores = s.cores := rfl
@[simp] theorem State.come_ctxs (p : Spot) (k : Nat) : (s.come p k).ctxs = s.ctxs := rfl
@[simp] theorem State.come_quads (p : Spot) (k : Nat) : (s.come p k).quads = s.quads := rfl
@[simp] theorem State.come_mem (p : Spot) (k : Nat) : (s.come p k).mem = s.mem := rfl
@[simp] theorem State.come_teams (p : Spot) (k : Nat) : (s.come p k).teams = s.teams := rfl
@[simp] theorem State.come_jobs (p : Spot) (k : Nat) : (s.come p k).jobs = s.jobs := rfl
@[simp] theorem State.come_fab (p : Spot) (k : Nat) : (s.come p k).fab = s.fab := rfl
@[simp] theorem State.come_host (p : Spot) (k : Nat) : (s.come p k).host = s.host := rfl
@[simp] theorem State.come_sage (p : Spot) (k : Nat) : (s.come p k).sage = s.sage := rfl
@[simp] theorem State.come_pkg (p : Spot) (k : Nat) : (s.come p k).pkg = s.pkg := rfl
@[simp] theorem State.come_clock (p : Spot) (k : Nat) : (s.come p k).clock = s.clock := rfl
@[simp] theorem State.come_walksOut (p : Spot) (k : Nat) : (s.come p k).walksOut = s.walksOut := rfl
@[simp] theorem State.come_epoch (p : Spot) (k : Nat) : (s.come p k).epoch = s.epoch := rfl
@[simp] theorem State.come_portable (p : Spot) (k : Nat) : (s.come p k).portable = s.portable := rfl
@[simp] theorem State.come_descs (p : Spot) (k : Nat) : (s.come p k).descs = s.descs := rfl
@[simp] theorem State.come_out (p : Spot) (k : Nat) : (s.come p k).out = s.out := rfl
@[simp] theorem State.come_cur (p : Spot) (k : Nat) : (s.come p k).cur = s.cur := rfl
@[simp] theorem State.come_agenda (p : Spot) (k : Nat) : (s.come p k).agenda = s.agenda := rfl
@[simp] theorem State.come_evt (p : Spot) (k : Nat) : (s.come p k).evt = s.evt := rfl
@[simp] theorem State.come_free (p : Spot) (k : Nat) : (s.come p k).free = s.free := rfl
@[simp] theorem State.come_ctx (p : Spot) (k n : Nat) : (s.come p k).ctx n = s.ctx n := rfl
@[simp] theorem State.come_die (p : Spot) (k n : Nat) : (s.come p k).die n = s.die n := rfl
@[simp] theorem State.come_core (p : Spot) (k n : Nat) : (s.come p k).core n = s.core n := rfl
@[simp] theorem State.come_me (p : Spot) (k : Nat) : (s.come p k).me = s.me := rfl

/-! ### `updJob` -/

@[simp] theorem State.updJob_dies (j : Nat) (f : Job → Job) : (s.updJob j f).dies = s.dies := rfl
@[simp] theorem State.updJob_cores (j : Nat) (f : Job → Job) : (s.updJob j f).cores = s.cores := rfl
@[simp] theorem State.updJob_ctxs (j : Nat) (f : Job → Job) : (s.updJob j f).ctxs = s.ctxs := rfl
@[simp] theorem State.updJob_quads (j : Nat) (f : Job → Job) : (s.updJob j f).quads = s.quads := rfl
@[simp] theorem State.updJob_mem (j : Nat) (f : Job → Job) : (s.updJob j f).mem = s.mem := rfl
@[simp] theorem State.updJob_teams (j : Nat) (f : Job → Job) : (s.updJob j f).teams = s.teams := rfl
@[simp] theorem State.updJob_fab (j : Nat) (f : Job → Job) : (s.updJob j f).fab = s.fab := rfl
@[simp] theorem State.updJob_host (j : Nat) (f : Job → Job) : (s.updJob j f).host = s.host := rfl
@[simp] theorem State.updJob_sage (j : Nat) (f : Job → Job) : (s.updJob j f).sage = s.sage := rfl
@[simp] theorem State.updJob_pkg (j : Nat) (f : Job → Job) : (s.updJob j f).pkg = s.pkg := rfl
@[simp] theorem State.updJob_clock (j : Nat) (f : Job → Job) : (s.updJob j f).clock = s.clock := rfl
@[simp] theorem State.updJob_walksOut (j : Nat) (f : Job → Job) : (s.updJob j f).walksOut = s.walksOut := rfl
@[simp] theorem State.updJob_epoch (j : Nat) (f : Job → Job) : (s.updJob j f).epoch = s.epoch := rfl
@[simp] theorem State.updJob_stamps (j : Nat) (f : Job → Job) : (s.updJob j f).stamps = s.stamps := rfl
@[simp] theorem State.updJob_portable (j : Nat) (f : Job → Job) : (s.updJob j f).portable = s.portable := rfl
@[simp] theorem State.updJob_descs (j : Nat) (f : Job → Job) : (s.updJob j f).descs = s.descs := rfl
@[simp] theorem State.updJob_out (j : Nat) (f : Job → Job) : (s.updJob j f).out = s.out := rfl
@[simp] theorem State.updJob_cur (j : Nat) (f : Job → Job) : (s.updJob j f).cur = s.cur := rfl
@[simp] theorem State.updJob_agenda (j : Nat) (f : Job → Job) : (s.updJob j f).agenda = s.agenda := rfl
@[simp] theorem State.updJob_evt (j : Nat) (f : Job → Job) : (s.updJob j f).evt = s.evt := rfl
@[simp] theorem State.updJob_free (j : Nat) (f : Job → Job) : (s.updJob j f).free = s.free := rfl

/-! ### `updTeam` -/

@[simp] theorem State.updTeam_dies (k : Nat) (f : Team → Team) : (s.updTeam k f).dies = s.dies := rfl
@[simp] theorem State.updTeam_cores (k : Nat) (f : Team → Team) : (s.updTeam k f).cores = s.cores := rfl
@[simp] theorem State.updTeam_ctxs (k : Nat) (f : Team → Team) : (s.updTeam k f).ctxs = s.ctxs := rfl
@[simp] theorem State.updTeam_quads (k : Nat) (f : Team → Team) : (s.updTeam k f).quads = s.quads := rfl
@[simp] theorem State.updTeam_mem (k : Nat) (f : Team → Team) : (s.updTeam k f).mem = s.mem := rfl
@[simp] theorem State.updTeam_jobs (k : Nat) (f : Team → Team) : (s.updTeam k f).jobs = s.jobs := rfl
@[simp] theorem State.updTeam_fab (k : Nat) (f : Team → Team) : (s.updTeam k f).fab = s.fab := rfl
@[simp] theorem State.updTeam_host (k : Nat) (f : Team → Team) : (s.updTeam k f).host = s.host := rfl
@[simp] theorem State.updTeam_sage (k : Nat) (f : Team → Team) : (s.updTeam k f).sage = s.sage := rfl
@[simp] theorem State.updTeam_pkg (k : Nat) (f : Team → Team) : (s.updTeam k f).pkg = s.pkg := rfl
@[simp] theorem State.updTeam_clock (k : Nat) (f : Team → Team) : (s.updTeam k f).clock = s.clock := rfl
@[simp] theorem State.updTeam_walksOut (k : Nat) (f : Team → Team) : (s.updTeam k f).walksOut = s.walksOut := rfl
@[simp] theorem State.updTeam_epoch (k : Nat) (f : Team → Team) : (s.updTeam k f).epoch = s.epoch := rfl
@[simp] theorem State.updTeam_stamps (k : Nat) (f : Team → Team) : (s.updTeam k f).stamps = s.stamps := rfl
@[simp] theorem State.updTeam_portable (k : Nat) (f : Team → Team) : (s.updTeam k f).portable = s.portable := rfl
@[simp] theorem State.updTeam_descs (k : Nat) (f : Team → Team) : (s.updTeam k f).descs = s.descs := rfl
@[simp] theorem State.updTeam_out (k : Nat) (f : Team → Team) : (s.updTeam k f).out = s.out := rfl
@[simp] theorem State.updTeam_cur (k : Nat) (f : Team → Team) : (s.updTeam k f).cur = s.cur := rfl
@[simp] theorem State.updTeam_agenda (k : Nat) (f : Team → Team) : (s.updTeam k f).agenda = s.agenda := rfl
@[simp] theorem State.updTeam_evt (k : Nat) (f : Team → Team) : (s.updTeam k f).evt = s.evt := rfl
@[simp] theorem State.updTeam_free (k : Nat) (f : Team → Team) : (s.updTeam k f).free = s.free := rfl

/-! ### `result` -/

@[simp] theorem State.result_dies (z : Slot) (l : Nat) (d : Dest) (v : Line) : (s.result z l d v).dies = s.dies := rfl
@[simp] theorem State.result_cores (z : Slot) (l : Nat) (d : Dest) (v : Line) : (s.result z l d v).cores = s.cores := rfl
@[simp] theorem State.result_quads (z : Slot) (l : Nat) (d : Dest) (v : Line) : (s.result z l d v).quads = s.quads := rfl
@[simp] theorem State.result_mem (z : Slot) (l : Nat) (d : Dest) (v : Line) : (s.result z l d v).mem = s.mem := rfl
@[simp] theorem State.result_teams (z : Slot) (l : Nat) (d : Dest) (v : Line) : (s.result z l d v).teams = s.teams := rfl
@[simp] theorem State.result_jobs (z : Slot) (l : Nat) (d : Dest) (v : Line) : (s.result z l d v).jobs = s.jobs := rfl
@[simp] theorem State.result_fab (z : Slot) (l : Nat) (d : Dest) (v : Line) : (s.result z l d v).fab = s.fab := rfl
@[simp] theorem State.result_host (z : Slot) (l : Nat) (d : Dest) (v : Line) : (s.result z l d v).host = s.host := rfl
@[simp] theorem State.result_sage (z : Slot) (l : Nat) (d : Dest) (v : Line) : (s.result z l d v).sage = s.sage := rfl
@[simp] theorem State.result_pkg (z : Slot) (l : Nat) (d : Dest) (v : Line) : (s.result z l d v).pkg = s.pkg := rfl
@[simp] theorem State.result_clock (z : Slot) (l : Nat) (d : Dest) (v : Line) : (s.result z l d v).clock = s.clock := rfl
@[simp] theorem State.result_walksOut (z : Slot) (l : Nat) (d : Dest) (v : Line) : (s.result z l d v).walksOut = s.walksOut := rfl
@[simp] theorem State.result_epoch (z : Slot) (l : Nat) (d : Dest) (v : Line) : (s.result z l d v).epoch = s.epoch := rfl
@[simp] theorem State.result_stamps (z : Slot) (l : Nat) (d : Dest) (v : Line) : (s.result z l d v).stamps = s.stamps := rfl
@[simp] theorem State.result_portable (z : Slot) (l : Nat) (d : Dest) (v : Line) : (s.result z l d v).portable = s.portable := rfl
@[simp] theorem State.result_descs (z : Slot) (l : Nat) (d : Dest) (v : Line) : (s.result z l d v).descs = s.descs := rfl
@[simp] theorem State.result_out (z : Slot) (l : Nat) (d : Dest) (v : Line) : (s.result z l d v).out = s.out := rfl
@[simp] theorem State.result_cur (z : Slot) (l : Nat) (d : Dest) (v : Line) : (s.result z l d v).cur = s.cur := rfl
@[simp] theorem State.result_agenda (z : Slot) (l : Nat) (d : Dest) (v : Line) : (s.result z l d v).agenda = s.agenda := rfl
@[simp] theorem State.result_evt (z : Slot) (l : Nat) (d : Dest) (v : Line) : (s.result z l d v).evt = s.evt := rfl
@[simp] theorem State.result_free (z : Slot) (l : Nat) (d : Dest) (v : Line) : (s.result z l d v).free = s.free := rfl

/-! ### Contexts, cores and dies read back -/

@[simp] theorem State.setCtx_ctx_same (n : Nat) (c : Ctx) : (s.setCtx n c).ctx n = c := by simp [State.ctx, State.setCtx]

theorem State.setCtx_ctx_ne (n m : Nat) (c : Ctx) (h : n ≠ m) : (s.setCtx n c).ctx m = s.ctx m := by
  simp [State.ctx, State.setCtx, Sparse.get_set_ne _ _ _ _ _ h]

@[simp] theorem State.updCtx_ctx_same (n : Nat) (f : Ctx → Ctx) : (s.updCtx n f).ctx n = f (s.ctx n) := by
  simp [State.updCtx]

theorem State.updCtx_ctx_ne (n m : Nat) (f : Ctx → Ctx) (h : n ≠ m) : (s.updCtx n f).ctx m = s.ctx m :=
  s.setCtx_ctx_ne n m _ h

@[simp] theorem State.setMe_me (c : Ctx) : (s.setMe c).me = c := by simp [State.me, State.setMe]

@[simp] theorem State.updMe_me (f : Ctx → Ctx) : (s.updMe f).me = f s.me := by simp [State.updMe]

theorem State.updMe_ctx_ne (f : Ctx → Ctx) (m : Nat) (h : s.cur ≠ m) : (s.updMe f).ctx m = s.ctx m :=
  s.setCtx_ctx_ne s.cur m _ h

@[simp] theorem State.updCore_core_same (n : Nat) (f : Core → Core) : (s.updCore n f).core n = f (s.core n) := by
  simp [State.core, State.updCore]

theorem State.updCore_core_ne (n m : Nat) (f : Core → Core) (h : n ≠ m) : (s.updCore n f).core m = s.core m := by
  simp [State.core, State.updCore, Sparse.get_set_ne _ _ _ _ _ h]

@[simp] theorem State.updDie_die_same (d : Nat) (f : Die → Die) : (s.updDie d f).die d = f (s.die d) := by
  simp [State.die, State.updDie]

theorem State.updDie_die_ne (d e : Nat) (f : Die → Die) (h : d ≠ e) : (s.updDie d f).die e = s.die e := by
  simp [State.die, State.updDie, Sparse.get_set_ne _ _ _ _ _ h]

@[simp] theorem State.updCore_ctx (n m : Nat) (f : Core → Core) : (s.updCore n f).ctx m = s.ctx m := rfl
@[simp] theorem State.updDie_ctx (d m : Nat) (f : Die → Die) : (s.updDie d f).ctx m = s.ctx m := rfl
@[simp] theorem State.setCtx_core (n m : Nat) (c : Ctx) : (s.setCtx n c).core m = s.core m := rfl
@[simp] theorem State.updCtx_core (n m : Nat) (f : Ctx → Ctx) : (s.updCtx n f).core m = s.core m := rfl
@[simp] theorem State.setCtx_die (n d : Nat) (c : Ctx) : (s.setCtx n c).die d = s.die d := rfl
@[simp] theorem State.updCtx_die (n d : Nat) (f : Ctx → Ctx) : (s.updCtx n f).die d = s.die d := rfl
@[simp] theorem State.updCore_die (n d : Nat) (f : Core → Core) : (s.updCore n f).die d = s.die d := rfl
@[simp] theorem State.updDie_core (d n : Nat) (f : Die → Die) : (s.updDie d f).core n = s.core n := rfl
@[simp] theorem State.updMe_core (f : Ctx → Ctx) (n : Nat) : (s.updMe f).core n = s.core n := rfl
@[simp] theorem State.updMe_die (f : Ctx → Ctx) (d : Nat) : (s.updMe f).die d = s.die d := rfl
@[simp] theorem State.updCore_me (n : Nat) (f : Core → Core) : (s.updCore n f).me = s.me := rfl
@[simp] theorem State.updDie_me (d : Nat) (f : Die → Die) : (s.updDie d f).me = s.me := rfl

/-- A result is added to those in flight; everything else of the context is as before (R197). -/
@[simp] theorem State.result_me (z : Slot) (l : Nat) (d : Dest) (v : Line) : (s.result z l d v).me = s.me.result z l d v := by
  simp [State.result]

theorem State.result_ctx_ne (z : Slot) (l : Nat) (d : Dest) (v : Line) (m : Nat) (h : s.cur ≠ m) :
    (s.result z l d v).ctx m = s.ctx m := s.updMe_ctx_ne _ m h

/-! ### Two updates of one context -/

@[simp] theorem State.setCtx_setCtx (n : Nat) (c d : Ctx) : (s.setCtx n c).setCtx n d = s.setCtx n d := by simp [State.setCtx]

@[simp] theorem State.updCtx_updCtx (n : Nat) (f g : Ctx → Ctx) : (s.updCtx n f).updCtx n g = s.updCtx n (fun c => g (f c)) := by
  simp [State.updCtx]

@[simp] theorem State.updMe_updMe (f g : Ctx → Ctx) : (s.updMe f).updMe g = s.updMe (fun c => g (f c)) := by
  simp [State.updMe, State.setMe, State.me]

/-! ### A result leaves the rest of its context -/

variable (c : Ctx)

@[simp] theorem Ctx.result_mode (z : Slot) (l : Nat) (d : Dest) (v : Line) : (c.result z l d v).mode = c.mode := rfl
@[simp] theorem Ctx.result_task (z : Slot) (l : Nat) (d : Dest) (v : Line) : (c.result z l d v).task = c.task := rfl
@[simp] theorem Ctx.result_regs (z : Slot) (l : Nat) (d : Dest) (v : Line) : (c.result z l d v).regs = c.regs := rfl
@[simp] theorem Ctx.result_sys (z : Slot) (l : Nat) (d : Dest) (v : Line) : (c.result z l d v).sys = c.sys := rfl
@[simp] theorem Ctx.result_planes (z : Slot) (l : Nat) (d : Dest) (v : Line) : (c.result z l d v).planes = c.planes := rfl
@[simp] theorem Ctx.result_mem (z : Slot) (l : Nat) (d : Dest) (v : Line) : (c.result z l d v).mem = c.mem := rfl
@[simp] theorem Ctx.result_sync (z : Slot) (l : Nat) (d : Dest) (v : Line) : (c.result z l d v).sync = c.sync := rfl
@[simp] theorem Ctx.result_fit (z : Slot) (l : Nat) (d : Dest) (v : Line) : (c.result z l d v).fit = c.fit := rfl
@[simp] theorem Ctx.result_seq (z : Slot) (l : Nat) (d : Dest) (v : Line) : (c.result z l d v).seq = c.seq := rfl
@[simp] theorem Ctx.result_cnt (z : Slot) (l : Nat) (d : Dest) (v : Line) : (c.result z l d v).cnt = c.cnt := rfl
@[simp] theorem Ctx.result_shadow (z : Slot) (l : Nat) (d : Dest) (v : Line) : (c.result z l d v).shadow = c.shadow := rfl

@[simp] theorem Ctx.result_pend (z : Slot) (l : Nat) (d : Dest) (v : Line) : (c.result z l d v).sched.pend =
    c.sched.pend ++ [{ due := c.sched.time + l, ord := c.sched.ord + z.num, slot := z, dest := d, val := v }] := rfl

end Sys2Proof.Machine
end

