-- ==== Sys2Proof/Laws/Act.lean ====
section
/-! SUPPORT. How an operation acts: `act`, `always` and `onVerdict` say everything that a meaning can do with its verdict. -/

namespace Sys2Proof.Machine

variable (s : State) (p : Pred) (v : Verdict) (eff : State → State)

/-- Under a false predicate nothing happens (R201). -/
theorem act_of_not_holds (h : s.me.holds p = false) : act s p v eff = .next s := by simp [act, h]

/-- An operation that issues has its effect. -/
theorem act_of_issues (h : s.issues p v) : act s p v eff = .next (eff s) := by
  obtain ⟨hp, hv⟩ := h
  rcases hv with rfl | hg
  · simp [act, hp, State.onVerdict]
  · simp [act, hp, State.onVerdict, hg]

theorem always_of_holds (h : s.me.holds p = true) : always s p eff = .next (eff s) :=
  act_of_issues s p .issue eff ⟨h, .inl rfl⟩

theorem always_of_not_holds (h : s.me.holds p = false) : always s p eff = .next s := act_of_not_holds s p .issue eff h

theorem onVerdict_of_granted (h : s.me.sched.granted = true) : s.onVerdict v eff = eff s := by simp [State.onVerdict, h]

theorem onVerdict_issue : s.onVerdict .issue eff = eff s := by simp [State.onVerdict]

/-- A verdict that is not to issue, of a bundle that was not found to issue: the trap is taken before the bundle (R403). -/
theorem act_of_trap (i : TrapInfo) (h : s.me.holds p = true) (hg : s.me.sched.granted = false) :
    act s p (.trap i) eff = .next (s.takeTrap i) := by simp [act, h, hg, State.onVerdict]

/-- What an operation can come to, every case. -/
theorem act_cases : ∃ t, act s p v eff = .next t ∧
    (t = s ∨ t = eff s ∨ (∃ i, t = s.takeTrap i) ∨ (∃ w, t = s.freeze w) ∨ (∃ a, t = s.decline a) ∨ t = s.emptyBundle) := by
  refine ⟨_, rfl, ?_⟩
  by_cases h : s.me.holds p = true
  · rw [if_pos h]
    unfold State.onVerdict
    cases hg : s.me.sched.granted
    · cases v with
      | issue => exact .inr (.inl rfl)
      | trap i => exact .inr (.inr (.inl ⟨i, rfl⟩))
      | freeze w => exact .inr (.inr (.inr (.inl ⟨w, rfl⟩)))
      | decline a => exact .inr (.inr (.inr (.inr (.inl ⟨a, rfl⟩))))
      | hold => exact .inr (.inr (.inr (.inr (.inr rfl))))
    · exact .inr (.inl rfl)
  · rw [if_neg h]
    exact .inl rfl

theorem result_eq_scheduled (z : Slot) (l : Nat) (d : Dest) (x : Line) : s.result z l d x = s.scheduled z l d x := rfl

end Sys2Proof.Machine
end

