-- ==== Sys2Proof/Laws/Lines.lean ====
section
/-! SUPPORT. Lines by elements: reading back what a line was built from. -/

namespace Sys2Proof.Machine

/-- The number whose field k of width b is f k. -/
def packed (b : Nat) (f : Nat → Nat) (n : Nat) : Nat := (List.range n).foldl (fun acc e => acc + (f e % 2 ^ b) <<< (b * e)) 0

theorem packed_succ (b : Nat) (f : Nat → Nat) (n : Nat) : packed b f (n + 1) = packed b f n + (f n % 2 ^ b) * 2 ^ (b * n) := by
  simp [packed, List.range_succ, Nat.shiftLeft_eq]

theorem packed_lt (b : Nat) (f : Nat → Nat) (n : Nat) : packed b f n < 2 ^ (b * n) := by
  induction n with
  | zero => simp [packed]
  | succ n ih =>
    rw [packed_succ, Nat.mul_succ, Nat.pow_add]
    have h : f n % 2 ^ b < 2 ^ b := Nat.mod_lt _ (by positivity)
    have : (f n % 2 ^ b + 1) * 2 ^ (b * n) ≤ 2 ^ b * 2 ^ (b * n) := Nat.mul_le_mul_right _ h
    nlinarith

theorem packed_field (b : Nat) (f : Nat → Nat) (n e : Nat) (h : e < n) : packed b f n / 2 ^ (b * e) % 2 ^ b = f e % 2 ^ b := by
  induction n with
  | zero => omega
  | succ n ih =>
    rw [packed_succ]
    by_cases he : e = n
    · subst he
      have h0 : 0 < 2 ^ (b * e) := by positivity
      rw [Nat.add_mul_div_right _ _ h0, Nat.div_eq_of_lt (packed_lt b f e)]
      simp
    · have hl : e < n := by omega
      obtain ⟨k, rfl⟩ : ∃ k, n = e + 1 + k := ⟨n - (e + 1), by omega⟩
      have : (f (e + 1 + k) % 2 ^ b) * 2 ^ (b * (e + 1 + k)) = ((f (e + 1 + k) % 2 ^ b) * 2 ^ (b * k) * 2 ^ b) * 2 ^ (b * e) := by
        rw [show b * (e + 1 + k) = b * e + b + b * k by ring, Nat.pow_add, Nat.pow_add]; ring
      rw [this, Nat.add_mul_div_right _ _ (by positivity), Nat.add_mod, Nat.mul_mod_left, Nat.add_zero, Nat.mod_mod, ih hl]

/-- An element of a line of elements is what the line was built from. -/
theorem lineElem_lineOfElems (b n : Nat) (f : Nat → Nat) (e : Nat) (he : e < n) (hn : b * n ≤ 2048) :
    lineElem b (lineOfElems b n f) e = f e % 2 ^ b := by
  have hlt : packed b f n < 2 ^ 2048 := Nat.lt_of_lt_of_le (packed_lt b f n) (Nat.pow_le_pow_right (by omega) hn)
  have : (lineOfElems b n f).toNat = packed b f n := by
    unfold lineOfElems
    rw [BitVec.toNat_ofNat, show List.foldl (fun acc e => acc + (f e % 2 ^ b) <<< (b * e)) 0 (List.range n) = packed b f n from rfl,
      Nat.mod_eq_of_lt hlt]
  rw [lineElem, bits, this, Nat.shiftRight_eq_div_pow, packed_field b f n e he]

theorem Ty.bits_mul_elems (t : Ty) : t.bits * t.elems = 2048 := by cases t <;> rfl

/-- An element of a vector result. -/
theorem lineElem_vline (t : Ty) (f : Nat → Nat) (e : Nat) (he : e < t.elems) : lineElem t.bits (vline t f) e = f e % 2 ^ t.bits :=
  lineElem_lineOfElems _ _ _ _ he (Ty.bits_mul_elems t).le

theorem lineElem_lt (b : Nat) (l : Line) (e : Nat) : lineElem b l e < 2 ^ b := Nat.mod_lt _ (by positivity)

/-- A word is the element of width 32. -/
theorem lineWord_toNat (l : Line) (w : Nat) : (lineWord l w).toNat = lineElem 32 l w := by
  simp [lineWord, lineElem, bits]

end Sys2Proof.Machine
end

