-- ==== Sys2Proof/Laws/Memory.lean ====
section
/-! SUPPORT. Memory: every operation keeps its canonical form; reading after writing. -/

namespace Sys2Proof.Machine

theorem Memory.wf_nil : Memory.wf [] := by simp [Memory.wf]

theorem Memory.put_wf (m : Memory) (a : Nat) (b : Byte) (h : Memory.wf m) : Memory.wf (Memory.put m a b) := by
  unfold Memory.put Sparse.put
  split
  · exact ⟨Sparse.rising_erase m a h.1, fun c hc => h.2 c (Sparse.mem_of_mem_erase m a c hc)⟩
  · rename_i hb
    refine ⟨Sparse.rising_set m a b h.1, fun c hc => ?_⟩
    rcases Sparse.mem_insert _ a b c hc with rfl | hc
    · exact hb
    · exact h.2 c (Sparse.mem_of_mem_erase m a c hc)

theorem Memory.putAll_wf (bs : List Byte) : ∀ (m : Memory) (a : Nat), Memory.wf m → Memory.wf (Memory.putAll m a bs) := by
  induction bs with
  | nil => exact fun m a h => h
  | cons b r ih => exact fun m a h => ih _ _ (Memory.put_wf m a b h)

theorem Memory.filter_wf (m : Memory) (f : Host.Cell → Bool) (h : Memory.wf m) : Memory.wf (m.filter f) := by
  refine ⟨?_, fun c hc => h.2 c ((List.mem_filter.mp hc).1)⟩
  exact h.1.sublist (List.filter_sublist.map _)

theorem Memory.within_wf (m : Memory) (lo hi : Nat) (h : Memory.wf m) : Memory.wf (Memory.within m lo hi) :=
  Memory.filter_wf m _ h

theorem Memory.canon_wf (b : Memory) : Memory.wf (Memory.canon b) := by
  unfold Memory.canon
  split
  · rename_i h
    simp only [Bool.and_eq_true, List.all_eq_true, bne_iff_ne] at h
    exact ⟨Sparse.rising_of_sorted b h.1, h.2⟩
  · have key : ∀ l : Memory, Memory.wf (l.foldr (fun c m => Memory.put m c.1 c.2) []) := by
      intro l
      induction l with
      | nil => exact Memory.wf_nil
      | cons c r ih => exact Memory.put_wf _ _ _ ih
    exact key b

theorem Memory.put_keys (m : Memory) (a : Nat) (b : Byte) : ∀ c ∈ Memory.put m a b, c.1 = a ∨ c ∈ m := by
  intro c hc
  unfold Memory.put Sparse.put at hc
  split at hc
  · exact .inr (Sparse.mem_of_mem_erase m a c hc)
  · rcases Sparse.mem_insert _ a b c hc with rfl | hc
    · exact .inl rfl
    · exact .inr (Sparse.mem_of_mem_erase m a c hc)

/-- The canonical form names no address that the list did not name. -/
theorem Memory.canon_keys (b : Memory) : ∀ c ∈ Memory.canon b, ∃ c' ∈ b, c'.1 = c.1 := by
  have key : ∀ (l : Memory) (c : Host.Cell), c ∈ l.foldr (fun c m => Memory.put m c.1 c.2) [] → ∃ c' ∈ l, c'.1 = c.1 := by
    intro l
    induction l with
    | nil => simp
    | cons x r ih =>
      intro c hc
      rw [List.foldr_cons] at hc
      rcases Memory.put_keys _ _ _ c hc with h | h
      · exact ⟨x, by simp, h.symm⟩
      · obtain ⟨c', h1, h2⟩ := ih c h
        exact ⟨c', by simp [h1], h2⟩
  intro c hc
  unfold Memory.canon at hc
  split at hc
  · exact ⟨c, hc, rfl⟩
  · exact key b c hc

theorem Memory.splice_wf (m : Memory) (lo hi : Nat) (b : Memory) (hlh : lo ≤ hi) (h : Memory.wf m) :
    Memory.wf (Memory.splice m lo hi b) := by
  have h1 := Memory.filter_wf m (fun c => decide (c.1 < lo)) h
  have h2 := Memory.canon_wf (Memory.within b lo hi)
  have h3 := Memory.filter_wf m (fun c => decide (hi ≤ c.1)) h
  have k1 : ∀ c ∈ m.filter (fun c => decide (c.1 < lo)), c.1 < lo := by
    intro c hc; simpa using (List.mem_filter.mp hc).2
  have k2 : ∀ c ∈ Memory.canon (Memory.within b lo hi), lo ≤ c.1 ∧ c.1 < hi := by
    intro c hc
    obtain ⟨c', h', e⟩ := Memory.canon_keys _ c hc
    have := (List.mem_filter.mp h').2
    simp only [Bool.and_eq_true, decide_eq_true_eq] at this
    omega
  have k3 : ∀ c ∈ m.filter (fun c => decide (hi ≤ c.1)), hi ≤ c.1 := by
    intro c hc; simpa using (List.mem_filter.mp hc).2
  refine ⟨?_, ?_⟩
  · unfold Memory.splice
    rw [List.map_append, List.map_append, List.pairwise_append, List.pairwise_append]
    refine ⟨⟨h1.1, h2.1, ?_⟩, h3.1, ?_⟩
    · intro a ha c hc
      obtain ⟨x, hx, rfl⟩ := List.mem_map.mp ha
      obtain ⟨y, hy, rfl⟩ := List.mem_map.mp hc
      have := k1 x hx; have := k2 y hy; omega
    · intro a ha c hc
      obtain ⟨y, hy, rfl⟩ := List.mem_map.mp hc
      have := k3 y hy
      rcases List.mem_append.mp ha with ha | ha
      · obtain ⟨x, hx, rfl⟩ := List.mem_map.mp ha
        have := k1 x hx; omega
      · obtain ⟨x, hx, rfl⟩ := List.mem_map.mp ha
        have := k2 x hx; omega
  · intro c hc
    unfold Memory.splice at hc
    rcases List.mem_append.mp hc with hc | hc
    · rcases List.mem_append.mp hc with hc | hc
      · exact h1.2 c hc
      · exact h2.2 c hc
    · exact h3.2 c hc

theorem layout_wf (base : Nat) (fs : List (Nat × Nat × Nat)) : Memory.wf (layout base fs) := by
  unfold layout
  have key : ∀ (fs : List (Nat × Nat × Nat)) (m : Memory), Memory.wf m →
      Memory.wf (fs.foldl (fun m f => if f.2.2 = 0 then m else Memory.putAll m (base + f.1) (toBytes f.2.1 f.2.2)) m) := by
    intro fs
    induction fs with
    | nil => exact fun m h => h
    | cons f r ih =>
      intro m h
      rw [List.foldl_cons]
      apply ih
      split
      · exact h
      · exact Memory.putAll_wf _ _ _ h
  exact key fs [] Memory.wf_nil

theorem carry_wf (m : Memory) (lo n base : Nat) (h : Memory.wf m) : Memory.wf (carry m lo n base) := by
  have hw := Memory.within_wf m lo (lo + n) h
  have hk : ∀ c ∈ Memory.within m lo (lo + n), lo ≤ c.1 := by
    intro c hc
    have := (List.mem_filter.mp hc).2
    simp only [Bool.and_eq_true, decide_eq_true_eq] at this
    exact this.1
  refine ⟨?_, ?_⟩
  · have hr := hw.1
    rw [List.pairwise_map] at hr
    unfold carry
    rw [List.map_map, List.pairwise_map]
    refine List.Pairwise.imp_of_mem ?_ hr
    intro x y hx hy hxy
    have := hk x hx; have := hk y hy
    show x.1 - lo + base < y.1 - lo + base
    omega
  · intro c hc
    obtain ⟨x, hx, rfl⟩ := List.mem_map.mp hc
    exact hw.2 x hx

@[simp] theorem Memory.get_put_same (m : Memory) (a : Nat) (b : Byte) : Memory.get (Memory.put m a b) a = b := by
  simp [Memory.get, Memory.put]

theorem Memory.get_put_ne (m : Memory) (a x : Nat) (b : Byte) (h : a ≠ x) : Memory.get (Memory.put m a b) x = Memory.get m x :=
  Sparse.get_put_ne 0 m a x b h

/-- A byte outside a range of writes is as before. -/
theorem Memory.get_putAll_ne (bs : List Byte) : ∀ (m : Memory) (a x : Nat), (x < a ∨ a + bs.length ≤ x) →
    Memory.get (Memory.putAll m a bs) x = Memory.get m x := by
  induction bs with
  | nil => exact fun m a x _ => rfl
  | cons b r ih =>
    intro m a x h
    simp only [List.length_cons] at h
    rw [Memory.putAll, ih _ _ _ (by omega), Memory.get_put_ne m a x b (by omega)]

end Sys2Proof.Machine
end

