-- ==== Sys2Proof/Tests/Slice0.lean ====
section
/-! SUPPORT. Tests: ill-formed operations that the slot checks refuse, words written out from the encoding tables, one-step results
worked by hand from the spec, and for each obligation states and operands that meet the hypotheses of its clauses together. -/

set_option maxRecDepth 20000
set_option linter.unusedVariables false


namespace Sys2Proof.Tests

set_option Elab.async false

open Sys2Proof.Machine

/-- The always-true predicate. -/
abbrev T : Pred := Pred.always

/-! Ill-formed operations, one for each check of WellFormed; the code is the one the rule names. -/

/-- Grid lines, formats and headers that the tests name. -/
abbrev gh (i : BitVec 6) : LineRef := ⟨.h, i⟩

def xfOf (tf tt : EFmt) (d a n : BitVec 6) : Xf := { tf := tf, tt := tt, d := gh d, a := gh a, n := n, fl := 3 }

def hdrOf (sc nd : BitVec 3) (kb : BitVec 4) (acq : Bool) : CpyHdr :=
  { fl := 3, acq := acq, rel := false, sc := sc, nd := nd, kb := kb, yf := false, ac := 0, banks := 0 }

def amoOf (wide u : Bool) : Amo := { d := 7, a := 4, ac := 0, dist := 1200, wide := wide, u := u, v := 6 }

theorem test_wf_sync : ([.nop 3, .wait 3 1 false false, .wait 0 0 true false, .arv 3 1 false, .bwt 3 1 false, .fmt 3 false 0, .fmt 0 false 5, .fmt 0 false 16,
    .fmt 0 true 1, .fenceAcq 3 .die, .fenceRel 3 .die, .fenceAll 3 .die, .join 3 1, .join 0 0, .leave 3 1, .leave 0 0, .yield 3, .hndl 3] : List Instr).map Instr.check =
  [some .rsvField, some .rsvField, some .rsvField, some .rsvField, some .rsvField, some .rsvField, some .fmtCode, some .fmtCode, some .fmtCode, some .rsvField,
   some .rsvField, some .rsvField, some .rsvField, some .rsvField, some .rsvField, some .rsvField, some .rsvField, some .rsvField] := by decide

theorem test_wf_scalar : ([.shlImm T 1 2 64, .shrImm T 1 2 64, .sarImm T 1 2 64, .rotImm T 1 2 0xFFFFFFFF, .acmp T 1 2 3 .lt, .amov T 3 1 2, .amov T 0 32 2, .amov T 0 1 32,
    .amov T 1 32 40, .loop T 6 true 0 1 1, .loop T 1 true 2 1 1, .loop T 1 false 2 1 7, .prioSelf T 1 8, .prioTask T 1 2 8, .qlvl T 1 2 3] : List Instr).all
      (fun i => i.check == some .rsvField) = true := by decide

theorem test_wf_vector_fields : ([.vadd T false .f32 (gh 0) (.land 0) (.land 1) true, .vsub T false .bf16 (gh 0) (.land 0) (.land 1) true, .vmul T true .ln6 (gh 0) (.land 0) (.land 1) true,
    .vcmp T false .f32 .ltu (gh 0) (.land 0) (.land 1)] : List Instr).all (fun i => i.check == some .rsvField) = true := by decide

theorem test_wf_vector_types : ([.vadd T false .f8e4 (gh 0) (.land 0) (.land 1) false, .vfma T false .i32 (gh 0) (.land 0) (.land 1) (.land 2), .vfms T false .ln6 (gh 0) (.land 0) (.land 1) (.land 2),
    .vmin T false .f8e5 (gh 0) (.land 0) (.land 1), .vmax T false .ln6 (gh 0) (.land 0) (.land 1), .vabs T false .ln6 (gh 0) (.land 0), .vneg T false .f8e4 (gh 0) (.land 0),
    .vclamp T false .ln6 (gh 0) (.land 0) (.land 1) (.land 2), .vmulh T false .f32 (gh 0) (.land 0) (.land 1), .vrcp T false .i8 (gh 0) (.land 0), .vrsq T false .i8 (gh 0) (.land 0),
    .vexp2 T false .i8 (gh 0) (.land 0), .vlog2 T false .i8 (gh 0) (.land 0), .vsqrt T false .i8 (gh 0) (.land 0), .vq8 T false .f16 (gh 0) (.land 0) true,
    .vdq8 T false .f16 (gh 0) (.land 0) (.land 1) true, .vand T false .f32 (gh 0) (.land 0) (.land 1), .vor T false .f32 (gh 0) (.land 0) (.land 1), .vxor T false .f32 (gh 0) (.land 0) (.land 1),
    .vnot T false .f32 (gh 0) (.land 0), .vshl T false .f32 (gh 0) (.land 0) 1, .vshr T false .f32 (gh 0) (.land 0) 1, .vsar T false .f32 (gh 0) (.land 0) 1, .vpopc T false .f32 (gh 0) (.land 0),
    .vclz T false .f32 (gh 0) (.land 0), .vcmp T false .ln6 .eq (gh 0) (.land 0) (.land 1), .viota T false .f32 (gh 0) 0, .vredsum T false .ln6 (gh 0) (.land 0), .vredmax T false .ln6 (gh 0) (.land 0),
    .vredmin T false .f8e4 (gh 0) (.land 0), .vamax T false .i8 0 (.land 0)] : List Instr).all (fun i => i.check == some .type) = true := by decide

theorem test_wf_vector_ranges : ([.vcvt T false .f32 .bf16 (gh 0) (.land 0) 2, .vshl T false .i8 (gh 0) (.land 0) 8, .vshr T false .i16 (gh 0) (.land 0) 16, .vsar T false .i32 (gh 0) (.land 0) 32,
    .vbcast T false .f32 (gh 0) (.land 0) 64, .viota T false .i32 (gh 0) 64, .vrot T false .f32 (gh 0) (.land 0) 64] : List Instr).all (fun i => i.check == some .range) = true := by decide

theorem test_wf_matrix : ([.mcfg T .i8 1, .mcfg T .bf16 0, .mldw T .n8 (gh 0), .mldw T .bf16 (gh 49), .mstrm T .i32 (gh 0) 0 false 0 0 false, .mstrm T .bf16 (gh 60) 4 false 0 0 false,
    .mstrm T .bf16 (gh 0) 1 false 0 63 false, .mzero T 0, .mrdacc T .bf16 (gh 0) 0 false 4, .maddacc T .i16 (gh 0) 0 false 0, .maddacc T .bf16 (gh 0) 0 false 4, .mwaitp T 0] : List Instr).map Instr.check =
  [some .type, some .range, some .type, some .range, some .type, some .range, some .range, some .range, some .range, some .type, some .range, some .range] := by decide

theorem test_wf_memory : ([.amoAdd T (amoOf true true), .amoAnd T (amoOf true true), .amoOr T (amoOf true true), .amoXch T (amoOf true true), .amoCas T (amoOf true true), .amoFadd T (amoOf false true),
    .amoFadd T (amoOf true false), .stlx T .f32 0 (.land 0) 1 0 0, .tlwr T .f32 1 (.land 0) 1 0, .tlwr T .i8 0 (.land 0) 1 0] : List Instr).map Instr.check =
  [some .rsvField, some .rsvField, some .rsvField, some .rsvField, some .rsvField, some .rsvField, some .rsvField, some .type, some .rsvField, some .type] := by decide

theorem test_wf_copies : ([.cpy T (hdrOf 5 1 0 true), .cpy T (hdrOf 1 1 0 false), .cpy T (hdrOf 0 0 0 false), .cpy T (hdrOf 0 7 0 false), .cpy T (hdrOf 0 1 15 false), .cred T (hdrOf 5 1 0 true),
    .cmc T (hdrOf 0 1 15 false), .cgat T (hdrOf 0 7 0 false)] : List Instr).map Instr.check =
  [some .rsvField, some .rsvField, some .rsvField, some .rsvField, some .range, some .rsvField, some .range, some .rsvField] := by decide

theorem test_wf_engine : ([.xcvt T (xfOf .bs4 .f32 0 8 7), .xcvt T (xfOf .f32 .bf16 0 8 0), .xcvt T (xfOf .f32 .f32 60 8 7), .xcvt T (xfOf .f32 .f32 0 60 7), .xtrn T (xfOf .f32 .bf16 0 8 7), .xtrn T (xfOf .f32 .f32 0 8 6),
    .xtrn T (xfOf .f32 .f32 60 8 7), .xtrn T (xfOf .f32 .f32 0 60 7), .xpack T (xfOf .f32 .f32 0 8 7), .xpack T (xfOf .f32 .sb1 0 60 7), .xpack T (xfOf .f32 .bs4 60 8 63),
    .xexp T (xfOf .bs4 .f32 0 40 7) 4, .xexp T (xfOf .f32 .f32 0 40 7) 0, .xexp T (xfOf .bs4 .f32 60 40 7) 0, .xexp T (xfOf .bs4 .f32 0 63 63) 3,
    .apxb T 3 0, .apxe ⟨false, 1⟩ 3, .ftcfg T 3 7, .ftcfgNew T 3 7, .ftstep T 3 7 1, .ftsamp T 3 7 1, .ftst T 3 0 1] : List Instr).map Instr.check =
  [some .type, some .range, some .range, some .range, some .type, some .range, some .range, some .range, some .type, some .range, some .range,
   some .rsvField, some .type, some .range, some .range,
   some .range, some .rsvField, some .range, some .range, some .range, some .range, some .rsvField] := by decide

/-- Boundary values that the checks accept. -/
theorem test_wf_accepts : ([.wait 2 0 false false, .fmt 0 false 12, .join 0 4095, .shlImm T 1 2 63, .amov T 1 31 63, .amov T 2 63 31, .loop T 5 true 0 63 0, .prioSelf T 1 7, .qlvl T 1 2 2,
    .vadd T false .i8 (gh 0) (.land 0) (.land 1) true, .vshl T false .i8 (gh 0) (.land 0) 7, .vcvt T false .f32 .bf16 (gh 0) (.land 0) 1, .mldw T .bf16 (gh 48), .mstrm T .bf16 (gh 0) 63 false 1 0 false,
    .cpy T (hdrOf 0 1 12 false), .xtrn T (xfOf .f32 .f32 56 56 7), .ftcfg T 3 6, .tlwr T .f32 0 (.land 0) 1 0] : List Instr).all Instr.wf = true := by decide

/-! Words written out bit by bit from the encoding tables (R110 to R126): each decodes to its operation. -/

/-- `w` in slot `z` decodes to `i`. -/
def reads (z : Slot) (w : BitVec 64) (i : Instr) : Bool := match decodeSlot z w with | .ok (some j) => decide (j = i) | _ => false

/-- `w` in slot `z` is refused with code `c`. -/
def refuses (z : Slot) (w : BitVec 64) (c : SealCode) : Bool := match decodeSlot z w with | .error d => decide (d = c) | _ => false

theorem test_decode_sync : reads .sy 0x02B80000 (.wait 0 5 true true) ∧ reads .sy 0x06022000 (.bwt 0 17 false) ∧ reads .sy 0x0CC00000 (.fenceRel 0 .pkg) ∧
    reads .sy 0x0F000000 (.fenceAll 0 .dom) ∧ reads .sy 0x1200A000 (.leave 0 5) ∧ reads .sy 0x40000000 (.nop 1) ∧ refuses .sy 0x18000000 .opcode ∧
    refuses .sy 0x02000001 .rsvField ∧ refuses .sy 0xC0000000 .rsvField := by decide

theorem test_decode_scalar : reads .s 0x6650000000000600 (.lpsnxt T 20 6) ∧ reads .s 0x700000000002A000 (.trap T 0x2A) ∧ reads .s 0x72140000000D8000 (.sysrd T 5 0x0D8) ∧
    reads .s 0x7400000000000000 (.halt T) ∧ reads .s 0x7510A00000000000 (.frz T 4 10) ∧ reads .s 0x7610A00000000000 (.drain T 4 10) ∧ reads .s 0x7810A20000000000 (.imgw T 4 10 8 false false) ∧
    reads .s 0x7910930000000000 (.imgr T 4 9 12) ∧ reads .s 0x7C10000000000000 (.rtver T 4) ∧ reads .s 0x7E10700000000000 (.reconf T 4 7) := by decide

theorem test_decode_vector : reads .v0 0x1A002C3C30010000 (.vdq8 T false .f32 (gh 2) (.land 3) (.land 3) true) := by decide

theorem test_decode_matrix : reads .m 0x0600314000100000 (.mrdacc T .bf16 (gh 3) 5 false 0) := by decide

theorem test_decode_memory : reads .ld 0x0610C0140000 (.ldl T 2 3 0 40 0) ∧ refuses .ld 0x0C0000000000 .opcode ∧ refuses .st 0x0A0000000000 .opcode := by decide

/-! Small states. -/
/-- Context 0 of core 0 from reset, changed by `f`. -/
def ctx0 (f : Ctx → Ctx) : State := State.reset.updMe f

/-- Registers g1, g2 hold 5 and all ones, g3 the lowest signed value; a1 an address of home 5; f2 is set; index 10. -/
def s0 : State := ctx0 (fun c => { c with
  regs := { c.regs with g := [(1, 5), (2, 0xFFFFFFFFFFFFFFFF), (3, 0x8000000000000000)], a := [(1, 0x000A0000FFFFFFFFFFF0)], f := 4 }
  sched := { c.sched with pc := 10, time := 100 } })

/-- An image of the given bundles, sealed at every die that the states here use. -/
def image0 (bs : List (BitVec 512)) : Image :=
  { handle := 0x10001, bundles := bs, entries := [0], handlers := [0], regions := [], sys := false, digest := 0, data := [], dataAt := 0,
    ready := true, file := [] }

/-- A task record of job 1, entry 0, without inputs and outputs. -/
def rec0 : TaskRec :=
  { image := 0x10001, entry := 0, prio := 3, lvl := 0, exact := 0, ins := [], outs := [], args := [7, 8], team := 0, rank := 0, tsize := 1,
    job := 1 }

/-- Task 9 with that record. -/
def task0 : Task :=
  { tid := 9, desc := rec0, level := 0, base := 3, born := 0, slept := 0, rebuilt := false, redispatched := false, restored := false,
    target := 0, pin := none, dataSec := 0, apxIn := false, pkg := 0 }

/-- s0 with 20 bundles of the task's image. -/
def s1 : State := { s0 with dies := [(0, { Die.reset with images := [image0 (List.replicate 20 0)] })] }.updMe (fun c => { c with mode := .task, task := some task0 })

/-- A context whose innermost loop ends at its index 10, with loop register 2 at `n`. -/
def loopCtx (ls : List LoopRec) (n : W32) : Ctx :=
  { Ctx.reset with regs := { Regs.reset with lc := [(2, n)] }, sched := { Sched.reset with pc := 10, loops := ls ++ [⟨2, 8, 10⟩] } }

def withBar (s : State) (v : BarView) : State :=
  { s with dies := [(0, { Die.reset with images := [image0 (List.replicate 20 0)], bars := [(0, { team := 2 ^ 49 + 9, name := 5, phase := 0, e := 2, a := 0, members := [(0, false, false), (1, false, false)], notify := [] })] })] }.updMe (fun c => { c with sync := { c.sync with bars := [(5, v)] } })

/-- s1's context running `t`. -/
def withTask (t : Task) : State := s1.updMe (fun c => { c with task := some t })

/-- A nest of two loops with counts 3 and 4, loop 1 outermost (R161). -/
def nest0 : BitVec 256 := BitVec.ofNat 256 (2 + 3 * 2 ^ 10 + 2 * 2 ^ 60 + 1 * 2 ^ 64)

/-- s1 with the nest configured, at linear index `cur` of [0, hi). -/
def seqAt (cur hi : Nat) : State :=
  s1.updMe (fun c => { c with seq := { c.seq with conf := true, desc := nest0, cur := cur, hi := hi, tcfg := 92 } })

/-- Job 1 of s1 has its step mark of task 9. -/
def sMark : State := { s1 with jobs := [(1, { Job.reset with marks := [(0, 9)] })] }

/-- Task 9 as a rebuild. -/
def tReb : Task := { task0 with rebuilt := true }

/-- Task 9 with the output `r`, a tile of home 0. -/
def tOut (r : W64) : Task := { task0 with desc := { rec0 with outs := [r] } }

/-- Ring 2 of core 0: four slots of 256 bytes from granule 0x1000, the slots' tags as given. -/
def withRing (pi ci : Nat) (tags : Sparse W64) : State :=
  s1.updCore 0 (fun c => { c with rings := [(2, { conf := true, desc := BitVec.ofNat 64 (0x1000 + 3 * 2 ^ 24), owner := 0, pi := pi, ci := ci, tags := tags, was := none })] })

/-- The context of s1 in a handler for a trap at time 60. -/
def shadow0 : Shadow :=
  { t := 60, readCause := true, readAddr := true, engine := 0, parked := [], base := 0x16000, cause := 1, invoc := none, keep := [], ref := none,
    inline := false, cmd := none, seq := none }

def inHandler (h : Shadow) : State := s1.updMe (fun c => { c with mode := .handler, shadow := some h })

/-- A version of one 8 by 64 FP32 tile in state `st`, stored at the start of the die's HBM. -/
def tile0 (st : Nat) : Tile :=
  { rows8 := 0, cols8 := 7, efmt := 0, state := st, apx := false, repl := false, nolin := false, level := 0, depth := 0, wprio := 0,
    usesinit := 0, uses := 0, loc := 0, linrec := 0, deps := 0, prod := none, job := 1, marked := [], dead := false, again := false,
    kept := false, parked := [], watch := [] }

/-- `s` with that version 1 of tile 1 at die 0, changed by `f`. -/
def withTile (s : State) (y : Tile) : State := s.updDie 0 (fun d => { d with tiles := [((mkRef 0 1 1).toNat, y)] })

/-- A translation of the page of 64 KiB at offset 0 of home 0. -/
def tlb0 : TlbEntry :=
  { home := 0, page := 0, size := 16, frame := 0x20, r := true, w := true, kind := .o, d := true, pn := false }

/-- s1 with the translation in core 0's micro-TLB. -/
def sTlb : State := s1.updCore 0 (fun c => { c with utlb := [tlb0] })

/-- s1 with register g1 at `w` and context 1 changed by `f`. -/
def sWr (w : W64) (f : Ctx → Ctx) : State :=
  (s1.updMe (fun c => { c with regs := { c.regs with g := [(1, w)] } })).setCtx 1 (f Ctx.reset)

/-- A line whose byte k is (a × k + b) mod 256. -/
def lineAt (a b : Nat) : Line := BitVec.ofNat 2048 ((List.range 256).foldr (fun k x => x * 256 + (a * k + b) % 256) 0)

/-- s1 with lines in grid rows 0 to 3 and landing slot 3, and the format word `fmt`. -/
def sV (fmt : W32) : State := s1.updMe (fun c => { c with regs := { c.regs with
  fmt := fmt, grid := [(0, lineAt 37 11), (1, lineAt 91 200), (2, lineAt 3 0x3C), (3, lineAt 0 0x41)], land := [(3, lineAt 13 5)] } })

/-- s1 with a NaN in element 0 of grid row 3. -/
def sNan : State := s1.updMe (fun c => { c with regs := { c.regs with grid := [(3, 0x7FC00000)] } })

/-- Context 0 with planes changed by `f`, at core cycle 1000, with leases of every class until cycle 5000. -/
def sM (f : Planes → Planes) : State :=
  ((sV 0).updMe (fun c => { c with planes := f { c.planes with acc := [(0, 0x3F800000), (5, 0x4000000040400000)], ws := [(3, lineAt 7 1)] } })).updCore 0
    (fun c => { c with cycle := 1000, leases := [(1, 5000), (2, 5000), (3, 5000)] })

/-- Planes 0 and 3 are busy until cycle 1010. -/
def busyPlanes (x : Planes) : Planes := { x with busyOther := [(0, 1010), (3, 1010)] }

/-- An address of the self alias (R178). -/
def ownAddr (off : Nat) : W80 := BitVec.ofNat 80 (0x7FFF * 2 ^ 65 + off)

/-- sV with a1 at offset `off` of the own working area, bytes 1 to 4 at offset 0x1FFFC of context 0's. -/
def sLd (off : Nat) : State :=
  { (sV 0).updMe (fun c => { c with regs := { c.regs with a := [(1, ownAddr off), (2, 5 * 2 ^ 65)], g := [(1, 4), (2, 0xFFFFFFFFFFFFFFFF), (5, 0x11)] } }) with
    mem := (List.range 4).map (fun k => (plainBase 0 + 0x1FFFC + k, BitVec.ofNat 8 (k + 1))) }

/-- An atomic on g2 and g5 through a1. -/
def amo0 : Amo := { d := 5, a := 1, ac := 0, dist := 40, wide := true, u := true, v := 2 }

/-- A copy header: flag 3, staging from register 14, two dimensions. -/
def hdr0 : CpyHdr := { fl := 3, acq := false, rel := false, sc := 2, nd := 1, kb := 14, yf := false, ac := 0, banks := 0 }

/-- A command of flag 3 in state `st`. -/
def cmd0 (st : CmdStat) (cause : Nat) : Cmd :=
  { id := 2, op := 1, hdr := hdr0, stage := [], fmt := 0, rsn := 0, stat := st, off := 7, acq := false, cause := cause, taddr := 0x40, trap := 0,
    tc := 0, rl := 0, resv := false, table := [], born := 0, ord := 0, far := [] }

/-- Leases of every class, staging registers and the commands `ms`. -/
def sCpy (ms : List Cmd) : State :=
  (sM id).updMe (fun c => { c with regs := { c.regs with k := (List.range 16).map (fun i => (i, BitVec.ofNat 64 (100 + i))) }, mem := { c.mem with cmds := ms } })

/-- A transform of 8 lines from h0 to h8. -/
def xf0 (tf tt : EFmt) : Xf := { tf := tf, tt := tt, d := ⟨.h, 8⟩, a := ⟨.h, 0⟩, n := 7, fl := 3 }

/-- Such a transform in the unit, at time 98 with beat `b` next. -/
def xform0 (b : Nat) : Xform :=
  { t0 := 98, ord := 5, op := 1, x := xf0 .f32 .n32, xr := 0, fmt := 0, rsn := 0, live := true, beat := b, held := [], done := 0, err := false, fin := none }

def sXf (xs : List Xform) : State := (sV 0).updMe (fun c => { c with sched := { c.sched with xforms := xs } })

/-- Region 3: four inputs in h0, two outputs in h5, both FP32; one layer. -/
def item0 : Item := BitVec.ofNat 512 (3 + 9 * 2 ^ 8 + 5 * 2 ^ 64 + 3 * 2 ^ 108 + 1 * 2 ^ 115 + 1 * 2 ^ 122)

/-- A view bound to version 1 of tile 1, in state `st`. -/
def view0 (st : Nat) : View :=
  { state := st, served := false, nsamp := 2, npass := 1, nfail := 1, inv := 9, wref := mkRef 0 1 1, loaded := true, bufOff := 0x8000, cap := 8 }

/-- An entry of a quad's region table for that version, of `n` words. -/
def regEntry0 (n : Nat) : RegEntry :=
  { wref := mkRef 0 1 1, loaded := true, nlines := 1, base := 0, refs := 1, used := 0, words := List.replicate n 0x3F800000 }

/-- The image has region 3; its view is `v`; the open invocation is `i`. -/
def sReg (v : View) (i : Option Invoc) : State :=
  let s : State := { s1 with dies := [(0, { Die.reset with images := [{ image0 (List.replicate 20 0) with regions := [item0] }] })], quads := [(0, [(0, regEntry0 100)])] }
  s.updMe (fun c => { c with fit := { c.fit with views := [(3, v)], invoc := i, cmps := [{ rg := 3, c := 500, known := true, pass := true }] } })

/-- An invocation of region 3 at time 60. -/
def invoc0 (record both : Bool) : Invoc := { rg := 3, t := 60, record := record, both := both, serve := false, input := [0, 0, 0, 0], ys := [0, 0], late := false, last := 10 }

/-- sReg with g/z registers for a binding of tile 1's version in state `st`, 2 buffer records at 0x8000. -/
def sBind (t : Task) (y : Tile) : State :=
  withTile ((sReg View.reset none).updMe (fun c => { c with task := some t, regs := { c.regs with z := [(2, mkRef 0 1 1), (3, BitVec.ofNat 64 (0x8000 + 2 * 2 ^ 32))] } })) y

/-- The tile's version with the rows that the network of region 3 needs. -/
def tileW (st : Nat) : Tile := { tile0 st with rows8 := 7, prod := some (0, 9) }

/-- The non-zero bytes of `bs`, laid from address `a`. -/
def cells (a : Nat) (bs : List Byte) : Memory := (number 0 bs).filterMap (fun p => if p.2 = 0 then none else some (a + p.1, p.2))

/-- Team 7 of job 1, two members, in state `st`. -/
def team0 (st : Nat) : Team :=
  { key := 7, job := 1, die := 0, queue := 0, tsize := 2, state := st, ranks := [0, 1], ended := [], bindDie := 0, image := 0, placed := true,
    choice := none, masked := false, first := 0, reserved := [], since := 0, saved := [], sending := none }

/-- Its member of rank `r`. -/
def memb (r : Nat) : Task := { task0 with tid := 20 + r, desc := { rec0 with team := 7, rank := r, tsize := 2 } }

/-- The members run on contexts 4 and 8, which are in mode `m`; context 0 runs task 9 of the same job. -/
def sTeam (st : Nat) (m : Mode) : State :=
  let s : State := { sLd 0x100 with teams := [team0 st] }
  let s := s.updDie 0 (fun d => { d with entries := [⟨0, memb 0, .running 4, none⟩, ⟨0, memb 1, .running 8, none⟩],
                                         dirty := [(3, true), (dirtyNo 0 0, true), (77, true), (90, false)] })
  let s := (s.setCtx 4 { Ctx.reset with mode := m, task := some (memb 0) }).setCtx 8 { Ctx.reset with mode := m, task := some (memb 1) }
  (s.updMe (fun c => { c with regs := { c.regs with g := [(1, 7), (2, BitVec.ofNat 64 (1 + 7 * 2 ^ 32)), (3, 64 + 5)], a := [(1, ownAddr 0x100), (2, 0)] } })).updCore 0
    (fun c => { c with utlb := [{ tlb0 with size := 30, frame := 0x40000000 }] })

/-- A packet of class `cls` from die 0 to package 1. -/
def pkt0 (cls : BitVec 2) : Packet := { packetZero with dpkg := 1, cls := cls, op := 2, body := [1, 2, 3, 4] }

/-- A RECONF descriptor at offset 0x1D000 of context 0's working area: version 1, a group of this package alone, tables at 0, members
at 0x1C800; a request of die 0 is not acknowledged. -/
def sRcf : State :=
  { (s1.updMe (fun c => { c with regs := { c.regs with a := [(1, ownAddr 0x1D000)] } })).updDie 0 (fun d => { d with e2e := { d.e2e with store := [pkt0 0] } }) with
    mem := cells (plainBase 0 + 0x1D000) (toBytes 24 (1 + 0x7FFF000000000000 * 2 ^ 64 + 0x7FFF00000001C800 * 2 ^ 128)) }

/-- Core 0 at cycle 1000 runs task 9 on context 0, at index 10 of an image of 20 bundles whose SY word is `w`; its bundle cache holds
`cache`; the core is changed by `f`. -/
def sRun (w : Nat) (cache : List CacheLine) (f : Core → Core) : State :=
  ({ s1 with dies := [(0, { Die.reset with images := [image0 (List.replicate 20 (bundleOf .sy (BitVec.ofNat 64 w)))] })] } : State).updCore 0
    (fun c => f { c with idle := false, cycle := 1000, cache := cache })

/-- The line of the presented bundle. -/
def line10 : CacheLine := { image := 0x10001, line := 2, lock := none }

/-- A latch due at time 99. -/
def latch0 (stat : LatchStat) (pad : Nat) : Latch :=
  { req := 4, due := 99, dist := 40, ord := 3, slot := .ld, dest := .g 5, flag := none, stat := stat, ready := 990, pad := pad, born := 0, worst := 0, data := 0x77,
    cause := 0x21, taddr := 0x40 }

def withLatch (l : Latch) : State := (sRun 0 [line10] id).updMe (fun c => { c with sched := { c.sched with latches := [l] } })

/-- `s` with event arguments n and m. -/
def ev (s : State) (n m : Nat) : State := { s with evt := { evtZero with n := n, m := m } }

/-- s0 with a result for g3 due at time 100 and one for g4 due at 101, and an armed timer that falls due at cycle 900. -/
def sDue (ps : List Pend) : State :=
  ((sRun 0 [line10] id).updMe (fun c => { c with sched := { c.sched with pend := ps }, sys := { c.sys with timer := 0x8000000000000384 } }))

def pend0 (due : Nat) (d : Dest) (z : Slot) (ord : Nat) : Pend := { due := due, ord := ord, slot := z, dest := d, val := 0x1234 }

/-- Region 3 of context 0 as `v` with a comparison made at time 40. -/
def sCmp (v : View) (pass : Bool) : State := (sReg v none).updMe (fun c => { c with fit := { c.fit with cmps := [{ rg := 3, c := 40, known := true, pass := pass }] } })

/-- A background fitting operation on the view. -/
def fitOp0 (step : Bool) : FitOp :=
  { step := step, rg := 3, w := mkRef 0 1 1, w2 := mkRef 0 1 1, fl := 5, nsamp := 2, npass := 1, nfail := 1, inv := 9, recs := [], fin := 0, sent := [], err := none }

def sFit (s : State) (o : FitOp) : State := s.updMe (fun c => { c with fit := { c.fit with ops := [o] } })

/-- s1 with versions of tiles 1 (VALID, 64 columns), 2 (WRITING by task 9, 64 columns) and 3 (WRITING by task 9, 128 columns), 64 rows each. -/
def sTiles : State := s1.updDie 0 (fun d => { d with tiles :=
  [((mkRef 0 1 1).toNat, tileW 3), ((mkRef 0 2 1).toNat, { tileW 2 with loc := 0x10000 }), ((mkRef 0 3 1).toNat, { tileW 2 with cols8 := 15, loc := 0x20000 })] })

/-- An FTCFG of context 0 waits for version 1 of tile 1. -/
def sWant : State := sTiles.updMe (fun c => { c with fit := { c.fit with want := some (mkRef 0 1 1, 3, false) } })

/-- A piece of 3 bytes at position 1 of its access, at address `a`. -/
def piece0 (a : Nat) (held : Bool) : Piece := { off := 0x1001, pos := 1, len := 3, pa := some a, kind := .o, done := false, held := held, bad := none }

/-- A request of context 0 that asks `op`. -/
def req0 (op : ReqOp) (ps : List Piece) : Req :=
  { id := 4, ord := 3, t := 90, slot := .st, op := op, cls := 0, home := 0, base := 0x1000, pieces := ps, data := [1, 2, 0, 4], fault := none,
    performed := false, acked := false, bound := none, remote := none, place := none }

/-- sM with the request `r`, planes and core as `f` and `g` make them; the event is about request 4 of context 0. -/
def sReq (r : Req) (f : Planes → Planes) : State :=
  { ev ((sM f).updMe (fun c => { c with mem := { c.mem with reqs := [r] } })) 0 4 with mem := [(0x1001, 9), (0x1002, 8)] }

/-- Window addresses of core 0: grid row 1, accumulator row 5 of context 0 (R180). -/
def gridAddr : Nat := 0x80000400101
def accAddr : Nat := 0x80000404281

/-- A walk for core 0. -/
def walk0 : Walk := { home := 0, off := 0x1000, write := false, pkg := 0, core := 0, tag := 0, cycle := 0 }

/-- A page table of die 0 whose first level-1 entry is a leaf at frame 0. -/
def sWalk : State :=
  ({ ev s1 0 4 with mem := [(0x200000, 0x4F)] } : State).updDie 0 (fun d => { d with root := 0x8000000000200000, walking := [walk0] })

/-- A performed PUTH to address `a`. -/
def puth0 (a : Nat) : Req := { req0 .puth [{ piece0 a false with done := true }] with performed := true }

/-- A delivered PUTH of context 0 that wakes context 8, which is armed or not. -/
def sPut (armed : Bool) : State :=
  (sReq (puth0 (plainBase 8)) id).setCtx 8 { Ctx.reset with sys := { SysRegs.reset with armed := armed } }

/-- A dormant context 8 with a wake. -/
def sDorm : State :=
  (ev s1 8 0).setCtx 8 { Ctx.reset with sys := { SysRegs.reset with armed := true, himg := 0x10001, hctl := 0x8000000000000000 },
                                        sync := { SyncSide.reset with wakes := [(0x40, 3), (0x80, 4)] } }

/-- A team member on context 4 with an operation on its way to the entry of name 5, which has `a` arrivals of `e`. -/
def sBarOp (op : BarOp) (e a : Nat) (ms : List (Nat × Bool × Bool)) (ns : List Nat) : State :=
  let s := (ev (sTeam 0 .task) 4 5).updDie 0 (fun d => { d with bars := [(0, { team := 7, name := 5, phase := 3, e := e, a := a, members := ms, notify := ns })] })
  s.updCtx 4 (fun c => { c with sync := { c.sync with out := [(op, 5, 0)], bars := [(5, { member := true, arrived := true, made := true })] } })

/-- Die 0 with the pool `es`, team 7 as `tm`, other contexts as in s1; the event is `n`, `m`. -/
def sPool (es : List QEntry) (tm : List Team) (n m : Nat) : State :=
  ({ ev s1 n m with teams := tm, clock := 2 ^ 21 } : State).updDie 0 (fun d => { d with entries := es })

/-- Core 0 with four free contexts and the pool `es`. -/
def sFree (es : List QEntry) (f : Core → Core) : State := ((sPool es [] 0 0).setCtx 0 Ctx.reset).updCore 0 f

/-- Tasks of priorities 3 and 5. -/
def taskP (id prio : Nat) : Task := { task0 with tid := id, base := prio, desc := { rec0 with prio := prio } }

/-- A CPY of two FP32 elements from 0x100 to 0x200 of the own working area; its control word has `ctl` added. -/
def cpy0 (st : CmdStat) (off ctl : Nat) : Cmd :=
  { cmd0 st 0 with hdr := { hdr0 with banks := 0xFFFFFFFF }, off := off, stage := [0x7FFF000000000100, 0x7FFF000000000200, BitVec.ofNat 64 ctl, BitVec.ofNat 64 (1 + 4 * 2 ^ 16 + 4 * 2 ^ 40)] }

/-- s1 with that command; the word at 0x104 is 0x01020304. -/
def sCmd (m : Cmd) : State :=
  { s1.updMe (fun c => { c with mem := { c.mem with cmds := [m] }, sched := { c.sched with pend := [] } }) with mem := cells (plainBase 0 + 0x104) [4, 3, 2, 1] }

/-- The reference that the tile tests use. -/
abbrev ref0 : W64 := mkRef 0 1 1

/-- A tile request on the reference or shape `w`. -/
def tileReq (op : ReqOp) (w : W64) : Req := { req0 op [] with slot := .ld, base := w.zeroExtend 80 }

/-- s1 with that request and version 1 of tile 1 as `y`; the event is about request 4 of context 0. -/
def sDir (r : Req) (y : Option Tile) : State :=
  let s := (ev s1 0 4).updMe (fun c => { c with mem := { c.mem with reqs := [r] } })
  match y with | some y => withTile s y | none => s

/-- The event of a home: reference, n and m, with the lineage side of die 0 as given. -/
def sHome (y : Tile) (n m : Nat) (f : Lineage → Lineage) : State :=
  (withTile { s1 with evt := { evtZero with n := n, m := m, w := ref0 } } y).updDie 0 (fun d => { d with lin := f d.lin })

/-- `s` with the event arguments `e`. -/
def evOf (s : State) (e : EvtArg) : State := { s with evt := e }

/-- A task of the image 0x10001 waits at die 1, which does not hold the image; die 0 does. -/
def sImg (flag : Bool) : State :=
  { s1 with evt := { evtZero with n := 1, w := 0x10001, flag := flag } }.updDie 1 (fun d => { d with entries := [⟨0, task0, .waiting, none⟩] })

/-- Die 0's control port with the operation `op` and operands as event, or already started. -/
def sPort (s : State) (op : Nat) (w v : W64) : State := { s with evt := { evtZero with n := 0, m := op, w := w, v := v } }

/-- A flit of kind `kind`, in sequence at `seq`, with a good check. -/
def flit0 (kind : BitVec 3) (seq : BitVec 13) : Flit := ({ flitZero with kind := kind, seq := seq } : Flit).sealed

/-- s1 late on its clock, link 3's sender and receiver as given, the event about link 3. -/
def sLink (snd rcv : LinkDir) (m : Nat) (flag : Bool) : State :=
  { s1 with evt := { evtZero with n := 3, m := m, k := 2, flag := flag, flit := flit0 1 5, w := 9 }, clock := 90000000
            fab := { s1.fab with links := [(6, snd), (7, rcv)] } }

/-- A direction in state `st` that has the wavelengths `mask`, number 5 next, and holds flits. -/
def dir0 (st : Nat) (mask : BitVec 16) (buf out : List Flit) : LinkDir := { LinkDir.reset with st := st, mask := mask, seq := 5, buf := buf, out := out }

/-- A packet of op `op` from die 2 of package 1 to die 0 of this package, with the aux and address words and body given. -/
def pktIn (op : BitVec 8) (aux addr : W64) (body : List Byte) : Packet :=
  { packetZero with spkg := 1, sdie := 2, op := op, aux := aux, addr := addr, body := body, cls := 1 }

/-- The package with the packet `p` at its destination die 0, a page table of one page, and the group of packages 0 and 1. -/
def sPkt (p : Packet) (low : Sparse Nat) : State :=
  let f : Fabric := { sWalk.fab with
    transit := [⟨p, some 3, false⟩], members := [(0, 0, 0, 0), (1, 1, 0, 0)], size := 2
    links := [(6, { LinkDir.reset with peer := some 0 })]
    active := { sWalk.fab.active with tab := [(0, 0x600), (1, BitVec.ofNat 128 (0x200 + 3 * 2 ^ 16)), (2, 0)] } }
  let s : State := { sWalk with evt := { evtZero with m := p.aux.toNat % 256 }, fab := f }
  s.updDie 0 (fun d => { d with e2e := { d.e2e with low := low } })

/-- An advance to version 1 that `due` have not answered. -/
def adv0 (due : List Nat) (sent again : Bool) : Advance := { ver := 1, due := due, start := 0, mark := 0, sent := sent, again := again }

/-- s1 late on its clock in a group of packages 0 and 1; the event is about `n`, `m`. -/
def sGrp (n m : Nat) (adv : Option Advance) : State :=
  { s1 with evt := { evtZero with n := n, m := m, list := [(192, 0)] }, clock := 90000000
            fab := { s1.fab with members := [(0, 0, 0, 0), (1, 1, 0, 0)], size := 2, adv := adv, shadow := { s1.fab.shadow with ver := 1 } } }

/-- The package with package 1's answer to the advance at its destination die 0. -/
def sDone (due : List Nat) : State :=
  let s := sPkt (pktIn 13 1 0 []) []
  { s with evt := { s.evt with n := 0 }, fab := { s.fab with adv := some (adv0 due true false) } }

/-- A RECONF of this group that has drained and holds link 6. -/
def rcf0 : Reconf := { desc := 0, ctx := none, die := 0, step := 2, start := 0, tabs := s1.fab.active, mems := [] }

/-- s1 with an owner, a job queue and an event ring of 8 entries, and the mailbox bytes `mb`; the host's event is `e`. -/
def sHost (owner : W64) (mb : List Byte) (e : EvtArg) : State :=
  { s1 with host := { s1.host with owner := owner, jqsize := 8, eqsize := 8, eqtail := 8, mbox := (cells 0 mb) }, evt := e }

/-- No job, no task: what lets the host set the ring registers. -/
def sIdle (e : EvtArg) : State := { State.reset with host := { HostSide.reset with owner := 5 }, evt := e }

/-- An image file of one bundle of no-operations, which is entry 0. -/
def file0 : List Byte := toBytes 319 (0x4D49575A + 2 ^ 32 + 2 ^ 64 + 2 ^ 96) ++ [0x40] ++ List.replicate 208 0

/-- A mailbox that holds the command `code` with its three operands. -/
def mbox0 (code a b c : Nat) : List Byte := toBytes 32 (code + 2 ^ 32 + a * 2 ^ 64 + b * 2 ^ 128 + c * 2 ^ 192)

/-- A result for `d` at time `due`, of issue order `ord`. -/
def pendOf (due ord : Nat) (d : Dest) (v : Nat) : Pend := ⟨due, ord, .s, d, BitVec.ofNat 2048 v⟩

/-- A context with results for every register file in flight. -/
def ctxP : Ctx := { Ctx.reset with sched := { Sched.reset with pend := [pendOf 90 3 (.g 4) 7, pendOf 99 9 (.g 4) 8, pendOf 100 4 (.a 3) 5, pendOf 100 5 (.lc 1) 6, pendOf 100 6 (.k 2) 9, pendOf 100 7 (.z 2) 9, pendOf 100 8 (.land 1) 11, pendOf 100 9 (.f 3) 1, pendOf 100 10 (.mx 1) 12, pendOf 101 11 (.g 5) 1] } }

/-- s1 with a frame area, and an enabled handler in context 0 when `on`. -/
def sTrap (on : Bool) (frame : W64) : State :=
  s1.updMe (fun c => { c with sys := { c.sys with tframe := frame, trapWord := if on then BitVec.ofNat 64 (2 ^ 63 + 7) else 0 } })

/-- A trap of cause 0x11 in slot 4. -/
def trap0 : TrapInfo := TrapInfo.issue .m 0x11 0x77


/-! Results worked by hand from the spec, and one step each. -/

/-- R54's worked example of a reference: die D2 of package 5, tile 0x731, version 3. -/
theorem test_reference : mkRef 22 0x731 3 = 0x002C000007310003 := by decide

/-- R75, R76 worked example: 300.0 and 500.0 to FP8. -/
theorem test_narrow_float : Rnd.ne.convElem .f32 .f8e4 0 0x43960000 = 0x79 ∧ Rnd.ne.convElem .f32 .f8e4 0 0x43FA0000 = 0x7E ∧
    Rnd.ne.convElem .f32 .f8e5 0 0x43960000 = 0x5D := by decide +kernel

/-- R84 to R87 worked example: 3.0 and the tie T(0) to LNS6. -/
theorem test_narrow_ln6 : Rnd.ne.convElem .f32 .ln6 0 0x40400000 = 0x06 ∧ Rnd.ne.convElem .f32 .ln6 0 0x3F8B95C2 = 0x00 := by decide +kernel

/-- The value in flight last in a next state, as a number. -/
def sent (o : Host.Outcome State Fault Refusal) : Option Nat :=
  match o with | .next t => (t.me.sched.pend.getLast?).map (fun p => p.val.toNat) | _ => none

/-- DIV and REM by 0, and of the lowest value by -1 (R228): g1 = 5, g2 = -1, g3 lowest, g4 = 0. -/
theorem test_divide : sent (exec (.div T 9 1 4 false) s0) = some 0xFFFFFFFFFFFFFFFF ∧ sent (exec (.rem T 9 1 4 false) s0) = some 5 ∧
    sent (exec (.div T 9 3 2 false) s0) = some 0x8000000000000000 ∧ sent (exec (.rem T 9 3 2 false) s0) = some 0 ∧
    sent (exec (.div T 9 2 1 true) s0) = some 0x3333333333333333 := by decide +kernel

/-- ADD wraps; an immediate is sign-extended (R227). -/
theorem test_add : sent (exec (.add T 9 1 2) s0) = some 4 ∧ sent (exec (.addImm T 9 1 0xFFFFFFFE) s0) = some 3 := by decide +kernel

/-- MULH unsigned of all ones and 5: floor(5 × (2^64 − 1) / 2^64) = 4 (R227). -/
theorem test_mulh : sent (exec (.mulh T 9 1 2 true) s0) = some 4 ∧ sent (exec (.mulh T 9 1 2 false) s0) = some 0xFFFFFFFFFFFFFFFF := by decide +kernel

/-- AADD keeps the upper bits and wraps the 48-bit offset (R230): a1's offset 0xFFFFFFF0 + 5. -/
theorem test_aadd : sent (exec (.aadd T 9 1 1) s0) = some 0x000A0000FFFFFFFFFFF5 := by decide +kernel

/-- A false predicate changes nothing (R105). -/
theorem test_false_predicate : exec (.add ⟨true, 0⟩ 9 1 2) s0 = .next s0 := by rfl

/-- The VREDSUM worked example (R95, R254): 2^24, 1, 1, -2^24 give 1.0 in every element. -/
theorem test_vredsum : (sent (exec (.vredsum T false .f32 (gh 5) (.land 0)) (ctx0 (fun c => { c with regs := { c.regs with
    land := [(0, BitVec.ofNat 2048 (0x4B800000 + 0x3F800000 * 2 ^ 32 + 0x3F800000 * 2 ^ 64 + 0xCB800000 * 2 ^ 96))] } })))).map
      (fun v => (v % 2 ^ 32, v / 2 ^ 2016)) = some (0x3F800000, 0x3F800000) := by decide +kernel

/-- The VQ8 worked example (R94, R255): amax 254 gives scale 2.0. -/
theorem test_vq8 : (sent (exec (.vq8 T false .f32 (gh 5) (.land 0) true) (ctx0 (fun c => { c with regs := { c.regs with
    land := [(0, BitVec.ofNat 2048 (0x40400000 + 0x40A00000 * 2 ^ 32 + 0xC0E00000 * 2 ^ 64 + 0xC37E0000 * 2 ^ 96))] } })))).map
      (fun v => (v % 2 ^ 64, v / 2 ^ 1024 % 2 ^ 64)) = some (0x81FC0202, 0x40000000) := by decide +kernel

/-- Right after reset, with a SY word placed, the first step runs it: FMT schedules for 4 cycles later (R217). -/
theorem test_first_step : (match step (State.reset.withFetchWord 32 0x08000300) with
    | .next t => (t.ctx 0).sched.pend.map (fun p => (p.dest, p.due)) == [(Dest.fmtHalf false, 4)] && (t.ctx 0).sched.pc == 1
    | _ => false) = true := by decide +kernel

/-- A trap at issue of cause 0x2A starts the enabled handler at its index (R405). -/
theorem test_trap_entry : (match exec (.trap T 0x2A) (sTrap true 0x16000) with
    | .next t => (t.ctx 0).mode == .handler && (t.ctx 0).sched.pc == 7 && (t.ctx 0).sys.taddr == 0x2A
    | _ => false) = true := by decide +kernel

/-! Witnesses: for each obligation with hypotheses, states and operands that meet the hypotheses of a clause together. -/

/-- The state of an outcome. -/
def nextOf : Host.Outcome State Fault Refusal → State | .next t => t | _ => State.reset

theorem next_of {o : Host.Outcome State Fault Refusal} (h : (match o with | .next _ => true | _ => false) = true) : o = .next (nextOf o) := by
  cases o <;> simp_all [nextOf]

theorem witness_IntegerRegisterFormsScheduleTheirResult :
    (∃ (s : State) (p : Pred) (d : BitVec 6) (a : BitVec 6) (b : BitVec 6), s.me.holds p = true) ∧
    (∃ (s : State) (p : Pred) (d : BitVec 6) (a : BitVec 6), s.me.holds p = true) :=
  ⟨⟨s0, T, 3, 1, 2, by decide +kernel⟩,
   ⟨s0, T, 3, 1, by decide +kernel⟩⟩

theorem witness_IntegerImmediateFormsUseTheSignExtendedImmediate :
    (∃ (s : State) (p : Pred) (d : BitVec 6) (a : BitVec 6) (imm : BitVec 32), s.me.holds p = true) :=
  ⟨s0, T, 3, 1, 0xFFFFFFFE, by decide +kernel⟩

theorem witness_DivideAndRemainderDefineEveryCase :
    (∃ (s : State) (p : Pred) (d : BitVec 6) (a : BitVec 6) (b : BitVec 6) (u : Bool), s.me.holds p = true) :=
  ⟨s0, T, 3, 1, 2, false, by decide +kernel⟩

theorem witness_CompareWritesTheConditionAndSelectChoosesByFlag :
    (∃ (s : State) (p : Pred) (d : BitVec 6) (a : BitVec 6) (b : BitVec 6) (f : BitVec 4) (imm : BitVec 32) (c : Cond), s.me.holds p = true) :=
  ⟨s0, T, 3, 1, 2, 2, 9, .lt, by decide +kernel⟩

theorem witness_FlagAndStagingWritesScheduleTheirValue :
    (∃ (s : State) (p : Pred) (f : BitVec 4) (a : BitVec 4) (v : Bool) (inv : Bool), s.me.holds p = true) ∧
    (∃ (s : State) (p : Pred) (k : BitVec 4) (z : BitVec 3) (a : BitVec 6) (imm : BitVec 32), s.me.holds p = true) :=
  ⟨⟨s0, T, 3, 2, true, true, by decide +kernel⟩,
   ⟨s0, T, 3, 2, 2, 0xFFFFFFF0, by decide +kernel⟩⟩

theorem witness_AddressOperationsKeepTheUpperBitsAndCompareUnsigned :
    (∃ (s : State) (p : Pred) (d : BitVec 5) (a : BitVec 5) (b : BitVec 6) (e : BitVec 6) (g : BitVec 6) (j : BitVec 24) (imm : BitVec 32), s.me.holds p = true) ∧
    (∃ (s : State) (p : Pred) (f : BitVec 4) (a : BitVec 5) (b : BitVec 5), s.me.holds p = true) :=
  ⟨⟨s0, T, 3, 1, 1, 4, 2, (BitVec.ofInt 24 (-3)), 0x20, by decide +kernel⟩,
   ⟨s0, T, 3, 1, 2, by decide +kernel⟩⟩

def sMem := withBar s1 { member := true, arrived := false, made := true }

def sArr := withBar s1 { member := true, arrived := true, made := true }

def sNew := withBar s1 BarView.reset

theorem witness_BranchesIssueTheirTargetThreeBundlesLater :
    (∃ (s : State) (p : Pred) (d : BitVec 6) (a : BitVec 6) (off : BitVec 25), s.me.holds p = true) ∧
    (∃ (s : State) (p : Pred) (d : BitVec 6) (a : BitVec 6) (off : BitVec 25), s.me.holds p = true ∧ s.me.g d = 0) ∧
    (∃ (s : State) (p : Pred) (d : BitVec 6) (a : BitVec 6) (off : BitVec 25), s.me.holds p = true ∧ s.me.g d ≠ 0) ∧
    (∃ (s : State) (p : Pred) (d : BitVec 6) (a : BitVec 6) (off : BitVec 25), s.me.holds p = true ∧ BitVec.toNat (s.me.g a) < s.bundleCount) ∧
    (∃ (s : State) (p : Pred) (d : BitVec 6) (a : BitVec 6) (off : BitVec 25), s.me.holds p = true ∧ s.bundleCount ≤ BitVec.toNat (s.me.g a) ∧ s.me.sched.granted = false) ∧
    (∃ (c : Ctx) (target : Nat), c.sched.loops = [] ∧ c.sched.jump = none ∧ c.fit.invoc = none) :=
  ⟨⟨s1, T, 4, 2, (BitVec.ofInt 25 (-6)), by decide +kernel⟩,
   ⟨s1, T, 4, 2, 0, by decide +kernel⟩,
   ⟨s1, T, 1, 2, 0, by decide +kernel⟩,
   ⟨s1, T, 1, 1, 0, by decide +kernel⟩,
   ⟨s1, T, 1, 2, 0, by decide +kernel⟩,
   ⟨(Ctx.reset), 7, by decide +kernel⟩⟩

def sWake (n : Nat) : State := s0.updMe (fun c => { c with mode := .wake, sys := { c.sys with hctl := 0x8000000000000007, himg := 0x10001, armed := true }, sync := { c.sync with wakes := (List.range n).map (fun i => (BitVec.ofNat 64 i, 3)) } })

theorem witness_LoopsStartSkipRepeatAndLeave :
    (∃ (s : State) (p : Pred) (lc : BitVec 3) (im : Bool) (a : BitVec 6) (len : BitVec 6) (cnt : BitVec 24), s.me.holds p = true ∧ (if im = true then cnt.toNat else BitVec.toNat (s.me.g a) % 2 ^ 32) = 0) ∧
    (∃ (s : State) (p : Pred) (lc : BitVec 3) (im : Bool) (a : BitVec 6) (len : BitVec 6) (cnt : BitVec 24), s.me.holds p = true ∧ (if im = true then cnt.toNat else BitVec.toNat (s.me.g a) % 2 ^ 32) ≠ 0) ∧
    (∃ (c : Ctx) (ls : List LoopRec) (l : LoopRec), c.sched.loops = ls ++ [l] ∧ c.sched.pc = l.last ∧ c.sched.jump = none ∧ c.sched.dly = 0 ∧ c.fit.invoc = none ∧ 1 < BitVec.toNat (c.lc l.n)) ∧
    (∃ (c : Ctx) (ls : List LoopRec) (l : LoopRec) (n : BitVec 3), c.sched.loops = ls ++ [l] ∧ c.sched.pc = l.last ∧ c.sched.jump = none ∧ c.sched.dly = 0 ∧ c.fit.invoc = none ∧ 1 < BitVec.toNat (c.lc l.n) ∧ n ≠ l.n) ∧
    (∃ (c : Ctx) (ls : List LoopRec) (l : LoopRec), c.sched.loops = ls ++ [l] ∧ c.sched.pc = l.last ∧ c.sched.jump = none ∧ c.sched.dly = 0 ∧ c.fit.invoc = none ∧ BitVec.toNat (c.lc l.n) ≤ 1 ∧ ls = []) :=
  ⟨⟨s0, T, 2, true, 0, 12, 0, by decide +kernel⟩,
   ⟨s0, T, 2, false, 1, 12, 300, by decide +kernel⟩,
   ⟨(loopCtx [⟨1, 0, 30⟩] 2), [⟨1, 0, 30⟩], ⟨2, 8, 10⟩, by decide +kernel⟩,
   ⟨loopCtx [⟨1, 0, 30⟩] 2, [⟨1, 0, 30⟩], ⟨2, 8, 10⟩, 1, by decide +kernel⟩,
   ⟨(loopCtx [] 1), [], ⟨2, 8, 10⟩, by decide +kernel⟩⟩

theorem witness_RegisterOperationsChangeOnlyTheirSchedule :
    (∃ (s : State) (t : State) (i : Instr) (ds : List Dest), i.writes = some ds ∧ exec i s = Host.Outcome.next t) ∧
    (∃ (s : State) (t : State) (i : Instr) (ds : List Dest) (n : Nat), i.writes = some ds ∧ exec i s = Host.Outcome.next t ∧ n ≠ s.cur) :=
  ⟨⟨s0, (nextOf (exec (.add T 3 1 2) s0)), (.add T 3 1 2), [.g 3], by decide, by rfl⟩,
   ⟨s0, nextOf (exec (.add T 3 1 2) s0), .add T 3 1 2, [.g 3], 1, by decide, by rfl, by decide⟩⟩

theorem witness_FalsePredicateChangesNothing :
    (∃ (s : State) (p : Pred) (i : Instr), s.me.holds p = false ∧ i.skipPred = some p) :=
  ⟨s0, ⟨false, 3⟩, (.add ⟨false, 3⟩ 3 1 2), by decide +kernel⟩

theorem witness_SyncOperationsComplete :
    (∃ (s : State) (k : BitVec 2) (h : Bool) (v : BitVec 16) (f : BitVec 4) (pol : Bool) (y : Bool), s.me.flag f ≠ pol ∧ (∀ m ∈ s.me.mem.cmds, m.stat = CmdStat.stopped → m.hdr.fl ≠ f) ∧ (∀ o ∈ s.me.fit.ops, o.fl = f → o.err = none)) ∧
    (∃ (s : State) (k : BitVec 2) (sc : Scope) (i : Instr), (∀ r ∈ s.me.mem.reqs, r.acked = true ∧ ∀ (b : Nat), r.bound = some b → b ≤ s.me.sched.time) ∧ s.me.mem.due = [] ∧ (i = Instr.fenceAcq k sc ∨ i = Instr.fenceRel k sc ∨ i = Instr.fenceAll k sc)) :=
  ⟨⟨s0, 0, false, 5, 2, false, false, by decide, by decide, by decide⟩,
   ⟨s0, 0, .die, (.fenceAcq 0 .die), by decide, by decide, by decide⟩⟩

theorem witness_BarrierOperationsSendWaitAndTrap :
    (∃ (s : State) (k : BitVec 2) (n : BitVec 12) (y : Bool) (task : Machine.Task), s.me.task = some task ∧ task.rebuilt = false ∧ (s.me.bar n.toNat).member = true ∧ (s.me.bar n.toNat).arrived = false ∧ ((s.die (s.barDie task.key)).bar? task.key n.toNat).isSome = true) ∧
    (∃ (s : State) (k : BitVec 2) (n : BitVec 12) (y : Bool) (task : Machine.Task), s.me.task = some task ∧ task.rebuilt = false ∧ (s.me.bar n.toNat).made = true ∧ (s.me.bar n.toNat).arrived = false) ∧
    (∃ (s : State) (k : BitVec 2) (n : BitVec 12) (y : Bool) (task : Machine.Task), s.me.task = some task ∧ task.rebuilt = false ∧ ((s.die (s.barDie task.key)).bar? task.key n.toNat).isSome = true) ∧
    (∃ (s : State) (k : BitVec 2) (n : BitVec 12) (y : Bool) (task : Machine.Task), s.me.task = some task ∧ task.rebuilt = false) ∧
    (∃ (s : State) (k : BitVec 2) (n : BitVec 12) (y : Bool) (rel : Bool) (task : Machine.Task), s.me.sched.granted = false ∧ s.me.task = some task ∧ task.rebuilt = false ∧ ((s.me.bar n.toNat).member = false ∨ (s.me.bar n.toNat).arrived = true)) ∧
    (∃ (s : State) (k : BitVec 2) (n : BitVec 12) (y : Bool) (rel : Bool) (task : Machine.Task), s.me.sched.granted = false ∧ s.me.task = some task ∧ task.rebuilt = false ∧ (s.me.bar n.toNat).made = false) ∧
    (∃ (s : State) (k : BitVec 2) (n : BitVec 12) (y : Bool) (rel : Bool) (i : Instr), s.me.sched.granted = false ∧ s.me.task = none ∧ (i = Instr.arv k n rel ∨ i = Instr.bwt k n y ∨ i = Instr.join k n ∨ i = Instr.leave k n)) :=
  ⟨⟨sMem, 0, 5, false, task0, by decide +kernel⟩,
   ⟨sMem, 0, 5, false, task0, by decide +kernel⟩,
   ⟨sNew, 0, 5, false, task0, by decide +kernel⟩,
   ⟨sMem, 0, 5, false, task0, by decide +kernel⟩,
   ⟨sArr, 0, 5, true, false, task0, by decide +kernel⟩,
   ⟨sNew, 0, 5, true, false, task0, by decide +kernel⟩,
   ⟨s0, 0, 5, true, false, (.bwt 0 5 true), by decide +kernel⟩⟩

theorem witness_HandlerEndTakesTheNextWake :
    (∃ (s : State), s.me.task = none ∧ (∀ r ∈ s.me.mem.reqs, r.acked = true ∧ ∀ (b : Nat), r.bound = some b → b ≤ s.me.sched.time) ∧ s.me.mem.due = [] ∧ s.me.sched.stores = []) ∧
    (∃ (s : State) (k : BitVec 2) (task : Machine.Task), s.me.task = some task ∧ s.me.sched.granted = false) :=
  ⟨⟨sWake 2, by and_intros <;> decide⟩,
   ⟨s1, 0, task0, by decide +kernel⟩⟩

theorem witness_QueueOperationsSendTheirRequest :
    (∃ (s : State) (p : Pred) (d : BitVec 6) (b : BitVec 6) (e : BitVec 6) (a : BitVec 5) (imm : BitVec 32), s.me.holds p = true ∧ s.me.sched.latches.length < 64) ∧
    (∃ (s : State) (p : Pred) (d : BitVec 6) (b : BitVec 6) (e : BitVec 6) (a : BitVec 5) (imm : BitVec 32), s.me.holds p = true ∧ s.me.sched.latches.length < 64 ∧ s.me.task.isSome = true) :=
  ⟨⟨s1, T, 9, 12, 2, 4, 7, by decide +kernel⟩,
   ⟨s1, T, 9, 12, 2, 4, 7, by decide +kernel⟩⟩

theorem witness_TaskOperationsOfOneContext :
    (∃ (s : State) (p : Pred) (d : BitVec 6) (g : BitVec 6) (a : BitVec 5) (f : BitVec 4) (imm : BitVec 32) (task : Machine.Task), s.me.holds p = true ∧ s.me.task = some task) ∧
    (∃ (s : State) (p : Pred) (d : BitVec 6) (g : BitVec 6) (a : BitVec 5) (f : BitVec 4) (imm : BitVec 32) (task : Machine.Task), s.me.holds p = true ∧ s.me.task = some task ∧ task.rebuilt = false ∧ (s.pkg, task.tid) ∉ (s.job task.desc.job).marks) ∧
    (∃ (s : State) (p : Pred) (d : BitVec 6) (g : BitVec 6) (a : BitVec 5) (f : BitVec 4) (imm : BitVec 32) (task : Machine.Task), s.me.holds p = true ∧ s.me.task = some task ∧ (task.rebuilt = true ∨ (s.pkg, task.tid) ∈ (s.job task.desc.job).marks)) ∧
    (∃ (s : State) (p : Pred) (d : BitVec 6) (g : BitVec 6) (a : BitVec 5) (f : BitVec 4) (imm : BitVec 32) (task : Machine.Task), s.me.holds p = true ∧ s.me.task = some task ∧ s.me.seq.conf = true ∧ s.me.seq.bad = false ∧ s.me.seq.tcfg + 8 ≤ s.me.sched.time ∧ s.me.seq.cur < s.me.seq.hi) ∧
    (∃ (s : State) (p : Pred) (d : BitVec 6) (g : BitVec 6) (a : BitVec 5) (f : BitVec 4) (imm : BitVec 32) (task : Machine.Task), s.me.holds p = true ∧ s.me.task = some task ∧ s.me.seq.conf = true ∧ s.me.seq.bad = false ∧ s.me.seq.tcfg + 8 ≤ s.me.sched.time ∧ s.me.seq.hi ≤ s.me.seq.cur) ∧
    (∃ (s : State) (p : Pred) (d : BitVec 6) (g : BitVec 6) (a : BitVec 5) (f : BitVec 4) (imm : BitVec 32) (task : Machine.Task), s.me.holds p = true ∧ s.me.task = some task ∧ s.me.sched.latches.length < 64) ∧
    (∃ (d : BitVec 256) (v : Nat) (k : Nat), nestBad d = false ∧ k < nestNd d) :=
  ⟨⟨s1, T, 5, 2, 1, 3, 6, task0, by decide +kernel⟩,
   ⟨s1, T, 5, 2, 1, 3, 6, task0, by decide +kernel⟩,
   ⟨sMark, T, 5, 2, 1, 3, 6, task0, by decide +kernel⟩,
   ⟨(seqAt 7 12), T, 5, 2, 1, 3, 6, task0, by decide +kernel⟩,
   ⟨(seqAt 12 12), T, 5, 2, 1, 3, 6, task0, by decide +kernel⟩,
   ⟨s1, T, 5, 0, 1, 3, 6, task0, by decide +kernel⟩,
   ⟨nest0, 11, 0, by decide +kernel⟩⟩

theorem witness_TaskEndNeedsFinishedOutputsAndATask :
    (∃ (s : State) (p : Pred) (task : Machine.Task) (r : W64), s.me.holds p = true ∧ s.me.task = some task ∧ s.me.sched.granted = false ∧ s.firstOpen = some r) ∧
    (∃ (s : State) (p : Pred) (task : Machine.Task), s.me.holds p = true ∧ s.me.task = some task ∧ s.firstOpen = none ∧ (∀ r ∈ s.me.mem.reqs, r.acked = true ∧ ∀ (b : Nat), r.bound = some b → b ≤ s.me.sched.time) ∧ (∀ m ∈ s.me.mem.cmds, m.stat = CmdStat.done ∨ m.stat = CmdStat.stopped) ∧ s.me.mem.due = [] ∧ s.me.fit.ops = [] ∧ s.retireWaits = false) ∧
    (∃ (s : State) (p : Pred) (d : BitVec 6) (g : BitVec 6) (a : BitVec 5) (f : BitVec 4) (imm : BitVec 32) (i : Instr), s.me.holds p = true ∧ s.me.task = none ∧ s.me.sched.granted = false ∧ (i = Instr.tend p ∨ i = Instr.steal p d g f ∨ i = Instr.prioSelf p d imm ∨ i = Instr.prioTask p d g imm ∨ i = Instr.stepmark p ∨ i = Instr.lpscfg p a ∨ i = Instr.lpsnxt p d f)) :=
  ⟨⟨(withTile (withTask (tOut (mkRef 0 1 1))) (tile0 1)), T, (tOut (mkRef 0 1 1)), (mkRef 0 1 1), by decide +kernel⟩,
   ⟨s1, T, task0, by and_intros <;> decide⟩,
   ⟨s0, T, 5, 2, 1, 3, 6, (.lpscfg T 1), by decide +kernel⟩⟩

theorem witness_RingOperationsMoveTheirSlotOrTrap :
    (∃ (s : State) (p : Pred) (e : BitVec 6) (r : BitVec 3), s.me.holds p = true ∧ (s.myRing r.toNat).conf = true ∧ BitVec.toNat (s.me.g e) % 2 ^ 17 ≤ (s.myRing r.toNat).slotBytes ∧ (s.myRing r.toNat).pi < 16 ∧ (s.seenRing r.toNat).st (s.myRing r.toNat).pi = 0) ∧
    (∃ (s : State) (p : Pred) (r : BitVec 3), s.me.holds p = true ∧ (s.myRing r.toNat).conf = true ∧ (s.myRing r.toNat).ci < 16 ∧ (s.seenRing r.toNat).st (s.myRing r.toNat).ci = 2) ∧
    (∃ (s : State) (p : Pred) (e : BitVec 6) (r : BitVec 3), s.me.holds p = true ∧ (s.myRing r.toNat).conf = true ∧ BitVec.toNat (s.me.g e) % 2 ^ 17 ≤ (s.myRing r.toNat).slotBytes ∧ s.brelsComing r.toNat false < (s.seenRing r.toNat).countSt 1) ∧
    (∃ (s : State) (p : Pred) (r : BitVec 3), s.me.holds p = true ∧ (s.myRing r.toNat).conf = true ∧ s.brelsComing r.toNat true < (s.seenRing r.toNat).countSt 3) ∧
    (∃ (s : State) (p : Pred) (d : BitVec 5) (e : BitVec 6) (g : BitVec 6) (r : BitVec 3) (err : Bool), s.me.holds p = true) ∧
    (∃ (s : State) (p : Pred) (e : BitVec 6) (r : BitVec 3), s.me.holds p = true ∧ s.me.sched.granted = false ∧ ((s.seenRing r.toNat).conf = false ∨ (s.seenRing r.toNat).slotBytes < BitVec.toNat (s.me.g e) % 2 ^ 17)) ∧
    (∃ (s : State) (p : Pred) (r : BitVec 3), s.me.holds p = true ∧ s.me.sched.granted = false ∧ (s.seenRing r.toNat).conf = false) ∧
    (∃ (s : State) (p : Pred) (e : BitVec 6) (r : BitVec 3), s.me.holds p = true ∧ s.me.sched.granted = false ∧ ((s.seenRing r.toNat).conf = false ∨ (s.seenRing r.toNat).slotBytes < BitVec.toNat (s.me.g e) % 2 ^ 17 ∨ ∀ k < (s.seenRing r.toNat).slots, (s.seenRing r.toNat).st k ≠ 1)) ∧
    (∃ (s : State) (p : Pred) (r : BitVec 3), s.me.holds p = true ∧ s.me.sched.granted = false ∧ ((s.seenRing r.toNat).conf = false ∨ ∀ k < (s.seenRing r.toNat).slots, (s.seenRing r.toNat).st k ≠ 3)) :=
  ⟨⟨withRing 3 0 [], T, 1, 2, by decide +kernel⟩,
   ⟨withRing 0 3 [(3, 2)], T, 2, by decide +kernel⟩,
   ⟨withRing 0 3 [(3, 1)], T, 1, 2, by decide +kernel⟩,
   ⟨withRing 0 3 [(3, 3)], T, 2, by decide +kernel⟩,
   ⟨(withRing 0 3 [(3, 3)]), T, 5, 1, 6, 2, true, by decide +kernel⟩,
   ⟨s1, T, 1, 2, by decide +kernel⟩,
   ⟨s1, T, 2, by decide +kernel⟩,
   ⟨withRing 0 0 [], T, 1, 2, by and_intros <;> decide⟩,
   ⟨withRing 0 0 [], T, 2, by and_intros <;> decide⟩⟩

theorem witness_TrapAndHaltOperations :
    (∃ (s : State) (p : Pred) (imm : BitVec 32), s.me.holds p = true ∧ s.me.sched.tskip = false ∧ s.me.sched.granted = false) ∧
    (∃ (s : State) (p : Pred) (imm : BitVec 32), s.me.holds p = true ∧ s.me.sched.tskip = true) ∧
    (∃ (s : State) (p : Pred) (imm : BitVec 32), s.me.holds p = true ∧ s.me.shadow = none ∧ s.me.sched.granted = false) ∧
    (∃ (s : State) (p : Pred) (imm : BitVec 32), s.me.holds p = true) :=
  ⟨⟨s1, T, 0x2A, by decide +kernel⟩,
   ⟨(s1.updMe (fun c => { c with sched := { c.sched with tskip := true } })), T, 0x2A, by decide +kernel⟩,
   ⟨s1, T, 0x2A, by decide +kernel⟩,
   ⟨s1, T, 0x2A, by decide +kernel⟩⟩

/-- In a handler whose frame has `n` records, the first of kind `kind`; and one with the latch `l` open. -/
def sFrame (n kind : Byte) : State := { inHandler shadow0 with mem := cells (plainBase 0 + 0x16300) [n] ++ cells (plainBase 0 + 0x17400) [kind] }

def sFrameLatch (l : Latch) : State := (inHandler shadow0).updMe (fun c => { c with sched := { c.sched with granted := false, latches := [l] } })

theorem witness_ReturnRestoresTheFrame :
    (∃ (s : State) (p : Pred) (h : Shadow), s.me.holds p = true ∧ s.me.shadow = some h ∧ h.base + 40960 ≤ 131072 ∧ s.cur < 4096 ∧ (∀ l ∈ s.me.sched.latches, l.stat = LatchStat.arrived ∧ l.ready ≤ s.myCore.cycle ∧ (l.pad = 0 ∨ l.born + l.worst ≤ s.myCore.cycle)) ∧ 128 < (s.drain s.cur).readNat (plainBase s.cur + h.base + 768) 1) ∧
    (∃ (s : State) (p : Pred) (h : Shadow) (i : Nat), s.me.holds p = true ∧ s.me.shadow = some h ∧ h.base + 40960 ≤ 131072 ∧ s.cur < 4096 ∧ (∀ l ∈ s.me.sched.latches, l.stat = LatchStat.arrived ∧ l.ready ≤ s.myCore.cycle ∧ (l.pad = 0 ∨ l.born + l.worst ≤ s.myCore.cycle)) ∧ (s.drain s.cur).readNat (plainBase s.cur + h.base + 768) 1 ≤ 128 ∧ i < (s.drain s.cur).readNat (plainBase s.cur + h.base + 768) 1 ∧ (s.drain s.cur).recBad ((s.drain s.cur).frameRec (plainBase s.cur + h.base) i) = true ∧ ∀ j < i, (s.drain s.cur).recBad ((s.drain s.cur).frameRec (plainBase s.cur + h.base) j) = false) ∧
    (∃ (s : State) (p : Pred) (h : Shadow), s.me.holds p = true ∧ s.me.shadow = some h ∧ h.base + 40960 ≤ 131072 ∧ s.cur < 4096 ∧ (∀ l ∈ s.me.sched.latches, l.stat = LatchStat.arrived ∧ l.ready ≤ s.myCore.cycle ∧ (l.pad = 0 ∨ l.born + l.worst ≤ s.myCore.cycle)) ∧ (s.drain s.cur).readNat (plainBase s.cur + h.base + 768) 1 ≤ 128 ∧ ∀ i < (s.drain s.cur).readNat (plainBase s.cur + h.base + 768) 1, (s.drain s.cur).recBad ((s.drain s.cur).frameRec (plainBase s.cur + h.base) i) = false) ∧
    (∃ (s : State) (p : Pred) (h : Shadow) (l : Latch), s.me.holds p = true ∧ s.me.shadow = some h ∧ h.base + 40960 ≤ 131072 ∧ s.cur < 4096 ∧ s.me.sched.granted = false ∧ s.me.sched.latches = [l] ∧ l.stat ≠ LatchStat.poisoned ∧ ¬(l.stat = LatchStat.arrived ∧ l.ready ≤ s.myCore.cycle ∧ (l.pad = 0 ∨ l.born + l.worst ≤ s.myCore.cycle))) ∧
    (∃ (s : State) (p : Pred) (h : Shadow) (l : Latch), s.me.holds p = true ∧ s.me.shadow = some h ∧ h.base + 40960 ≤ 131072 ∧ s.cur < 4096 ∧ s.me.sched.granted = false ∧ s.me.sched.latches = [l] ∧ l.stat = LatchStat.poisoned) :=
  ⟨⟨sFrame 129 0, T, shadow0, by and_intros <;> decide +kernel⟩,
   ⟨sFrame 1 6, T, shadow0, 0, by and_intros <;> decide +kernel⟩,
   ⟨sFrame 1 0, T, shadow0, by and_intros <;> decide +kernel⟩,
   ⟨sFrameLatch (latch0 .pending 0), T, shadow0, latch0 .pending 0, by and_intros <;> decide +kernel⟩,
   ⟨sFrameLatch (latch0 .poisoned 0), T, shadow0, latch0 .poisoned 0, by and_intros <;> decide +kernel⟩⟩

theorem witness_SystemNumberReads :
    (∃ (s : State) (p : Pred) (d : BitVec 6) (num : BitVec 12) (v : W64), s.me.holds p = true ∧ s.sysNumber num.toNat = some v) ∧
    (∃ (s : State) (p : Pred) (d : BitVec 6) (num : BitVec 12), s.me.holds p = true ∧ s.sysNumber num.toNat = none ∧ s.me.sched.granted = false) ∧
    (∃ (s : State) (p : Pred) (d : BitVec 6) (num : BitVec 12) (task : Machine.Task), s.me.holds p = true ∧ s.me.task = some task) ∧
    (∃ (s : State) (p : Pred) (d : BitVec 6) (num : BitVec 12), s.me.holds p = true) ∧
    (∃ (s : State) (p : Pred) (d : BitVec 6) (num : BitVec 12) (h : Shadow), s.me.holds p = true ∧ s.me.shadow = some h) :=
  ⟨⟨s1, T, 5, 0x023, match s1.me.task with | some t => BitVec.ofNat 64 ((fun t => t.desc.team) t) | none => 0, by decide +kernel⟩,
   ⟨s1, T, 5, 0x0DF, by decide +kernel⟩,
   ⟨s1, T, 5, 0x023, task0, by decide +kernel⟩,
   ⟨s1, T, 5, 0x023, by decide +kernel⟩,
   ⟨(inHandler shadow0), T, 5, 0x023, shadow0, by decide +kernel⟩⟩

def idc (c : Ctx) : Ctx := c

def stp (w : W64) (c : Ctx) : Ctx := { c with mode := .stopped, task := some task0, sys := { c.sys with tcause := w } }

theorem witness_SystemNumberWrites :
    (∃ (s : State) (p : Pred) (a : BitVec 6) (num : BitVec 12), s.me.holds p = true ∧ s.me.sched.granted = false) ∧
    (∃ (s : State) (p : Pred) (a : BitVec 6) (num : BitVec 12), s.me.holds p = true ∧ s.wordOk (s.me.g a) = true) ∧
    (∃ (s : State) (p : Pred) (a : BitVec 6) (num : BitVec 12), s.me.holds p = true ∧ s.wordOk (s.me.g a) = false) ∧
    (∃ (s : State) (p : Pred) (a : BitVec 6) (x : BitVec 2), s.me.holds p = true) ∧
    (∃ (s : State) (p : Pred) (a : BitVec 6) (num : BitVec 12), s.me.holds p = true ∧ BitVec.toNat (s.me.g a) % 1024 = 0 ∧ BitVec.toNat (s.me.g a) + 40960 ≤ 131072) ∧
    (∃ (s : State) (p : Pred) (a : BitVec 6) (num : BitVec 12), s.me.holds p = true ∧ (¬(BitVec.toNat (s.me.g a) % 1024 = 0 ∧ BitVec.toNat (s.me.g a) + 40960 ≤ 131072))) ∧
    (∃ (s : State) (p : Pred) (a : BitVec 6), s.me.holds p = true ∧ (s.hasWalk (s.me.g a) = false ∨ s.me.mem.preload = some (s.me.g a, true))) ∧
    (∃ (s : State) (p : Pred) (a : BitVec 6), s.me.holds p = true ∧ s.hasWalk (s.me.g a) = true ∧ s.me.mem.preload ≠ some (s.me.g a, true) ∧ s.me.sched.granted = false) ∧
    (∃ (s : State) (p : Pred) (a : BitVec 6) (x : BitVec 2), s.me.holds p = true ∧ (∀ e ∈ s.cached, e.covers (BitVec.toNat (s.me.g a) / 2 ^ 48) (BitVec.toNat (s.me.g a) % 2 ^ 48) = true → s.using e = false)) ∧
    (∃ (s : State) (p : Pred) (a : BitVec 6) (x : BitVec 2), s.me.holds p = true ∧ (∀ e ∈ s.cached, s.using e = false)) ∧
    (∃ (s : State) (p : Pred) (a : BitVec 6) (x : BitVec 2), s.me.holds p = true ∧ rootOk (s.cur / 4 / 256) (s.me.g a) = true) ∧
    (∃ (s : State) (p : Pred) (a : BitVec 6) (x : BitVec 2), s.me.holds p = true ∧ rootOk (s.cur / 4 / 256) (s.me.g a) = false) ∧
    (∃ (s : State) (p : Pred) (a : BitVec 6) (x : BitVec 2), s.me.holds p = true ∧ BitVec.toNat (s.me.g a) / 2 ^ 24 % 2 ^ 39 = 0 ∧ s.isHandler (s.ctx (4 * (s.cur / 4) + x.toNat)).sys.himg (BitVec.toNat (s.me.g a) % 2 ^ 24) = true) ∧
    (∃ (s : State) (p : Pred) (a : BitVec 6) (x : BitVec 2), s.me.holds p = true ∧ (s.ctx (4 * (s.cur / 4) + x.toNat)).task.isSome = true) ∧
    (∃ (s : State) (p : Pred) (a : BitVec 6) (x : BitVec 2), s.me.holds p = true ∧ (s.ctx (4 * (s.cur / 4) + x.toNat)).task.isNone = true) ∧
    (∃ (s : State) (p : Pred) (a : BitVec 6) (x : BitVec 2), s.me.holds p = true ∧ (s.ctx (4 * (s.cur / 4) + x.toNat)).mode = Mode.stopped ∧ BitVec.toNat (s.ctx (4 * (s.cur / 4) + x.toNat)).sys.tcause % 256 = 50 ∧ BitVec.toNat (s.ctx (4 * (s.cur / 4) + x.toNat)).sys.tcause / 2 ^ 15 % 2 = 0) ∧
    (∃ (s : State) (p : Pred) (a : BitVec 6) (x : BitVec 2), s.me.holds p = true ∧ ((s.ctx (4 * (s.cur / 4) + x.toNat)).mode ≠ Mode.stopped ∨ BitVec.toNat (s.ctx (4 * (s.cur / 4) + x.toNat)).sys.tcause % 256 = 48 ∨ BitVec.toNat (s.ctx (4 * (s.cur / 4) + x.toNat)).sys.tcause % 256 = 49 ∨ BitVec.toNat (s.ctx (4 * (s.cur / 4) + x.toNat)).sys.tcause / 2 ^ 15 % 2 = 1)) ∧
    (∃ (s : State) (p : Pred) (a : BitVec 6) (x : BitVec 2), s.me.holds p = true ∧ (s.ctx (4 * (s.cur / 4) + x.toNat)).resumable = true ∧ BitVec.toNat (s.ctx (4 * (s.cur / 4) + x.toNat)).sys.tcause % 256 ≠ 50) ∧
    (∃ (s : State) (p : Pred) (a : BitVec 6) (x : BitVec 2), s.me.holds p = true ∧ BitVec.toNat (s.me.g a) % 65536 = 0) :=
  ⟨⟨s1, T, 2, 0x020, by decide +kernel⟩,
   ⟨(sWr 0x8000000000000000 idc), T, 1, 0x020, by decide +kernel⟩,
   ⟨(sWr 0x8000000000000001 idc), T, 1, 0x020, by decide +kernel⟩,
   ⟨sTlb, T, 1, 1, by decide +kernel⟩,
   ⟨(sWr 0x16000 idc), T, 1, 0x020, by decide +kernel⟩,
   ⟨(sWr 0x16400 idc), T, 1, 0x020, by decide +kernel⟩,
   ⟨sTlb.updMe (fun c => { c with mem := { c.mem with preload := some (c.g 1, true) } }), T, 1, by and_intros <;> decide +kernel⟩,
   ⟨s1, T, 1, by and_intros <;> decide +kernel⟩,
   ⟨sTlb, T, 1, 1, by decide, by decide⟩,
   ⟨sTlb, T, 1, 1, by decide, by decide⟩,
   ⟨(sWr 0x8000000000200000 idc), T, 1, 1, by decide +kernel⟩,
   ⟨(sWr 0x8000000000200001 idc), T, 1, 1, by decide +kernel⟩,
   ⟨(sWr 0x8000000000000000 (fun c => { c with sys := { c.sys with himg := 0x10001 } })), T, 1, 1, by decide +kernel⟩,
   ⟨(sWr 1 (fun c => { c with task := some task0, mode := .task })), T, 1, 1, by decide +kernel⟩,
   ⟨(sWr 1 idc), T, 1, 1, by decide +kernel⟩,
   ⟨(sWr 1 (stp 0x32)), T, 1, 1, by decide +kernel⟩,
   ⟨(sWr 1 (stp 0x30)), T, 1, 1, by decide +kernel⟩,
   ⟨(sWr 1 (stp 0x01)), T, 1, 1, by decide +kernel⟩,
   ⟨(sWr 0x10000 idc), T, 1, 1, by decide +kernel⟩⟩

abbrev h (i : BitVec 6) : Src := .line ⟨.h, i⟩

theorem witness_VectorIntegerArithmeticIsExact :
    (∃ (s : State) (p : Pred) (w : Bool) (ty : Ty) (d : LineRef) (a : Src) (b : Src) (c : Src), s.me.holds p = true ∧ ty.isI = true) :=
  ⟨(sV 0), T, false, .i8, ⟨.h, 9⟩, (h 0), (h 1), (h 2), by decide +kernel⟩

theorem witness_VectorBitAndMoveOperations :
    (∃ (s : State) (p : Pred) (w : Bool) (ty : Ty) (d : LineRef) (a : Src) (b : Src) (k : BitVec 8), s.me.holds p = true ∧ ty.isI = true ∧ k.toNat < ty.bits) ∧
    (∃ (s : State) (p : Pred) (w : Bool) (ty : Ty) (d : LineRef) (a : Src) (b : Src) (c : Src) (k : BitVec 8), s.me.holds p = true ∧ k.toNat < ty.elems) ∧
    (∃ (s : State) (p : Pred) (w : Bool) (ty : Ty) (d : LineRef) (a : Src) (b : Src) (k : BitVec 8) (o : Cond), s.me.holds p = true ∧ ty.isI = true ∧ k.toNat < ty.bits ∧ o.forVcmp = true) :=
  ⟨⟨(sV 0), T, false, .i8, ⟨.h, 9⟩, (h 0), (h 1), 7, by decide +kernel⟩,
   ⟨(sV 0), T, false, .bf16, ⟨.h, 9⟩, (h 0), (h 1), (h 2), 127, by decide +kernel⟩,
   ⟨(sV 0), T, false, .i8, ⟨.h, 9⟩, (h 0), (h 1), 7, .lt, by decide +kernel⟩⟩

theorem witness_VectorFloatArithmeticRoundsOnce :
    (∃ (s : State) (p : Pred) (w : Bool) (ty : Ty) (d : LineRef) (a : Src) (b : Src) (c : Src) (sb : Bool), s.me.holds p = true ∧ ty.isF = true) :=
  ⟨(sV 0), T, false, .f32, ⟨.h, 9⟩, (h 0), (h 1), (h 2), false, by decide +kernel⟩

theorem witness_VectorFloatSelectionKeepsPatterns :
    (∃ (s : State) (p : Pred) (w : Bool) (ty : Ty) (d : LineRef) (a : Src) (b : Src) (c : Src), s.me.holds p = true ∧ ty.isF = true) ∧
    (∃ (s : State) (p : Pred) (w : Bool) (ty : Ty) (d : LineRef) (a : Src) (b : Src) (c : Src) (o : Cond), s.me.holds p = true ∧ ty.isF = true ∧ o.forVcmp = true) :=
  ⟨⟨(sV 0), T, false, .f32, ⟨.h, 9⟩, (h 0), (h 1), (h 2), by decide +kernel⟩,
   ⟨(sV 0), T, false, .f32, ⟨.h, 9⟩, (h 0), (h 1), (h 2), .ne, by decide +kernel⟩⟩

theorem witness_ConversionsReductionsAndLogarithms :
    (∃ (s : State) (p : Pred) (w : Bool) (ty : Ty) (tx : Ty) (d : LineRef) (a : Src) (b : Src) (k : BitVec 8) (sg : Bool) (m : BitVec 2), s.me.holds p = true) ∧
    (∃ (s : State) (p : Pred) (ty : Ty) (tx : Ty), s.me.holds p = true ∧ tx ≠ Ty.ln6 ∧ ¬(ty.isI = true ∧ tx.isI = true)) ∧
    (∃ (s : State) (p : Pred) (ty : Ty) (tx : Ty), s.me.holds p = true ∧ (tx = Ty.ln6 ∨ ty.isI = true ∧ tx.isI = true)) ∧
    (∃ (s : State) (p : Pred) (ty : Ty), s.me.holds p = true ∧ (ty = Ty.f32 ∨ ty = Ty.bf16)) ∧
    (∃ (s : State) (p : Pred) (ty : Ty), s.me.holds p = true ∧ ty.isI = true) ∧
    (∃ (s : State) (p : Pred) (ty : Ty), s.me.holds p = true ∧ ty.isF = true) ∧
    (∃ (s : State) (p : Pred) (ty : Ty) (a : Src), s.me.holds p = true ∧ ty.isF = true ∧ ∃ e < ty.elems, decodeNum ty (flushPat ty s.me.rnd.ftz (lineElem ty.bits (s.me.src ty.bits a) e)) = Num.nan) ∧
    (∃ (s : State) (p : Pred) (ty : Ty) (a : Src), s.me.holds p = true ∧ ty.isF = true ∧ ∀ e < ty.elems, decodeNum ty (flushPat ty s.me.rnd.ftz (lineElem ty.bits (s.me.src ty.bits a) e)) ≠ Num.nan) :=
  ⟨⟨(sV 0), T, false, .f32, .bf16, ⟨.h, 9⟩, (h 0), (h 1), 1, true, 2, by decide +kernel⟩,
   ⟨sV 0, T, .f32, .bf16, by decide +kernel⟩,
   ⟨sV 0, T, .i8, .n32, by decide +kernel⟩,
   ⟨sV 0, T, .bf16, by decide +kernel⟩,
   ⟨sV 0, T, .i8, by decide +kernel⟩,
   ⟨sV 0, T, .f32, by decide +kernel⟩,
   ⟨sNan, T, .f32, h 3, by decide +kernel, by decide, 0, by decide, by decide +kernel⟩,
   ⟨sV 0, T, .f32, h 3, by decide +kernel⟩⟩

abbrev F : Pred := ⟨true, 0⟩

def sBM : State := (sM id).updMe (fun c => { c with planes := { c.planes with fc0 := .bf16, fwa := .bf16, fws := .bf16 } })

def sH (h : List Hidden) : State := (sM (fun x => { x with hidden := h }))

def st0 : Stream := { cyc := 990, pl := 0, row := 4, cb := 1, ty := .bf16, n := 3, live := true, lines := [lineAt 5 0x3C, lineAt 1 0x40, lineAt 0 0x3F], wa := [(0, lineAt 0 0x3F), (1, lineAt 2 0x3E)], entered := 1, written := 0 }

def sS (s : Stream) : State := sM (fun x => { x with streams := [s] })

theorem witness_MatrixOperationsActOnFreePlanes :
    (∃ (s : State) (p : Pred) (ty : Ty) (tt : Ty) (gl : LineRef) (n : BitVec 6) (arow : BitVec 6) (row : BitVec 6) (part : BitVec 6) (pl : Bool) (yf : Bool) (cb : BitVec 2) (qm : BitVec 2) (pm : BitVec 4), s.me.holds p = true ∧ (∀ j < 4, pm.toNat.testBit j = true → s.me.planes.freeAt j ≤ s.myCore.cycle)) ∧
    (∃ (s : State) (p : Pred) (ty : Ty) (tt : Ty) (gl : LineRef) (n : BitVec 6) (arow : BitVec 6) (row : BitVec 6) (part : BitVec 6) (pl : Bool) (yf : Bool) (cb : BitVec 2) (qm : BitVec 2) (pm : BitVec 4), s.me.holds p = true ∧ (∀ j < 2, qm.toNat.testBit j = true → s.me.planes.freeAt j ≤ s.myCore.cycle)) ∧
    (∃ (s : State) (p : Pred) (ty : Ty) (tt : Ty) (gl : LineRef) (n : BitVec 6) (arow : BitVec 6) (row : BitVec 6) (part : BitVec 6) (pl : Bool) (yf : Bool) (cb : BitVec 2) (qm : BitVec 2) (pm : BitVec 4), s.me.holds p = true ∧ s.me.planes.freeAt 3 ≤ s.myCore.cycle ∧ s.me.planes.fws = ty) ∧
    (∃ (s : State) (p : Pred) (ty : Ty) (tt : Ty) (gl : LineRef) (n : BitVec 6) (arow : BitVec 6) (row : BitVec 6) (part : BitVec 6) (pl : Bool) (yf : Bool) (cb : BitVec 2) (qm : BitVec 2) (pm : BitVec 4), s.me.holds p = true ∧ s.me.planes.freeAt 2 ≤ s.myCore.cycle ∧ s.me.planes.freeAt 3 ≤ s.myCore.cycle) ∧
    (∃ (s : State) (p : Pred) (ty : Ty) (tt : Ty) (gl : LineRef) (n : BitVec 6) (arow : BitVec 6) (row : BitVec 6) (part : BitVec 6) (pl : Bool) (yf : Bool) (cb : BitVec 2) (qm : BitVec 2) (pm : BitVec 4), s.me.holds p = true ∧ (ty = Ty.f8e4 ∨ ty = Ty.f8e5 ∨ ty = Ty.ln6 → s.myCore.cycle < Sparse.get 0 s.myCore.leases 1) ∧ s.myCore.arrayFree = true ∧ Sparse.get 0 s.me.planes.busyOther 2 ≤ s.myCore.cycle ∧ Sparse.get 0 s.me.planes.busyOther (if pl = true then 1 else 0) ≤ s.myCore.cycle ∧ s.me.planes.fmt (if pl = true then 1 else 0) = ty ∧ s.me.planes.fwa = ty) ∧
    (∃ (s : State) (p : Pred) (ty : Ty) (tt : Ty) (gl : LineRef) (n : BitVec 6) (arow : BitVec 6) (row : BitVec 6) (part : BitVec 6) (pl : Bool) (yf : Bool) (cb : BitVec 2) (qm : BitVec 2) (pm : BitVec 4), s.me.holds p = true ∧ s.me.planes.freeAt (if pl = true then 1 else 0) ≤ s.myCore.cycle) :=
  ⟨⟨(sM id), T, .f32, .bf16, ⟨.h, 0⟩, 5, 4, 5, 1, false, true, 1, 1, 5, by decide, by decide⟩,
   ⟨(sM id), T, .f32, .bf16, ⟨.h, 0⟩, 5, 4, 5, 1, false, true, 1, 1, 5, by decide, by decide⟩,
   ⟨(sM id), T, .f32, .bf16, ⟨.h, 0⟩, 5, 4, 5, 1, false, true, 1, 1, 5, by decide +kernel⟩,
   ⟨(sM id), T, .f32, .bf16, ⟨.h, 0⟩, 5, 4, 5, 1, false, true, 1, 1, 5, by decide +kernel⟩,
   ⟨sBM, T, .bf16, .bf16, ⟨.h, 0⟩, 5, 4, 5, 1, false, true, 1, 1, 5, by and_intros <;> decide⟩,
   ⟨(sM id), T, .f32, .bf16, ⟨.h, 0⟩, 5, 4, 5, 1, false, true, 1, 1, 5, by decide +kernel⟩⟩

theorem witness_MatrixOperationsWaitAndCheckFormats :
    (∃ (s : State) (p : Pred) (ty : Ty) (tt : Ty) (gl : LineRef) (row : BitVec 6) (part : BitVec 6) (pl : Bool) (qm : BitVec 2) (pm : BitVec 4) (j : Nat), s.me.sched.granted = false ∧ j < 4 ∧ s.myCore.cycle < s.me.planes.freeAt j ∧ pm.toNat.testBit j = true) ∧
    (∃ (s : State) (p : Pred) (ty : Ty) (tt : Ty) (gl : LineRef) (row : BitVec 6) (part : BitVec 6) (pl : Bool) (qm : BitVec 2) (pm : BitVec 4) (j : Nat), s.me.sched.granted = false ∧ j < 2 ∧ s.myCore.cycle < s.me.planes.freeAt j ∧ qm.toNat.testBit j = true) ∧
    (∃ (s : State) (p : Pred) (ty : Ty) (tt : Ty) (gl : LineRef) (row : BitVec 6) (part : BitVec 6) (pl : Bool) (qm : BitVec 2) (pm : BitVec 4), s.me.sched.granted = false ∧ s.myCore.cycle < s.me.planes.freeAt 3) ∧
    (∃ (s : State) (p : Pred) (ty : Ty) (tt : Ty) (gl : LineRef) (row : BitVec 6) (part : BitVec 6) (pl : Bool) (qm : BitVec 2) (pm : BitVec 4), s.me.sched.granted = false ∧ (s.myCore.cycle < s.me.planes.freeAt 2 ∨ s.myCore.cycle < s.me.planes.freeAt 3)) ∧
    (∃ (s : State) (p : Pred) (ty : Ty) (tt : Ty) (gl : LineRef) (row : BitVec 6) (part : BitVec 6) (pl : Bool) (qm : BitVec 2) (pm : BitVec 4), s.me.sched.granted = false ∧ s.myCore.cycle < s.me.planes.freeAt (if pl = true then 1 else 0)) ∧
    (∃ (s : State) (p : Pred) (ty : Ty) (tt : Ty) (gl : LineRef) (row : BitVec 6) (part : BitVec 6) (pl : Bool) (qm : BitVec 2) (pm : BitVec 4), s.me.sched.granted = false ∧ ¬s.myCore.cycle < s.me.planes.freeAt 3 ∧ s.me.planes.fws ≠ ty ∧ s.me.holds p = true) ∧
    (∃ (s : State) (p : Pred) (ty : Ty) (tt : Ty) (gl : LineRef) (row : BitVec 6) (part : BitVec 6) (pl : Bool) (qm : BitVec 2) (pm : BitVec 4), s.me.sched.granted = false ∧ ¬s.myCore.cycle < s.me.planes.freeAt 3 ∧ s.me.holds p = false) :=
  ⟨⟨(sM busyPlanes), T, .bf16, .f32, ⟨.h, 0⟩, 5, 1, false, 1, 1, 0, by decide +kernel⟩,
   ⟨(sM busyPlanes), T, .bf16, .f32, ⟨.h, 0⟩, 5, 1, false, 1, 1, 0, by decide +kernel⟩,
   ⟨(sM busyPlanes), T, .bf16, .f32, ⟨.h, 0⟩, 5, 1, false, 1, 1, by decide +kernel⟩,
   ⟨(sM busyPlanes), T, .bf16, .f32, ⟨.h, 0⟩, 5, 1, false, 1, 1, by decide +kernel⟩,
   ⟨(sM busyPlanes), T, .bf16, .f32, ⟨.h, 0⟩, 5, 1, false, 1, 1, by decide +kernel⟩,
   ⟨(sM id), T, .bf16, .f32, ⟨.h, 0⟩, 5, 1, false, 1, 1, by decide +kernel⟩,
   ⟨(sM id), F, .bf16, .f32, ⟨.h, 0⟩, 5, 1, false, 1, 1, by decide +kernel⟩⟩

theorem witness_MatrixEffectsComeAtTheirCycles :
    (∃ (s : State) (d : Nat) (cols : List Line), List.filter Hidden.isLoad (s.ctx s.evt.n).planes.hidden = [Hidden.wload d cols] ∧ d ≤ (s.core (s.evt.n / 4)).cycle) ∧
    (∃ (s : State) (d : Nat) (k : Nat) (row : Nat) (ty : Ty) (part : Nat) (l : Line), List.filter (fun (h : Hidden) => !h.isLoad) (s.ctx s.evt.n).planes.hidden = [Hidden.madd d k row ty part l] ∧ d ≤ (s.core (s.evt.n / 4)).cycle) ∧
    (∃ (s : State) (st : Machine.Stream), (s.ctx s.evt.n).planes.streams = [st] ∧ st.live = true ∧ st.written < st.n ∧ (s.core (s.evt.n / 4)).cycle = st.cyc + st.ty.mP + st.written) ∧
    (∃ (s : State) (st : Machine.Stream), (s.ctx s.evt.n).planes.streams = [st] ∧ st.entered < st.n ∧ (s.core (s.evt.n / 4)).cycle = st.cyc + st.entered) :=
  ⟨⟨(sH [.wload 1000 [1, 2, 3]]), 1000, [1, 2, 3], by decide +kernel⟩,
   ⟨(sH [.madd 999 0 5 .bf16 1 (lineAt 3 0x3C)]), 999, 0, 5, .bf16, 1, (lineAt 3 0x3C), by decide +kernel⟩,
   ⟨(sS { st0 with cyc := 1000 - Ty.bf16.mP }), ({ st0 with cyc := 1000 - Ty.bf16.mP } : Machine.Stream), by decide +kernel⟩,
   ⟨(sS { st0 with cyc := 999 }), ({ st0 with cyc := 999 } : Machine.Stream), by decide +kernel⟩⟩

theorem witness_LoadsTakeALatchForTheirBytes :
    (∃ (s : State) (p : Pred) (d : BitVec 6) (gs : BitVec 6) (l : BitVec 4) (a : BitVec 5) (ac : BitVec 3) (dist : BitVec 12) (off : BitVec 10) (x : Src), s.me.holds p = true ∧ s.me.sched.latches.length < 64 ∧ s.roomy ac.toNat (s.me.loadEa a off 4)) ∧
    (∃ (s : State) (p : Pred) (d : BitVec 6) (gs : BitVec 6) (l : BitVec 4) (a : BitVec 5) (ac : BitVec 3) (dist : BitVec 12) (off : BitVec 10) (x : Src), s.me.holds p = true ∧ s.me.sched.latches.length < 64 ∧ s.roomy ac.toNat (s.me.loadEa a off 8)) ∧
    (∃ (s : State) (p : Pred) (d : BitVec 6) (gs : BitVec 6) (l : BitVec 4) (a : BitVec 5) (ac : BitVec 3) (dist : BitVec 12) (off : BitVec 10) (x : Src), s.me.holds p = true ∧ s.me.sched.latches.length < 64 ∧ s.roomy ac.toNat (s.me.loadEa a off 256)) ∧
    (∃ (s : State) (p : Pred) (d : BitVec 6) (gs : BitVec 6) (l : BitVec 4) (a : BitVec 5) (ac : BitVec 3) (dist : BitVec 12) (off : BitVec 10) (x : Src), s.me.holds p = true ∧ s.me.sched.latches.length < 64 ∧ s.roomy ac.toNat (s.me.a a)) ∧
    (∃ (s : State) (p : Pred) (d : BitVec 6) (gs : BitVec 6) (l : BitVec 4) (a : BitVec 5) (ac : BitVec 3) (dist : BitVec 12) (off : BitVec 10) (x : Src), s.me.holds p = true ∧ s.me.sched.latches.length < 64) :=
  ⟨⟨(sLd 0x1FFFC), T, 5, 1, 3, 1, 0, 40, 0, (h 0), by decide, by decide, by unfold State.roomy State.queueRoom; decide +kernel⟩,
   ⟨(sLd 0x1FFF8), T, 5, 1, 3, 1, 0, 40, 0, (h 0), by decide, by decide, by unfold State.roomy State.queueRoom; decide +kernel⟩,
   ⟨(sLd 0x1FF00), T, 5, 1, 3, 1, 0, 40, 0, (h 0), by decide, by decide, by unfold State.roomy State.queueRoom; decide +kernel⟩,
   ⟨(sLd 0x1FF00), T, 5, 1, 3, 1, 0, 0, 0, (h 0), by decide, by decide, by unfold State.roomy State.queueRoom; decide +kernel⟩,
   ⟨(sLd 0x1FF00), T, 5, 1, 3, 2, 0, 40, 0, (h 0), by decide +kernel⟩⟩

theorem witness_AtomicsTakeALatchForTheirOldValue :
    (∃ (s : State) (p : Pred) (m : Amo), s.me.holds p = true ∧ s.me.sched.latches.length < 64 ∧ s.roomy m.ac.toNat (s.me.a m.a)) ∧
    (∃ (s : State) (p : Pred) (m : Amo), s.me.holds p = true ∧ s.me.level = 0 ∧ s.me.sched.latches.length < 64 ∧ s.roomy m.ac.toNat (s.me.a m.a)) ∧
    (∃ (s : State) (p : Pred) (m : Amo), s.me.holds p = true ∧ 1 ≤ s.me.level ∧ s.me.sched.granted = false) :=
  ⟨⟨(sLd 0x1FFF8), T, amo0, by decide, by decide, by unfold State.roomy State.queueRoom; decide +kernel⟩,
   ⟨(sLd 0x1FFF8), T, amo0, by decide, by decide, by decide, by unfold State.roomy State.queueRoom; decide +kernel⟩,
   ⟨((sLd 0x1FFF8).updMe (fun c => { c with task := some { task0 with level := 1 } })), T, amo0, by decide +kernel⟩⟩

theorem witness_StoresSendTheirBytes :
    (∃ (s : State) (p : Pred) (g : BitVec 6) (x : Src) (a : BitVec 5) (ac : BitVec 3) (off : BitVec 14) (tt : Ty) (mx : BitVec 2), s.me.holds p = true ∧ s.roomy ac.toNat (s.me.storeEa a off 4)) ∧
    (∃ (s : State) (p : Pred) (g : BitVec 6) (x : Src) (a : BitVec 5) (ac : BitVec 3) (off : BitVec 14) (tt : Ty) (mx : BitVec 2), s.me.holds p = true ∧ s.roomy ac.toNat (s.me.storeEa a off 8)) ∧
    (∃ (s : State) (p : Pred) (g : BitVec 6) (x : Src) (a : BitVec 5) (ac : BitVec 3) (off : BitVec 14) (tt : Ty) (mx : BitVec 2), s.me.holds p = true ∧ s.roomy ac.toNat (s.me.storeEa a off 256)) ∧
    (∃ (s : State) (p : Pred) (g : BitVec 6) (x : Src) (a : BitVec 5) (ac : BitVec 3) (off : BitVec 14) (tt : Ty) (mx : BitVec 2), s.me.holds p = true ∧ s.roomy ac.toNat (s.me.storeEa a off (8 * tt.bits))) :=
  ⟨⟨(sLd 0x1FFFC), T, 2, (h 0), 1, 0, 0, .bf16, 1, by decide, by unfold State.roomy State.queueRoom; decide +kernel⟩,
   ⟨(sLd 0x1FFF8), T, 2, (h 0), 1, 0, 0, .bf16, 1, by decide, by unfold State.roomy State.queueRoom; decide +kernel⟩,
   ⟨(sLd 0x1FF00), T, 2, (h 0), 1, 0, 0, .bf16, 1, by decide, by unfold State.roomy State.queueRoom; decide +kernel⟩,
   ⟨(sLd 0x1FF80), T, 2, (h 0), 1, 0, 0, .bf16, 1, by decide, by unfold State.roomy State.queueRoom; decide +kernel⟩⟩

theorem witness_TileOperationsSendTheirRequest :
    (∃ (s : State) (p : Pred), s.me.holds p = true ∧ s.pkg < 6144 ∧ s.queueRoom 0 ∧ s.me.sched.latches.length < 64) ∧
    (∃ (s : State) (p : Pred) (d : BitVec 6) (g : BitVec 6) (l : BitVec 4) (a : BitVec 5) (dist : BitVec 12) (off : BitVec 10) (o14 : BitVec 14) (tt : Ty) (mx : BitVec 2) (x : Src), s.me.holds p = true ∧ s.pkg < 6144 ∧ s.queueRoom 0) :=
  ⟨⟨(sLd 0).updMe (fun c => { c with regs := { c.regs with a := [(1, (mkRef 0 1 1).zeroExtend 80)] } }), T, by decide, by decide, by unfold State.queueRoom; decide +kernel, by decide⟩,
   ⟨((sLd 0).updMe (fun c => { c with regs := { c.regs with a := [(1, (mkRef 0 1 1).zeroExtend 80)] } })), T, 5, 4, 3, 1, 40, 0, 0, .bf16, 2, (h 0), by decide, by decide, by unfold State.queueRoom; decide +kernel⟩⟩

def tIn : Task := { task0 with level := 1, desc := { rec0 with ins := [mkRef 0 1 1] } }

def tW : Task := { task0 with desc := { rec0 with outs := [mkRef 0 1 1] } }

theorem witness_CopyOperationsWorkOnTheQueue :
    (∃ (s : State) (p : Pred) (h : CpyHdr), s.me.holds p = true ∧ (List.filter (fun (m : Cmd) => decide (m.stat ≠ CmdStat.done)) s.me.mem.cmds).length < 8 ∧ (1048576 < (s.peekTable s.cur (s.newCmd 1 h)).bytes → s.myCore.cycle < Sparse.get 0 s.myCore.leases 2) ∧ (((s.peekTable s.cur (s.newCmd 1 h)).dest 0).remote s.pkg = true ∧ 65536 < (s.peekTable s.cur (s.newCmd 1 h)).bytes ∨ 65536 < (s.peekTable s.cur (s.newCmd 1 h)).farBytes s.pkg → s.myCore.cycle < Sparse.get 0 s.myCore.leases 3)) ∧
    (∃ (s : State) (p : Pred) (h : CpyHdr), s.me.holds p = true ∧ (List.filter (fun (m : Cmd) => decide (m.stat ≠ CmdStat.done)) s.me.mem.cmds).length < 8 ∧ (1048576 < (s.peekTable s.cur (s.newCmd 2 h)).bytes → s.myCore.cycle < Sparse.get 0 s.myCore.leases 2) ∧ (((s.peekTable s.cur (s.newCmd 2 h)).dest 0).remote s.pkg = true ∧ 65536 < (s.peekTable s.cur (s.newCmd 2 h)).bytes ∨ 65536 < (s.peekTable s.cur (s.newCmd 2 h)).farBytes s.pkg → s.myCore.cycle < Sparse.get 0 s.myCore.leases 3)) ∧
    (∃ (s : State) (p : Pred) (h : CpyHdr), s.me.holds p = true ∧ (List.filter (fun (m : Cmd) => decide (m.stat ≠ CmdStat.done)) s.me.mem.cmds).length < 8 ∧ (1048576 < (s.peekTable s.cur (s.newCmd 3 h)).bytes → s.myCore.cycle < Sparse.get 0 s.myCore.leases 2) ∧ (((s.peekTable s.cur (s.newCmd 3 h)).dest 0).remote s.pkg = true ∧ 65536 < (s.peekTable s.cur (s.newCmd 3 h)).bytes ∨ 65536 < (s.peekTable s.cur (s.newCmd 3 h)).farBytes s.pkg → s.myCore.cycle < Sparse.get 0 s.myCore.leases 3)) ∧
    (∃ (s : State) (p : Pred) (h : CpyHdr), s.me.holds p = true ∧ (List.filter (fun (m : Cmd) => decide (m.stat ≠ CmdStat.done)) s.me.mem.cmds).length < 8 ∧ (1048576 < (s.peekTable s.cur (s.newCmd 4 h)).bytes → s.myCore.cycle < Sparse.get 0 s.myCore.leases 2) ∧ (((s.peekTable s.cur (s.newCmd 4 h)).dest 0).remote s.pkg = true ∧ 65536 < (s.peekTable s.cur (s.newCmd 4 h)).bytes ∨ 65536 < (s.peekTable s.cur (s.newCmd 4 h)).farBytes s.pkg → s.myCore.cycle < Sparse.get 0 s.myCore.leases 3)) ∧
    (∃ (s : State) (p : Pred) (h : CpyHdr) (fl : BitVec 4) (kb : BitVec 4), s.me.holds p = true) ∧
    (∃ (s : State) (p : Pred), s.me.holds p = true ∧ (List.map Cmd.id s.me.mem.cmds).Nodup) :=
  ⟨⟨sCpy [], T, hdr0, by decide +kernel⟩,
   ⟨sCpy [], T, hdr0, by decide +kernel⟩,
   ⟨sCpy [], T, hdr0, by decide +kernel⟩,
   ⟨sCpy [], T, hdr0, by decide +kernel⟩,
   ⟨(sCpy [cmd0 .queued 0]), T, hdr0, 3, 2, by decide +kernel⟩,
   ⟨sCpy [cmd0 .queued 0], T, by decide +kernel⟩⟩

theorem witness_TransformOperationsJoinTheUnit :
    (∃ (s : State) (o : Xform), (s.ctx s.evt.n).sched.xforms = [o] ∧ o.live = true ∧ o.beat < o.beats ∧ o.t0 + o.beat = (s.ctx s.evt.n).sched.time ∧ o.fin = none ∧ ∀ l ∈ (s.ctx s.evt.n).sched.latches, (s.ctx s.evt.n).sched.time < l.due ∨ l.stat = LatchStat.arrived ∧ l.pad = 0) :=
  ⟨sXf [xform0 2], xform0 2, by and_intros <;> decide +kernel⟩

theorem witness_RegionAndFittingOperations :
    (∃ (s : State) (p : Pred) (rg : BitVec 4) (f : BitVec 4) (fl : BitVec 4) (len : BitVec 12) (zb : BitVec 3) (mask : BitVec 5) (x : Item), s.me.holds p = true ∧ s.item? s.cur rg.toNat = some x ∧ ((s.me.fit.view rg.toNat).wref = 0 ∨ (s.me.fit.view rg.toNat).loaded = true)) ∧
    (∃ (s : State) (p : Pred) (rg : BitVec 4) (x : Item) (i : Invoc), s.me.holds p = true ∧ s.item? s.cur rg.toNat = some x ∧ s.me.fit.invoc = some i ∧ i.rg = rg.toNat ∧ i.late = true ∧ s.me.sched.granted = false) ∧
    (∃ (s : State) (p : Pred) (rg : BitVec 4) (x : Item) (i : Invoc), s.me.holds p = true ∧ s.item? s.cur rg.toNat = some x ∧ s.me.fit.invoc = some i ∧ i.rg = rg.toNat ∧ i.late = false ∧ s.cur < 4096 ∧ (s.me.fit.view rg.toNat).bufOff + 512 * (s.me.fit.view rg.toNat).cap ≤ 131072) ∧
    (∃ (s : State) (p : Pred) (rg : BitVec 4), s.me.holds p = true ∧ ∀ (i : Invoc), s.me.fit.invoc = some i → i.rg ≠ rg.toNat) ∧
    (∃ (s : State) (p : Pred) (rg : BitVec 4) (zb : BitVec 3) (x : Item) (y : Tile) (q : RegEntry), s.me.holds p = true ∧ s.item? s.cur rg.toNat = some x ∧ s.fitTile s.cur (s.me.z zb) = some (some y) ∧ y.isF32 64 (netOf x.shape x.par).rows = true ∧ s.regEntry? s.cur (s.me.z zb) = some q ∧ (s.me.level = 0 ∨ s.me.z zb ∈ match s.me.task with | some k => k.desc.ins | none => []) ∧ y.state = 3 ∧ (List.filter (fun (q : Nat × View) => q.1 != rg.toNat && q.2.wref != 0) s.me.fit.views).length < 4 ∧ bufBad (s.me.z (zb + 1)) = false ∧ s.cur < 4096) ∧
    (∃ (s : State) (p : Pred) (rg : BitVec 4) (zb : BitVec 3) (x : Item) (y : Tile) (q : RegEntry), s.me.holds p = true ∧ s.item? s.cur rg.toNat = some x ∧ s.fitTile s.cur (s.me.z zb) = some (some y) ∧ y.isF32 64 (netOf x.shape x.par).rows = true ∧ s.regEntry? s.cur (s.me.z zb) = some q ∧ s.writable s.cur (s.me.z zb) = true ∧ (netOf x.shape x.par).lines ≤ q.nlines ∧ (s.isRemote (s.me.z zb) = false → y.loc % 2 ^ 44 + 256 * y.rows ≤ 206158430208 ∧ y.loc < 2 ^ 46) ∧ (List.filter (fun (q : Nat × View) => q.1 != rg.toNat && q.2.wref != 0) s.me.fit.views).length < 4 ∧ bufBad (s.me.z (zb + 1)) = false ∧ s.cur < 4096) ∧
    (∃ (s : State) (p : Pred) (rg : BitVec 4) (f : BitVec 4) (fl : BitVec 4) (len : BitVec 12) (zb : BitVec 3) (mask : BitVec 5), s.me.holds p = true) ∧
    (∃ (s : State) (p : Pred) (rg : BitVec 4) (f : BitVec 4) (fl : BitVec 4) (len : BitVec 12) (zb : BitVec 3) (mask : BitVec 5), s.me.holds p = true ∧ ((s.me.fit.view rg.toNat).wref = 0 ∨ (s.me.fit.view rg.toNat).loaded = true)) ∧
    (∃ (s : State) (p : Pred) (zb : BitVec 3), s.me.holds p = true ∧ (s.me.level = 0 ∨ (s.me.z zb ∈ match s.me.task with | some k => k.desc.ins | none => []) ∧ s.me.z (zb + 1) ∈ match s.me.task with | some k => k.desc.outs | none => [])) ∧
    (∃ (s : State) (p : Pred) (zb : BitVec 3), s.me.holds p = true ∧ (s.me.level = 0 ∨ s.me.z zb ∈ match s.me.task with | some k => k.desc.outs | none => [])) :=
  ⟨⟨(sReg (view0 3) none), T, 3, 2, 6, 12, 2, 0x1F, item0, by decide +kernel⟩,
   ⟨sReg (view0 2) (some { invoc0 true true with late := true }), T, 3, item0, { invoc0 true true with late := true }, by and_intros <;> decide +kernel⟩,
   ⟨sReg (view0 2) (some (invoc0 true true)), T, 3, item0, invoc0 true true, by and_intros <;> decide +kernel⟩,
   ⟨sReg (view0 1) (some (invoc0 true true)), T, 4, by decide +kernel, fun i hi => by cases Option.some.inj hi; decide⟩,
   ⟨sBind tIn (tileW 3), T, 3, 2, item0, tileW 3, regEntry0 100, by and_intros <;> decide +kernel⟩,
   ⟨sBind tW (tileW 2), T, 3, 2, item0, tileW 2, regEntry0 100, by and_intros <;> decide +kernel⟩,
   ⟨(sReg (view0 1) none), T, 3, 2, 6, 12, 2, 0x1F, by decide +kernel⟩,
   ⟨(sReg (view0 3) none), T, 3, 2, 6, 12, 2, 0x08, by decide +kernel⟩,
   ⟨sReg (view0 3) none, T, 2, by and_intros <;> decide +kernel⟩,
   ⟨sReg (view0 3) none, T, 2, by and_intros <;> decide +kernel⟩⟩

theorem rr : sRcf.reconfReady 0 (ownAddr 0x1D000) := by
  unfold State.reconfReady isSelf
  and_intros <;> decide +kernel

theorem witness_TeamOperationsAndFabricReads :
    (∃ (s : State) (p : Pred) (a : BitVec 6) (tm : Team), s.me.holds p = true ∧ s.me.sched.latches.length < 64 ∧ (∀ q ∈ s.me.mem.reqs, q.id ≠ s.me.mem.nextId) ∧ s.team? (BitVec.toNat (s.me.g a)) = some tm ∧ tm.key ≠ 0 ∧ tm.key < 2 ^ 32 ∧ tm.job = s.me.jobTeam.1 ∧ tm.key ≠ s.me.jobTeam.2 ∧ s.cur ∉ s.memberCtxs tm ∧ tm.state = 0 ∧ s.anyStopped tm = false ∧ ∀ m ∈ s.memberCtxs tm, (s.ctx m).mode = Mode.frozen) ∧
    (∃ (s : State) (p : Pred) (a : BitVec 6) (tm : Team) (m : Nat), s.me.holds p = true ∧ s.me.sched.latches.length < 64 ∧ (∀ q ∈ s.me.mem.reqs, q.id ≠ s.me.mem.nextId) ∧ s.team? (BitVec.toNat (s.me.g a)) = some tm ∧ tm.key ≠ 0 ∧ tm.key < 2 ^ 32 ∧ tm.job = s.me.jobTeam.1 ∧ tm.key ≠ s.me.jobTeam.2 ∧ s.cur ∉ s.memberCtxs tm ∧ tm.state = 0 ∧ s.anyStopped tm = false ∧ (∀ m ∈ s.memberCtxs tm, (s.ctx m).sync.freezing = false) ∧ List.find? (fun (k : Nat) => decide ((s.ctx k).mode ≠ Mode.frozen)) (s.memberCtxs tm) = some m) ∧
    (∃ (s : State) (p : Pred) (a : BitVec 6) (tm : Team), s.me.holds p = true ∧ s.me.sched.latches.length < 64 ∧ (∀ q ∈ s.me.mem.reqs, q.id ≠ s.me.mem.nextId) ∧ s.team? (BitVec.toNat (s.me.g a)) = some tm ∧ tm.key ≠ 0 ∧ tm.key < 2 ^ 32 ∧ tm.job = s.me.jobTeam.1 ∧ tm.key ≠ s.me.jobTeam.2 ∧ s.cur ∉ s.memberCtxs tm ∧ tm.state ≠ 0) ∧
    (∃ (s : State) (p : Pred) (d : BitVec 6) (a : BitVec 6) (y : BitVec 5) (tm : Team) (outs : List (List Carried)) (q : State), q = s.yieldOp (ReqOp.team 120 0 (BitVec.zeroExtend 80 (s.me.g a)) (imageOperand (s.me.a y))) d ∧ s.me.holds p = true ∧ s.me.sched.latches.length < 64 ∧ (∀ q ∈ s.me.mem.reqs, q.id ≠ s.me.mem.nextId) ∧ s.team? (BitVec.toNat (s.me.g a)) = some tm ∧ tm.key ≠ 0 ∧ tm.key < 2 ^ 32 ∧ tm.job = s.me.jobTeam.1 ∧ tm.key ≠ s.me.jobTeam.2 ∧ s.cur ∉ s.memberCtxs tm ∧ q.writingAll (List.map QEntry.task (q.ranked tm)) [] = some outs ∧ tm.state = 2 ∧ badFormat (s.me.a y) = false ∧ offOf (s.me.a y) % 65536 = 0 ∧ ¬(addrHome (s.me.a y) ≠ selfHome ∧ addrHome (s.me.a y) < 24576 ∧ addrHome (s.me.a y) / 4 ≠ s.pkg) ∧ (q.areaPages s.cur (addrHome (s.me.a y)) (offOf (s.me.a y)) (q.teamImage tm (List.map (fun (m : QEntry × List Carried) => q.memberImage tm false m.1 m.2) ((q.ranked tm).zip outs)) (q.bindings tm) false 0).2.1 false true).1.isSome = true) ∧
    (∃ (s : State) (p : Pred) (b : BitVec 6) (x : BitVec 5), s.me.holds p = true ∧ s.me.sched.latches.length < 64 ∧ (∀ q ∈ s.me.mem.reqs, q.id ≠ s.me.mem.nextId) ∧ s.cur < 4096 ∧ isSelf (s.me.a x) ∧ offOf (s.me.a x) % 4 = 0 ∧ offOf (s.me.a x) + 4 * (List.take (BitVec.toNat (s.me.g b) / 2 ^ 32 % 2 ^ 16 + 1) (List.map Prod.fst (List.filter (fun (q : Nat × Bool) => q.2 && decide (BitVec.toNat (s.me.g b) % 2 ^ 32 ≤ q.1)) (s.die (s.cur / 1024)).dirty))).length ≤ 131072 ∧ BitVec.toNat (s.me.g b) % 2 ^ 32 < 3153920 ∧ ∀ g ∈ List.take (BitVec.toNat (s.me.g b) / 2 ^ 32 % 2 ^ 16 + 1) (List.map Prod.fst (List.filter (fun (q : Nat × Bool) => q.2 && decide (BitVec.toNat (s.me.g b) % 2 ^ 32 ≤ q.1)) (s.die (s.cur / 1024)).dirty)), g < 2 ^ 32) ∧
    (∃ (s : State) (p : Pred), s.me.holds p = true ∧ s.me.sched.latches.length < 64 ∧ ∀ q ∈ s.me.mem.reqs, q.id ≠ s.me.mem.nextId) ∧
    (∃ (s : State) (p : Pred) (d : BitVec 6) (a : BitVec 6) (b : BitVec 6) (x : BitVec 5) (y : BitVec 5), s.me.holds p = true ∧ s.me.sched.latches.length < 64 ∧ (∀ q ∈ s.me.mem.reqs, q.id ≠ s.me.mem.nextId) ∧ s.reconfReady s.cur (s.me.a x)) :=
  ⟨⟨sTeam 0 .frozen, T, 1, team0 0, by and_intros <;> decide +kernel⟩,
   ⟨sTeam 0 .task, T, 1, team0 0, 4, by and_intros <;> decide +kernel⟩,
   ⟨sTeam 2 .frozen, T, 1, team0 2, by and_intros <;> decide +kernel⟩,
   ⟨sTeam 2 .frozen, T, 5, 1, 2, team0 2, [[], []], _, rfl, by and_intros <;> first | rfl | decide +kernel⟩,
   ⟨sTeam 0 .task, T, 2, 1, by decide, by decide, by decide, by decide, by unfold isSelf; decide, by and_intros <;> decide +kernel⟩,
   ⟨sRcf, T, by decide⟩,
   ⟨sRcf, T, 5, 1, 2, 1, 2, by decide, by decide, by decide, rr⟩⟩

def sIdleCore : State := sRun 0 [] (fun c => { c with idle := true })

def sWait : State := (sRun 0x02600000 [line10] id).updMe (fun c => { c with sched := { c.sched with waits := { c.sched.waits with sync := 2 ^ 26 } } })

def sWin : State := sRun 0 [line10] (fun c => { c with charges := [(999, 3000)] })

def sSage (q : List (Nat × Nat)) : State := { sRun 0 [] id with sage := { budget := 74000, queue := q } }

def sLease (e : Nat) : State := ev (sRun 0 [] (fun c => { c with leases := [(2, e)], lastUse := [(2, 900)] })) 0 2

/-- A property of the reset context and of every listed one is a property of every context. -/
theorem ctx_of (P : Ctx → Prop) (s : State) (h0 : P Ctx.reset) (h : ∀ p ∈ s.ctxs, P p.2) (n : Nat) : P (s.ctx n) := by
  unfold State.ctx
  generalize s.ctxs = m at h
  induction m with
  | nil => exact h0
  | cons p r ih =>
    simp only [Sparse.get]
    split
    · exact h p (by simp)
    · exact ih (fun q hq => h q (by simp [hq]))

/-- Listed contexts without due stores and held pieces make the windows quiet. -/
theorem quiet_of (s : State) (k : Nat) (h : ∀ p ∈ s.ctxs, p.2.sched.stores = [] ∧ ∀ r ∈ p.2.mem.reqs, ∀ q ∈ r.pieces, q.held = false) :
    s.windowsQuiet k :=
  ⟨fun n _ => (ctx_of (fun c => c.sched.stores = [] ∧ ∀ r ∈ c.mem.reqs, ∀ q ∈ r.pieces, q.held = false) s (by decide) h n).1,
   fun n => (ctx_of (fun c => c.sched.stores = [] ∧ ∀ r ∈ c.mem.reqs, ∀ q ∈ r.pieces, q.held = false) s (by decide) h n).2⟩

theorem witness_ContextAndCoreSteps :
    (∃ (s : State), (∃ p ∈ (s.ctx s.evt.n).sched.pend, p.due ≤ (s.ctx s.evt.n).sched.time)) ∧
    (∃ (s : State) (l : Latch), ((s.core s.evt.n).idle = false ∧ (s.core s.evt.n).switch = 0 ∧ (s.ctx (s.core s.evt.n).running).active = true) ∧ (s.ctx (s.core s.evt.n).running).sched.latches = [l] ∧ l.due ≤ (s.ctx (s.core s.evt.n).running).sched.time ∧ l.flag = none ∧ (s.ctx (s.core s.evt.n).running).sched.pend = [] ∧ (s.ctx (s.core s.evt.n).running).sched.stores = [] ∧ l.stat = LatchStat.arrived ∧ l.pad = 0 ∧ l.ready ≤ (s.core s.evt.n).cycle) ∧
    (∃ (s : State) (l : Latch), ((s.core s.evt.n).idle = false ∧ (s.core s.evt.n).switch = 0 ∧ (s.ctx (s.core s.evt.n).running).active = true) ∧ (s.ctx (s.core s.evt.n).running).sched.latches = [l] ∧ l.due ≤ (s.ctx (s.core s.evt.n).running).sched.time ∧ l.flag = none ∧ (s.ctx (s.core s.evt.n).running).sched.pend = [] ∧ (s.ctx (s.core s.evt.n).running).sched.stores = [] ∧ l.stat = LatchStat.pending ∧ l.overdue (s.core s.evt.n).cycle = false ∧ s.windowsQuiet s.evt.n) ∧
    (∃ (s : State), 2 ^ 63 ≤ BitVec.toNat (s.ctx s.evt.n).sys.timer ∧ BitVec.toNat (s.ctx s.evt.n).sys.timer - 2 ^ 63 ≤ (s.core (s.evt.n / 4)).cycle) ∧
    (∃ (s : State), (s.core s.evt.n).running / 4 = s.evt.n ∧ (s.core s.evt.n).idle = false ∧ (s.ctx (s.core s.evt.n).running).active = true ∧ (∃ (i : Image), ({ s with cur := (s.core s.evt.n).running } : State).myImage? = some i ∧ (s.ctx (s.core s.evt.n).running).sched.pc < i.bundles.length) ∧ ({ s with cur := (s.core s.evt.n).running } : State).inCache = false) ∧
    (∃ (s : State), (s.core s.evt.n).offline = false ∧ (s.core s.evt.n).idle = true ∧ (∃ (m : Nat), m / 4 = s.evt.n ∧ s.readyCtx m = true)) ∧
    (∃ (s : State) (ops : List Instr) (a : Await), s.presented s.evt.n = some ops ∧ ({ s with cur := (s.core s.evt.n).running } : State).judge ops = Present.timeout a) ∧
    (∃ (s : State) (ops : List Instr), s.presented s.evt.n = some ops ∧ ({ s with cur := (s.core s.evt.n).running } : State).judge ops = Present.issue ∧ (s.core s.evt.n).windowOk (s.core s.evt.n).cycle (bundleWeight ops) = false ∧ (s.ctx (s.core s.evt.n).running).sched.late (s.core s.evt.n).cycle = [] ∧ BitVec.toNat (s.ctx (s.core s.evt.n).running).sys.timer < 2 ^ 63 ∧ s.windowsQuiet s.evt.n) ∧
    (∃ (s : State), ((s.core s.evt.n).idle = false ∧ (s.core s.evt.n).switch = 0 ∧ (s.ctx (s.core s.evt.n).running).active = true) ∧ BitVec.toNat (s.ctx (s.core s.evt.n).running).sys.timer < 2 ^ 63 ∧ s.windowsQuiet s.evt.n ∧ ∃ l ∈ (s.ctx (s.core s.evt.n).running).sched.latches, l.due ≤ (s.ctx (s.core s.evt.n).running).sched.time ∧ 0 < l.pad) ∧
    (∃ (s : State) (a : Nat) (b : Nat) (rest : List (Nat × Nat)), s.sage.queue = (a, b) :: rest ∧ (s.leaveCosts + if (s.core a).hasLease b = true then 0 else if b = 1 then 44 else if b = 2 then 30 else 120) ≤ s.sage.budget) ∧
    (∃ (s : State) (e : Nat), Sparse.find? (s.core s.evt.n).leases s.evt.m = some e ∧ e ≤ (s.core s.evt.n).cycle) ∧
    (∃ (s : State) (e : Nat) (u : Nat), Sparse.find? (s.core s.evt.n).leases s.evt.m = some e ∧ (s.core s.evt.n).cycle < e ∧ e < (s.core s.evt.n).cycle + 2 ^ 14 ∧ Sparse.find? (s.core s.evt.n).lastUse s.evt.m = some u ∧ (s.core s.evt.n).cycle < u + 2 ^ 16 ∧ (s.evt.n, s.evt.m) ∉ s.sage.queue) :=
  ⟨⟨(sDue [pend0 100 (.g 3) .s 1]), by decide⟩,
   ⟨(withLatch (latch0 .arrived 0)), (latch0 .arrived 0), by decide +kernel⟩,
   ⟨withLatch (latch0 .pending 0), latch0 .pending 0, by and_intros <;> first | decide +kernel | exact (quiet_of _ 0 (by decide +kernel)).1 | exact (quiet_of _ 0 (by decide +kernel)).2⟩,
   ⟨(sDue []), by decide +kernel⟩,
   ⟨sRun 0 [] id, by decide, by decide, by decide, ⟨_, rfl, by decide⟩, by decide⟩,
   ⟨sIdleCore, by decide, by decide, ⟨0, (by decide +kernel), (by decide +kernel)⟩⟩,
   ⟨sWait, [.wait 0 3 false false], (.flag 3 false), by decide +kernel⟩,
   ⟨sWin, [.nop 0], by decide +kernel, by decide +kernel, by decide +kernel, by decide +kernel, by decide +kernel, quiet_of _ _ (by decide +kernel)⟩,
   ⟨withLatch (latch0 .arrived 30), by decide +kernel, by decide +kernel, quiet_of _ _ (by decide +kernel), by decide +kernel⟩,
   ⟨(sSage [(0, 2), (1, 1)]), 0, 2, [(1, 1)], by decide +kernel⟩,
   ⟨(sLease 1000), 1000, by decide +kernel⟩,
   ⟨(sLease 3000), 3000, 900, by decide +kernel⟩⟩

def sur : State := ((sDue [pend0 100 (.line ⟨.h, 5⟩) .e1 24]).updMe (fun c => { c with fit := { c.fit with invoc := some (invoc0 false false) } }))

def o1 : FitOp := { fitOp0 true with w2 := mkRef 0 2 1 }

def o2 : FitOp := { fitOp0 false with w := mkRef 0 3 1 }

/-- The surrogate of an open region is late. -/
def sLate : State := (sDue []).updMe (fun c => { c with fit := { c.fit with invoc := some { invoc0 false false with late := true } } })

/-- An FTCFG.new waits for a version homed on package 1, which answers that it is VALID. -/
def sFarWant : State :=
  let s := s1.updMe (fun c => { c with fit := { c.fit with want := some (mkRef 6 1 1, 3, true) } })
  { s with evt := { evtZero with data := List.replicate 51 3 }, fab := { s.fab with active := { s.fab.active with tab := [(1, 0x200)] } } }

theorem witness_RegionAndFittingSteps :
    (∃ (s : State) (m : Cmp), (s.ctx s.evt.n).fit.cmps = [m] ∧ m.c < (s.ctx s.evt.n).sched.time) ∧
    (∃ (s : State) (p : Pend) (x : LineRef), (s.ctx s.evt.n).sched.pend = [p] ∧ p.due ≤ (s.ctx s.evt.n).sched.time ∧ p.slot = Slot.e1 ∧ p.dest = Dest.line x ∧ p.ord % 16 = 8 ∧ (s.ctx s.evt.n).fit.invoc.isSome = true) ∧
    (∃ (s : State) (i : Invoc), (s.ctx s.evt.n).fit.invoc = some i ∧ i.late = true ∧ (s.ctx s.evt.n).sched.pend = []) ∧
    (∃ (s : State) (o : FitOp), (s.ctx s.evt.n).fit.ops = [o] ∧ o.err = none ∧ (o.fl ≠ 0 → ∀ p ∈ (s.ctx s.evt.n).sched.pend, p.dest = Dest.f o.fl → p.slot ≠ Slot.e1) ∧ o.sent = [] ∧ ∀ r ∈ s.fitRefs s.evt.n o, s.isRemote r = false ∧ s.spoilt r = false) ∧
    (∃ (s : State) (o : FitOp), (s.ctx s.evt.n).fit.ops = [o] ∧ o.err = none ∧ (o.fl ≠ 0 → ∀ p ∈ (s.ctx s.evt.n).sched.pend, p.dest = Dest.f o.fl → p.slot ≠ Slot.e1) ∧ o.sent ≠ [] ∧ ∀ r ∈ (s.ctx s.evt.n).mem.reqs, r.id ∈ o.sent → r.acked = true) ∧
    (∃ (s : State) (ref : W64) (rg : Nat) (y : Tile), (s.ctx s.evt.n).fit.want = some (ref, rg, false) ∧ s.isRemote ref = false ∧ s.tile? ref = some y ∧ y.state = 3 ∧ s.badAt y.loc y.region = false ∧ s.quad (s.evt.n / 16) = [] ∧ (s.tileWords y y.rows 64).net.params ≤ 32768) ∧
    (∃ (s : State) (ref : W64) (rg : Nat) (new : Bool), (s.ctx s.evt.n).fit.want = some (ref, rg, new) ∧ s.isRemote ref = true ∧ (s.ctx s.evt.n).fit.answer = none ∧ s.fitReach ref = true ∧ farEntry ≤ s.evt.data.length ∧ (tileOfBody (List.take farEntry s.evt.data)).state ≠ 0) :=
  ⟨⟨(sCmp (view0 2) true), ({ rg := 3, c := 40, known := true, pass := true } : Cmp), by decide +kernel⟩,
   ⟨sur, (pend0 100 (.line ⟨.h, 5⟩) .e1 24), ⟨.h, 5⟩, by decide +kernel⟩,
   ⟨sLate, { invoc0 false false with late := true }, by and_intros <;> decide +kernel⟩,
   ⟨sFit sTiles o1, o1, by decide, by decide, by decide, by decide, fun r hr => by simpa using List.all_eq_true.mp (show ((sFit sTiles o1).fitRefs (sFit sTiles o1).evt.n o1).all (fun r => !(sFit sTiles o1).isRemote r && !(sFit sTiles o1).spoilt r) = true by decide +kernel) r hr⟩,
   ⟨sFit (sReq { req0 .store [] with acked := true } id) { o1 with sent := [4] }, { o1 with sent := [4] }, by and_intros <;> decide +kernel⟩,
   ⟨sWant, mkRef 0 1 1, 3, tileW 3, by and_intros <;> decide +kernel⟩,
   ⟨sFarWant, mkRef 6 1 1, 3, true, by and_intros <;> decide +kernel⟩⟩

def st (a : Nat) (h : Bool) : Req := req0 .store [piece0 a h]

def ld (a : Nat) (h : Bool) : Req := { req0 (.load false) [piece0 a h] with slot := .ld }

def at_ (op : BitVec 8) (a : Nat) : Req := req0 (.atomic op true true 0x8000000000000007 0x7FFFFF) [{ piece0 a false with pos := 0, len := 8 }]

def sR (r : Req) := sReq r id

def sB (r : Req) := sReq r (fun x => { x with busyOther := [(0, 1010)] })

def sLat (r : Req) (l : Latch) : State := (sR r).updMe (fun c => { c with sched := { c.sched with latches := [l] } })

def tlbE : TlbEntry := { home := 0, page := 0, size := 30, frame := 0, r := true, w := true, kind := .s, d := true, pn := false }

def sCtl : State := { sWalk with evt := { evtZero with flag := true, k := 1, data := [5, 0, 7], w := 0xFFFD } }

theorem witness_AccessesArePerformedAtTheirHomes :
    (∃ (s : State) (r : Req) (p : Piece) (a : Nat), s.req? s.evt.n s.evt.m = some r ∧ s.readyPiece s.evt.n r s.evt.k = some (p, a) ∧ a % 4 + p.len ≤ 4 ∧ a < 2 ^ 46 ∧ (r.op = ReqOp.store → s.mayWrite s.evt.n r a = true) ∧ s.evt.flag = false ∧ ((∃ (d : Nat), placeOf a = Place.hbm d) ∨ (∃ (x : Nat) (o : Nat), placeOf a = Place.tile x o) ∨ ∃ (x : Nat) (o : Nat), placeOf a = Place.plain x o) ∧ r.op = ReqOp.store ∧ p.pos + p.len ≤ r.data.length) ∧
    (∃ (s : State) (r : Req) (p : Piece) (a : Nat) (x : Bool), s.req? s.evt.n s.evt.m = some r ∧ s.readyPiece s.evt.n r s.evt.k = some (p, a) ∧ a % 4 + p.len ≤ 4 ∧ a < 2 ^ 46 ∧ (r.op = ReqOp.store → s.mayWrite s.evt.n r a = true) ∧ s.evt.flag = false ∧ ((∃ (d : Nat), placeOf a = Place.hbm d) ∨ (∃ (x : Nat) (o : Nat), placeOf a = Place.tile x o) ∨ ∃ (x : Nat) (o : Nat), placeOf a = Place.plain x o) ∧ r.op = ReqOp.load x ∧ s.badAt a p.len = false) ∧
    (∃ (s : State) (r : Req) (p : Piece) (a : Nat), s.req? s.evt.n s.evt.m = some r ∧ s.readyPiece s.evt.n r s.evt.k = some (p, a) ∧ a % 4 + p.len ≤ 4 ∧ a < 2 ^ 46 ∧ (r.op = ReqOp.store → s.mayWrite s.evt.n r a = true) ∧ ((∃ (x : Nat) (o : Nat), placeOf a = Place.grid x o) ∨ ∃ (x : Nat) (k : Nat) (o : Nat), placeOf a = Place.acc x k o) ∧ (∀ j < p.len, s.shielded (a + j) = false) ∧ p.held = false ∧ s.windowOpen a = true ∧ r.op = ReqOp.store ∧ p.pos + p.len ≤ r.data.length) ∧
    (∃ (s : State) (r : Req) (p : Piece) (a : Nat) (x : Bool), s.req? s.evt.n s.evt.m = some r ∧ s.readyPiece s.evt.n r s.evt.k = some (p, a) ∧ a % 4 + p.len ≤ 4 ∧ a < 2 ^ 46 ∧ (r.op = ReqOp.store → s.mayWrite s.evt.n r a = true) ∧ ((∃ (x : Nat) (o : Nat), placeOf a = Place.grid x o) ∨ ∃ (x : Nat) (k : Nat) (o : Nat), placeOf a = Place.acc x k o) ∧ (∀ j < p.len, s.shielded (a + j) = false) ∧ p.held = false ∧ s.windowOpen a = true ∧ r.op = ReqOp.load x ∧ s.badAt a p.len = false) ∧
    (∃ (s : State) (r : Req) (p : Piece) (a : Nat), s.req? s.evt.n s.evt.m = some r ∧ s.readyPiece s.evt.n r s.evt.k = some (p, a) ∧ a % 4 + p.len ≤ 4 ∧ a < 2 ^ 46 ∧ (r.op = ReqOp.store → s.mayWrite s.evt.n r a = true) ∧ ((∃ (x : Nat) (o : Nat), placeOf a = Place.grid x o) ∨ ∃ (x : Nat) (k : Nat) (o : Nat), placeOf a = Place.acc x k o) ∧ (∀ j < p.len, s.shielded (a + j) = false) ∧ p.held = true ∧ s.windowOpen a = true ∧ r.op = ReqOp.store ∧ p.pos + p.len ≤ r.data.length) ∧
    (∃ (s : State) (r : Req) (p : Piece) (a : Nat) (x : Bool), s.req? s.evt.n s.evt.m = some r ∧ s.readyPiece s.evt.n r s.evt.k = some (p, a) ∧ a % 4 + p.len ≤ 4 ∧ a < 2 ^ 46 ∧ (r.op = ReqOp.store → s.mayWrite s.evt.n r a = true) ∧ ((∃ (x : Nat) (o : Nat), placeOf a = Place.grid x o) ∨ ∃ (x : Nat) (k : Nat) (o : Nat), placeOf a = Place.acc x k o) ∧ (∀ j < p.len, s.shielded (a + j) = false) ∧ p.held = true ∧ s.windowOpen a = true ∧ r.op = ReqOp.load x ∧ s.badAt a p.len = false) ∧
    (∃ (s : State) (r : Req) (p : Piece) (a : Nat), s.req? s.evt.n s.evt.m = some r ∧ s.readyPiece s.evt.n r s.evt.k = some (p, a) ∧ a % 4 + p.len ≤ 4 ∧ a < 2 ^ 46 ∧ (r.op = ReqOp.store → s.mayWrite s.evt.n r a = true) ∧ ((∃ (x : Nat) (o : Nat), placeOf a = Place.grid x o) ∨ ∃ (x : Nat) (k : Nat) (o : Nat), placeOf a = Place.acc x k o) ∧ (∀ j < p.len, s.shielded (a + j) = false) ∧ p.held = false ∧ s.windowOpen a = false ∧ (r.op = ReqOp.store ∨ ∃ (x : Bool), r.op = ReqOp.load x)) ∧
    (∃ (s : State) (e : TlbEntry) (pa : Nat) (kd : OrdKind), s.evt.flag = true ∧ s.evt.k = 1 ∧ s.evt.data ≠ [] ∧ BitVec.toNat s.evt.w % 2 ^ 16 + s.evt.data.length ≤ 2 ^ 16 ∧ BitVec.toNat s.evt.w / 2 ^ 48 / 4 = s.pkg ∧ s.online (BitVec.toNat s.evt.w / 2 ^ 48 % 4) = true ∧ s.walk (BitVec.toNat s.evt.w / 2 ^ 48) (BitVec.toNat s.evt.w % 2 ^ 48) true = (Except.ok e, s) ∧ e.use (BitVec.toNat s.evt.w % 2 ^ 48) false true = Trans.hit pa kd ∧ pa % 2 ^ 44 + s.evt.data.length ≤ 206158430208 ∧ pa < 2 ^ 46 ∧ s.inStore pa = false) ∧
    (∃ (s : State) (r : Req) (p : Piece) (a : Nat) (op : BitVec 8) (wide : Bool) (u : Bool) (v : W64) (cmp : W64), s.req? s.evt.n s.evt.m = some r ∧ r.op = ReqOp.atomic op wide u v cmp ∧ s.readyPiece s.evt.n r 0 = some (p, a) ∧ (p.len = if wide = true then 8 else 4) ∧ a % p.len = 0 ∧ a % 2 ^ 44 + p.len ≤ 206158430208 ∧ a < 2 ^ 46 ∧ s.badAt a p.len = false ∧ s.mayCome (portOf a) (sourceRank s.pkg s.evt.n) = true) ∧
    (∃ (s : State) (r : Req), s.req? s.evt.n s.evt.m = some r ∧ r.op = ReqOp.store ∧ r.acked = false ∧ (r.performed = true ∨ r.fault.isSome = true) ∧ ∀ o ∈ (s.ctx s.evt.n).fit.ops, s.evt.m ∉ o.sent) ∧
    (∃ (s : State) (r : Req) (l : Latch), s.req? s.evt.n s.evt.m = some r ∧ r.op.isLoad = true ∧ r.acked = false ∧ (s.ctx s.evt.n).shadow = none ∧ (s.ctx s.evt.n).sync.yielded = false ∧ (s.ctx s.evt.n).sched.latches = [l] ∧ l.req = s.evt.m ∧ l.flag = none ∧ s.unmirrored r = false ∧ r.performed = true ∧ r.fault = none) ∧
    (∃ (s : State) (r : Req) (l : Latch) (f : FaultRec), s.req? s.evt.n s.evt.m = some r ∧ r.op.isLoad = true ∧ r.acked = false ∧ (s.ctx s.evt.n).shadow = none ∧ (s.ctx s.evt.n).sync.yielded = false ∧ (s.ctx s.evt.n).sched.latches = [l] ∧ l.req = s.evt.m ∧ l.flag = none ∧ s.unmirrored r = false ∧ r.fault = some f) ∧
    (∃ (s : State) (w : Walk) (e : TlbEntry), (s.die s.evt.n).walking = [w] ∧ (s.die s.evt.n).walks = [] ∧ s.evt.m = 0 ∧ w.pkg = s.pkg ∧ w.write = false ∧ s.walk w.home w.off false = (Except.ok e, s) ∧ ∀ i < 4, (s.ctx (4 * w.core + i)).mem.reqs = []) :=
  ⟨⟨sR (st 0x1001 false), st 0x1001 false, piece0 0x1001 false, 0x1001, by decide, by decide, by decide, by decide, by decide, by decide, (.inl ⟨0, by decide⟩), by decide⟩,
   ⟨sR (ld 0x1001 false), ld 0x1001 false, piece0 0x1001 false, 0x1001, false, by decide, by decide, by decide, by decide, by decide, by decide, (.inl ⟨0, by decide⟩), by decide⟩,
   ⟨sR (st gridAddr false), st gridAddr false, piece0 gridAddr false, gridAddr, by decide, by decide, by decide, by decide, by decide, (.inl ⟨0, 0x101, by decide⟩), by decide⟩,
   ⟨sR (ld accAddr false), ld accAddr false, piece0 accAddr false, accAddr, false, by decide, by decide, by decide, by decide, by decide, (.inr ⟨0, 0, 0x281, by decide⟩), by decide⟩,
   ⟨sR (st accAddr true), st accAddr true, piece0 accAddr true, accAddr, by decide, by decide, by decide, by decide, by decide, (.inr ⟨0, 0, 0x281, by decide⟩), by decide⟩,
   ⟨sR (ld gridAddr true), ld gridAddr true, piece0 gridAddr true, gridAddr, false, by decide, by decide, by decide, by decide, by decide, (.inl ⟨0, 0x101, by decide⟩), by decide⟩,
   ⟨sB (st accAddr false), st accAddr false, piece0 accAddr false, accAddr, by decide, by decide, by decide, by decide, by decide, (.inr ⟨0, 0, 0x281, by decide⟩), by decide, by decide, by decide, .inl rfl⟩,
   ⟨sCtl, tlbE, 0xFFFD, .s, by decide, by decide, by decide, by decide, by decide, by decide, by rfl, by decide⟩,
   ⟨sR (at_ 0x20 0x1000), at_ 0x20 0x1000, { piece0 0x1000 false with pos := 0, len := 8 }, 0x1000, 0x20, true, true, 0x8000000000000007, 0x7FFFFF, by decide +kernel⟩,
   ⟨sR { st 0x1001 false with performed := true }, { st 0x1001 false with performed := true }, by decide +kernel⟩,
   ⟨sLat { ld 0x1001 true with performed := true } (latch0 .pending 0), { ld 0x1001 true with performed := true }, latch0 .pending 0, by decide +kernel⟩,
   ⟨sLat { ld 0x1001 true with fault := some ⟨3, 7⟩ } (latch0 .pending 0), { ld 0x1001 true with fault := some ⟨3, 7⟩ }, latch0 .pending 0, ⟨3, 7⟩, by decide +kernel⟩,
   ⟨{ sWalk with evt := evtZero }, walk0, tlbE, by decide, by decide, by decide, by decide, by decide, by rfl, by decide⟩⟩

def rw : Req := puth0 (plainBase 8)

def be (e a : Nat) (ms : List (Nat × Bool × Bool)) (ns : List Nat) : BarEntry := { team := 7, name := 5, phase := 3, e := e, a := a, members := ms, notify := ns }

def qEnt (t : Task) (st : QStat) : QEntry := ⟨0, t, st, none⟩

def tmN : Team := { team0 0 with placed := false }

def readyTeam : List QEntry := [qEnt (memb 0) (.ready 5), qEnt (memb 1) (.ready 6)]

def sMig : State := (sPool readyTeam [{ tmN with choice := some 7 }] 0 7).updDie 1 (fun d => { d with slots := 2 })

def sPre : State := (((sPool [qEnt (taskP 30 7) (.loc 0 3)] [] 0 0).setCtx 1 { Ctx.reset with mode := .task, task := some (taskP 31 2) }).setCtx 2 { Ctx.reset with mode := .task, task := some (taskP 32 2) } |>.setCtx 3 { Ctx.reset with mode := .task, task := some (taskP 33 3) }).updCore 0 (fun c => { c with cycle := 70000, head := some (30, 3) })

theorem witness_WakesAndBarrierSteps :
    (∃ (s : State) (r : Req) (x : Nat), s.req? s.evt.n s.evt.m = some r ∧ r.op = ReqOp.puth ∧ r.performed = true ∧ r.wakes = some x ∧ (∀ o ∈ (s.ctx s.evt.n).sched.stores, o.ord ≠ r.ord) ∧ (s.ctx x).sys.armed = true) ∧
    (∃ (s : State) (r : Req) (x : Nat), s.req? s.evt.n s.evt.m = some r ∧ r.op = ReqOp.puth ∧ r.performed = true ∧ r.wakes = some x ∧ (∀ o ∈ (s.ctx s.evt.n).sched.stores, o.ord ≠ r.ord) ∧ (s.ctx x).sys.armed = false) ∧
    (∃ (s : State) (va : W64) (place : W64) (rest : List (W64 × W64)), (s.ctx s.evt.n).mode = Mode.free ∧ (s.ctx s.evt.n).sys.armed = true ∧ (s.ctx s.evt.n).sync.wakes = (va, place) :: rest) ∧
    (∃ (s : State) (op : BarOp) (name : Nat) (ord : Nat) (rest : List (BarOp × Nat × Nat)) (k : Machine.Task) (i : Nat) (b : BarEntry), (s.ctx s.evt.n).sync.out = (op, name, ord) :: rest ∧ (s.ctx s.evt.n).task = some k ∧ (s.ctx s.evt.n).ownDone s.pkg (s.evt.n / 4) ord = true ∧ s.mayCome (s.barSpot k.key name) k.desc.rank = true ∧ (s.die (s.barDie k.key)).bar? k.key name = some (i, b)) ∧
    (∃ (s : State) (k : Machine.Task) (i : Nat) (b : BarEntry), (s.ctx s.evt.n).task = some k ∧ (s.die (s.barDie k.key)).bar? k.key s.evt.m = some (i, b) ∧ k.desc.rank ∈ b.notify) :=
  ⟨⟨sPut true, rw, 8, by decide +kernel⟩,
   ⟨sPut false, rw, 8, by decide +kernel⟩,
   ⟨sDorm, 0x40, 3, [(0x80, 4)], by decide +kernel⟩,
   ⟨sBarOp .join 1 0 [(1, false, false)] [], .join, 5, 0, [], memb 0, 0, be 1 0 [(1, false, false)] [], by decide +kernel⟩,
   ⟨(sBarOp .arrive 2 1 [(0, false, false), (1, true, false)] [0]), (memb 0), 0, (be 2 1 [(0, false, false), (1, true, false)] [0]), by decide +kernel⟩⟩

/-- Two ready tasks of die 0; the second has the higher priority. -/
def sTwo : State := sPool [qEnt (taskP 30 3) (.ready 5), qEnt (taskP 31 5) (.ready 9)] [] 0 0

theorem two_first : ∀ (e : QEntry), e ∈ (sTwo.die sTwo.evt.n).entries ∧ sTwo.takeable sTwo.evt.n e = true ∧ (sTwo.placeFor sTwo.evt.n e).isSome = true →
    (∀ (y : QEntry), y ∈ (sTwo.die sTwo.evt.n).entries ∧ sTwo.takeable sTwo.evt.n y = true ∧ (sTwo.placeFor sTwo.evt.n y).isSome = true →
      sTwo.entryKey e ≤ sTwo.entryKey y) → sTwo.ahead sTwo.evt.n (sTwo.entryKey e) = false := by
  intro e h hm
  have hk := hm (qEnt (taskP 31 5) (.ready 9)) (by decide +kernel)
  have he : e ∈ [qEnt (taskP 30 3) (.ready 5), qEnt (taskP 31 5) (.ready 9)] := h.1
  simp only [List.mem_cons, List.not_mem_nil, or_false] at he
  rcases he with rfl | rfl
  · exact absurd hk (by decide +kernel)
  · decide +kernel

/-- A ready team whose members are both bound to core 0, where one context is free. -/
def sShort : State :=
  let e (r : Nat) : QEntry := qEnt { memb r with pin := some 0 } (.ready 5)
  ((sPool [e 0, e 1] [{ tmN with masked := true }] 0 7).setCtx 1 { Ctx.reset with mode := .task }).setCtx 2 { Ctx.reset with mode := .task }

theorem witness_DispatchAndSchedulingSteps :
    (∃ (s : State), s.evt.n < 4 ∧ s.online s.evt.n = true ∧ s.fresh (Spot.take s.evt.n) = true ∧ (∃ e ∈ (s.die s.evt.n).entries, s.takeable s.evt.n e = true ∧ (s.placeFor s.evt.n e).isSome = true) ∧ ∀ (e : QEntry), e ∈ (s.die s.evt.n).entries ∧ s.takeable s.evt.n e = true ∧ (s.placeFor s.evt.n e).isSome = true → (∀ (y : QEntry), y ∈ (s.die s.evt.n).entries ∧ s.takeable s.evt.n y = true ∧ (s.placeFor s.evt.n y).isSome = true → s.entryKey e ≤ s.entryKey y) → s.ahead s.evt.n (s.entryKey e) = false) ∧
    (∃ (s : State) (tm : Team), s.team? s.evt.m = some tm ∧ tm.die = s.evt.n ∧ s.online s.evt.n = true ∧ s.teamReady tm = true ∧ (s.reserve tm).length = (s.members tm).length ∧ s.fresh (Spot.take s.evt.n) = true ∧ s.ahead s.evt.n (s.teamKey tm) = false) ∧
    (∃ (s : State) (tm : Team), s.team? s.evt.m = some tm ∧ tm.die = s.evt.n ∧ s.online s.evt.n = true ∧ s.teamReady tm = true ∧ (s.reserve tm).length ≠ (s.members tm).length ∧ s.teamFirst tm = true ∧ s.reserve tm ≠ tm.reserved) ∧
    (∃ (s : State) (tm : Team) (since : Nat), s.team? s.evt.m = some tm ∧ tm.die = s.evt.n ∧ s.online s.evt.n = true ∧ tm.choice = some since ∧ since + 2 ^ 20 ≤ s.clock ∧ tm.placed = false ∧ (tm.masked = true → ∀ e ∈ s.members tm, (s.core (e.task.pin.getD 0)).offline = true) ∧ ∃ e < 4, e ≠ s.evt.n ∧ s.online e = true ∧ tm.tsize - tm.ended.length ≤ (s.die e).slots) ∧
    (∃ (s : State), s.evt.n < 4 ∧ s.online s.evt.n = true ∧ ((s.die s.evt.n).advert = 0 ∨ (s.die s.evt.n).advert + 2 ^ 16 ≤ s.clock)) ∧
    (∃ (s : State) (e : QEntry) (m : Nat) (rest : List Nat), s.localFirst s.evt.n = some e ∧ s.freeCtxs s.evt.n = m :: rest ∧ e.image = none) ∧
    (∃ (s : State) (e : QEntry) (m : Nat) (since : Nat), s.localFirst s.evt.n = some e ∧ (s.core s.evt.n).head = some (e.task.tid, since) ∧ since + 2 ^ 16 ≤ (s.core s.evt.n).cycle ∧ List.length (s.die (s.evt.n / 256)).frozen < 1024 ∧ s.victimCtx s.evt.n (s.prio e.task) = some m ∧ (s.ctx m).sync.preempt = false) ∧
    (∃ (s : State) (e : QEntry), (s.core s.evt.n).offline = false ∧ (s.core s.evt.n).stealWait = 0 ∧ s.localQueue s.evt.n = [] ∧ (s.freeCtxs s.evt.n).length = 4 ∧ s.fresh (Spot.attempt s.evt.n) = true ∧ s.fresh (Spot.victim (256 * (s.evt.n / 256) + (s.evt.n % 256 + 1 + (s.core s.evt.n).rot % 255) % 256)) = true ∧ s.stealFrom (256 * (s.evt.n / 256) + (s.evt.n % 256 + 1 + (s.core s.evt.n).rot % 255) % 256) = some e) ∧
    (∃ (s : State), (s.core s.evt.n).offline = false ∧ (s.core s.evt.n).stealWait = 0 ∧ s.localQueue s.evt.n = [] ∧ (s.freeCtxs s.evt.n).length = 4 ∧ s.fresh (Spot.attempt s.evt.n) = true ∧ s.fresh (Spot.victim (256 * (s.evt.n / 256) + (s.evt.n % 256 + 1 + (s.core s.evt.n).rot % 255) % 256)) = true ∧ s.stealFrom (256 * (s.evt.n / 256) + (s.evt.n % 256 + 1 + (s.core s.evt.n).rot % 255) % 256) = none) :=
  ⟨⟨sTwo, by decide, by decide, by decide, by decide, two_first⟩,
   ⟨sPool readyTeam [tmN] 0 7, tmN, by decide +kernel⟩,
   ⟨sShort, { tmN with masked := true }, by decide +kernel⟩,
   ⟨sMig, { tmN with choice := some 7 }, 7, by and_intros <;> decide⟩,
   ⟨(sPool [] [] 0 0), by decide +kernel⟩,
   ⟨(sFree [qEnt (taskP 30 3) (.loc 0 3)] id), (qEnt (taskP 30 3) (.loc 0 3)), 0, [1, 2, 3], by decide +kernel⟩,
   ⟨sPre, (qEnt (taskP 30 7) (.loc 0 3)), 2, 3, by decide +kernel⟩,
   ⟨sFree [qEnt (taskP 30 3) (.loc 1 3), qEnt (taskP 31 5) (.loc 1 3)] id, qEnt (taskP 30 3) (.loc 1 3), by decide +kernel⟩,
   ⟨sFree [] id, by decide +kernel⟩⟩

theorem witness_CopyEngineSteps :
    (∃ (s : State) (m : Cmd) (l : List W64) (q : State), (s.ctx s.evt.n).mem.cmds = [m] ∧ m.stat = CmdStat.queued ∧ (s.ctx s.evt.n).mode ≠ Mode.frozen ∧ (s.ctx s.evt.n).leaving = false ∧ s.banksTaken s.evt.n m = false ∧ m.acq = false ∧ (m.argsOk && s.windowWaits s.evt.n m) = false ∧ s.startNeeds s.evt.n m ≤ s.evt.data.length ∧ s.startChecks s.evt.n m = (Except.ok l, q) ∧ m.dt = false) ∧
    (∃ (s : State) (m : Cmd) (f : FaultRec) (q : State), (s.ctx s.evt.n).mem.cmds = [m] ∧ m.stat = CmdStat.queued ∧ (s.ctx s.evt.n).mode ≠ Mode.frozen ∧ (s.ctx s.evt.n).leaving = false ∧ s.banksTaken s.evt.n m = false ∧ m.acq = false ∧ (m.argsOk && s.windowWaits s.evt.n m) = false ∧ s.startNeeds s.evt.n m ≤ s.evt.data.length ∧ s.startChecks s.evt.n m = (Except.error f, q)) ∧
    (∃ (s : State) (k : Nat) (m : Cmd) (o : Nat) (p : Nat), s.nextCopy s.evt.n = some (k, m) ∧ k < 4096 ∧ m.op = 1 ∧ m.sTy = Ty.f32 ∧ m.dTy = Ty.f32 ∧ m.total = m.off + 1 ∧ m.srcs m.off = [Endp.va selfHome o none] ∧ m.dest m.off = Endp.va selfHome p none ∧ o % 4 = 0 ∧ p % 4 = 0 ∧ o + 4 ≤ 131072 ∧ p + 4 ≤ 131072 ∧ s.badAt (plainBase k + o) 4 = false ∧ s.inStore (plainBase k + p) = false ∧ s.fresh (Spot.burst s.evt.n) = true) ∧
    (∃ (s : State) (m : Cmd), (s.ctx s.evt.n).mem.cmds = [m] ∧ m.stat = CmdStat.draining ∧ m.far = [] ∧ s.copyReleased s.evt.n m = true ∧ (s.ctx s.evt.n).mode ≠ Mode.frozen ∧ ∀ p ∈ (s.ctx s.evt.n).sched.pend, p.dest = Dest.f m.hdr.fl → p.slot ≠ Slot.e0) :=
  ⟨⟨sCmd (cpy0 .queued 0 0), cpy0 .queued 0 0, [], sCmd (cpy0 .queued 0 0), by decide, by decide, by decide, by decide, by decide, by decide, by decide, by decide, by rfl, by decide⟩,
   ⟨sCmd (cpy0 .queued 0 (2 ^ 54 * 31)), cpy0 .queued 0 (2 ^ 54 * 31), { cause := cCPYARG, taddr := 0x7FFF000000000100 }, sCmd (cpy0 .queued 0 (2 ^ 54 * 31)), by decide, by decide, by decide, by decide, by decide, by decide, by decide, by decide, by rfl⟩,
   ⟨sCmd (cpy0 .running 1 0), 0, cpy0 .running 1 0, 0x104, 0x204, by decide +kernel⟩,
   ⟨sCmd (cpy0 .draining 2 0), cpy0 .draining 2 0, by decide, by decide, by decide, by decide, by decide, by decide⟩⟩

def shp : W64 := BitVec.ofNat 64 (7 * 2 ^ 9 + 3 * 2 ^ 23)

def badShp : W64 := BitVec.ofNat 64 (7 * 2 ^ 9 + 31 * 2 ^ 18)

def rn (w : W64) : Req := tileReq (.tlnew 0) w

def rrd : Req := tileReq (.tlrd 7) ref0

def yP (st : Nat) : Tile := { tile0 st with prod := some (0, 9) }

def rwr : Req := tileReq (.tlwr (lineAt 3 1) 7 true .f32 0) ref0

def rq : Req := tileReq .tlqry ref0

def rf : Req := tileReq .tlfin ref0

def yU (u : Nat) : Tile := { tile0 3 with usesinit := 3, uses := u }

def yR (st : Nat) : Tile := { tile0 st with repl := true }

def sLoad : State := { ev s1 0 5 with evt := { evtZero with n := 0, m := 5, w := ref0, v := BitVec.ofNat 64 (7 * 2 ^ 9), data := [1, 0, 3] } }

def sRest : State := (sHome (yR 5) 0 0 (fun l => { l with rebuilds := [(ref0.toNat, (.restore, 2))] })).updDie 1 (fun d => { d with replicas := [(ref0.toNat, [1, 2, 3])] })

/-- The same load on a package with one die online, and on one in a domain with package 1. -/
def sAlone : State := [1, 2, 3].foldl (fun s k => s.updDie k (fun d => { d with offline := true })) sLoad

def sPair : State := { sLoad with fab := { sLoad.fab with members := [(0, 0, 0, 0), (1, 0, 1, 0)], size := 2, ring := [0, 1] } }

/-- A place that the lowest free one offers is a place. -/
theorem room_of (s : State) (d lo hi n : Nat) (h : (least? ((lo :: (s.storeRange d :: s.regions d).map (fun r => r.1 + r.2)).filter
    (fun a => decide (a % 256 = 0 ∧ lo ≤ a ∧ a + n ≤ hi) && clear (s.storeRange d :: s.regions d) a n))).isSome = true) :
    (s.allocate d lo hi n).1.isSome = true := by
  unfold State.allocate; dsimp only; split
  · rfl
  · exact h

/-- Listed dies without tasks of a region budget make every die so. -/
theorem idle_of (s : State) (h : ∀ p ∈ s.dies, ∀ e ∈ p.2.entries, e.task.desc.exact = 0) (k : Nat) : ∀ e ∈ (s.die k).entries, e.task.desc.exact = 0 := by
  unfold State.die
  generalize s.dies = m at h
  induction m with
  | nil => intro e he; exact absurd he (by simp [Sparse.get, Die.reset])
  | cons p r ih =>
    simp only [Sparse.get]
    split
    · exact h p (by simp)
    · exact ih (fun q hq => h q (by simp [hq]))

theorem witness_DirectoryAndRecoverySteps :
    (∃ (s : State) (r : Req), s.req? s.evt.n s.evt.m = some r ∧ s.evt.flag = false ∧ r.performed = false ∧ r.fault = none ∧ (s.answers r.home = r.home ∧ r.home / 4 = s.pkg ∧ r.home < 24576 ∧ s.online (r.home % 4) = true) ∧ (s.ctx s.evt.n).tileFirst r = true ∧ s.mayTouch r = true ∧ r.op = ReqOp.tlnew 0 ∧ shapeOk (BitVec.truncate 64 r.base) = true ∧ (s.hbmPlace (r.home % 4) (newTile (BitVec.truncate 64 r.base).toNat 0).region).1.isSome = true ∧ (BitVec.truncate 64 r.base).toNat.testBit 35 = false ∧ 0 < (s.die (r.home % 4)).nextTile ∧ (s.die (r.home % 4)).nextTile < 2 ^ 33 ∧ Sparse.get 0 (s.die (r.home % 4)).versions (s.die (r.home % 4)).nextTile = 0) ∧
    (∃ (s : State) (r : Req), s.req? s.evt.n s.evt.m = some r ∧ s.evt.flag = false ∧ r.performed = false ∧ r.fault = none ∧ (s.answers r.home = r.home ∧ r.home / 4 = s.pkg ∧ r.home < 24576 ∧ s.online (r.home % 4) = true) ∧ (s.ctx s.evt.n).tileFirst r = true ∧ s.mayTouch r = true ∧ r.op = ReqOp.tlnew 0 ∧ shapeOk (BitVec.truncate 64 r.base) = false) ∧
    (∃ (s : State) (r : Req) (off : BitVec 10) (y : Tile), s.req? s.evt.n s.evt.m = some r ∧ s.evt.flag = false ∧ r.performed = false ∧ r.fault = none ∧ (s.answers r.home = r.home ∧ r.home / 4 = s.pkg ∧ r.home < 24576 ∧ s.online (r.home % 4) = true) ∧ (s.ctx s.evt.n).tileFirst r = true ∧ s.mayTouch r = true ∧ r.op = ReqOp.tlrd off ∧ s.tile? (BitVec.truncate 64 r.base) = some y ∧ y.state = 3 ∧ inRegion y (tilePos y r.base off.toInt 256) 256 = true ∧ s.badAt (y.loc + (tilePos y r.base off.toInt 256).toNat) 256 = false) ∧
    (∃ (s : State) (r : Req) (src : Line) (off : BitVec 14) (fmt : W32) (y : Tile), s.req? s.evt.n s.evt.m = some r ∧ s.evt.flag = false ∧ r.performed = false ∧ r.fault = none ∧ (s.answers r.home = r.home ∧ r.home / 4 = s.pkg ∧ r.home < 24576 ∧ s.online (r.home % 4) = true) ∧ (s.ctx s.evt.n).tileFirst r = true ∧ s.mayTouch r = true ∧ r.op = ReqOp.tlwr src off true Ty.f32 fmt ∧ s.tile? (BitVec.truncate 64 r.base) = some y ∧ y.state = 1 ∧ y.producer s.pkg (BitVec.truncate 64 r.base) (s.ctx s.evt.n).task = true ∧ y.discards (BitVec.truncate 64 r.base) (s.ctx s.evt.n).task = false ∧ inRegion y (tilePos y r.base off.toInt 256) 256 = true ∧ y.loc % 2 ^ 44 + y.region ≤ 206158430208 ∧ y.loc + y.region ≤ 2 ^ 46) ∧
    (∃ (s : State) (r : Req) (y : Tile), s.req? s.evt.n s.evt.m = some r ∧ s.evt.flag = false ∧ r.performed = false ∧ r.fault = none ∧ (s.answers r.home = r.home ∧ r.home / 4 = s.pkg ∧ r.home < 24576 ∧ s.online (r.home % 4) = true) ∧ (s.ctx s.evt.n).tileFirst r = true ∧ s.mayTouch r = true ∧ r.op = ReqOp.tlqry ∧ s.tile? (BitVec.truncate 64 r.base) = some y) ∧
    (∃ (s : State) (r : Req) (y : Tile), s.req? s.evt.n s.evt.m = some r ∧ s.evt.flag = false ∧ r.performed = false ∧ r.fault = none ∧ (s.answers r.home = r.home ∧ r.home / 4 = s.pkg ∧ r.home < 24576 ∧ s.online (r.home % 4) = true) ∧ (s.ctx s.evt.n).tileFirst r = true ∧ s.mayTouch r = true ∧ r.op = ReqOp.tlfin ∧ s.tile? (BitVec.truncate 64 r.base) = some y ∧ y.state = 2 ∧ y.producer s.pkg (BitVec.truncate 64 r.base) (s.ctx s.evt.n).task = true ∧ y.discards (BitVec.truncate 64 r.base) (s.ctx s.evt.n).task = false ∧ (s.ctx s.evt.n).finReady s.pkg (s.evt.n / 4) r = true) ∧
    (∃ (s : State) (b : Nat), (s.answers (refHome s.evt.w) = refHome s.evt.w ∧ refHome s.evt.w / 4 = s.pkg ∧ refHome s.evt.w < 24576 ∧ s.online (refHome s.evt.w % 4) = true) ∧ s.tile? s.evt.w = none ∧ refNum s.evt.w ≠ 0 ∧ refVer s.evt.w ≠ 0 ∧ shapeOk s.evt.v = true ∧ (s.hbmPlace (refHome s.evt.w % 4) (newTile (BitVec.toNat s.evt.v) s.evt.m).region).1.isSome = true ∧ (∀ (k : Nat), ∀ e ∈ (s.die k).entries, e.task.desc.exact = 0) ∧ s.buddy (refHome s.evt.w % 4) = some (s.pkg, b)) ∧
    (∃ (s : State), (s.answers (refHome s.evt.w) = refHome s.evt.w ∧ refHome s.evt.w / 4 = s.pkg ∧ refHome s.evt.w < 24576 ∧ s.online (refHome s.evt.w % 4) = true) ∧ s.tile? s.evt.w = none ∧ refNum s.evt.w ≠ 0 ∧ refVer s.evt.w ≠ 0 ∧ shapeOk s.evt.v = true ∧ (s.hbmPlace (refHome s.evt.w % 4) (newTile (BitVec.toNat s.evt.v) s.evt.m).region).1.isSome = true ∧ (∀ (k : Nat), ∀ e ∈ (s.die k).entries, e.task.desc.exact = 0) ∧ s.buddy (refHome s.evt.w % 4) = none) ∧
    (∃ (s : State) (p : Nat) (b : Nat), (s.answers (refHome s.evt.w) = refHome s.evt.w ∧ refHome s.evt.w / 4 = s.pkg ∧ refHome s.evt.w < 24576 ∧ s.online (refHome s.evt.w % 4) = true) ∧ s.tile? s.evt.w = none ∧ refNum s.evt.w ≠ 0 ∧ refVer s.evt.w ≠ 0 ∧ shapeOk s.evt.v = true ∧ (s.hbmPlace (refHome s.evt.w % 4) (newTile (BitVec.toNat s.evt.v) s.evt.m).region).1.isSome = true ∧ (∀ (k : Nat), ∀ e ∈ (s.die k).entries, e.task.desc.exact = 0) ∧ s.buddy (refHome s.evt.w % 4) = some (p, b) ∧ p ≠ s.pkg) ∧
    (∃ (s : State) (y : Tile), (s.answers (refHome s.evt.w) = refHome s.evt.w ∧ refHome s.evt.w / 4 = s.pkg ∧ refHome s.evt.w < 24576 ∧ s.online (refHome s.evt.w % 4) = true) ∧ s.tile? s.evt.w = some y ∧ (s.evt.w, s.evt.n, s.evt.m) ∈ (s.die (refHome s.evt.w % 4)).lin.releases ∧ y.marked = [] ∧ y.usesinit ≠ 0 ∧ y.state = 3 ∧ s.mayCome (Spot.directory s.evt.w) 5 = true ∧ 1 < y.uses) ∧
    (∃ (s : State) (y : Tile), (s.answers (refHome s.evt.w) = refHome s.evt.w ∧ refHome s.evt.w / 4 = s.pkg ∧ refHome s.evt.w < 24576 ∧ s.online (refHome s.evt.w % 4) = true) ∧ s.tile? s.evt.w = some y ∧ (s.evt.w, s.evt.n, s.evt.m) ∈ (s.die (refHome s.evt.w % 4)).lin.releases ∧ y.marked = [] ∧ y.usesinit ≠ 0 ∧ y.state = 3 ∧ s.mayCome (Spot.directory s.evt.w) 5 = true ∧ y.uses = 1) ∧
    (∃ (s : State) (y : Tile), (s.answers (refHome s.evt.w) = refHome s.evt.w ∧ refHome s.evt.w / 4 = s.pkg ∧ refHome s.evt.w < 24576 ∧ s.online (refHome s.evt.w % 4) = true) ∧ s.tile? s.evt.w = some y ∧ s.evt.w ∈ (s.die (refHome s.evt.w % 4)).lin.reports ∧ y.state = 3 ∧ y.recoverable = true ∧ s.mayCome (Spot.directory s.evt.w) 3 = true) ∧
    (∃ (s : State) (y : Tile) (p : Nat), (s.answers (refHome s.evt.w) = refHome s.evt.w ∧ refHome s.evt.w / 4 = s.pkg ∧ refHome s.evt.w < 24576 ∧ s.online (refHome s.evt.w % 4) = true) ∧ s.tile? s.evt.w = some y ∧ (s.die (refHome s.evt.w % 4)).lin.requests = [(s.evt.w, p)] ∧ y.state = 4 ∧ y.repl = true ∧ Sparse.find? (s.die (refHome s.evt.w % 4)).lin.rebuilds (BitVec.toNat s.evt.w) = none ∧ s.mayCome (Spot.directory s.evt.w) 4 = true) ∧
    (∃ (s : State) (y : Tile) (p : Nat) (b : Nat) (c : List Byte), (s.answers (refHome s.evt.w) = refHome s.evt.w ∧ refHome s.evt.w / 4 = s.pkg ∧ refHome s.evt.w < 24576 ∧ s.online (refHome s.evt.w % 4) = true) ∧ s.tile? s.evt.w = some y ∧ Sparse.find? (s.die (refHome s.evt.w % 4)).lin.rebuilds (BitVec.toNat s.evt.w) = some (Rebuild.restore, p) ∧ b < 4 ∧ Sparse.find? (s.die b).replicas (BitVec.toNat s.evt.w) = some c ∧ y.again = false ∧ y.kept = false ∧ y.usesinit = 0 ∧ (s.allocate (refHome s.evt.w % 4) (hbmRange (refHome s.evt.w % 4)).1 (hbmRange (refHome s.evt.w % 4)).2 y.region).1.isSome = true) ∧
    (∃ (s : State) (y : Tile) (b : Nat), (s.answers (refHome s.evt.w) = refHome s.evt.w ∧ refHome s.evt.w / 4 = s.pkg ∧ refHome s.evt.w < 24576 ∧ s.online (refHome s.evt.w % 4) = true) ∧ s.tile? s.evt.w = some y ∧ s.evt.w ∈ (s.die (refHome s.evt.w % 4)).lin.copying ∧ s.buddy (refHome s.evt.w % 4) = some (s.pkg, b) ∧ y.state = 3 ∧ s.record? s.evt.w = none ∧ (s.die (refHome s.evt.w % 4)).e2e.sending s.evt.w = false) ∧
    (∃ (s : State), ((∃ (k : Nat), placeOf s.evt.n = Place.hbm k) ∨ (∃ (k : Nat) (o : Nat), placeOf s.evt.n = Place.tile k o) ∨ ∃ (k : Nat) (o : Nat), placeOf s.evt.n = Place.plain k o)) :=
  ⟨⟨sDir (rn shp) none, rn shp, by decide +kernel, by decide, by decide, by decide, by decide +kernel, by decide, by decide, by decide, by decide, room_of _ _ _ _ _ (by decide +kernel), by decide +kernel⟩,
   ⟨sDir (rn badShp) none, rn badShp, by decide +kernel⟩,
   ⟨sDir rrd (some (tile0 3)), rrd, 7, tile0 3, by decide +kernel⟩,
   ⟨sDir rwr (some (yP 1)), rwr, lineAt 3 1, 7, 0, yP 1, by decide +kernel⟩,
   ⟨sDir rq (some (tile0 4)), rq, tile0 4, by decide +kernel⟩,
   ⟨sDir rf (some (yP 2)), rf, yP 2, by decide +kernel⟩,
   ⟨sLoad, 1, by decide +kernel, by decide, by decide, by decide, by decide, room_of _ _ _ _ _ (by decide +kernel), idle_of _ (by decide +kernel), by decide +kernel⟩,
   ⟨sAlone, by decide +kernel, by decide, by decide, by decide, by decide, room_of _ _ _ _ _ (by decide +kernel), idle_of _ (by decide +kernel), by decide +kernel⟩,
   ⟨sPair, 1, 0, by decide +kernel, by decide, by decide, by decide, by decide, room_of _ _ _ _ _ (by decide +kernel), idle_of _ (by decide +kernel), by decide +kernel⟩,
   ⟨sHome (yU 3) 0 9 (fun l => { l with releases := [(ref0, 0, 9)] }), yU 3, by decide +kernel⟩,
   ⟨sHome (yU 1) 0 9 (fun l => { l with releases := [(ref0, 0, 9)] }), yU 1, by decide +kernel⟩,
   ⟨sHome (yR 3) 0 9 (fun l => { l with reports := [ref0] }), yR 3, by decide +kernel⟩,
   ⟨sHome (yR 4) 0 9 (fun l => { l with requests := [(ref0, 2)] }), yR 4, 2, by decide +kernel⟩,
   ⟨sRest, yR 5, 2, 1, [1, 2, 3], by decide, by decide, by decide, by decide, by decide, by decide, by decide, by decide, room_of _ _ _ _ _ (by decide +kernel)⟩,
   ⟨sHome (tile0 3) 0 0 (fun l => { l with copying := [ref0] }), tile0 3, 1, by decide +kernel⟩,
   ⟨(ev s1 0x1001 0), (.inl ⟨0, (by decide +kernel)⟩)⟩⟩

def sPer : State := { ev s1 1 0 with jobs := [(1, { Job.reset with period := 100, area := 0x10000 })], clock := 100 }

def drained : State := (sTeam 1 .frozen).updDie 0 (fun d => { d with port := { op := 0x76, a := 7, b := 0, go := true, st := 0 } })

theorem witness_JobsAndLosses :
    (∃ (s : State), s.evt.n < 1024 ∧ (s.core s.evt.n).offline = false ∧ s.online (s.evt.n / 256) = true) ∧
    (∃ (s : State), s.evt.n = s.pkg ∧ s.evt.n < 6144 ∧ s.evt.m < 4 ∧ s.online s.evt.m = true) ∧
    (∃ (s : State), s.evt.n ≠ s.pkg ∧ s.evt.n < 6144 ∧ s.evt.m < 4 ∧ 4 * s.evt.n + s.evt.m ∉ s.fab.gone) ∧
    (∃ (s : State), s.evt.n < 4 ∧ s.online s.evt.n = true ∧ s.image? s.evt.n s.evt.w = none ∧ (∃ e ∈ (s.die s.evt.n).entries, e.task.desc.image = s.evt.w) ∧ s.evt.flag = false ∧ (∃ (x : Nat) (i : Image), x < 4 ∧ s.image? x s.evt.w = some i)) ∧
    (∃ (s : State), s.evt.n < 4 ∧ s.online s.evt.n = true ∧ s.image? s.evt.n s.evt.w = none ∧ (∃ e ∈ (s.die s.evt.n).entries, e.task.desc.image = s.evt.w) ∧ s.evt.flag = true ∧ (s.die s.evt.n).waitEntry = []) ∧
    (∃ (s : State), 0 < (s.job s.evt.n).period ∧ (s.job s.evt.n).last + (s.job s.evt.n).period ≤ s.clock) :=
  ⟨⟨(ev s1 1023 0), by decide +kernel⟩,
   ⟨(ev s1 0 0), by decide +kernel⟩,
   ⟨(ev s1 6143 3), by decide +kernel⟩,
   ⟨(sImg false), by decide, by decide, by decide, by decide, by decide, ⟨0, image0 (List.replicate 20 0), (by decide +kernel), (by decide +kernel)⟩⟩,
   ⟨(sImg true), by decide, by decide, by decide, by decide, by decide, by decide⟩,
   ⟨sPer, by decide +kernel⟩⟩

theorem rrPort : (sPort sRcf 0x7E 0x7FFF00000001D000 0).reconfReady 0 (addrOfCompact 0x7FFF00000001D000) := by
  rw [show addrOfCompact 0x7FFF00000001D000 = ownAddr 0x1D000 by decide]; exact rr

theorem witness_ControlPortOperations :
    (∃ (s : State) (tm : Team), s.evt.n < 4 ∧ s.online s.evt.n = true ∧ (s.die s.evt.n).port.go = false ∧ s.team? (BitVec.toNat s.evt.w) = some tm ∧ tm.key = BitVec.toNat s.evt.w ∧ 0 < tm.key ∧ tm.key < 2 ^ 32 ∧ s.evt.m % 2 ^ 8 = 117 ∧ s.evt.m / 2 ^ 8 % 2 ^ 4 = 0 ∧ tm.state = 0 ∧ s.anyStopped tm = false ∧ (∀ m ∈ s.memberCtxs tm, (s.ctx m).mode = Mode.frozen)) ∧
    (∃ (s : State) (tm : Team), s.evt.n < 4 ∧ s.online s.evt.n = true ∧ (s.die s.evt.n).port.go = false ∧ s.team? (BitVec.toNat s.evt.w) = some tm ∧ tm.key = BitVec.toNat s.evt.w ∧ 0 < tm.key ∧ tm.key < 2 ^ 32 ∧ s.evt.m % 2 ^ 8 = 118 ∧ tm.state ≠ 0) ∧
    (∃ (s : State) (tm : Team) (outs : List (List Carried)) (q : State), q = s.updDie s.evt.n (fun y => { y with port := { op := BitVec.ofNat 64 s.evt.m, a := s.evt.w, b := s.evt.v, go := true, st := y.port.st } }) ∧ s.evt.n < 4 ∧ s.online s.evt.n = true ∧ (s.die s.evt.n).port.go = false ∧ s.team? (BitVec.toNat s.evt.w) = some tm ∧ tm.key = BitVec.toNat s.evt.w ∧ 0 < tm.key ∧ tm.key < 2 ^ 32 ∧ q.writingAll (List.map QEntry.task (q.ranked tm)) [] = some outs ∧ s.evt.m % 2 ^ 8 = 120 ∧ s.evt.m / 2 ^ 8 % 2 ^ 4 = 0 ∧ tm.state = 2 ∧ BitVec.toNat s.evt.v < 2 ^ 63 ∧ offOf (addrOfCompact s.evt.v) % 65536 = 0 ∧ ¬(addrHome (addrOfCompact s.evt.v) ≠ selfHome ∧ addrHome (addrOfCompact s.evt.v) < 24576 ∧ addrHome (addrOfCompact s.evt.v) / 4 ≠ s.pkg) ∧ (q.areaPages (1024 * s.evt.n) (addrHome (addrOfCompact s.evt.v)) (offOf (addrOfCompact s.evt.v)) (q.teamImage tm (List.map (fun (m : QEntry × List Carried) => q.memberImage tm false m.1 m.2) ((q.ranked tm).zip outs)) (q.bindings tm) false 0).2.1 false true).1.isSome = true) ∧
    (∃ (s : State), s.evt.n < 4 ∧ s.online s.evt.n = true ∧ (s.die s.evt.n).port.go = false ∧ s.evt.m % 2 ^ 8 = 119 ∧ BitVec.toNat s.evt.w < 2 ^ 63 ∧ isSelf (addrOfCompact s.evt.w) ∧ offOf (addrOfCompact s.evt.w) % 4 = 0 ∧ offOf (addrOfCompact s.evt.w) + 4 * (List.take (BitVec.toNat s.evt.v / 2 ^ 32 % 2 ^ 16 + 1) (List.map Prod.fst (List.filter (fun (q : Nat × Bool) => q.2 && decide (BitVec.toNat s.evt.v % 2 ^ 32 ≤ q.1)) (s.die s.evt.n).dirty))).length ≤ 131072 ∧ BitVec.toNat s.evt.v % 2 ^ 32 < 3153920 ∧ (∀ g ∈ List.take (BitVec.toNat s.evt.v / 2 ^ 32 % 2 ^ 16 + 1) (List.map Prod.fst (List.filter (fun (q : Nat × Bool) => q.2 && decide (BitVec.toNat s.evt.v % 2 ^ 32 ≤ q.1)) (s.die s.evt.n).dirty)), g < 2 ^ 32)) ∧
    (∃ (s : State), s.evt.n < 4 ∧ s.online s.evt.n = true ∧ (s.die s.evt.n).port.go = false ∧ s.evt.m % 2 ^ 8 = 121) ∧
    (∃ (s : State), s.evt.n < 4 ∧ s.online s.evt.n = true ∧ (s.die s.evt.n).port.go = false ∧ s.evt.m % 2 ^ 8 = 126 ∧ BitVec.toNat s.evt.w < 2 ^ 63 ∧ s.reconfReady (1024 * s.evt.n) (addrOfCompact s.evt.w)) ∧
    (∃ (s : State), s.evt.n < 4 ∧ s.online s.evt.n = true ∧ (s.die s.evt.n).port.go = false ∧ s.evt.m % 2 ^ 8 ∉ [117, 118, 119, 120, 121, 126]) ∧
    (∃ (s : State) (tm : Team), s.evt.n < 4 ∧ s.online s.evt.n = true ∧ (s.die s.evt.n).port.go = true ∧ BitVec.toNat (s.die s.evt.n).port.op % 2 ^ 8 = 118 ∧ s.team? (BitVec.toNat (s.die s.evt.n).port.a) = some tm ∧ tm.key = BitVec.toNat (s.die s.evt.n).port.a ∧ 0 < tm.key ∧ tm.key < 2 ^ 32 ∧ tm.state ≠ 0 ∧ (∀ k ∈ s.memberDies tm, (s.die k).e2e.drains = []) ∧ s.coming (s.memberCtxs tm) = false) :=
  ⟨⟨(sPort (sTeam 0 .frozen) 0x75 7 0), (team0 0), by and_intros <;> decide⟩,
   ⟨(sPort (sTeam 1 .frozen) 0x76 7 0), (team0 1), by decide +kernel⟩,
   ⟨sPort (sTeam 2 .frozen) 0x78 7 0, team0 2, [[], []], _, rfl, by and_intros <;> first | rfl | decide +kernel⟩,
   ⟨(sPort (sTeam 0 .task) 0x77 0x7FFF000000000100 0x700000001), by decide, by decide, by decide, by decide, by decide, by unfold isSelf; decide +kernel, by decide, by decide, by decide, by decide⟩,
   ⟨(sPort (sTeam 0 .task) 0x79 0x7FFF000000000100 0), by decide +kernel⟩,
   ⟨sPort sRcf 0x7E 0x7FFF00000001D000 0, by decide +kernel, by decide +kernel, by decide +kernel, by decide +kernel, by decide +kernel, rrPort⟩,
   ⟨(sPort sRcf 0x7D 0 0), by decide +kernel⟩,
   ⟨(sPort drained 0 0 0), (team0 1), by and_intros <;> decide⟩⟩

abbrev dirR := LinkDir.reset

def up : LinkDir := dir0 0 0xFFFF [] []

def badF (s : State) : State := { s with evt := { s.evt with flit := { flit0 1 5 with kind := 7 } } }

theorem witness_LinkSteps :
    (∃ (s : State) (g : Flit) (rest : List Flit), s.evt.n < 512 ∧ (s.link s.evt.n false).st ≤ 1 ∧ (s.link s.evt.n false).out = g :: rest ∧ g ∉ (s.link s.evt.n false).buf ∧ (g.sequenced = true → (s.link s.evt.n false).buf.length < 4096)) ∧
    (∃ (s : State) (g : Flit) (rest : List Flit), s.evt.n < 512 ∧ (s.link s.evt.n false).st ≤ 1 ∧ (s.link s.evt.n false).out = g :: rest ∧ g ∈ (s.link s.evt.n false).buf ∧ (s.link s.evt.n false).nrp < 16777215) ∧
    (∃ (s : State), s.evt.n < 512 ∧ (s.link s.evt.n true).st ≤ 1 ∧ s.evt.flit.good = true ∧ s.evt.flit.sequenced = true ∧ s.evt.flit.seq.toNat = (s.link s.evt.n true).seq) ∧
    (∃ (s : State), s.evt.n < 512 ∧ (s.link s.evt.n true).st ≤ 1 ∧ s.evt.flit.good = false ∧ (s.link s.evt.n true).nak = false) ∧
    (∃ (s : State), s.evt.n < 512 ∧ (s.link s.evt.n true).st ≤ 1 ∧ 0 < (s.link s.evt.n true).unacked ∧ (s.link s.evt.n true).since + 845 ≤ s.clock) ∧
    (∃ (s : State), s.evt.n < 512 ∧ (s.link s.evt.n true).st ≤ 1 ∧ BitVec.ofNat 16 s.evt.m &&& (s.link s.evt.n true).mask ≠ 0 ∧ 4 ≤ maskCount ((s.link s.evt.n true).mask &&& ~~~(BitVec.ofNat 16 s.evt.m &&& (s.link s.evt.n true).mask))) ∧
    (∃ (s : State), s.evt.n < 512 ∧ (s.link s.evt.n true).st ≤ 1 ∧ BitVec.ofNat 16 s.evt.m &&& (s.link s.evt.n true).mask ≠ 0 ∧ maskCount ((s.link s.evt.n true).mask &&& ~~~(BitVec.ofNat 16 s.evt.m &&& (s.link s.evt.n true).mask)) < 4) ∧
    (∃ (s : State), s.evt.n < 512 ∧ (s.link s.evt.n true).st = 2) ∧
    (∃ (s : State), s.evt.n < 512 ∧ (s.link s.evt.n false).st ≤ 2) ∧
    (∃ (s : State), s.evt.n < 512 ∧ (s.link s.evt.n false).st ≤ 2 ∧ s.evt.flag = true) ∧
    (∃ (s : State), s.evt.n < 512 ∧ (s.link s.evt.n false).st ≤ 1 ∧ s.evt.flag = false ∧ 4 ≤ maskCount (BitVec.ofNat 16 s.evt.m)) ∧
    (∃ (s : State), s.evt.n < 512 ∧ (s.link s.evt.n s.evt.flag).st = 2 ∧ s.evt.flag = true ∧ (s.link s.evt.n s.evt.flag).since + 5280 ≤ s.clock ∧ (s.link s.evt.n s.evt.flag).relock = 0) ∧
    (∃ (s : State), s.evt.n < 512 ∧ (s.link s.evt.n s.evt.flag).st = 2 ∧ s.evt.flag = false) ∧
    (∃ (s : State), s.evt.n < 512 ∧ s.evt.m < 16 ∧ (s.link s.evt.n true).mask &&& ↑(1 <<< s.evt.m) = 0 ∧ (Sparse.find? (s.link s.evt.n true).dark s.evt.m).getD 0 + 2 ^ 22 ≤ s.clock ∧ (s.link s.evt.n true).st = 1 ∧ 4 ≤ maskCount ((s.link s.evt.n true).mask ||| ↑(1 <<< s.evt.m))) ∧
    (∃ (s : State), s.evt.n < 512 ∧ s.evt.m < 16 ∧ (s.link s.evt.n true).mask &&& ↑(1 <<< s.evt.m) = 0 ∧ (Sparse.find? (s.link s.evt.n true).dark s.evt.m).getD 0 + 2 ^ 22 ≤ s.clock ∧ (s.link s.evt.n true).st = 2) ∧
    (∃ (s : State), s.evt.n < 512 ∧ (s.link s.evt.n s.evt.flag).st = 3 ∧ (∀ (r : Reconf), s.fab.rcf = some r → r.step ≠ 3 ∨ ∃ m ∈ r.held, ∃ (c : Bool), (m, c) ≠ (s.evt.n, s.evt.flag) ∧ (s.link m c).st = 3) ∧ (s.link s.evt.n s.evt.flag).since + 82500000 ≤ s.clock) ∧
    (∃ (s : State), s.evt.n < 512 ∧ (s.link s.evt.n s.evt.flag).st = 3 ∧ (∀ (r : Reconf), s.fab.rcf = some r → r.step ≠ 3 ∨ ∃ m ∈ r.held, ∃ (c : Bool), (m, c) ≠ (s.evt.n, s.evt.flag) ∧ (s.link m c).st = 3) ∧ (s.link s.evt.n s.evt.flag).since + 33005280 ≤ s.clock ∧ 4 ≤ maskCount (BitVec.ofNat 16 s.evt.m)) :=
  ⟨⟨(sLink (dir0 0 0xFFFF [] [flit0 1 4]) up 0 false), (flit0 1 4), [], by decide, by decide, by decide, by decide, by decide⟩,
   ⟨(sLink (dir0 0 0xFFFF [flit0 1 4] [flit0 1 4]) up 0 false), (flit0 1 4), [], by decide +kernel⟩,
   ⟨(sLink up up 0 false), by decide +kernel⟩,
   ⟨(badF (sLink up up 0 false)), by decide +kernel⟩,
   ⟨(sLink up { up with unacked := 2 } 0 false), by decide +kernel⟩,
   ⟨(sLink up up 0x0003 false), by decide +kernel⟩,
   ⟨(sLink up (dir0 1 0x001F [] []) 0x0003 false), by decide +kernel⟩,
   ⟨(sLink up (dir0 2 0x001F [] []) 0x0003 false), by decide +kernel⟩,
   ⟨(sLink (dir0 2 0xFFFF [flit0 1 1, flit0 1 2] []) up 0 false), by decide +kernel⟩,
   ⟨(sLink up up 0 true), by decide +kernel⟩,
   ⟨(sLink up up 0xFF false), by decide +kernel⟩,
   ⟨(sLink up (dir0 2 0x00FF [] []) 0 true), by decide +kernel⟩,
   ⟨(sLink (dir0 2 0x00FF [flit0 1 1, flit0 1 2] []) up 0 false), by decide +kernel⟩,
   ⟨sLink up (dir0 1 0x00FF [] []) 9 true, by decide +kernel⟩,
   ⟨sLink up (dir0 2 0x00FF [] []) 9 true, by decide +kernel⟩,
   ⟨(sLink up (dir0 3 0x00FF [flit0 1 1] []) 9 true), by decide, by decide, by decide, by decide⟩,
   ⟨(sLink (dir0 3 0x00FF [flit0 1 1] []) up 0xFFFF false), by decide, by decide, by decide, by decide, by decide⟩⟩

def wr : Packet := pktIn 2 (BitVec.ofNat 64 (2 ^ 63 + 4 * 2 ^ 44)) 0x1000 [1, 2, 3, 4]

def out (d : BitVec 13) (v : BitVec 8) : Packet := { pktIn 2 0 0 [1, 2, 3, 4] with dpkg := d, ver := v, spkg := 0 }

def sk : Nat := streamKey wr

def sAck : State := (sPkt (pktIn 9 0 3 []) []).updDie 0 (fun d => { d with e2e := { d.e2e with store := [{ pkt0 0 with ddie := 2 }, { pkt0 0 with ddie := 2, seq := 3 }, pkt0 1] } })

def sMk (op : BitVec 8) : State := (sPkt (pktIn op 5 0 (List.replicate 28 1)) []).updDie 0 (fun d => { d with e2e := { d.e2e with drains := [6, 7] } })

theorem arr (s : State) (p : Packet) (op : BitVec 8) (h : decide (s.fab.transit[0]? = some ⟨p, some 3, false⟩ ∧ s.arrived ⟨p, some 3, false⟩ = true ∧ p.ver = s.fab.active.ver ∧ p.op = op ∧ p.cls ≠ 3 ∧ p.body.length ≤ 280 ∧
    s.online p.ddie.toNat = true) = true) : s.arrives 0 p op := by
  simp only [decide_eq_true_eq] at h; exact ⟨_, h.1, rfl, h.2⟩

theorem witness_PacketSteps :
    (∃ (s : State) (p : Packet) (x : Transit), s.fab.transit[s.evt.n]? = some x ∧ x.pkt.ver ≠ s.fab.active.ver) ∧
    (∃ (s : State) (p : Packet) (x : Transit), s.fab.transit[s.evt.n]? = some x ∧ x.pkt.ver = s.fab.active.ver ∧ x.here = false ∧ x.pkt.mc = false ∧ (s.routeTo x.pkt.dpkg.toNat).testBit 10 = false ∧ (s.routeTo x.pkt.dpkg.toNat).testBit 9 = false) ∧
    (∃ (s : State) (p : Packet) (x : Transit) (n : Nat), s.fab.transit[s.evt.n]? = some x ∧ x.pkt.ver = s.fab.active.ver ∧ x.here = false ∧ x.pkt.mc = false ∧ (s.routeTo x.pkt.dpkg.toNat).testBit 10 = false ∧ (s.routeTo x.pkt.dpkg.toNat).testBit 9 = true ∧ candidates (s.routeTo x.pkt.dpkg.toNat) = [n] ∧ (s.link n false).st < 3 ∧ x.pkt.vc ≠ 3 ∧ (∃ v < 3, x.pkt.flits ≤ s.room n (vcKey x.pkt.cls.toNat v false))) ∧
    (∃ (s : State) (p : Packet) (a : Nat), s.brings s.evt.n p 2 ∧ (BitVec.toNat p.aux).testBit 60 = false ∧ tagSize p.aux = 4 ∧ p.body.length = 4 ∧ (s.packetPlaces p).1 = Except.ok [(a, 0, 4)] ∧ (∀ k < 4, inWindow (a + k) = false) ∧ a + 4 ≤ 2 ^ 46 ∧ s.inStore a = false ∧ s.mayCome (portOf a) (sourceRank p.spkg.toNat (bits (BitVec.toNat p.aux) 32 12)) = true) ∧
    (∃ (s : State) (p : Packet), s.arrives s.evt.n p 2 ∧ (s.die p.ddie.toNat).e2e.held = [] ∧ p.seq.toNat < Sparse.get 0 (s.die p.ddie.toNat).e2e.low (streamKey p)) ∧
    (∃ (s : State) (p : Packet), s.arrives s.evt.n p 9 ∧ (BitVec.toNat p.aux).testBit 0 = false ∧ (s.die p.ddie.toNat).e2e.waiting = [] ∧ s.fab.rcf = none) ∧
    (∃ (s : State) (p : Packet), s.arrives s.evt.n p 9 ∧ (BitVec.toNat p.aux).testBit 0 = true ∧ s.fab.rcf = none) ∧
    (∃ (s : State) (p : Packet), s.brings s.evt.n p 12 ∧ BitVec.toNat p.addr < 6144) ∧
    (∃ (s : State) (p : Packet), s.brings s.evt.n p 10) ∧
    (∃ (s : State) (p : Packet), s.brings s.evt.n p 11 ∧ s.fab.rcf = none) :=
  ⟨⟨(sPkt (out 1 7) []), wr, ⟨out 1 7, some 3, false⟩, by decide +kernel⟩,
   ⟨(sPkt (out 2 0) []), wr, ⟨out 2 0, some 3, false⟩, by decide +kernel⟩,
   ⟨(sPkt (out 1 0) []), wr, ⟨out 1 0, some 3, false⟩, 3, by and_intros <;> decide⟩,
   ⟨sPkt wr [], wr, 0x1000, ⟨arr _ _ _ (by decide +kernel), (by decide +kernel), (by decide +kernel)⟩, by decide, by decide, by decide, by rfl, by decide, by decide, by decide, by decide⟩,
   ⟨(sPkt wr [(sk, 1)]), wr, (arr _ _ _ (by decide +kernel)), by decide, by decide⟩,
   ⟨sAck, pktIn 9 0 3 [], arr _ _ _ (by decide +kernel), by decide, by decide, by decide⟩,
   ⟨sPkt (pktIn 9 1 3 []) [], pktIn 9 1 3 [], arr _ _ _ (by decide +kernel), by decide, by decide⟩,
   ⟨(sPkt (pktIn 12 5 1 (List.replicate 28 1)) []), (pktIn 12 5 1 (List.replicate 28 1)), ⟨arr _ _ _ (by decide +kernel), (by decide +kernel), (by decide +kernel)⟩, by decide⟩,
   ⟨(sMk 10), (pktIn 10 5 0 (List.replicate 28 1)), ⟨arr _ _ _ (by decide +kernel), (by decide +kernel), (by decide +kernel)⟩⟩,
   ⟨(sMk 11), (pktIn 11 5 0 (List.replicate 28 1)), ⟨arr _ _ _ (by decide +kernel), (by decide +kernel), (by decide +kernel)⟩, by decide⟩⟩

def grp (adv : Option Advance) (n m : Nat) : State := sGrp n m adv

def gf (f : Fabric → Fabric) (n m : Nat) : State := let s := sGrp n m none; { s with fab := f s.fab }

def sList (l : List (Nat × Nat)) : State := let s := sGrp 3 0 none; { s with evt := { s.evt with list := l } }

def rh : Reconf := { rcf0 with desc := BitVec.ofNat 1024 (2 ^ (192 + 3)) }

theorem witness_GroupSteps :
    (∃ (s : State), s.fab.coord = s.pkg ∧ s.fab.rcf = none ∧ (∃ m ∈ s.fab.members, m.1 = s.evt.n)) ∧
    (∃ (s : State), s.evt.n < 512 ∧ (s.fab.shadow.ver ≠ BitVec.ofNat 8 s.evt.m ∨ s.fab.active.ver = BitVec.ofNat 8 s.evt.m)) ∧
    (∃ (s : State), s.evt.n < 512 ∧ s.fab.shadow.ver = BitVec.ofNat 8 s.evt.m ∧ s.fab.active.ver ≠ BitVec.ofNat 8 s.evt.m) ∧
    (∃ (s : State) (a : Advance), s.evt.n = 512 ∧ s.fab.coord = s.pkg ∧ s.fab.adv = some a ∧ a.sent = false ∧ a.ver = BitVec.ofNat 8 s.evt.m ∧ s.tablesAcked = true) ∧
    (∃ (s : State) (p : Packet) (a : Advance), s.brings s.evt.n p 13 ∧ s.fab.adv = some a ∧ BitVec.truncate 8 p.aux = a.ver ∧ List.filter (fun (q : Nat) => q != p.spkg.toNat) a.due ≠ []) ∧
    (∃ (s : State) (p : Packet) (a : Advance), s.brings s.evt.n p 13 ∧ s.fab.adv = some a ∧ BitVec.truncate 8 p.aux = a.ver ∧ List.filter (fun (q : Nat) => q != p.spkg.toNat) a.due = [] ∧ a.again = false) ∧
    (∃ (s : State) (a : Advance), s.fab.coord = s.pkg ∧ s.fab.adv = some a ∧ a.sent = true ∧ s.evt.n ∈ a.due ∧ s.evt.n ≠ s.pkg ∧ a.mark + 2 ^ 26 ≤ s.clock) ∧
    (∃ (s : State), s.evt.n < 512 ∧ (s.link s.evt.n false).st ≤ 1 ∧ (s.link s.evt.n false).audit / 2 ^ 22 < s.clock / 2 ^ 22) ∧
    (∃ (s : State), s.evt.n < 512 ∧ (s.link s.evt.n true).st ≤ 1 ∧ (∀ x ∈ number 0 s.evt.list, 12 ≤ x.1 ∨ auditDiff (s.link s.evt.n true) x.1 x.2.1 x.2.2 = 0)) ∧
    (∃ (s : State), s.evt.n < 512 ∧ (s.link s.evt.n true).st ≤ 1 ∧ s.evt.flag = true) ∧
    (∃ (s : State), s.evt.n < 512 ∧ (s.link s.evt.n true).st ≤ 1 ∧ s.evt.flag = false ∧ ∃ x ∈ number 0 s.evt.list, x.1 < 12 ∧ auditDiff (s.link s.evt.n true) x.1 x.2.1 x.2.2 ≠ 0) ∧
    (∃ (s : State), s.fab.coord = s.pkg ∧ (∃ m ∈ s.fab.members, m.1 = s.evt.n) ∧ s.evt.n ∉ s.fab.drained ∧ (∃ m ∈ s.fab.members, m.1 ≠ s.evt.n ∧ m.1 ∉ s.fab.drained)) ∧
    (∃ (s : State), s.fab.coord = s.pkg ∧ (∃ m ∈ s.fab.members, m.1 = s.evt.n) ∧ s.evt.n ∉ s.fab.drained ∧ (∀ m ∈ s.fab.members, m.1 = s.evt.n ∨ m.1 ∈ s.fab.drained) ∧ s.fab.rcf = none) ∧
    (∃ (s : State) (r : Reconf), s.fab.rcf = some r ∧ r.step = 2 ∧ r.held ≠ []) :=
  ⟨⟨(grp none 1 0), by decide, by decide, by decide⟩,
   ⟨(grp none 3 7), by decide +kernel⟩,
   ⟨(grp none 3 1), by decide +kernel⟩,
   ⟨(grp (some (adv0 [0, 1] false false)) 512 1), (adv0 [0, 1] false false), by decide +kernel⟩,
   ⟨(sDone [1, 2]), (pktIn 13 1 0 []), (adv0 [1, 2] true false), ⟨arr _ _ _ (by decide +kernel), (by decide +kernel), (by decide +kernel)⟩, by decide, by decide, by decide⟩,
   ⟨(sDone [1]), (pktIn 13 1 0 []), (adv0 [1] true false), ⟨arr _ _ _ (by decide +kernel), (by decide +kernel), (by decide +kernel)⟩, by decide, by decide, by decide, by decide⟩,
   ⟨grp (some (adv0 [0, 1] true false)) 1 0, adv0 [0, 1] true false, by decide +kernel⟩,
   ⟨grp none 3 1, by decide +kernel⟩,
   ⟨(sList [(192, 0)]), by decide, by decide, by decide⟩,
   ⟨{ sList [(5, 0)] with evt := { (sList [(5, 0)]).evt with flag := true } }, by decide⟩,
   ⟨sList [(5, 0)], by decide, by decide, by decide, by decide⟩,
   ⟨(grp none 1 0), by decide, by decide, by decide, by decide⟩,
   ⟨(gf (fun f => { f with drained := [0] }) 1 0), by decide, by decide, by decide, by decide, by decide⟩,
   ⟨(gf (fun f => { f with rcf := some rh }) 1 0), rh, by decide +kernel⟩⟩

def evN (n : Nat) (v : W64) (f : Bool) : EvtArg := { evtZero with n := n, v := v, flag := f }

def sFull : State := let s := sHost 5 [] (evN 4 0 false); { s with host := { s.host with ringFull := true } }

def sMb (mb : List Byte) (d : List Byte) (n : Nat) : State := sHost 5 mb { evtZero with n := n, data := d }

def sSeal : State := sMb (mbox0 1 0 528 0x5000) file0 0

def qSeal : State := (sSeal.seal 0 0 (Memory.putAll [] 0 sSeal.evt.data) sSeal.evt.data.length false 0 0).2

def sDump : State := let s := sMb (mbox0 3 1 2 0x5000) [] 0; { s with host := { s.host with dump := [1, 2, 3, 4] } }

theorem witness_HostCommands :
    (∃ (s : State), s.serving.isSome = true ∧ s.evt.v ≠ 0 ∧ s.host.owner = 0) ∧
    (∃ (s : State), s.serving.isSome = true ∧ s.evt.v ≠ 0 ∧ s.host.owner ≠ 0) ∧
    (∃ (s : State), s.serving.isSome = true ∧ s.evt.v = 0) ∧
    (∃ (s : State), s.serving.isSome = true ∧ s.host.owner = 0) ∧
    (∃ (s : State), s.serving.isSome = true ∧ s.host.owner = 0 ∧ s.evt.n ∉ [8, 32, 72, 80]) ∧
    (∃ (s : State), s.serving.isSome = true ∧ s.host.owner ≠ 0 ∧ s.host.fatal = false ∧ (s.evt.n % 2 ^ 32 + 2 ^ 32 - s.host.jqhead) % 2 ^ 32 ≤ BitVec.toNat s.host.jqsize ∧ (s.evt.flag = true ∨ s.host.jqhead = s.evt.n % 2 ^ 32)) ∧
    (∃ (s : State), s.serving.isSome = true ∧ s.host.owner ≠ 0 ∧ BitVec.toNat s.host.jqsize < (s.evt.n % 2 ^ 32 + 2 ^ 32 - s.host.jqhead) % 2 ^ 32) ∧
    (∃ (s : State), s.serving.isSome = true ∧ s.host.owner ≠ 0 ∧ (s.host.eqtail + 2 ^ 32 - s.evt.n % 2 ^ 32) % 2 ^ 32 ≤ BitVec.toNat s.host.eqsize) ∧
    (∃ (s : State), s.serving.isSome = true ∧ s.host.owner ≠ 0) ∧
    (∃ (s : State), s.serving.isSome = true ∧ s.host.owner ≠ 0 ∧ s.jobRuns = false ∧ s.evt.n = 16) ∧
    (∃ (s : State), s.serving.isSome = true ∧ s.host.owner ≠ 0 ∧ s.jobRuns = false ∧ s.evt.n = 24) ∧
    (∃ (s : State), s.serving.isSome = true ∧ s.host.owner ≠ 0 ∧ s.jobRuns = false ∧ s.evt.n = 48) ∧
    (∃ (s : State), s.serving.isSome = true ∧ s.host.owner ≠ 0 ∧ s.jobRuns = false ∧ s.evt.n = 56) ∧
    (∃ (s : State), s.serving.isSome = true ∧ s.host.owner ≠ 0 ∧ s.jobRuns = true ∧ s.evt.n ∈ [16, 24, 48, 56]) ∧
    (∃ (s : State), s.serving.isSome = true ∧ s.host.owner ≠ 0 ∧ s.evt.n ∉ [8, 16, 24, 32, 48, 56, 72, 80] ∧ (s.evt.n < 256 ∨ 512 ≤ s.evt.n)) ∧
    (∃ (s : State), s.serving.isSome = true ∧ s.host.owner ≠ 0 ∧ s.evt.n = 260 ∧ s.evt.data = [1] ∧ s.host.mboxNat 4 1 ≠ 1) ∧
    (∃ (s : State) (b : Byte), s.serving.isSome = true ∧ s.host.owner ≠ 0 ∧ 264 ≤ s.evt.n ∧ s.evt.n < 512 ∧ s.evt.data = [b]) ∧
    (∃ (s : State) (d : Nat) (w : W64) (q : State), s.serving.isSome = true ∧ s.serving = some d ∧ s.mboxAwaits 1 = true ∧ s.evt.flag = false ∧ s.evt.data.length = s.host.mboxNat 16 8 ∧ s.seal d s.evt.m (Memory.putAll [] 0 s.evt.data) s.evt.data.length false s.evt.v s.evt.k = (Except.ok w, q)) ∧
    (∃ (s : State), s.serving.isSome = true ∧ s.mboxAwaits 2 = true ∧ s.host.mboxNat 8 8 % 2 ^ 30 = 0) ∧
    (∃ (s : State), s.serving.isSome = true ∧ s.mboxAwaits 3 = true ∧ s.host.mboxNat 8 8 + s.host.mboxNat 16 8 ≤ s.host.dump.length) ∧
    (∃ (s : State), s.serving.isSome = true ∧ s.mboxAwaits 4 = true ∧ s.host.mboxNat 8 8 < 4 ∧ s.host.mboxNat 16 8 < 8) :=
  ⟨⟨(sHost 0 [] (evN 0 7 false)), by decide +kernel⟩,
   ⟨(sHost 5 [] (evN 0 7 false)), by decide +kernel⟩,
   ⟨(sHost 5 [] (evN 0 0 false)), by decide +kernel⟩,
   ⟨(sHost 0 [] (evN 0 7 false)), by decide +kernel⟩,
   ⟨(sHost 0 [] (evN 0x10 7 false)), by decide +kernel⟩,
   ⟨(sHost 5 [] (evN 3 0 true)), by decide +kernel⟩,
   ⟨(sHost 5 [] (evN 9 0 false)), by decide +kernel⟩,
   ⟨sFull, by decide +kernel⟩,
   ⟨(sHost 5 [] (evN 0 700 false)), by decide +kernel⟩,
   ⟨(sIdle (evN 0x10 7 false)), by decide +kernel⟩,
   ⟨(sIdle (evN 0x18 7 false)), by decide +kernel⟩,
   ⟨(sIdle (evN 0x30 7 false)), by decide +kernel⟩,
   ⟨(sIdle (evN 0x38 7 false)), by decide +kernel⟩,
   ⟨({ sHost 5 [] (evN 0x10 7 false) with jobs := [(1, Job.reset)] }), by decide +kernel⟩,
   ⟨(sMb [] [] 0x200), by decide +kernel⟩,
   ⟨(sMb [2] [1] 0x104), by decide +kernel⟩,
   ⟨(sMb [] [77] 0x108), 77, by decide +kernel⟩,
   ⟨sSeal, 0, 0x0000000000010001, qSeal, by decide, by decide, by decide, by decide, by decide, by rfl⟩,
   ⟨(sMb (mbox0 2 0x40000000 0 0) [] 0), by decide +kernel⟩,
   ⟨sDump, by decide +kernel⟩,
   ⟨(sMb (mbox0 4 1 2 0) [] 0), by decide +kernel⟩⟩

def sMg (e : EvtArg) : State := { s1 with evt := e, host := { s1.host with dump := [1, 2, 3, 4], events := [BitVec.ofNat 256 (3 * 2 ^ 224), BitVec.ofNat 256 (5 * 2 ^ 224)] } }

def sBoot (b : Nat) (e : EvtArg) : State := { (s1.updDie 1 (fun d => { d with boot := b, offline := true })) with evt := e, clock := 2 ^ 33 }

def n1 : EvtArg := { evtZero with n := 1, m := 2, data := [1, 2, 3], list := [(9, 0)] }

def cool (n : Nat) : EvtArg := { evtZero with n := n, m := 15, k := 0x21 }

theorem witness_ManagementBootAndPower :
    (∃ (s : State), s.evt.flag = true ∧ s.evt.m < 2) ∧
    (∃ (s : State), s.evt.flag = false) ∧
    (∃ (s : State), s.evt.n < 4) ∧
    (∃ (s : State), s.evt.n < 4 ∧ (s.die s.evt.n).boot = 0) ∧
    (∃ (s : State), s.evt.n < 4 ∧ (s.die s.evt.n).boot = 2) ∧
    (∃ (s : State), s.evt.n < 4 ∧ (s.die s.evt.n).boot ≠ 3 ∧ (s.die s.evt.n).resetAt + 2 ^ 33 ≤ s.clock) ∧
    (∃ (s : State), s.evt.n < 50) ∧
    (∃ (s : State), 50 ≤ s.evt.n ∧ s.host.fatal = false) ∧
    (∃ (s : State), s.host.fatal = false) :=
  ⟨⟨sMg { n1 with m := 1, flag := true }, by decide⟩,
   ⟨sMg n1, by decide⟩,
   ⟨(sMg n1), by decide +kernel⟩,
   ⟨(sBoot 0 n1), by decide +kernel⟩,
   ⟨(sBoot 2 n1), by decide +kernel⟩,
   ⟨(sBoot 2 n1), by decide +kernel⟩,
   ⟨(sBoot 2 (cool 45)), by decide +kernel⟩,
   ⟨(sBoot 2 (cool 55)), by decide +kernel⟩,
   ⟨(sBoot 2 (cool 55)), by decide +kernel⟩⟩

theorem witness_ExactValuesHaveTheirSpecialCases :
    (∃ (n : Nat), 0 < n) :=
  ⟨1, by decide⟩

theorem witness_WrittenOutWordsDecode :
    (∃ (w : BitVec 64), w.toNat < 2 ^ 32 ∧ w.toNat / 2 ^ 30 ≠ 3 ∧ 12 ≤ w.toNat / 2 ^ 25 % 32) ∧
    (∃ (w : BitVec 64), w.toNat < 2 ^ 32 ∧ w.toNat / 2 ^ 30 = 3) :=
  ⟨⟨0x18000000, by decide⟩,
   ⟨0xC0000000, by decide⟩⟩

theorem witness_ResetLeavesTheGivenValues :
    (∃ (p : Nat), p ≠ State.reset.pkg) :=
  ⟨1, by decide⟩

theorem witness_DecodeOfEncodeIsTheOperation : ∃ (i : Instr) (z : Slot) (w : BitVec 64), encode i = some (z, w) ∧ i.wf = true :=
  ⟨.addImm T 3 2 1, .s, 0x210C200000001000, by decide +kernel⟩

theorem witness_EncodeOfDecodeIsTheWord : ∃ (i : Instr) (z : Slot) (w : BitVec 64), w.toNat < 2 ^ z.width ∧ (decodeSlot z w).toOption = some (some i) :=
  ⟨.addImm T 3 2 1, .s, 0x210C200000001000, by decide +kernel⟩

def sF : State := { State.reset.withFetchWord 32 0x0A800000 with agenda := [.core 0] }

def u0 : State := ({ sF with agenda := [] } : State).coreBackground 0

def q1 : State := ({ u0 with cur := (u0.core 0).running } : State).arriveAt (u0.core 0).running

def im : Image := q1.myImage?.getD (image0 [])

theorem witness_EveryStepKeepsMemoryCanonical : ∃ s t : State, s.memOk ∧ step s = .next t :=
  ⟨State.reset, nextOf (step State.reset), by unfold State.memOk; decide +kernel, next_of (by decide +kernel)⟩

theorem witness_StepRunsTheDecodedBundle : ∃ (s : State) (c : Nat) (rest : List Move) (i : Image) (b : BitVec 512) (l : List (Slot × Instr)),
    s.agenda = .core c :: rest ∧ c < 1024 ∧ (s.core c).offline = false ∧ s.online (c / 256) = true ∧ s.host.fatal = false ∧
    let v := ({ s with agenda := rest } : State).coreBackground c
    let n := (v.core c).running
    let w := { v with cur := n }
    let q := w.arriveAt n
    let ops := l.map Prod.snd
    (v.core c).idle = false ∧ (v.core c).switch = 0 ∧ (v.ctx n).active = true ∧ (v.ctx n).sched.landFault = none ∧
    (v.ctx n).sched.late w.myCore.cycle = [] ∧ q.me.leaving = false ∧ q.me.sched.empty = 0 ∧ q.myImage? = some i ∧
    i.bundles[q.me.sched.pc]? = some b ∧ q.inCache = true ∧ (Decode.bundle b).toOption = some l ∧
    let u := q.updMe (fun c => { c with sync := { c.sync with tending := false } })
    u.judge ops = .issue ∧ q.myCore.windowOk q.myCore.cycle (bundleWeight ops) = true :=
  ⟨sF, 0, [], im, bundleOf .sy 0x0A800000, [(.sy, .fenceAcq 0 .die)], by and_intros <;> decide +kernel⟩

theorem witness_ResultsLandAtTheirCycle :
    (∃ (c : Ctx) (t : Nat), c.sched.latches = []) ∧
    (∃ (c : Ctx) (t : Nat) (p : Pend) (i : BitVec 6), c.sched.latches = [] ∧ p ∈ c.sched.pend ∧ p.due ≤ t ∧ (∀ q ∈ c.sched.pend, q.due ≤ t → q.dest = p.dest → q = p ∨ q.ord < p.ord) ∧ p.dest = Dest.g i) ∧
    (∃ (c : Ctx) (t : Nat) (p : Pend) (i : BitVec 5), c.sched.latches = [] ∧ p ∈ c.sched.pend ∧ p.due ≤ t ∧ (∀ q ∈ c.sched.pend, q.due ≤ t → q.dest = p.dest → q = p ∨ q.ord < p.ord) ∧ p.dest = Dest.a i) ∧
    (∃ (c : Ctx) (t : Nat) (p : Pend) (i : BitVec 3), c.sched.latches = [] ∧ p ∈ c.sched.pend ∧ p.due ≤ t ∧ (∀ q ∈ c.sched.pend, q.due ≤ t → q.dest = p.dest → q = p ∨ q.ord < p.ord) ∧ p.dest = Dest.lc i) ∧
    (∃ (c : Ctx) (t : Nat) (p : Pend) (i : BitVec 4), c.sched.latches = [] ∧ p ∈ c.sched.pend ∧ p.due ≤ t ∧ (∀ q ∈ c.sched.pend, q.due ≤ t → q.dest = p.dest → q = p ∨ q.ord < p.ord) ∧ p.dest = Dest.k i) ∧
    (∃ (c : Ctx) (t : Nat) (p : Pend) (i : BitVec 3), c.sched.latches = [] ∧ p ∈ c.sched.pend ∧ p.due ≤ t ∧ (∀ q ∈ c.sched.pend, q.due ≤ t → q.dest = p.dest → q = p ∨ q.ord < p.ord) ∧ p.dest = Dest.z i) ∧
    (∃ (c : Ctx) (t : Nat) (p : Pend) (i : BitVec 4), c.sched.latches = [] ∧ p ∈ c.sched.pend ∧ p.due ≤ t ∧ (∀ q ∈ c.sched.pend, q.due ≤ t → q.dest = p.dest → q = p ∨ q.ord < p.ord) ∧ p.dest = Dest.land i) ∧
    (∃ (c : Ctx) (t : Nat) (p : Pend) (i : BitVec 4), c.sched.latches = [] ∧ p ∈ c.sched.pend ∧ p.due ≤ t ∧ (∀ q ∈ c.sched.pend, q.due ≤ t → q.dest = p.dest → q = p ∨ q.ord < p.ord) ∧ p.dest = Dest.f i ∧ i ≠ 0) ∧
    (∃ (c : Ctx) (t : Nat) (i : BitVec 6), c.sched.latches = [] ∧ ¬∃ p ∈ c.sched.pend, p.due ≤ t ∧ p.dest = Dest.g i) ∧
    (∃ (c : Ctx) (t : Nat) (i : BitVec 5), c.sched.latches = [] ∧ ¬∃ p ∈ c.sched.pend, p.due ≤ t ∧ p.dest = Dest.a i) ∧
    (∃ (c : Ctx) (t : Nat) (i : BitVec 3), c.sched.latches = [] ∧ ¬∃ p ∈ c.sched.pend, p.due ≤ t ∧ p.dest = Dest.lc i) ∧
    (∃ (c : Ctx) (t : Nat) (i : BitVec 4), c.sched.latches = [] ∧ ¬∃ p ∈ c.sched.pend, p.due ≤ t ∧ p.dest = Dest.k i) ∧
    (∃ (c : Ctx) (t : Nat) (i : BitVec 3), c.sched.latches = [] ∧ ¬∃ p ∈ c.sched.pend, p.due ≤ t ∧ p.dest = Dest.z i) ∧
    (∃ (c : Ctx) (t : Nat) (i : BitVec 4), c.sched.latches = [] ∧ ¬∃ p ∈ c.sched.pend, p.due ≤ t ∧ p.dest = Dest.land i) ∧
    (∃ (c : Ctx) (t : Nat) (i : BitVec 4), c.sched.latches = [] ∧ ¬∃ p ∈ c.sched.pend, p.due ≤ t ∧ p.dest = Dest.f i) ∧
    (∃ (c : Ctx) (t : Nat) (i : BitVec 2) (p : Pend), c.sched.latches = [] ∧ p ∈ c.sched.pend ∧ p.due ≤ t ∧ p.dest = Dest.mx i) :=
  ⟨⟨ctxP, 100, by decide +kernel⟩,
   ⟨ctxP, 100, pendOf 99 9 (.g 4) 8, 4, by decide +kernel⟩,
   ⟨ctxP, 100, pendOf 100 4 (.a 3) 5, 3, by decide +kernel⟩,
   ⟨ctxP, 100, pendOf 100 5 (.lc 1) 6, 1, by decide +kernel⟩,
   ⟨ctxP, 100, pendOf 100 6 (.k 2) 9, 2, by decide +kernel⟩,
   ⟨ctxP, 100, pendOf 100 7 (.z 2) 9, 2, by decide +kernel⟩,
   ⟨ctxP, 100, pendOf 100 8 (.land 1) 11, 1, by decide +kernel⟩,
   ⟨ctxP, 100, pendOf 100 9 (.f 3) 1, 3, by decide +kernel⟩,
   ⟨ctxP, 100, 5, by decide +kernel⟩,
   ⟨ctxP, 99, 3, by decide +kernel⟩,
   ⟨ctxP, 99, 1, by decide +kernel⟩,
   ⟨ctxP, 99, 2, by decide +kernel⟩,
   ⟨ctxP, 99, 2, by decide +kernel⟩,
   ⟨ctxP, 99, 1, by decide +kernel⟩,
   ⟨ctxP, 99, 3, by decide +kernel⟩,
   ⟨ctxP, 100, 1, pendOf 100 10 (.mx 1) 12, by decide +kernel⟩⟩

theorem witness_TrapEntrySavesTheContextAndStartsTheHandler :
    (∃ (s : State) (i : TrapInfo), i.cause < 2 ^ 8 ∧ i.slot < 2 ^ 4 ∧ s.me.sched.pc < 2 ^ 24 ∧ s.cur < 4096 ∧ s.me.shadow = none ∧ BitVec.toNat (((s.settle s.cur s.me.sched.time).settleWindows s.cur s.me.sched.time).ctx s.cur).sys.tframe % 1024 = 0 ∧ BitVec.toNat (((s.settle s.cur s.me.sched.time).settleWindows s.cur s.me.sched.time).ctx s.cur).sys.tframe + 40960 ≤ 131072) ∧
    (∃ (s : State) (i : TrapInfo), i.cause < 2 ^ 8 ∧ i.slot < 2 ^ 4 ∧ s.me.sched.pc < 2 ^ 24 ∧ s.cur < 4096 ∧ s.me.shadow = none ∧ BitVec.toNat (((s.settle s.cur s.me.sched.time).settleWindows s.cur s.me.sched.time).ctx s.cur).sys.tframe % 1024 = 0 ∧ BitVec.toNat (((s.settle s.cur s.me.sched.time).settleWindows s.cur s.me.sched.time).ctx s.cur).sys.tframe + 40960 ≤ 131072 ∧ i.land = false) ∧
    (∃ (s : State) (i : TrapInfo) (r : BitVec 6), i.cause < 2 ^ 8 ∧ i.slot < 2 ^ 4 ∧ s.me.sched.pc < 2 ^ 24 ∧ s.cur < 4096 ∧ s.me.shadow = none ∧ BitVec.toNat (((s.settle s.cur s.me.sched.time).settleWindows s.cur s.me.sched.time).ctx s.cur).sys.tframe % 1024 = 0 ∧ BitVec.toNat (((s.settle s.cur s.me.sched.time).settleWindows s.cur s.me.sched.time).ctx s.cur).sys.tframe + 40960 ≤ 131072 ∧ (List.map Prod.fst (((s.settle s.cur s.me.sched.time).settleWindows s.cur s.me.sched.time).ctx s.cur).regs.g).Nodup ∧ (List.map Prod.fst (((s.settle s.cur s.me.sched.time).settleWindows s.cur s.me.sched.time).ctx s.cur).regs.a).Nodup ∧ (∀ x ∈ (((s.settle s.cur s.me.sched.time).settleWindows s.cur s.me.sched.time).ctx s.cur).regs.mx, x.1 < 4) ∧ r.toNat < 8) ∧
    (∃ (s : State) (i : TrapInfo) (r : BitVec 5), i.cause < 2 ^ 8 ∧ i.slot < 2 ^ 4 ∧ s.me.sched.pc < 2 ^ 24 ∧ s.cur < 4096 ∧ s.me.shadow = none ∧ BitVec.toNat (((s.settle s.cur s.me.sched.time).settleWindows s.cur s.me.sched.time).ctx s.cur).sys.tframe % 1024 = 0 ∧ BitVec.toNat (((s.settle s.cur s.me.sched.time).settleWindows s.cur s.me.sched.time).ctx s.cur).sys.tframe + 40960 ≤ 131072 ∧ (List.map Prod.fst (((s.settle s.cur s.me.sched.time).settleWindows s.cur s.me.sched.time).ctx s.cur).regs.g).Nodup ∧ (List.map Prod.fst (((s.settle s.cur s.me.sched.time).settleWindows s.cur s.me.sched.time).ctx s.cur).regs.a).Nodup ∧ (∀ x ∈ (((s.settle s.cur s.me.sched.time).settleWindows s.cur s.me.sched.time).ctx s.cur).regs.mx, x.1 < 4) ∧ r.toNat < 4) ∧
    (∃ (s : State) (i : TrapInfo), i.cause < 2 ^ 8 ∧ i.slot < 2 ^ 4 ∧ s.me.sched.pc < 2 ^ 24 ∧ s.cur < 4096 ∧ s.me.shadow = none ∧ BitVec.toNat (((s.settle s.cur s.me.sched.time).settleWindows s.cur s.me.sched.time).ctx s.cur).sys.tframe % 1024 = 0 ∧ BitVec.toNat (((s.settle s.cur s.me.sched.time).settleWindows s.cur s.me.sched.time).ctx s.cur).sys.tframe + 40960 ≤ 131072 ∧ (BitVec.toNat ((((s.settle s.cur s.me.sched.time).settleWindows s.cur s.me.sched.time).ctx s.cur).sys.handlerFor i.cause)).testBit 63 = true) ∧
    (∃ (s : State) (i : TrapInfo), i.cause < 2 ^ 8 ∧ i.slot < 2 ^ 4 ∧ s.me.sched.pc < 2 ^ 24 ∧ s.cur < 4096 ∧ s.me.shadow = none ∧ BitVec.toNat (((s.settle s.cur s.me.sched.time).settleWindows s.cur s.me.sched.time).ctx s.cur).sys.tframe % 1024 = 0 ∧ BitVec.toNat (((s.settle s.cur s.me.sched.time).settleWindows s.cur s.me.sched.time).ctx s.cur).sys.tframe + 40960 ≤ 131072 ∧ (BitVec.toNat ((((s.settle s.cur s.me.sched.time).settleWindows s.cur s.me.sched.time).ctx s.cur).sys.handlerFor i.cause)).testBit 63 = false) ∧
    (∃ (s : State) (i : TrapInfo), i.cause < 2 ^ 8 ∧ i.slot < 2 ^ 4 ∧ s.me.sched.pc < 2 ^ 24 ∧ s.cur < 4096 ∧ s.me.shadow = none ∧ ¬(BitVec.toNat (((s.settle s.cur s.me.sched.time).settleWindows s.cur s.me.sched.time).ctx s.cur).sys.tframe % 1024 = 0 ∧ BitVec.toNat (((s.settle s.cur s.me.sched.time).settleWindows s.cur s.me.sched.time).ctx s.cur).sys.tframe + 40960 ≤ 131072)) ∧
    (∃ (s : State) (i : TrapInfo) (h : Shadow), i.cause < 2 ^ 8 ∧ i.slot < 2 ^ 4 ∧ s.me.sched.pc < 2 ^ 24 ∧ s.cur < 4096 ∧ s.me.mode = Mode.handler ∧ s.me.shadow = some h) ∧
    (∃ (s : State) (i : TrapInfo) (h : Shadow), i.cause < 2 ^ 8 ∧ i.slot < 2 ^ 4 ∧ s.me.sched.pc < 2 ^ 24 ∧ s.cur < 4096 ∧ s.me.mode = Mode.handler ∧ s.me.shadow = some h ∧ h.readCause = true ∧ h.readAddr = true) ∧
    (∃ (s : State) (i : TrapInfo) (h : Shadow), i.cause < 2 ^ 8 ∧ i.slot < 2 ^ 4 ∧ s.me.sched.pc < 2 ^ 24 ∧ s.cur < 4096 ∧ s.me.mode = Mode.handler ∧ s.me.shadow = some h ∧ ¬(h.readCause = true ∧ h.readAddr = true)) :=
  ⟨⟨sTrap true 0x16000, trap0, by decide +kernel⟩,
   ⟨sTrap true 0x16000, trap0, by decide +kernel⟩,
   ⟨sTrap true 0x16000, trap0, 7, by decide +kernel⟩,
   ⟨sTrap true 0x16000, trap0, 3, by decide +kernel⟩,
   ⟨sTrap true 0x16000, trap0, by decide +kernel⟩,
   ⟨sTrap false 0x16000, trap0, by decide +kernel⟩,
   ⟨sTrap true 0x16001, trap0, by decide +kernel⟩,
   ⟨(inHandler shadow0), trap0, shadow0, by decide +kernel⟩,
   ⟨inHandler shadow0, trap0, shadow0, by decide +kernel⟩,
   ⟨inHandler { shadow0 with readAddr := false }, trap0, { shadow0 with readAddr := false }, by decide +kernel⟩⟩

end Sys2Proof.Tests
end

section
/-! PROOFS. Exact values (R74, R76, R248, R251): NaN, infinities and zeros in products, sums and functions before rounding. -/

namespace Sys2Proof.Machine

/-! ### Products and signs -/

@[simp] theorem Num.nan_mul (x : Num) : Num.nan.mul x = .nan := rfl

@[simp] theorem Num.mul_nan (x : Num) : x.mul .nan = .nan := by cases x <;> rfl

/-- Infinity times a zero has no value (R74). -/
@[simp] theorem Num.inf_mul_zero (s t : Bool) (e : Int) : (Num.inf s).mul (.fin t 0 e) = .nan := rfl

@[simp] theorem Num.zero_mul_inf (s t : Bool) (e : Int) : (Num.fin t 0 e).mul (.inf s) = .nan := rfl

@[simp] theorem Num.neg_neg (x : Num) : x.neg.neg = x := by cases x <;> simp [Num.neg]

/-! ### Sums -/

@[simp] theorem Num.isNan_iff (x : Num) : x.isNan = true ↔ x = .nan := by cases x <;> simp [Num.isNan]

@[simp] theorem Num.isInf_iff (s : Bool) (x : Num) : x.isInf s = true ↔ x = .inf s := by cases x <;> simp [Num.isInf]

@[simp] theorem Num.isZero_iff (s : Bool) (x : Num) : x.isZero s = true ↔ ∃ e, x = .fin s 0 e := by
  cases x <;> simp [Num.isZero]

section
variable (rd : Bool) (xs : List Num)

/-- A NaN among the terms makes the sum NaN (R74). -/
theorem sumNums_of_nan_mem (h : Num.nan ∈ xs) : sumNums rd xs = .nan := by
  simp [sumNums, h]

/-- Infinities of both signs have no sum (R74). -/
theorem sumNums_of_infs_mem (s : Bool) (hs : Num.inf s ∈ xs) (hn : Num.inf (!s) ∈ xs) : sumNums rd xs = .nan := by
  cases s <;> simp_all [sumNums]

/-- Zeros of one sign add to the zero of that sign in every rounding mode (R76). -/
theorem sumNums_of_zeros (s : Bool) (hne : xs ≠ []) (h : ∀ x ∈ xs, ∃ e, x = .fin s 0 e) : sumNums rd xs = .fin s 0 0 := by
  have hnan : Num.nan ∉ xs := fun hm => by simpa using h _ hm
  have hinf (t : Bool) : Num.inf t ∉ xs := fun hm => by simpa using h _ hm
  have hall : xs.all (Num.isZero s) = true := by simpa using h
  cases s with
  | true => simp [sumNums, hnan, hinf, hall]
  | false =>
    obtain ⟨x, hx⟩ := List.exists_mem_of_ne_nil xs hne
    obtain ⟨e, rfl⟩ := h x hx
    have hneg : xs.all (Num.isZero true) = false := List.all_eq_false.mpr ⟨_, hx, by simp⟩
    simp [sumNums, hnan, hinf, hall, hneg]

/-- Zeros of both signs cancel: the zero has the sign of the rounding mode (R76). -/
theorem sumNums_of_opposite_zeros (s : Bool) (e f : Int) : sumNums rd [.fin s 0 e, .fin (!s) 0 f] = .fin rd 0 0 := by
  cases s <;> simp [sumNums]

end

/-! ### Functions of one operand -/

section
variable (s : Bool) (e : Int)

@[simp] theorem recip_zero : recip (.fin s 0 e) = (.inf s, false) := rfl
@[simp] theorem recip_inf : recip (.inf s) = (.fin s 0 0, false) := rfl
@[simp] theorem rsqNum_zero : rsqNum (.fin s 0 e) = (.inf s, false) := rfl
@[simp] theorem rsqNum_inf : rsqNum (.inf false) = (.fin false 0 0, false) := rfl
@[simp] theorem sqrtNum_zero : sqrtNum (.fin s 0 e) = (.fin s 0 e, false) := rfl
@[simp] theorem sqrtNum_inf : sqrtNum (.inf false) = (.inf false, false) := rfl
@[simp] theorem log2Num_zero : log2Num (.fin s 0 e) = (.inf true, false) := rfl
@[simp] theorem log2Num_inf : log2Num (.inf false) = (.inf false, false) := rfl
@[simp] theorem exp2Num_zero : exp2Num (.fin s 0 e) = (.fin false 1 0, false) := rfl
@[simp] theorem exp2Num_neg_inf : exp2Num (.inf true) = (.fin false 0 0, false) := rfl
@[simp] theorem exp2Num_inf : exp2Num (.inf false) = (.inf false, false) := rfl

variable {n : Nat} (h : 0 < n)
include h

/-- A negative value has no square root. -/
theorem sqrtNum_of_neg : sqrtNum (.fin true n e) = (.nan, false) := by
  obtain ⟨m, rfl⟩ := Nat.exists_eq_add_one.mpr h
  rfl

theorem rsqNum_of_neg : rsqNum (.fin true n e) = (.nan, false) := by
  obtain ⟨m, rfl⟩ := Nat.exists_eq_add_one.mpr h
  rfl

theorem log2Num_of_neg : log2Num (.fin true n e) = (.nan, false) := by
  obtain ⟨m, rfl⟩ := Nat.exists_eq_add_one.mpr h
  rfl

end

/-- Settles O25: each special case is an equation above, and the sums follow from what is among their terms. -/
theorem exactValuesHaveTheirSpecialCases : Obligations.ExactValuesHaveTheirSpecialCases := by
  unfold Obligations.ExactValuesHaveTheirSpecialCases
  intro x y z rd sg n e
  have negative (h : 0 < n) : (sqrtNum (.fin true n e)).1 = .nan ∧ (rsqNum (.fin true n e)).1 = .nan ∧
      (log2Num (.fin true n e)).1 = .nan := by
    simp [sqrtNum_of_neg e h, rsqNum_of_neg e h, log2Num_of_neg e h]
  have sums_nan (u : Num) : sumNums rd [.nan, u] = .nan ∧ sumNums rd [u, .nan] = .nan :=
    ⟨sumNums_of_nan_mem rd _ (by simp), sumNums_of_nan_mem rd _ (by simp)⟩
  have sum_infs : sumNums rd [.inf sg, .inf (!sg)] = .nan := sumNums_of_infs_mem rd _ sg (by simp) (by simp)
  have sum_zeros (s : Bool) : sumNums rd [.fin s 0 e, .fin s 0 e] = .fin s 0 0 :=
    sumNums_of_zeros rd _ s (by simp) (by simp)
  have sum_opposite := sumNums_of_opposite_zeros rd sg e e
  simpa [sums_nan, sum_infs, sum_zeros, sum_opposite] using negative

end Sys2Proof.Machine
end

section
/-! PROOFS. Results in flight (R12, R98, R100, R197, R200): what a register holds after a list of results is written, and what is due at
a context time. -/

namespace Sys2Proof.Machine

/-! ### Sorting by a key -/

section
variable {α : Type} (key : α → Nat)

theorem insertBy_eq_orderedInsert (x : α) (l : List α) : insertBy key x l = l.orderedInsert (fun a b => key a ≤ key b) x := by
  induction l with
  | nil => rfl
  | cons y r ih => simp [insertBy, ih]

theorem sortBy_eq_insertionSort (l : List α) : sortBy key l = l.insertionSort (fun a b => key a ≤ key b) := by
  induction l with
  | nil => rfl
  | cons x r ih => simp [sortBy, ih, insertBy_eq_orderedInsert]

@[simp] theorem mem_sortBy (x : α) (l : List α) : x ∈ sortBy key l ↔ x ∈ l := by
  simp [sortBy_eq_insertionSort]

theorem pairwise_sortBy (l : List α) : (sortBy key l).Pairwise (fun a b => key a ≤ key b) := by
  have : Std.Total (fun a b => key a ≤ key b) := ⟨fun a b => Nat.le_total (key a) (key b)⟩
  have : IsTrans α (fun a b => key a ≤ key b) := ⟨fun _ _ _ => Nat.le_trans⟩
  rw [sortBy_eq_insertionSort]
  exact List.pairwise_insertionSort _ l

end

theorem boolToNat_injective : Function.Injective Bool.toNat := Function.LeftInverse.injective Bool.ofNat_toNat

/-! ### One register, named by its destination -/

/-- The register that destination `x` names, as a number: by definition the `toNat` of `Ctx.g`, `Ctx.a` and so on. A grid line is no
register of its own (lines overlap), and fmt is written by halves; they read 0 here. -/
def Regs.at (r : Regs) (x : Dest) : Nat :=
  match x with
  | .g i => (Sparse.get 0 r.g i.toNat).toNat
  | .a i => (Sparse.get 0 r.a i.toNat).toNat
  | .f i => (r.f.getLsbD i.toNat).toNat
  | .lc i => (Sparse.get 0 r.lc i.toNat).toNat
  | .mx i => (Sparse.get 0 r.mx i.toNat).toNat
  | .land i => (Sparse.get 0 r.land i.toNat).toNat
  | .k i => (Sparse.get 0 r.k i.toNat).toNat
  | .z i => (Sparse.get 0 r.z i.toNat).toNat
  | .line _ | .fmtHalf _ | .view _ | .none => 0

/-- What a register takes of a result: its low bits. -/
def Dest.part (x : Dest) (v : Line) : Nat :=
  match x with
  | .g _ | .k _ | .z _ => (v.truncate 64).toNat
  | .a _ => (v.truncate 80).toNat
  | .f _ => (v.getLsbD 0).toNat
  | .lc _ | .mx _ => (v.truncate 32).toNat
  | .land _ => v.toNat
  | .line _ | .fmtHalf _ | .view _ | .none => 0

/-- Registers whose value a write replaces: not an amax register, which keeps the larger value, and not f0, which keeps its own. -/
def Dest.replaced (x : Dest) : Bool :=
  match x with
  | .g _ | .a _ | .lc _ | .land _ | .k _ | .z _ => true
  | .f i => i != 0
  | .mx _ | .line _ | .fmtHalf _ | .view _ | .none => false

theorem Dest.part_mx (i : BitVec 2) (v : Line) : (Dest.mx i).part v = v.toNat % 2 ^ 32 := BitVec.toNat_setWidth 32 v

section
variable (r : Regs) (v : Line)

/-- A flag write changes the flags alone. -/
theorem Regs.setFlag_at_of_ne_f (i : BitVec 4) (b : Bool) (x : Dest) (h : ∀ j, x ≠ .f j) : (r.setFlag i b).at x = r.at x := by
  unfold Regs.setFlag
  split
  · rfl
  · cases x with
    | f j => exact absurd rfl (h j)
    | _ => rfl

theorem Regs.setFlag_f_same (i : BitVec 4) (b : Bool) (h : i ≠ 0) : (r.setFlag i b).f.getLsbD i.toNat = b := by
  have := i.isLt
  cases b <;> simp [Regs.setFlag, show i ≠ 0#4 from h, this]

theorem Regs.setFlag_f_ne (i j : BitVec 4) (b : Bool) (h : i ≠ j) : (r.setFlag i b).f.getLsbD j.toNat = r.f.getLsbD j.toNat := by
  have := i.isLt
  have : i.toNat ≠ j.toNat := fun e => h (BitVec.eq_of_toNat_eq e)
  unfold Regs.setFlag
  split
  · rfl
  · cases b <;> simp <;> omega

/-- A grid line is written into the grid alone, and no register stands there. -/
theorem Regs.setLine_at (l : LineRef) (x : Dest) : (r.setLine l v).at x = r.at x := by
  obtain ⟨grid, hg⟩ : ∃ grid, r.setLine l v = { r with grid } := by
    unfold Regs.setLine
    cases l.dir <;> exact ⟨_, rfl⟩
  rw [hg]
  cases x <;> rfl

theorem Regs.fmtHalf_at (b : Bool) (x : Dest) : (r.write (.fmtHalf b) v).at x = r.at x := by
  obtain ⟨fmt, hf⟩ : ∃ fmt, r.write (.fmtHalf b) v = { r with fmt } := by
    cases b <;> exact ⟨_, rfl⟩
  rw [hf]
  cases x <;> rfl

/-- A write leaves every other register as it was (R197). -/
theorem Regs.write_at_ne (d x : Dest) (h : d ≠ x) : (r.write d v).at x = r.at x := by
  cases d with
  | line l => exact r.setLine_at v l x
  | fmtHalf b => exact r.fmtHalf_at v b x
  | view | none => rfl
  | f i =>
    cases x with
    | f j => exact congrArg Bool.toNat (r.setFlag_f_ne i j _ (by simpa using h))
    | _ => exact r.setFlag_at_of_ne_f i _ _ (by simp)
  | g | a | lc | mx | land | k | z => cases x <;> simp_all [Regs.at, Regs.write, Sparse.get_set, BitVec.toNat_inj]

/-- A register whose value is replaced holds the result's low bits after the write (R12, R197). -/
theorem Regs.write_at_same (x : Dest) (h : x.replaced = true) : (r.write x v).at x = x.part v := by
  cases x with
  | f i => exact congrArg Bool.toNat (r.setFlag_f_same i _ (by simpa [Dest.replaced] using h))
  | _ => simp_all [Regs.at, Regs.write, Dest.part, Dest.replaced]

/-- An amax register takes the larger of its value and the result (R98, R100). -/
theorem Regs.write_at_mx (d : Dest) (i : BitVec 2) : (r.write d v).at (.mx i) =
    if d = .mx i then max (r.at (.mx i)) (v.toNat % 2 ^ 32) else r.at (.mx i) := by
  split
  · subst d
    simp only [Regs.write, Regs.at, Sparse.get_set_same, ← Dest.part_mx i, Dest.part]
    split <;> omega
  · exact r.write_at_ne v d _ ‹_›

end

/-- Only f0 reads apart from its bit (R12). -/
theorem Ctx.flag_of_ne_zero (c : Ctx) (i : BitVec 4) (h : i ≠ 0) : c.flag i = c.regs.f.getLsbD i.toNat := by
  simp [Ctx.flag, show i ≠ 0#4 from h]

/-! ### Results in order -/

section
variable (c : Ctx)

/-- Results are written to registers alone. -/
theorem Ctx.writeAll_eq (ps : List Pend) : c.writeAll ps = { c with regs := (c.writeAll ps).regs } := by
  induction ps generalizing c with
  | nil => rfl
  | cons p ps ih => exact ih (c.write p.dest p.val)

@[simp] theorem Ctx.writeAll_sched (ps : List Pend) : (c.writeAll ps).sched = c.sched := by rw [c.writeAll_eq ps]
@[simp] theorem Ctx.writeAll_planes (ps : List Pend) : (c.writeAll ps).planes = c.planes := by rw [c.writeAll_eq ps]
@[simp] theorem Ctx.writeAll_sys (ps : List Pend) : (c.writeAll ps).sys = c.sys := by rw [c.writeAll_eq ps]

/-- A register that no result names keeps its value. -/
theorem Ctx.writeAll_at_of_forall_ne (x : Dest) (ps : List Pend) (h : ∀ p ∈ ps, p.dest ≠ x) :
    (c.writeAll ps).regs.at x = c.regs.at x := by
  induction ps generalizing c with
  | nil => rfl
  | cons p ps ih =>
    obtain ⟨hp, hps⟩ := List.forall_mem_cons.mp h
    exact (ih _ hps).trans (c.regs.write_at_ne p.val p.dest x hp)

theorem Pend.key_eq_ord (p : Pend) (h : p.dest.replaced = true) : p.key = p.ord := by
  unfold Pend.key
  split <;> simp_all [Dest.replaced]

/-- Of results in the order of their issue, the register of `p` holds `p`'s value when every other result for it was issued before `p`
(R200): after `p` in the list there is none for its register. -/
theorem Ctx.writeAll_at_of_latest (p : Pend) (ps : List Pend) (hr : p.dest.replaced = true)
    (hs : ps.Pairwise (fun a b => a.key ≤ b.key)) (hp : p ∈ ps) (hl : ∀ q ∈ ps, q.dest = p.dest → q = p ∨ q.ord < p.ord) :
    (c.writeAll ps).regs.at p.dest = p.dest.part p.val := by
  induction ps generalizing c with
  | nil => simp at hp
  | cons q ps ih =>
    obtain ⟨hq, hs⟩ := List.pairwise_cons.mp hs
    by_cases hmem : p ∈ ps
    · exact ih _ hs hmem (fun a ha => hl a (List.mem_cons_of_mem q ha))
    · obtain rfl : p = q := (List.mem_cons.mp hp).resolve_right hmem
      have later_ne (a : Pend) (ha : a ∈ ps) : a.dest ≠ p.dest := by
        intro hd
        have hle := hq a ha
        rw [p.key_eq_ord hr, a.key_eq_ord (hd ▸ hr)] at hle
        rcases hl a (List.mem_cons_of_mem p ha) hd with rfl | hlt
        · exact hmem ha
        · omega
      exact (Ctx.writeAll_at_of_forall_ne _ p.dest ps later_ne).trans (c.regs.write_at_same p.val p.dest hr)

/-! ### Amax registers -/

section
variable (i : BitVec 2)

theorem Ctx.write_at_mx (d : Dest) (v : Line) : (c.write d v).regs.at (.mx i) =
    if d = .mx i then max (c.regs.at (.mx i)) (v.toNat % 2 ^ 32) else c.regs.at (.mx i) := c.regs.write_at_mx v d i

/-- An amax register never falls. -/
theorem Ctx.writeAll_at_mx_le (ps : List Pend) : c.regs.at (.mx i) ≤ (c.writeAll ps).regs.at (.mx i) := by
  induction ps generalizing c with
  | nil => exact Nat.le_refl _
  | cons p ps ih =>
    refine le_trans ?_ (ih (c.write p.dest p.val))
    rw [Ctx.write_at_mx]
    split <;> omega

/-- An amax register is at least every result written to it. -/
theorem Ctx.val_le_writeAll_at_mx (ps : List Pend) (p : Pend) (hp : p ∈ ps) (hd : p.dest = .mx i) :
    p.val.toNat % 2 ^ 32 ≤ (c.writeAll ps).regs.at (.mx i) := by
  induction ps generalizing c with
  | nil => simp at hp
  | cons q ps ih =>
    rcases List.mem_cons.mp hp with rfl | hp
    · refine le_trans ?_ ((c.write p.dest p.val).writeAll_at_mx_le i ps)
      rw [Ctx.write_at_mx, if_pos hd]
      exact Nat.le_max_right _ _
    · exact ih _ hp

/-- An amax register holds its own value or one of the results written to it. -/
theorem Ctx.writeAll_at_mx_cases (ps : List Pend) : (c.writeAll ps).regs.at (.mx i) = c.regs.at (.mx i) ∨
    ∃ p ∈ ps, p.dest = .mx i ∧ (c.writeAll ps).regs.at (.mx i) = p.val.toNat % 2 ^ 32 := by
  induction ps generalizing c with
  | nil => exact .inl rfl
  | cons p ps ih =>
    rcases ih (c.write p.dest p.val) with h | ⟨q, hq, hd, h⟩
    · rw [Ctx.write_at_mx] at h
      split at h
      next hd =>
        rcases max_choice (c.regs.at (.mx i)) (p.val.toNat % 2 ^ 32) with hm | hm
        · exact .inl (h.trans hm)
        · exact .inr ⟨p, by simp, hd, h.trans hm⟩
      next => exact .inl h
    · exact .inr ⟨q, List.mem_cons_of_mem p hq, hd, h⟩

end

/-! ### What is due -/

section
variable (t : Nat)

/-- The results due at `t`, in the order in which they are written. -/
def Ctx.landing : List Pend := sortBy Pend.key (c.dueAt t)

theorem Ctx.settleRegs_regs : (c.settleRegs t).regs = (c.writeAll (c.landing t)).regs := rfl

@[simp] theorem Ctx.settleRegs_planes : (c.settleRegs t).planes = c.planes := c.writeAll_planes _

@[simp] theorem Ctx.settleRegs_sys : (c.settleRegs t).sys = c.sys := c.writeAll_sys _

/-- What is due later stays in flight. -/
theorem Ctx.settleRegs_pend : (c.settleRegs t).sched.pend = c.sched.pend.filter (fun p => decide (t < p.due)) := by
  simp [Ctx.settleRegs, ← decide_not]

variable (h : c.sched.latches = [])
include h

/-- With no landing under way, the results due are those in flight whose time has come. -/
theorem Ctx.mem_landing (p : Pend) : p ∈ c.landing t ↔ p ∈ c.sched.pend ∧ p.due ≤ t := by
  simp [Ctx.landing, Ctx.dueAt, h]

theorem Ctx.settleRegs_at_of_not_due (x : Dest) (hx : ¬∃ p ∈ c.sched.pend, p.due ≤ t ∧ p.dest = x) :
    (c.settleRegs t).regs.at x = c.regs.at x := by
  rw [Ctx.settleRegs_regs]
  refine c.writeAll_at_of_forall_ne x _ fun p hp hd => hx ?_
  obtain ⟨hp, ht⟩ := (c.mem_landing t h p).mp hp
  exact ⟨p, hp, ht, hd⟩

theorem Ctx.settleRegs_at_of_due (p : Pend) (hr : p.dest.replaced = true) (hp : p ∈ c.sched.pend) (ht : p.due ≤ t)
    (hl : ∀ q ∈ c.sched.pend, q.due ≤ t → q.dest = p.dest → q = p ∨ q.ord < p.ord) :
    (c.settleRegs t).regs.at p.dest = p.dest.part p.val := by
  rw [Ctx.settleRegs_regs]
  refine c.writeAll_at_of_latest p _ hr (pairwise_sortBy _ _) ((c.mem_landing t h p).mpr ⟨hp, ht⟩) fun q hq => ?_
  obtain ⟨hq, hqt⟩ := (c.mem_landing t h q).mp hq
  exact hl q hq hqt

end
end

/-- Settles O59: registers are read as `Regs.at`, where what is due either is absent, or ends with the result issued last, or joins a
maximum. -/
theorem resultsLandAtTheirCycle : Obligations.ResultsLandAtTheirCycle := by
  unfold Obligations.ResultsLandAtTheirCycle
  intro c t h d due
  have kept (x : Dest) (hx : ¬due x) : d.regs.at x = c.regs.at x := c.settleRegs_at_of_not_due t h x hx
  have landed (p : Pend) (hp : p ∈ c.sched.pend) (ht : p.due ≤ t)
      (hl : ∀ q ∈ c.sched.pend, q.due ≤ t → q.dest = p.dest → q = p ∨ q.ord < p.ord) (x : Dest) (hx : p.dest = x)
      (hr : x.replaced = true) : d.regs.at x = x.part p.val := by
    subst hx
    exact c.settleRegs_at_of_due t h p hr hp ht hl
  refine ⟨c.settleRegs_pend t, c.settleRegs_planes t, c.settleRegs_sys t, fun p hp ht hl => ?_,
    fun i hi => BitVec.eq_of_toNat_eq (kept (.g i) hi), fun i hi => BitVec.eq_of_toNat_eq (kept (.a i) hi),
    fun i hi => BitVec.eq_of_toNat_eq (kept (.lc i) hi), fun i hi => BitVec.eq_of_toNat_eq (kept (.k i) hi),
    fun i hi => BitVec.eq_of_toNat_eq (kept (.z i) hi), fun i hi => BitVec.eq_of_toNat_eq (kept (.land i) hi),
    fun i hi => ?_, rfl, fun i => ⟨c.writeAll_at_mx_le i _, fun p hp ht hd => ?_⟩, fun i => ?_⟩
  · have lands := landed p hp ht hl
    exact ⟨fun i hi => BitVec.eq_of_toNat_eq (lands (.g i) hi rfl), fun i hi => BitVec.eq_of_toNat_eq (lands (.a i) hi rfl),
      fun i hi => BitVec.eq_of_toNat_eq (lands (.lc i) hi rfl), fun i hi => BitVec.eq_of_toNat_eq (lands (.k i) hi rfl),
      fun i hi => BitVec.eq_of_toNat_eq (lands (.z i) hi rfl), fun i hi => BitVec.eq_of_toNat_eq (lands (.land i) hi rfl),
      fun i hi h0 => (d.flag_of_ne_zero i h0).trans (boolToNat_injective (lands (.f i) hi (by simpa [Dest.replaced] using h0)))⟩
  · exact congrArg (i == 0 || ·) (boolToNat_injective (kept (.f i) hi))
  · exact c.val_le_writeAll_at_mx i _ p ((c.mem_landing t h p).mpr ⟨hp, ht⟩) hd
  · rcases c.writeAll_at_mx_cases i (c.landing t) with hk | ⟨p, hp, hd, hv⟩
    · exact .inl (BitVec.eq_of_toNat_eq hk)
    · obtain ⟨hp, ht⟩ := (c.mem_landing t h p).mp hp
      exact .inr ⟨p, hp, ht, hd, hv⟩

end Sys2Proof.Machine
end

section
/-! PROOFS. Skipped operations (R105, R201), and NOP, FMT, YIELD, WAIT and the fences (R111, R217, R361, R369, R370, R374). -/

namespace Sys2Proof.Machine

/-- Asking for a page is no part of a skipped preload: its verdict is not looked at (R105, R193). -/
theorem execPageWalkPreload_of_not_holds (s : State) (p : Pred) (a : BitVec 6) (h : s.me.holds p = false) :
    execPageWalkPreload p a s = .next s := by
  simp [execPageWalkPreload, h, act_of_not_holds]

/-- Settles O10: but for the preload, which asks for a page, the meaning of each skipped operation is an `act` under its predicate. -/
theorem falsePredicateChangesNothing : Obligations.FalsePredicateChangesNothing := by
  unfold Obligations.FalsePredicateChangesNothing
  intro s p h i hi
  cases i <;> cases hi
  case pageWalkPreload a => exact execPageWalkPreload_of_not_holds s p a h
  all_goals exact act_of_not_holds s _ _ _ h

section
variable (s : State)

/-- Memory reads the same when grids, landing slots and accumulators of the running context are as they were. -/
theorem State.sameBytes_updMe (f : Ctx → Ctx) (hr : (f s.me).regs = s.me.regs) (hp : (f s.me).planes = s.me.planes) :
    s.sameBytes (s.updMe f) := by
  have hc (n : Nat) : ((s.updMe f).ctx n).regs = (s.ctx n).regs ∧ ((s.updMe f).ctx n).planes = (s.ctx n).planes := by
    by_cases h : s.cur = n
    · subst h
      exact ⟨(congrArg Ctx.regs (s.updMe_me f)).trans hr, (congrArg Ctx.planes (s.updMe_me f)).trans hp⟩
    · simp [s.updMe_ctx_ne f n h]
  intro a _
  unfold State.readByte
  split <;> simp [hc]

/-- With no stopped command and no failed fitting operation on its flag, a WAIT has no fault to raise (R315, R344). -/
theorem Ctx.waitFault_eq_none (c : Ctx) (f : BitVec 4) (hm : ∀ m ∈ c.mem.cmds, m.stat = .stopped → m.hdr.fl ≠ f)
    (ho : ∀ o ∈ c.fit.ops, o.fl = f → o.err = none) : c.waitFault f = none := by
  have hcmds : c.mem.cmds.find? (fun m => decide (m.stat = .stopped) && m.hdr.fl == f) = none := by
    simpa using hm
  have hops : c.fit.ops.findSome? (fun o => if o.fl = f then o.err else none) = none := by
    simpa using ho
  simp [Ctx.waitFault, hcmds, hops]

/-- A WAIT whose flag has the awaited value issues (R369). -/
theorem State.waitVerdict_of_flag (f : BitVec 4) (pol y : Bool) (hf : s.me.flag f ≠ pol) (hn : s.me.waitFault f = none) :
    s.waitVerdict f pol y = .issue := by
  simp [State.waitVerdict, hn, hf]

/-- With no store-type fault reported, a report point raises nothing (R368). -/
theorem State.report_eq_issue (z : Slot) (h : s.me.mem.due = []) : s.report z = .issue := by
  simp [State.report, MemSide.firstDue, h, leastBy]

/-- What a fence does when it issues: it moves the fence mark alone. -/
theorem State.fenced_spec : s.fenced.me.sched.fence = s.me.sched.ord ∧ s.fenced.me.sched.pend = s.me.sched.pend ∧
    s.me.sameRegs s.fenced.me ∧ s.sameBytes s.fenced := by
  refine ⟨?_, ?_, ?_, s.sameBytes_updMe _ rfl rfl⟩ <;> simp [State.fenced, Ctx.sameRegs]

theorem State.yield_spec (k : BitVec 2) : s.nextWith (.yield k) (fun t =>
    t.me.sync.yielded = true ∧ t.me.sched = s.me.sched ∧ s.me.sameRegs t.me ∧ s.sameBytes t) := by
  refine ⟨_, rfl, ?_, ?_, ?_, s.sameBytes_updMe _ rfl rfl⟩ <;> simp [Ctx.sameRegs]

variable (h : ∀ r ∈ s.me.mem.reqs, r.acked = true ∧ ∀ b, r.bound = some b → b ≤ s.me.sched.time)
include h

/-- A fence waits for nothing when every request is complete and its bound has passed (R361). -/
theorem State.fenceWait_eq_issue (k : FenceKind) (sc : Scope) : s.fenceWait k sc = .issue := by
  unfold State.fenceWait
  extract_lets c rs pad
  have hrs : ∀ r ∈ rs, r.acked = true ∧ ∀ b, r.bound = some b → b ≤ c.sched.time := fun r hr => h r (List.mem_of_mem_filter hr)
  have hpad : pad = 0 := by
    refine List.foldlRecOn (motive := (· = 0)) rs _ rfl fun m hm r hr => ?_
    cases hb : r.bound with
    | none => exact hm
    | some b => simp [hm, Nat.sub_eq_zero_of_le ((hrs r hr).2 b hb)]
  have hack : rs.any (fun r => !r.acked) = false := by
    simpa using fun r hr => (hrs r hr).1
  simp [freezeIf, hpad, hack]

end

/-- Settles O11: each operation's verdict is to issue. -/
theorem syncOperationsComplete : Obligations.SyncOperationsComplete := by
  unfold Obligations.SyncOperationsComplete
  constructor
  · intro s k h v f pol y
    refine ⟨rfl, rfl, s.yield_spec k, fun hf hm ho => ?_⟩
    have hv := s.waitVerdict_of_flag f pol y hf (s.me.waitFault_eq_none f hm ho)
    exact congrArg Host.Outcome.next (by rw [hv, onVerdict_issue, id])
  · intro s k sc hr hd i hi
    have hw (kind : FenceKind) : s.fenceWait kind sc = .issue := s.fenceWait_eq_issue hr kind sc
    have hp := s.report_eq_issue .sy hd
    refine ⟨s.fenced, ?_, s.fenced_spec⟩
    rcases hi with rfl | rfl | rfl
    · simp [exec, execFenceAcq, hw, onVerdict_issue]
    · simp [exec, execFenceRel, State.relVerdict, hw, hp, Verdict.andThen, onVerdict_issue]
    · simp [exec, execFenceAll, State.allVerdict, hw, hp, Verdict.andThen, onVerdict_issue]

end Sys2Proof.Machine
end

section
/-! PROOFS. Fields of slot words (R102 to R126): reading a field of a word put together from fields, and words equal
field by field. -/

namespace Sys2Proof
open Decode (fld zer bit)
open Encode (at' flag)

namespace Decode

variable {w lo n m : Nat}

theorem fld_toNat (x : BitVec w) (lo n : Nat) : (fld x lo n).toNat = x.toNat / 2 ^ lo % 2 ^ n := by
  simp [fld, Nat.shiftRight_eq_div_pow]

theorem fld_getLsbD (x : BitVec w) (lo i : Nat) (h : i < n) : (fld x lo n).getLsbD i = x.getLsbD (lo + i) := by simp [fld, h]

theorem fld_eq_iff (x : BitVec w) (lo n : Nat) (v : BitVec n) : fld x lo n = v ↔ ∀ i < n, x.getLsbD (lo + i) = v.getLsbD i := by
  constructor
  · rintro rfl i hi
    rw [fld_getLsbD x lo i hi]
  · exact fun h => BitVec.eq_of_getLsbD_eq fun i hi => by rw [fld_getLsbD x lo i hi, h i hi]

@[simp] theorem zer_eq (x : BitVec w) (lo n : Nat) : zer x lo n = decide (fld x lo n = 0) := rfl

@[simp] theorem fld_zero (lo n : Nat) : fld (0#w) lo n = 0#n := by simp [fld]

@[simp] theorem fld_ofNat (k lo n : Nat) (h : lo + n ≤ w) : fld (BitVec.ofNat w k) lo n = BitVec.ofNat n (k / 2 ^ lo) := by
  rw [fld_eq_iff]
  intro i hi
  rw [BitVec.getLsbD_ofNat, BitVec.getLsbD_ofNat, Nat.testBit_div_two_pow, Nat.add_comm]
  simp [hi, show i + lo < w by omega]

@[simp] theorem fld_or (x y : BitVec w) (lo n : Nat) : fld (x ||| y) lo n = fld x lo n ||| fld y lo n := by
  simp [fld, BitVec.extractLsb'_or]

@[simp] theorem fld_self (x : BitVec n) : fld x 0 n = x := by simp [fld]

@[simp] theorem fld_fld (x : BitVec w) (l m lo n : Nat) (h : lo + n ≤ m) : fld (fld x l m) lo n = fld x (l + lo) n := by
  rw [fld_eq_iff]
  intro i hi
  rw [fld_getLsbD _ _ _ hi, fld_getLsbD _ _ _ (by omega), Nat.add_assoc]

@[simp] theorem bit_fld (x : BitVec w) (l m i : Nat) (h : i < m) : bit (fld x l m) i = bit x (l + i) :=
  fld_getLsbD x l i h

@[simp] theorem bit_zero (i : Nat) : bit (0#w) i = false := by simp [bit]

@[simp] theorem bit_ofNat (k i : Nat) (h : i < w) : bit (BitVec.ofNat w k) i = decide (k / 2 ^ i % 2 = 1) := by
  rw [bit, BitVec.getLsbD_ofNat, decide_eq_true h, Bool.true_and, Nat.testBit_eq_decide_div_mod_eq]

@[simp] theorem bit_or (x y : BitVec w) (i : Nat) : bit (x ||| y) i = (bit x i || bit y i) := by simp [bit]

@[simp] theorem bit_ofBool (b : Bool) : bit (BitVec.ofBool b) 0 = b := by cases b <;> rfl

@[simp] theorem ofBool_bit (x : BitVec w) (i : Nat) : BitVec.ofBool (bit x i) = fld x i 1 := by
  refine ((fld_eq_iff x i 1 _).mpr fun j hj => ?_).symm
  obtain rfl : j = 0 := by omega
  simp [bit]

end Decode

namespace Encode
open Decode

variable {m : Nat}

theorem at'_getLsbD (w lo : Nat) (v : BitVec m) (i : Nat) (h : i < w) :
    (at' w lo v).getLsbD i = (decide (lo ≤ i) && v.getLsbD (i - lo)) := by
  rw [at', BitVec.getLsbD_shiftLeft, BitVec.getLsbD_setWidth]
  by_cases hl : lo ≤ i
  · simp [h, hl, Nat.not_lt.mpr hl, show i - lo < w by omega]
  · simp [hl, Nat.lt_of_not_le hl]

@[simp] theorem at'_zero (w lo m : Nat) : at' w lo (0#m) = 0#w := by simp [at']

@[simp] theorem at'_at' (w l k : Nat) {n : Nat} (v : BitVec n) (h : k + n ≤ m) : at' w l (at' m k v) = at' w (l + k) v := by
  refine BitVec.eq_of_getLsbD_eq fun i hi => ?_
  rw [at'_getLsbD w _ _ i hi, at'_getLsbD w _ _ i hi]
  by_cases hm : i - l < m
  · rw [at'_getLsbD m k v _ hm, Nat.sub_sub]
    by_cases hl : l ≤ i
    · simp [show l + k ≤ i ↔ k ≤ i - l by omega, hl]
    · simp [hl, show ¬l + k ≤ i by omega]
  · simp [BitVec.getLsbD_of_ge _ _ (Nat.le_of_not_lt hm), BitVec.getLsbD_of_ge v (i - (l + k)) (by omega)]

/-- A field that lies within a placed value is a field of that value. -/
@[simp] theorem fld_at'_within (w l : Nat) (v : BitVec m) (lo n : Nat) (h : l ≤ lo ∧ lo + n ≤ l + m ∧ lo + n ≤ w) :
    fld (at' w l v) lo n = fld v (lo - l) n := by
  rw [fld_eq_iff]
  intro i hi
  rw [at'_getLsbD w l v _ (by omega), fld_getLsbD _ _ _ hi, show lo + i - l = lo - l + i by omega]
  simp [show l ≤ lo + i by omega]

/-- A bit beside a placed value is 0. -/
theorem at'_getLsbD_beside (w l : Nat) (v : BitVec m) (i : Nat) (h : i < l ∨ l + m ≤ i) : (at' w l v).getLsbD i = false := by
  by_cases hw : i < w
  · rw [at'_getLsbD w l v i hw]
    by_cases hl : l ≤ i
    · simp [BitVec.getLsbD_of_ge v (i - l) (by omega)]
    · simp [hl]
  · exact BitVec.getLsbD_of_ge _ _ (by omega)

/-- A field beside a placed value is 0. -/
@[simp] theorem fld_at'_beside (w l : Nat) (v : BitVec m) (lo n : Nat) (h : lo + n ≤ l ∨ l + m ≤ lo) :
    fld (at' w l v) lo n = 0#n := by
  rw [fld_eq_iff]
  intro i hi
  rw [at'_getLsbD_beside w l v (lo + i) (by omega), BitVec.getLsbD_zero]

@[simp] theorem bit_at'_within (w l : Nat) (v : BitVec m) (i : Nat) (h : l ≤ i ∧ i < l + m ∧ i < w) :
    bit (at' w l v) i = bit v (i - l) := by
  rw [bit, at'_getLsbD w l v i h.2.2, bit, decide_eq_true h.1, Bool.true_and]

@[simp] theorem bit_at'_beside (w l : Nat) (v : BitVec m) (i : Nat) (h : i < l ∨ l + m ≤ i) : bit (at' w l v) i = false :=
  at'_getLsbD_beside w l v i h

theorem setWidth_eq_at' (v : BitVec m) (w : Nat) : v.setWidth w = at' w 0 v := by simp [at']

end Encode

/-! ### Words that agree field by field -/

/-- Two words agree on consecutive fields of the given widths, from bit `lo` on. -/
def sameFields {w : Nat} (x y : BitVec w) : Nat → List Nat → Prop
  | _, [] => True
  | lo, n :: ns => fld x lo n = fld y lo n ∧ sameFields x y (lo + n) ns

theorem getLsbD_eq_of_sameFields {w : Nat} (x y : BitVec w) (ns : List Nat) : ∀ (lo : Nat), sameFields x y lo ns →
    ∀ i, lo ≤ i → i < lo + ns.sum → x.getLsbD i = y.getLsbD i := by
  induction ns with
  | nil => simp; omega
  | cons n ns ih =>
    rintro lo ⟨hf, hr⟩ i hl hi
    rw [List.sum_cons] at hi
    by_cases h : i < lo + n
    · have hb := (Decode.fld_eq_iff x lo n _).mp hf (i - lo) (by omega)
      rwa [Decode.fld_getLsbD y lo _ (by omega), show lo + (i - lo) = i by omega] at hb
    · exact ih (lo + n) hr i (by omega) (by omega)

/-- Words are equal when they agree on fields that cover them. -/
theorem eq_of_sameFields {w : Nat} (ns : List Nat) {x y : BitVec w} (h : sameFields x y 0 ns) (hs : ns.sum = w) : x = y :=
  BitVec.eq_of_getLsbD_eq fun i hi => getLsbD_eq_of_sameFields x y ns 0 h i (Nat.zero_le i) (by omega)

/-! ### Parts of words -/

@[simp] theorem sameFields_nil {w : Nat} (x y : BitVec w) (lo : Nat) : sameFields x y lo [] ↔ True := Iff.rfl
@[simp] theorem sameFields_cons {w : Nat} (x y : BitVec w) (lo n : Nat) (ns : List Nat) :
    sameFields x y lo (n :: ns) ↔ fld x lo n = fld y lo n ∧ sameFields x y (lo + n) ns := Iff.rfl

@[simp] theorem Encode.flag_eq (w lo : Nat) (b : Bool) : flag w lo b = at' w lo (BitVec.ofBool b) := rfl
@[simp] theorem Encode.pred_eq (w : Nat) (p : Pred) : Encode.pred w p = flag w 4 p.neg ||| at' w 0 p.flag := rfl
@[simp] theorem Decode.pred_eq {w : Nat} (x : BitVec w) : Decode.pred x = { neg := bit x 4, flag := fld x 0 4 } := rfl
@[simp] theorem Encode.x1_eq (b : Bool) : Encode.x1 b = at' 4 0 (BitVec.ofBool b) := rfl
@[simp] theorem Encode.r6_eq {n : Nat} (r : BitVec n) : Encode.r6 r = at' 6 0 r := by simp [Encode.r6, at']

/-! ### The field x of the S slot: its bits outside a mask are 0 (R112) -/

@[simp] theorem and_15 (v : BitVec 4) : v &&& 15#4 = v := by revert v; decide
@[simp] theorem and_14_eq_zero (v : BitVec 4) : v &&& 14#4 = 0#4 ↔ fld v 1 3 = 0#3 := by revert v; decide
@[simp] theorem and_12_eq_zero (v : BitVec 4) : v &&& 12#4 = 0#4 ↔ fld v 2 2 = 0#2 := by revert v; decide

theorem fld_of_bit {w i : Nat} {x : BitVec w} {b : Bool} (h : bit x i = b) : fld x i 1 = BitVec.ofBool b := by
  rw [← h, Decode.ofBool_bit]

end Sys2Proof
end

section
/-! PROOFS. Codes and operands in slot words (R105, R106, R108, R109, R113), and when a reading succeeds. -/

namespace Sys2Proof
open Decode (fld zer bit need done take dirOr lineOf srcOf dirOk srcRsv)
open Encode (at' flag line src)

/-! ### Codes -/

@[simp] theorem Ty.ofCode_code (t : Ty) : Ty.ofCode (t.code % 16) = some t := by cases t <;> rfl
@[simp] theorem Cond.ofCode_code (c : Cond) : Cond.ofCode (c.code % 16) = some c := by cases c <;> rfl
@[simp] theorem Scope.ofCode_code (c : Scope) : Scope.ofCode (c.code % 8) = some c := by cases c <;> rfl
@[simp] theorem EFmt.ofCode_code (f : EFmt) : EFmt.ofCode (f.code % 32) = some f := by cases f <;> rfl

theorem eq_ofNat_of_toNat_eq {n k : Nat} {v : BitVec n} (h : v.toNat = k) : v = BitVec.ofNat n k := by simp [← h]

@[simp] theorem Ty.ofCode_toNat_eq_some (v : BitVec 4) (t : Ty) : Ty.ofCode v.toNat = some t ↔ v = BitVec.ofNat 4 t.code := by
  constructor
  · intro h
    refine eq_ofNat_of_toNat_eq ?_
    unfold Ty.ofCode at h
    split at h <;> cases h <;> assumption
  · rintro rfl
    exact t.ofCode_code

@[simp] theorem Cond.ofCode_toNat_eq_some (v : BitVec 4) (c : Cond) :
    Cond.ofCode v.toNat = some c ↔ v = BitVec.ofNat 4 c.code := by
  constructor
  · intro h
    refine eq_ofNat_of_toNat_eq ?_
    unfold Cond.ofCode at h
    split at h <;> cases h <;> assumption
  · rintro rfl
    exact c.ofCode_code

@[simp] theorem Scope.ofCode_toNat_eq_some (v : BitVec 3) (c : Scope) :
    Scope.ofCode v.toNat = some c ↔ v = BitVec.ofNat 3 c.code := by
  constructor
  · intro h
    refine eq_ofNat_of_toNat_eq ?_
    unfold Scope.ofCode at h
    split at h <;> cases h <;> assumption
  · rintro rfl
    exact c.ofCode_code

@[simp] theorem EFmt.ofCode_toNat_eq_some (v : BitVec 5) (f : EFmt) :
    EFmt.ofCode v.toNat = some f ↔ v = BitVec.ofNat 5 f.code := by
  constructor
  · intro h
    refine eq_ofNat_of_toNat_eq ?_
    unfold EFmt.ofCode at h
    split at h <;> cases h <;> assumption
  · rintro rfl
    exact f.ofCode_code

/-! ### Operands -/

@[simp] theorem lineOf_line (r : LineRef) : lineOf (line r) = some r := by
  obtain ⟨dir, i⟩ := r
  cases dir <;> simp [lineOf, line, Dir.code]

@[simp] theorem srcOf_src (s : Src) : srcOf (src s) = some s := by
  cases s with
  | line r => simp [srcOf, src]
  | land l => revert l; decide
  | bcast g => revert g; decide

@[simp] theorem dirOk_line (r : LineRef) : dirOk (line r) = true := by
  obtain ⟨dir, i⟩ := r
  revert i
  cases dir <;> decide

@[simp] theorem srcRsv_src (s : Src) : srcRsv (src s) = true := by simp [srcRsv]

@[simp] theorem lineOf_zero : lineOf 0#8 = some ⟨.h, 0⟩ := rfl
@[simp] theorem srcOf_zero : srcOf 0#8 = some (.line ⟨.h, 0⟩) := rfl

@[simp] theorem dirOk_zero : dirOk 0#8 = true := rfl

/-- No two field values name one line (R106). -/
theorem eq_line_of_lineOf : ∀ g : BitVec 8, ∀ r ∈ lineOf g, g = line r := by decide

/-- No two field values name one source (R106). -/
theorem eq_src_of_srcOf : ∀ g : BitVec 8, ∀ s ∈ srcOf g, g = src s := by decide

@[simp] theorem srcOf_eq_some (g : BitVec 8) (s : Src) : srcOf g = some s ↔ g = src s :=
  ⟨eq_src_of_srcOf g s, fun h => h ▸ srcOf_src s⟩

/-! ### When a reading succeeds -/

section
variable {α β : Type} {i j : Instr}

@[simp] theorem need_true (c : SealCode) (k : Read α) : need true c k = k := rfl
@[simp] theorem take_some (a : α) (c : SealCode) (k : α → Read β) : take (some a) c k = k a := rfl
@[simp] theorem dirOr_line (r : LineRef) (k : LineRef → Read Instr) : dirOr (line r) k = k r := by simp [dirOr]

@[simp] theorem dirOr_zero (k : LineRef → Read Instr) : dirOr 0#8 k = k ⟨.h, 0⟩ := rfl

theorem done_of_wf (h : i.wf = true) : done i = .ok i := by
  simp [done, Option.isNone_iff_eq_none.mp h]

theorem done_eq_ok : done i = .ok j ↔ i = j ∧ j.wf = true := by
  unfold done
  constructor
  · intro h
    split at h <;> cases h
    rename_i hc
    exact ⟨rfl, Option.isNone_iff_eq_none.mpr hc⟩
  · rintro ⟨rfl, h⟩
    exact done_of_wf h

theorem need_eq_ok {ok : Bool} {c : SealCode} {k : Read α} {a : α} : need ok c k = .ok a ↔ ok = true ∧ k = .ok a := by
  cases ok <;> simp [need]

theorem take_eq_ok {v : Option α} {c : SealCode} {k : α → Read β} {b : β} :
    take v c k = .ok b ↔ ∃ a, v = some a ∧ k a = .ok b := by
  cases v <;> simp [take]

theorem dirOr_eq_ok {g : BitVec 8} {k : LineRef → Read Instr} : dirOr g k = .ok i ↔ ∃ r, g = line r ∧ k r = .ok i := by
  constructor
  · intro h
    unfold dirOr at h
    split at h
    · rename_i r hr
      exact ⟨r, eq_line_of_lineOf g r hr, h⟩
    · split at h <;> cases h
  · rintro ⟨r, rfl, h⟩
    rw [dirOr_line, h]

theorem map_some_eq_ok {r : Read Instr} {o : Instr} : Except.map some r = .ok (some o) ↔ r = .ok o := by
  cases r <;> simp [Except.map]

end

end Sys2Proof
end

section
/-! PROOFS. The words that the spec writes out (R110 to R125), and the SY words that it refuses (R110, R111). -/

namespace Sys2Proof
open Decode (fld need)

theorem fld_setWidth {w : Nat} (x : BitVec w) (v lo n : Nat) (h : lo + n ≤ v) : fld (x.setWidth v) lo n = fld x lo n := by
  rw [Decode.fld_eq_iff]
  intro i hi
  rw [Decode.fld_getLsbD x lo i hi, BitVec.getLsbD_setWidth, decide_eq_true (show lo + i < v by omega), Bool.true_and]

/-- An SY word whose opcode is past HNDL is refused (R111). -/
theorem sy_eq_opcode {x : BitVec 32} (h : 0x0B < (fld x 25 5).toNat) : Decode.sy x = .error .opcode := by
  unfold Decode.sy need
  rw [if_neg (by simpa using h)]

/-- An SY word with hk = 11 is refused (R110). -/
theorem sy_error_of_hk {x : BitVec 32} (h : fld x 30 2 = 3) : ∃ e, Decode.sy x = .error e := by
  unfold Decode.sy need
  by_cases ho : (fld x 25 5).toNat ≤ 0x0B
  · exact ⟨_, by rw [if_pos (by simpa using ho), if_neg (by simp [h])]⟩
  · exact ⟨_, if_neg (by simpa using ho)⟩

/-- Settles O53: each example is evaluated, and refused words fail one of the first two checks of an SY word. -/
theorem writtenOutWordsDecode : Obligations.WrittenOutWordsDecode := by
  unfold Obligations.WrittenOutWordsDecode
  refine ⟨rfl, rfl, rfl, rfl, rfl, rfl, rfl, rfl, rfl, rfl, rfl, rfl, rfl, rfl, rfl, rfl, rfl, rfl, rfl, rfl, rfl, rfl, rfl,
    fun w _ => ⟨?_, ?_⟩⟩
  · intro _ hop
    refine congrArg (Except.map some) (sy_eq_opcode ?_)
    rwa [fld_setWidth w 32 25 5 (by decide), Decode.fld_toNat]
  · intro hk
    obtain ⟨e, he⟩ := sy_error_of_hk (x := w.setWidth 32) (BitVec.eq_of_toNat_eq (by
      rw [fld_setWidth w 32 30 2 (by decide), Decode.fld_toNat]
      exact congrArg (· % 4) hk))
    exact ⟨e, congrArg (Except.map some) he⟩

end Sys2Proof
end

section
/-! PROOFS. A word that a slot reads as an operation is the word that encodes it: no bit of it is dropped (R110 to R126). -/

namespace Sys2Proof
open Decode (fld zer bit need done take dirOr lineOf srcOf dirOk srcRsv)
open Encode (at' flag line src)

/-! ### From a reading to its word -/

section
variable {w : Nat} {z : Slot} {i j : Instr} {ok : Bool} {c : SealCode}

/-- A word is the encoding of the operation read from it when it agrees with that encoding on all fields, of widths `ns`. -/
theorem encode_of_done {x y : BitVec 64} (ns : List Nat) (hs : ns.sum = 64) (he : encode j = some (z, y)) (h : done j = .ok i)
    (ha : sameFields x y 0 ns) : encode i = some (z, x) ∧ i.wf = true := by
  obtain ⟨rfl, hw⟩ := done_eq_ok.mp h
  exact ⟨eq_of_sameFields ns ha hs ▸ he, hw⟩

theorem encode_of_need {x y : BitVec 64} (ns : List Nat) (hs : ns.sum = 64) (he : encode j = some (z, y))
    (h : need ok c (done j) = .ok i) (ha : ok = true → sameFields x y 0 ns) : encode i = some (z, x) ∧ i.wf = true :=
  have ⟨hk, h⟩ := need_eq_ok.mp h
  encode_of_done ns hs he h (ha hk)

theorem encode_of_take {α : Type} {x : BitVec 64} {y : α → BitVec 64} {f : α → Instr} {v : Option α} {c' : SealCode}
    (ns : List Nat) (hs : ns.sum = 64) (he : ∀ a, encode (f a) = some (z, y a)) (h : need ok c (take v c' fun a => done (f a)) = .ok i)
    (ha : ∀ a, v = some a → ok = true → sameFields x (y a) 0 ns) :
    encode i = some (z, x) ∧ i.wf = true := by
  obtain ⟨hk, h⟩ := need_eq_ok.mp h
  obtain ⟨a, hv, h⟩ := take_eq_ok.mp h
  exact encode_of_done ns hs (he a) h (ha a hv hk)

/-- The same of a word in the low bits of 64. -/
theorem encode_of_done_low {x y : BitVec w} (ns : List Nat) (hs : ns.sum = w) (he : encode j = some (z, y.setWidth 64))
    (h : done j = .ok i) (ha : sameFields x y 0 ns) : encode i = some (z, x.setWidth 64) ∧ i.wf = true := by
  obtain ⟨rfl, hw⟩ := done_eq_ok.mp h
  exact ⟨eq_of_sameFields ns ha hs ▸ he, hw⟩

theorem encode_of_need_low {x y : BitVec w} (ns : List Nat) (hs : ns.sum = w) (he : encode j = some (z, y.setWidth 64))
    (h : need ok c (done j) = .ok i) (ha : ok = true → sameFields x y 0 ns) :
    encode i = some (z, x.setWidth 64) ∧ i.wf = true :=
  have ⟨hk, h⟩ := need_eq_ok.mp h
  encode_of_done_low ns hs he h (ha hk)

theorem encode_of_take_low {α : Type} {x : BitVec w} {y : α → BitVec w} {f : α → Instr} {v : Option α} {c' : SealCode}
    (ns : List Nat) (hs : ns.sum = w) (he : ∀ a, encode (f a) = some (z, (y a).setWidth 64))
    (h : need ok c (take v c' fun a => done (f a)) = .ok i)
    (ha : ∀ a, v = some a → ok = true → sameFields x (y a) 0 ns) :
    encode i = some (z, x.setWidth 64) ∧ i.wf = true := by
  obtain ⟨hk, h⟩ := need_eq_ok.mp h
  obtain ⟨a, hv, h⟩ := take_eq_ok.mp h
  exact encode_of_done_low ns hs (he a) h (ha a hv hk)
end

/-! ### The S slot -/

/-- AMOV and AMOVH by their kind x (R230). -/
theorem encode_of_decode_amovOp {x : BitVec 64} {i : Instr} (hop : fld x 56 8 = 0x44#8) (h : Decode.amovOp x = .ok i) :
    encode i = some (.s, x) ∧ i.wf = true := by
  obtain ⟨hk, h⟩ := need_eq_ok.mp h
  split at h
  -- AMOV
  case h_1 hx | h_2 hx | h_3 hx =>
    exact encode_of_done [4, 1, 3, 4, 26, 6, 6, 6, 8] rfl rfl h
      (by revert hk; simp +contextual (disch := decide) [Encode.s, hop, eq_ofNat_of_toNat_eq hx])
  -- AMOVH
  case h_4 hx =>
    exact encode_of_need [4, 1, 3, 4, 26, 6, 5, 1, 6, 8] rfl rfl h
      (by revert hk; simp +contextual (disch := decide) [Encode.s, hop, eq_ofNat_of_toNat_eq hx])
  case h_5 => cases h

/-- A SYSWR number that has a row of its own encodes as that number (R418). -/
theorem encode_syswrOp (p : Pred) (a : BitVec 6) (num : BitVec 12) :
    encode (Decode.syswrOp p a num) = some (.s, Encode.s 0x73 p 0 a 0 0 (at' 64 12 num)) := by
  unfold Decode.syswrOp
  split
  case h_31 => rfl
  all_goals
    rename_i hn
    rw [eq_ofNat_of_toNat_eq hn]
    rfl

section
variable {x : BitVec 64} {i : Instr}

theorem encode_of_decode_bacq (hop : fld x 56 8 = 0x6C#8) (h : Decode.ring x 0x6C = .ok i) : encode i = some (.s, x) ∧ i.wf = true := by
  obtain ⟨hk, h⟩ := need_eq_ok.mp h
  cases hr : bit x 11 <;> simp only [hr] at h
  all_goals
    exact encode_of_need [4, 1, 3, 3, 1, 26, 6, 6, 5, 1, 8] rfl rfl h
      (by revert hk; simp +contextual (disch := decide) [Encode.s, hop, fld_of_bit hr, Encode.setWidth_eq_at'])

theorem encode_of_decode_brel (hop : fld x 56 8 = 0x6D#8) (h : Decode.ring x 0x6D = .ok i) : encode i = some (.s, x) ∧ i.wf = true := by
  obtain ⟨hk, h⟩ := need_eq_ok.mp h
  cases hr : bit x 11 <;> simp only [hr] at h
  · exact encode_of_need [4, 1, 3, 3, 1, 26, 6, 6, 1, 5, 8] rfl rfl h
      (by revert hk; simp +contextual (disch := decide) [Encode.s, hop, fld_of_bit hr, Encode.setWidth_eq_at'])
  · exact encode_of_need [4, 1, 3, 3, 1, 26, 18, 8] rfl rfl h
      (by revert hk; simp +contextual (disch := decide) [Encode.s, hop, fld_of_bit hr, Encode.setWidth_eq_at'])

theorem encode_of_decode_brcfg (hop : fld x 56 8 = 0x6E#8) (h : Decode.ring x 0x6E = .ok i) : encode i = some (.s, x) ∧ i.wf = true := by
  obtain ⟨hk, h⟩ := need_eq_ok.mp h
  cases hr : bit x 11 <;> simp only [hr] at h
  · exact encode_of_need [4, 1, 3, 3, 1, 26, 6, 6, 6, 8] rfl rfl h
      (by revert hk; simp +contextual (disch := decide) [Encode.s, hop, fld_of_bit hr, Encode.setWidth_eq_at'])
  · cases h

end

section
open Decode (pred)
variable {x : BitVec 64} {op : Nat} {i : Instr} (hop : fld x 56 8 = BitVec.ofNat 8 op)
include hop

theorem encode_of_decode_s3 {f : BitVec 6 → BitVec 6 → BitVec 6 → Instr} (h : Decode.s3 x f = .ok i)
    (he : ∀ d a b, encode (f d a b) = some (.s, Encode.s op (pred x) d a b 0 0)) : encode i = some (.s, x) ∧ i.wf = true :=
  encode_of_need [4, 1, 3, 4, 26, 6, 6, 6, 8] rfl (he ..) h
    (by simp +contextual (disch := decide) [Decode.rrr, Encode.s, hop])

theorem encode_of_decode_s3u {f : BitVec 6 → BitVec 6 → BitVec 6 → Bool → Instr} (h : Decode.s3u x f = .ok i)
    (he : ∀ d a b u, encode (f d a b u) = some (.s, Encode.s op (pred x) d a b (Encode.x1 u) 0)) :
    encode i = some (.s, x) ∧ i.wf = true :=
  encode_of_need [4, 1, 3, 1, 3, 26, 6, 6, 6, 8] rfl (he ..) h
    (by simp +contextual (disch := decide) [Decode.rrr, Encode.s, hop])

theorem encode_of_decode_s2 {f : BitVec 6 → BitVec 6 → Instr} (h : Decode.s2 x f = .ok i)
    (he : ∀ d a, encode (f d a) = some (.s, Encode.s op (pred x) d a 0 0 0)) : encode i = some (.s, x) ∧ i.wf = true :=
  encode_of_need [4, 1, 3, 4, 26, 6, 6, 6, 8] rfl (he ..) h
    (by simp +contextual (disch := decide) [Decode.rrr, Encode.s, hop])

theorem encode_of_decode_si {f : BitVec 6 → BitVec 6 → BitVec 32 → Instr} (h : Decode.si x f = .ok i)
    (he : ∀ d a n, encode (f d a n) = some (.s, Encode.s op (pred x) d a 0 0 (at' 64 12 n))) :
    encode i = some (.s, x) ∧ i.wf = true :=
  encode_of_need [4, 1, 3, 4, 32, 6, 6, 8] rfl (he ..) h
    (by simp +contextual (disch := decide) [Decode.ri, Encode.s, hop])

theorem encode_of_decode_siu {f : BitVec 6 → BitVec 6 → BitVec 32 → Bool → Instr} (h : Decode.siu x f = .ok i)
    (he : ∀ d a n u, encode (f d a n u) = some (.s, Encode.s op (pred x) d a 0 (Encode.x1 u) (at' 64 12 n))) :
    encode i = some (.s, x) ∧ i.wf = true :=
  encode_of_need [4, 1, 3, 1, 3, 32, 6, 6, 8] rfl (he ..) h
    (by simp +contextual (disch := decide) [Decode.ri, Encode.s, hop])

theorem encode_of_decode_sGAG {f : BitVec 6 → BitVec 5 → BitVec 6 → Instr} (h : Decode.sGAG x f = .ok i)
    (he : ∀ d a b, encode (f d a b) = some (.s, Encode.s op (pred x) d (Encode.r6 a) b 0 0)) :
    encode i = some (.s, x) ∧ i.wf = true :=
  encode_of_need [4, 1, 3, 4, 26, 6, 5, 1, 6, 8] rfl (he ..) h
    (by simp +contextual (disch := decide) [Decode.rrr, Encode.s, hop])

theorem encode_of_decode_sNone {j : Instr} (h : Decode.sNone x j = .ok i) (he : encode j = some (.s, Encode.s op (pred x) 0 0 0 0 0)) :
    encode i = some (.s, x) ∧ i.wf = true :=
  encode_of_need [4, 1, 3, 4, 26, 18, 8] rfl he h
    (by simp +contextual (disch := decide) [Decode.rrr, Encode.s, hop])

theorem encode_of_decode_sInt (h : Decode.sInt x op = .ok i) : encode i = some (.s, x) ∧ i.wf = true := by
  unfold Decode.sInt at h
  split at h
  -- ADD, SUB, MUL, AND, OR, XOR, SHL, SHR, SAR, ROT
  case h_1 | h_2 | h_3 | h_7 | h_8 | h_9 | h_10 | h_11 | h_12 | h_13 => exact encode_of_decode_s3 hop h fun _ _ _ => rfl
  -- MULH, DIV, REM, MIN, MAX
  case h_4 | h_5 | h_6 | h_16 | h_17 => exact encode_of_decode_s3u hop h fun _ _ _ _ => rfl
  -- CLZ, POPC, MOV
  case h_14 | h_15 | h_20 => exact encode_of_decode_s2 hop h fun _ _ => rfl
  -- CMP
  case h_18 =>
    exact encode_of_take [4, 1, 3, 4, 26, 6, 6, 4, 2, 8] rfl (fun _ => rfl) h
      (by simp +contextual (disch := decide) [Decode.rrr, Encode.s, hop])
  -- SEL
  case h_19 =>
    exact encode_of_need [4, 1, 3, 4, 26, 6, 6, 6, 8] rfl rfl h
      (by simp +contextual (disch := decide) [Decode.rrr, Encode.s, hop])
  -- ADD imm, SUB imm, MUL imm, AND imm, OR imm, XOR imm, SHL imm, SHR imm, SAR imm, ROT imm
  case h_21 | h_22 | h_23 | h_24 | h_25 | h_26 | h_27 | h_28 | h_29 | h_30 => exact encode_of_decode_si hop h fun _ _ _ => rfl
  -- MIN imm, MAX imm
  case h_31 | h_32 => exact encode_of_decode_siu hop h fun _ _ _ _ => rfl
  -- CMP imm
  case h_33 =>
    exact encode_of_take [4, 1, 3, 4, 32, 6, 4, 2, 8] rfl (fun _ => rfl) h
      (by simp +contextual (disch := decide) [Decode.ri, Encode.s, hop])
  -- MOV imm, MOVH
  case h_34 | h_35 =>
    exact encode_of_need [4, 1, 3, 4, 32, 6, 6, 8] rfl rfl h
      (by simp +contextual (disch := decide) [Decode.ri, Encode.s, hop])
  case h_36 => cases h

theorem encode_of_decode_sAddr (h : Decode.sAddr x op = .ok i) : encode i = some (.s, x) ∧ i.wf = true := by
  unfold Decode.sAddr at h
  split at h
  -- AADD, AHOME
  case h_1 | h_6 =>
    exact encode_of_need [4, 1, 3, 4, 26, 6, 5, 1, 5, 1, 8] rfl rfl h
      (by simp +contextual (disch := decide) [Decode.rrr, Encode.s, hop])
  -- AADDI
  case h_2 =>
    exact encode_of_need [4, 1, 3, 4, 32, 5, 1, 5, 1, 8] rfl rfl h
      (by simp +contextual (disch := decide) [Decode.ri, Encode.s, hop])
  -- AIDX
  case h_3 =>
    exact encode_of_need [4, 1, 3, 4, 2, 24, 6, 5, 1, 5, 1, 8] rfl rfl h
      (by simp +contextual (disch := decide) [Encode.s, hop])
  -- ACMP
  case h_4 =>
    exact encode_of_take [4, 1, 3, 4, 26, 5, 1, 5, 1, 4, 2, 8] rfl (fun _ => rfl) h
      (by simp +contextual (disch := decide) [Decode.rrr, Encode.s, hop])
  -- AMOV
  case h_5 => exact encode_of_decode_amovOp hop h
  -- BR
  case h_7 =>
    exact encode_of_need [4, 1, 14, 25, 12, 8] rfl rfl h
      (by simp +contextual (disch := decide) [Encode.s, hop])
  -- BRC, CALL
  case h_8 | h_9 =>
    exact encode_of_need [4, 1, 14, 25, 6, 6, 8] rfl rfl h
      (by simp +contextual (disch := decide) [Encode.s, hop])
  -- RET
  case h_10 =>
    exact encode_of_need [4, 1, 39, 6, 6, 8] rfl rfl h
      (by simp +contextual (disch := decide) [Encode.s, hop])
  -- LOOP
  case h_11 =>
    exact encode_of_need [4, 1, 9, 24, 6, 6, 2, 1, 3, 8] rfl rfl h
      (by simp +contextual (disch := decide) [Encode.s, hop])
  -- FSET
  case h_12 =>
    exact encode_of_need [4, 1, 3, 1, 3, 26, 12, 4, 2, 8] rfl rfl h
      (by simp +contextual (disch := decide) [Decode.rrr, Encode.s, hop])
  -- FMOV
  case h_13 =>
    exact encode_of_need [4, 1, 3, 1, 3, 26, 6, 4, 2, 4, 2, 8] rfl rfl h
      (by simp +contextual (disch := decide) [Decode.rrr, Encode.s, hop])
  -- KWR
  case h_14 =>
    exact encode_of_need [4, 1, 3, 4, 26, 6, 6, 4, 2, 8] rfl rfl h
      (by simp +contextual (disch := decide) [Decode.rrr, Encode.s, hop])
  -- KWR imm
  case h_15 =>
    exact encode_of_need [4, 1, 3, 4, 32, 6, 4, 2, 8] rfl rfl h
      (by simp +contextual (disch := decide) [Decode.ri, Encode.s, hop])
  -- ZWR
  case h_16 =>
    exact encode_of_need [4, 1, 3, 4, 26, 6, 6, 3, 3, 8] rfl rfl h
      (by simp +contextual (disch := decide) [Decode.rrr, Encode.s, hop])
  -- ZWR imm
  case h_17 =>
    exact encode_of_need [4, 1, 3, 4, 32, 6, 3, 3, 8] rfl rfl h
      (by simp +contextual (disch := decide) [Decode.ri, Encode.s, hop])
  case h_18 => cases h

theorem encode_of_decode_sSys (h : Decode.sSys x op = .ok i) : encode i = some (.s, x) ∧ i.wf = true := by
  unfold Decode.sSys at h
  split at h
  -- LAUNCH, LAUNCHM, DSCAN, IMGR
  case h_1 | h_2 | h_21 | h_23 => exact encode_of_decode_sGAG hop h fun _ _ _ => rfl
  -- TEND, STEPMARK, ERET, HALT
  case h_3 | h_8 | h_15 | h_18 => exact encode_of_decode_sNone hop h rfl
  -- STEAL
  case h_4 =>
    exact encode_of_need [4, 1, 3, 4, 26, 6, 6, 6, 8] rfl rfl h
      (by simp +contextual (disch := decide) [Decode.rrr, Encode.s, hop])
  -- PRIO
  case h_5 =>
    obtain ⟨hk, h⟩ := need_eq_ok.mp h
    cases hb : bit x 8 <;> simp only [hb, Bool.false_eq_true, if_true, if_false] at hk h
    all_goals
      exact encode_of_done [4, 1, 3, 1, 3, 32, 6, 6, 8] rfl rfl h
        (by revert hk; simp +contextual (disch := decide) [Decode.ri, Encode.s, hop, fld_of_bit hb])
  -- LPSCFG
  case h_6 =>
    exact encode_of_need [4, 1, 3, 4, 26, 6, 5, 7, 8] rfl rfl h
      (by simp +contextual (disch := decide) [Decode.rrr, Encode.s, hop])
  -- LPSNXT, RTVER
  case h_7 | h_24 =>
    exact encode_of_need [4, 1, 3, 4, 26, 12, 6, 8] rfl rfl h
      (by simp +contextual (disch := decide) [Decode.rrr, Encode.s, hop])
  -- QLVL
  case h_9 => exact encode_of_decode_si hop h fun _ _ _ => rfl
  -- QSTAT, DRAIN, LKEV
  case h_10 | h_20 | h_25 => exact encode_of_decode_s2 hop h fun _ _ => rfl
  -- BACQ
  case h_11 => exact encode_of_decode_bacq hop h
  -- BREL
  case h_12 => exact encode_of_decode_brel hop h
  -- BRCFG
  case h_13 => exact encode_of_decode_brcfg hop h
  -- TRAP
  case h_14 =>
    exact encode_of_need [4, 1, 3, 4, 32, 12, 8] rfl rfl h
      (by simp +contextual (disch := decide) [Decode.ri, Encode.s, hop])
  -- SYSRD
  case h_16 =>
    exact encode_of_need [4, 1, 3, 4, 12, 20, 6, 6, 8] rfl rfl h
      (by simp +contextual (disch := decide) [Decode.ri, Encode.s, hop])
  -- SYSWR
  case h_17 =>
    exact encode_of_need [4, 1, 3, 4, 12, 20, 6, 6, 8] rfl (encode_syswrOp ..) h
      (by simp +contextual (disch := decide) [Decode.ri, Encode.s, hop])
  -- FRZ
  case h_19 =>
    obtain ⟨hk, h⟩ := need_eq_ok.mp h
    cases hb : bit x 8 <;> simp only [hb, Bool.false_eq_true, if_true, if_false] at hk h
    all_goals
      exact encode_of_done [4, 1, 3, 1, 3, 26, 6, 6, 6, 8] rfl rfl h
        (by revert hk; simp +contextual (disch := decide) [Decode.rrr, Encode.s, hop, fld_of_bit hb])
  -- IMGW
  case h_22 =>
    exact encode_of_need [4, 1, 3, 1, 1, 2, 26, 5, 1, 6, 6, 8] rfl rfl h
      (by simp +contextual (disch := decide) [Decode.rrr, Encode.s, hop])
  -- RECONF
  case h_26 =>
    exact encode_of_need [4, 1, 3, 4, 26, 6, 5, 1, 6, 8] rfl rfl h
      (by simp +contextual (disch := decide) [Decode.rrr, Encode.s, hop])
  case h_27 => cases h

omit hop in
theorem encode_of_decode_s (h : Decode.s x = .ok (some i)) : encode i = some (.s, x) ∧ i.wf = true := by
  have hop : fld x 56 8 = BitVec.ofNat 8 (fld x 56 8).toNat := by simp
  unfold Decode.s at h
  extract_lets op at h
  split at h
  · cases (need_eq_ok.mp h).2
  · rw [map_some_eq_ok] at h
    split_ifs at h
    · exact encode_of_decode_sInt hop h
    · exact encode_of_decode_sAddr hop h
    · exact encode_of_decode_sSys hop h
end

/-! ### The V0 and V1 slots -/

/-- What the fields of a vector operation hold: its type, its line, the sources it uses, and 0 for those it does not (R116). -/
theorem vops_eq_ok {x : BitVec 64} {na nb nc ok : Bool} {k : Ty → LineRef → Src → Src → Src → Read Instr} {i : Instr}
    (h : Decode.vops x na nb nc ok k = .ok i) : ∃ t d a b c, k t d a b c = .ok i ∧ ok = true ∧ fld x 44 8 = line d ∧
      fld x 52 4 = BitVec.ofNat 4 t.code ∧ fld x 36 8 = (if na then src a else 0#8) ∧ fld x 28 8 = (if nb then src b else 0#8) ∧
      fld x 20 8 = (if nc then src c else 0#8) := by
  obtain ⟨hk, h⟩ := need_eq_ok.mp h
  obtain ⟨-, h⟩ := need_eq_ok.mp h
  obtain ⟨t, ht, h⟩ := take_eq_ok.mp h
  obtain ⟨a, ha, h⟩ := take_eq_ok.mp h
  obtain ⟨b, hb, h⟩ := take_eq_ok.mp h
  obtain ⟨c, hc, h⟩ := take_eq_ok.mp h
  obtain ⟨d, hd, h⟩ := dirOr_eq_ok.mp h
  rw [Ty.ofCode_toNat_eq_some] at ht
  rw [srcOf_eq_some] at ha hb hc
  simp only [Bool.and_eq_true, Bool.or_eq_true, Decode.zer_eq, decide_eq_true_eq] at hk
  obtain ⟨⟨⟨⟨hok, -⟩, hna⟩, hnb⟩, hnc⟩ := hk
  refine ⟨t, d, a, b, c, h, hok, hd, ht, ?_, ?_, ?_⟩
  · cases na <;> simp_all
  · cases nb <;> simp_all
  · cases nc <;> simp_all

section
open Decode (pred)
variable {x : BitVec 64} {op : Nat} {i : Instr} {z : Slot} (hop : fld x 56 8 = BitVec.ofNat 8 op)
include hop

theorem encode_of_decode_v1 {f : Ty → LineRef → Src → Instr} (h : Decode.v1 x f = .ok i)
    (he : ∀ t d a, encode (f t d a) = some (z, Encode.v1 op (pred x) t d a)) : encode i = some (z, x) ∧ i.wf = true := by
  obtain ⟨t, d, a, b, c, h, hr, hd, hf⟩ := vops_eq_ok h
  exact encode_of_done [4, 1, 8, 2, 1, 4, 8, 8, 8, 8, 4, 8] rfl (he ..) h
    (by revert hr hf; simp +contextual (disch := decide) [Encode.v1, Encode.v, Decode.vrest, hop, hd])

theorem encode_of_decode_v2 {f : Ty → LineRef → Src → Src → Instr} (h : Decode.v2 x f = .ok i)
    (he : ∀ t d a b, encode (f t d a b) = some (z, Encode.v2 op (pred x) t d a b)) : encode i = some (z, x) ∧ i.wf = true := by
  obtain ⟨t, d, a, b, c, h, hr, hd, hf⟩ := vops_eq_ok h
  exact encode_of_done [4, 1, 8, 2, 1, 4, 8, 8, 8, 8, 4, 8] rfl (he ..) h
    (by revert hr hf; simp +contextual (disch := decide) [Encode.v2, Encode.v, Decode.vrest, hop, hd])

theorem encode_of_decode_v2s {f : Ty → LineRef → Src → Src → Bool → Instr} (h : Decode.v2s x f = .ok i)
    (he : ∀ t d a b u, encode (f t d a b u) = some (z, Encode.v2s op (pred x) t d a b u)) : encode i = some (z, x) ∧ i.wf = true := by
  obtain ⟨t, d, a, b, c, h, hr, hd, hf⟩ := vops_eq_ok h
  exact encode_of_done [4, 1, 8, 2, 1, 4, 8, 8, 8, 8, 4, 8] rfl (he ..) h
    (by revert hr hf; simp +contextual (disch := decide) [Encode.v2s, Encode.v, Decode.vrest, hop, hd])

theorem encode_of_decode_v3 {f : Ty → LineRef → Src → Src → Src → Instr} (h : Decode.v3 x f = .ok i)
    (he : ∀ t d a b c, encode (f t d a b c) = some (z, Encode.v3 op (pred x) t d a b c)) : encode i = some (z, x) ∧ i.wf = true := by
  obtain ⟨t, d, a, b, c, h, hr, hd, hf⟩ := vops_eq_ok h
  exact encode_of_done [4, 1, 8, 2, 1, 4, 8, 8, 8, 8, 4, 8] rfl (he ..) h
    (by revert hr hf; simp +contextual (disch := decide) [Encode.v3, Encode.v, Decode.vrest, hop, hd])

theorem encode_of_decode_v1i {f : Ty → LineRef → Src → BitVec 8 → Instr} (h : Decode.v1i x f = .ok i)
    (he : ∀ t d a n, encode (f t d a n) = some (z, Encode.v1i op (pred x) t d a n)) : encode i = some (z, x) ∧ i.wf = true := by
  obtain ⟨t, d, a, b, c, h, hr, hd, hf⟩ := vops_eq_ok h
  exact encode_of_done [4, 1, 8, 2, 1, 4, 8, 8, 8, 8, 4, 8] rfl (he ..) h
    (by revert hr hf; simp +contextual (disch := decide) [Encode.v1i, Encode.v, Decode.vrest, hop, hd])

end

section
variable {x : BitVec 64} {op : Nat} {i : Instr} {w : Bool} (hop : fld x 56 8 = BitVec.ofNat 8 op)
include hop

theorem encode_of_decode_vArith (h : Decode.vArith x w op = .ok i) : encode i = some (encode.vs w, x) ∧ i.wf = true := by
  unfold Decode.vArith at h
  split at h
  -- VADD, VSUB, VMUL
  case h_1 | h_2 | h_3 => exact encode_of_decode_v2s hop h fun _ _ _ _ _ => rfl
  -- VFMA, VFMS, VCLAMP
  case h_4 | h_5 | h_10 => exact encode_of_decode_v3 hop h fun _ _ _ _ _ => rfl
  -- VMIN, VMAX, VMULH
  case h_6 | h_7 | h_11 => exact encode_of_decode_v2 hop h fun _ _ _ _ => rfl
  -- VABS, VNEG, VRCP, VRSQ, VEXP2, VLOG2, VSQRT
  case h_8 | h_9 | h_12 | h_13 | h_14 | h_15 | h_16 => exact encode_of_decode_v1 hop h fun _ _ _ => rfl
  -- VCVT
  case h_17 =>
    obtain ⟨t, d, a, b, c, h, hr, hd, hf⟩ := vops_eq_ok h
    obtain ⟨tx, hx, h⟩ := take_eq_ok.mp h
    rw [Ty.ofCode_toNat_eq_some] at hx
    exact encode_of_done [4, 1, 8, 2, 1, 4, 8, 8, 8, 8, 4, 8] rfl rfl h
      (by revert hr hf; simp +contextual (disch := decide) [Encode.v, Decode.vrest, hop, hd, hx])
  -- VQ8, VDQ8
  case h_18 | h_19 =>
    obtain ⟨t, d, a, b, c, h, hr, hd, hf⟩ := vops_eq_ok h
    exact encode_of_done [4, 1, 8, 2, 1, 1, 3, 8, 8, 8, 8, 4, 8] rfl rfl h
      (by revert hr hf; simp +contextual (disch := decide) [Encode.v, Decode.vrest, hop, hd])
  case h_20 => cases h

theorem encode_of_decode_vMove (h : Decode.vMove x w op = .ok i) : encode i = some (encode.vs w, x) ∧ i.wf = true := by
  unfold Decode.vMove at h
  split at h
  -- VAND, VOR, VXOR, VPERM
  case h_1 | h_2 | h_3 | h_14 => exact encode_of_decode_v2 hop h fun _ _ _ _ => rfl
  -- VNOT, VPOPC, VCLZ, VMOV, VREDSUM, VREDMAX, VREDMIN
  case h_4 | h_8 | h_9 | h_12 | h_17 | h_18 | h_19 => exact encode_of_decode_v1 hop h fun _ _ _ => rfl
  -- VSHL, VSHR, VSAR, VBCAST, VROT
  case h_5 | h_6 | h_7 | h_13 | h_16 => exact encode_of_decode_v1i hop h fun _ _ _ _ => rfl
  -- VCMP
  case h_10 =>
    split at h
    · cases h
    · rename_i cc hx
      rw [Cond.ofCode_toNat_eq_some] at hx
      obtain ⟨-, h⟩ := need_eq_ok.mp h
      obtain ⟨t, d, a, b, c, h, hr, hd, hf⟩ := vops_eq_ok h
      exact encode_of_done [4, 1, 8, 2, 1, 4, 8, 8, 8, 8, 4, 8] rfl rfl h
        (by revert hr hf; simp +contextual (disch := decide) [Encode.v, Decode.vrest, hop, hd, hx])
  -- VSEL
  case h_11 => exact encode_of_decode_v3 hop h fun _ _ _ _ _ => rfl
  -- VIOTA
  case h_15 =>
    obtain ⟨t, d, a, b, c, h, hr, hd, hf⟩ := vops_eq_ok h
    exact encode_of_done [4, 1, 8, 2, 1, 4, 8, 8, 8, 8, 4, 8] rfl rfl h
      (by revert hr hf; simp +contextual (disch := decide) [Encode.v, Decode.vrest, hop, hd])
  -- VAMAX
  case h_20 =>
    obtain ⟨t, d, a, b, c, h, hr, hd, hf⟩ := vops_eq_ok h
    exact encode_of_done [4, 1, 8, 2, 1, 4, 8, 8, 8, 8, 4, 8] rfl rfl h
      (by revert hr hf; simp +contextual (disch := decide) [Encode.v, Decode.vrest, hop])
  case h_21 => cases h

omit hop in
theorem encode_of_decode_v (h : Decode.v w x = .ok (some i)) : encode i = some (encode.vs w, x) ∧ i.wf = true := by
  have hop : fld x 56 8 = BitVec.ofNat 8 (fld x 56 8).toNat := by simp
  unfold Decode.v at h
  extract_lets op at h
  split at h
  · cases (need_eq_ok.mp h).2
  · rw [map_some_eq_ok] at h
    split_ifs at h
    · exact encode_of_decode_vArith hop h
    · exact encode_of_decode_vMove hop h

end

/-! ### The M slot -/

section
variable {x : BitVec 64} {op : Nat} {i : Instr} (hop : fld x 56 8 = BitVec.ofNat 8 op)
include hop

theorem encode_of_decode_mOp (h : Decode.mOp x op = .ok i) : encode i = some (.m, x) ∧ i.wf = true := by
  unfold Decode.mOp at h
  split at h
  -- MCFG
  case h_1 =>
    obtain ⟨hk, h⟩ := need_eq_ok.mp h
    obtain ⟨t, ht, h⟩ := take_eq_ok.mp h
    rw [Ty.ofCode_toNat_eq_some] at ht
    exact encode_of_done [4, 1, 15, 4, 4, 1, 6, 2, 1, 6, 8, 4, 8] rfl rfl h
      (by revert hk; simp +contextual (disch := decide) [Encode.m, Decode.mrest, hop, ht])
  -- MLDW, MSTRM, MADDACC
  case h_2 | h_4 | h_7 =>
    obtain ⟨hk, h⟩ := need_eq_ok.mp h
    obtain ⟨t, ht, h⟩ := take_eq_ok.mp h
    rw [Ty.ofCode_toNat_eq_some] at ht
    obtain ⟨-, h⟩ := need_eq_ok.mp h
    obtain ⟨g, hg, h⟩ := dirOr_eq_ok.mp h
    exact encode_of_done [4, 1, 15, 4, 4, 1, 6, 2, 1, 6, 8, 4, 8] rfl rfl h
      (by revert hk; simp +contextual (disch := decide) [Encode.m, Decode.mrest, hop, ht, hg])
  -- MSWAP, MWAITP
  case h_3 | h_8 =>
    obtain ⟨hk, h⟩ := need_eq_ok.mp h
    exact encode_of_done [4, 1, 15, 4, 4, 1, 6, 2, 1, 6, 8, 4, 8] rfl rfl h
      (by revert hk; simp +contextual (disch := decide) [Encode.m, Decode.mrest, hop])
  -- MZERO
  case h_5 =>
    obtain ⟨hk, h⟩ := need_eq_ok.mp h
    obtain ⟨hz, h⟩ := need_eq_ok.mp h
    exact encode_of_done [4, 1, 15, 4, 2, 2, 1, 6, 2, 1, 6, 8, 4, 8] rfl rfl h
      (by revert hk hz; simp +contextual (disch := decide) [Encode.m, Decode.mrest, hop, Encode.setWidth_eq_at'])
  -- MRDACC
  case h_6 =>
    obtain ⟨hk, h⟩ := need_eq_ok.mp h
    obtain ⟨hz, h⟩ := need_eq_ok.mp h
    obtain ⟨t, ht, h⟩ := take_eq_ok.mp h
    rw [Ty.ofCode_toNat_eq_some] at ht
    obtain ⟨g, hg, h⟩ := dirOr_eq_ok.mp h
    exact encode_of_done [4, 1, 15, 4, 4, 1, 6, 2, 1, 6, 8, 4, 8] rfl rfl h
      (by revert hk hz; simp +contextual (disch := decide) [Encode.m, Decode.mrest, hop, ht, hg])
  case h_9 => cases h

omit hop in
theorem encode_of_decode_m (h : Decode.m x = .ok (some i)) : encode i = some (.m, x) ∧ i.wf = true := by
  unfold Decode.m at h
  extract_lets op at h
  split at h
  · cases (need_eq_ok.mp h).2
  · exact encode_of_decode_mOp (eq_ofNat_of_toNat_eq rfl) (map_some_eq_ok.mp h)

end

/-! ### The LD slot -/

section
variable {x : BitVec 48} {op : Nat} {i : Instr} (hop : fld x 41 7 = BitVec.ofNat 7 op)
include hop

theorem encode_of_decode_amo {f : Amo → Instr} (h : need (zer x 13 2) .rsvField (done (f (Decode.amo x))) = .ok i)
    (he : ∀ m, encode (f m) = some (.ld, (Encode.amo op (Decode.pred x) m).setWidth 64)) :
    encode i = some (.ld, x.setWidth 64) ∧ i.wf = true :=
  encode_of_need_low [4, 1, 6, 1, 1, 2, 12, 3, 5, 6, 7] rfl (he _) h
    (by simp +contextual (disch := decide) [Encode.amo, Encode.ld, Decode.amo, hop])

theorem encode_of_decode_ldOp (h : Decode.ldOp x op = .ok i) : encode i = some (.ld, x.setWidth 64) ∧ i.wf = true := by
  unfold Decode.ldOp at h
  split at h
  -- LDW, LDD
  case h_1 | h_2 =>
    exact encode_of_done_low [4, 1, 10, 12, 3, 5, 6, 7] rfl rfl h (by simp (disch := decide) [Encode.ld, hop])
  -- LDL, TLRD, TLQRY
  case h_3 | h_7 | h_8 =>
    exact encode_of_need_low [4, 1, 10, 12, 3, 5, 4, 2, 7] rfl rfl h
      (by simp +contextual (disch := decide) [Encode.ld, hop])
  -- LDLS
  case h_4 =>
    exact encode_of_need_low [4, 1, 6, 4, 12, 3, 5, 4, 2, 7] rfl rfl h
      (by simp +contextual (disch := decide) [Encode.ld, hop])
  -- LDG
  case h_5 =>
    exact encode_of_take_low [4, 1, 8, 2, 12, 3, 5, 4, 2, 7] rfl (fun _ => rfl) h
      (by simp +contextual (disch := decide) [Encode.ld, hop])
  -- TLNEW
  case h_6 =>
    exact encode_of_need_low [4, 1, 6, 4, 12, 3, 5, 6, 7] rfl rfl h
      (by simp +contextual (disch := decide) [Encode.ld, hop])
  -- TLREP
  case h_9 =>
    exact encode_of_need_low [4, 1, 10, 12, 3, 5, 6, 7] rfl rfl h
      (by simp +contextual (disch := decide) [Encode.ld, hop])
  -- AMOADD, AMOMAX, AMOMIN, AMOAND, AMOOR, AMOXCH, AMOCAS, AMOFADD
  case h_10 | h_11 | h_12 | h_13 | h_14 | h_15 | h_16 | h_17 => exact encode_of_decode_amo hop h fun _ => rfl
  case h_18 => cases h

omit hop in
theorem encode_of_decode_ld (h : Decode.ld x = .ok (some i)) : encode i = some (.ld, x.setWidth 64) ∧ i.wf = true := by
  unfold Decode.ld at h
  extract_lets op at h
  split at h
  · cases (need_eq_ok.mp h).2
  · exact encode_of_decode_ldOp (eq_ofNat_of_toNat_eq rfl) (map_some_eq_ok.mp h)

end

/-! ### The ST slot -/

section
variable {x : BitVec 48} {op : Nat} {i : Instr} (hop : fld x 41 7 = BitVec.ofNat 7 op)
include hop

theorem encode_of_decode_stOp (h : Decode.stOp x op = .ok i) : encode i = some (.st, x.setWidth 64) ∧ i.wf = true := by
  unfold Decode.stOp at h
  split at h
  -- STW, STD
  case h_1 | h_2 =>
    exact encode_of_need_low [4, 1, 14, 6, 3, 5, 6, 2, 7] rfl rfl h
      (by simp +contextual (disch := decide) [Encode.st, Encode.setWidth_eq_at', hop])
  -- STL, PUTH
  case h_3 | h_7 =>
    exact encode_of_take_low [4, 1, 14, 6, 3, 5, 8, 7] rfl (fun _ => rfl) h
      (by simp +contextual (disch := decide) [Encode.st, hop])
  -- STLX
  case h_4 =>
    obtain ⟨s, hs, h⟩ := take_eq_ok.mp h
    obtain ⟨t, ht, h⟩ := take_eq_ok.mp h
    rw [srcOf_eq_some] at hs
    rw [Ty.ofCode_toNat_eq_some] at ht
    exact encode_of_done_low [4, 1, 14, 2, 4, 3, 5, 8, 7] rfl rfl h (by simp (disch := decide) [Encode.st, hop, hs, ht])
  -- TLWR
  case h_5 =>
    obtain ⟨hk, h⟩ := need_eq_ok.mp h
    obtain ⟨s, hs, h⟩ := take_eq_ok.mp h
    obtain ⟨t, ht, h⟩ := take_eq_ok.mp h
    rw [srcOf_eq_some] at hs
    rw [Ty.ofCode_toNat_eq_some] at ht
    exact encode_of_done_low [4, 1, 14, 2, 4, 3, 5, 8, 7] rfl rfl h
      (by revert hk; simp +contextual (disch := decide) [Encode.st, hop, hs, ht])
  -- TLFIN
  case h_6 =>
    exact encode_of_need_low [4, 1, 23, 5, 8, 7] rfl rfl h
      (by simp +contextual (disch := decide) [Encode.st, hop])
  case h_8 => cases h

omit hop in
theorem encode_of_decode_st (h : Decode.st x = .ok (some i)) : encode i = some (.st, x.setWidth 64) ∧ i.wf = true := by
  unfold Decode.st at h
  extract_lets op at h
  split at h
  · cases (need_eq_ok.mp h).2
  · exact encode_of_decode_stOp (eq_ofNat_of_toNat_eq rfl) (map_some_eq_ok.mp h)

end

/-! ### The E0 slot -/

section
variable {x : BitVec 64} {op : Nat} {i : Instr} (hop : fld x 58 6 = BitVec.ofNat 6 op)
include hop

theorem encode_of_decode_cpyHdr {f : CpyHdr → Instr} (h : need (zer x 5 1) .rsvField (done (f (Decode.cpyHdr x))) = .ok i)
    (he : ∀ d, encode (f d) = some (.e0, Encode.e0 op (Decode.pred x) d)) : encode i = some (.e0, x) ∧ i.wf = true :=
  encode_of_need [4, 1, 1, 32, 3, 1, 4, 3, 3, 1, 1, 4, 6] rfl (he _) h
    (by simp +contextual (disch := decide) [Encode.e0, Decode.cpyHdr, hop])

theorem encode_of_decode_e0Op (h : Decode.e0Op x op = .ok i) : encode i = some (.e0, x) ∧ i.wf = true := by
  unfold Decode.e0Op at h
  split at h
  -- CPY, CRED, CMC, CGAT
  case h_1 | h_2 | h_3 | h_4 => exact encode_of_decode_cpyHdr hop h fun _ => rfl
  -- CSTAT
  case h_5 =>
    exact encode_of_need [4, 1, 37, 4, 3, 5, 4, 6] rfl rfl h
      (by simp +contextual (disch := decide) [Encode.e0, hop])
  -- CCANCEL
  case h_6 =>
    exact encode_of_need [4, 1, 41, 3, 5, 4, 6] rfl rfl h
      (by simp +contextual (disch := decide) [Encode.e0, hop])
  case h_7 => cases h

omit hop in
theorem encode_of_decode_e0 (h : Decode.e0 x = .ok (some i)) : encode i = some (.e0, x) ∧ i.wf = true := by
  unfold Decode.e0 at h
  extract_lets op at h
  split at h
  · cases (need_eq_ok.mp h).2
  · exact encode_of_decode_e0Op (eq_ofNat_of_toNat_eq rfl) (map_some_eq_ok.mp h)

end

/-! ### The E1 slot -/

section
variable {x : BitVec 64} {op : Nat} {i : Instr} (hop : fld x 56 7 = BitVec.ofNat 7 op)
include hop

theorem encode_of_decode_xfOp (hb : bit x 63 = false) (h : Decode.xfOp x op = .ok i) : encode i = some (.e1, x) ∧ i.wf = true := by
  obtain ⟨hr, h⟩ := need_eq_ok.mp h
  obtain ⟨hk, h⟩ := need_eq_ok.mp h
  simp only [Bool.and_eq_true, Bool.or_eq_true, Decode.zer_eq, decide_eq_true_eq] at hr hk
  obtain ⟨⟨⟨⟨h5, hx⟩, -⟩, -⟩, -⟩ := hk
  obtain ⟨tf, hf, h⟩ := take_eq_ok.mp h
  obtain ⟨tt, ht, h⟩ := take_eq_ok.mp h
  obtain ⟨d, hd, h⟩ := dirOr_eq_ok.mp h
  obtain ⟨a, ha, h⟩ := dirOr_eq_ok.mp h
  rw [EFmt.ofCode_toNat_eq_some] at hf ht
  obtain rfl | rfl | rfl | rfl : op = 1 ∨ op = 2 ∨ op = 3 ∨ op = 4 := by omega
  -- XEXP alone uses the field x.
  case inr.inr.inl =>
    exact encode_of_done [4, 1, 11, 4, 4, 6, 8, 8, 5, 5, 7, 1] rfl rfl h
      (by simp (disch := decide) [Encode.xf, hop, hf, ht, hd, ha, h5, fld_of_bit hb])
  all_goals
    exact encode_of_done [4, 1, 11, 4, 4, 6, 8, 8, 5, 5, 7, 1] rfl rfl h
      (by simp (disch := decide) [Encode.xf, hop, hf, ht, hd, ha, h5, hx.resolve_left (by decide), fld_of_bit hb])

theorem encode_of_decode_ftOp (hb : bit x 63 = true) (h : Decode.ftOp x op = .ok i) : encode i = some (.e1, x) ∧ i.wf = true := by
  unfold Decode.ftOp at h
  split at h
  -- APXB
  case h_1 =>
    exact encode_of_need [4, 1, 35, 12, 4, 7, 1] rfl rfl h
      (by simp +contextual (disch := decide) [Encode.ft, hop, fld_of_bit hb])
  -- APXE, FTINV
  case h_2 | h_4 =>
    exact encode_of_need [4, 1, 47, 4, 7, 1] rfl rfl h
      (by simp +contextual (disch := decide) [Encode.ft, hop, fld_of_bit hb])
  -- FTCFG
  case h_3 =>
    obtain ⟨hk, h⟩ := need_eq_ok.mp h
    cases hz : bit x 51 <;> simp only [hz] at h
    all_goals
      exact encode_of_done [4, 1, 43, 3, 1, 4, 7, 1] rfl rfl h
        (by revert hk; simp +contextual (disch := decide) [Encode.ft, hop, fld_of_bit hb, fld_of_bit hz])
  -- FTST
  case h_5 =>
    exact encode_of_need [4, 1, 38, 4, 5, 4, 7, 1] rfl rfl h
      (by simp +contextual (disch := decide) [Encode.ft, hop, fld_of_bit hb])
  -- FTSTEP, FTSAMP
  case h_6 | h_7 =>
    exact encode_of_need [4, 1, 39, 4, 3, 1, 4, 7, 1] rfl rfl h
      (by simp +contextual (disch := decide) [Encode.ft, hop, fld_of_bit hb])
  case h_8 => cases h

omit hop in
theorem encode_of_decode_e1 (h : Decode.e1 x = .ok (some i)) : encode i = some (.e1, x) ∧ i.wf = true := by
  unfold Decode.e1 at h
  extract_lets op at h
  split_ifs at h with hb hz
  · exact encode_of_decode_ftOp (eq_ofNat_of_toNat_eq rfl) hb (map_some_eq_ok.mp h)
  · cases (need_eq_ok.mp h).2
  · exact encode_of_decode_xfOp (eq_ofNat_of_toNat_eq rfl) (by simpa using hb) (map_some_eq_ok.mp h)

end

/-! ### The SY slot -/

theorem encode_of_decode_sy {x : BitVec 32} {i : Instr} (h : Decode.sy x = .ok i) :
    encode i = some (.sy, x.setWidth 64) ∧ i.wf = true := by
  obtain ⟨-, h⟩ := need_eq_ok.mp h
  obtain ⟨-, h⟩ := need_eq_ok.mp h
  split at h
  -- NOP, YIELD, HNDL
  case h_1 hop | h_11 hop | h_12 hop =>
    exact encode_of_need_low [25, 5, 2] rfl rfl h
      (by simp +contextual (disch := decide) [Encode.sy, eq_ofNat_of_toNat_eq hop])
  -- WAIT
  case h_2 hop =>
    exact encode_of_need_low [19, 1, 1, 4, 5, 2] rfl rfl h
      (by simp +contextual (disch := decide) [Encode.sy, eq_ofNat_of_toNat_eq hop])
  -- ARV, BWT
  case h_3 hop | h_4 hop =>
    exact encode_of_need_low [12, 1, 12, 5, 2] rfl rfl h
      (by simp +contextual (disch := decide) [Encode.sy, eq_ofNat_of_toNat_eq hop])
  -- FMT
  case h_5 hop =>
    exact encode_of_need_low [8, 16, 1, 5, 2] rfl rfl h
      (by simp +contextual (disch := decide) [Encode.sy, eq_ofNat_of_toNat_eq hop])
  -- FENCE.ACQ, FENCE.REL, FENCE.ALL
  case h_6 hop | h_7 hop | h_8 hop =>
    exact encode_of_take_low [22, 3, 5, 2] rfl (fun _ => rfl) h
      (by simp +contextual (disch := decide) [Encode.sy, eq_ofNat_of_toNat_eq hop])
  -- JOIN, LEAVE
  case h_9 hop | h_10 hop =>
    exact encode_of_need_low [13, 12, 5, 2] rfl rfl h
      (by simp +contextual (disch := decide) [Encode.sy, eq_ofNat_of_toNat_eq hop])
  case h_13 => cases h

/-! ### Every slot -/

theorem setWidth_setWidth_of_lt {w : Nat} {x : BitVec 64} (h : x.toNat < 2 ^ w) : (x.setWidth w).setWidth 64 = x := by
  refine BitVec.eq_of_toNat_eq ?_
  rw [BitVec.toNat_setWidth, BitVec.toNat_setWidth, Nat.mod_eq_of_lt h, Nat.mod_eq_of_lt x.isLt]

/-- Settles O55, slot by slot: the fields that a reading looks at, or needs to be 0, cover the word. -/
theorem encodeOfDecodeIsTheWord : Obligations.EncodeOfDecodeIsTheWord := by
  unfold Obligations.EncodeOfDecodeIsTheWord
  intro i z w hw h
  cases z with
  | sy => exact setWidth_setWidth_of_lt hw ▸ encode_of_decode_sy (map_some_eq_ok.mp h)
  | s => exact encode_of_decode_s h
  | v0 => exact encode_of_decode_v h
  | v1 => exact encode_of_decode_v h
  | m => exact encode_of_decode_m h
  | ld => exact setWidth_setWidth_of_lt hw ▸ encode_of_decode_ld h
  | st => exact setWidth_setWidth_of_lt hw ▸ encode_of_decode_st h
  | e0 => exact encode_of_decode_e0 h
  | e1 => exact encode_of_decode_e1 h

end Sys2Proof
end

section
/-! PROOFS. The word of a well-formed operation is read as that operation (R110 to R126, R418). -/

namespace Sys2Proof
open Decode (fld zer bit need done take dirOr lineOf srcOf dirOk srcRsv)
open Encode (at' flag line src)

theorem firstFail_isNone (l : List (Bool × SealCode)) : (firstFail l).isNone = l.all Prod.fst := by
  induction l with
  | nil => rfl
  | cons x l ih => obtain ⟨ok, c⟩ := x; cases ok <;> simp [firstFail, ih]

/-- An operation is well formed when each of its checks passes. -/
theorem Instr.wf_eq_all (i : Instr) : i.wf = i.checks.all Prod.fst := firstFail_isNone i.checks

theorem Instr.checks_pass {i : Instr} (hw : i.wf = true) : i.checks.all Prod.fst = true := i.wf_eq_all ▸ hw

theorem toNat_setWidth_lt {w : Nat} (x : BitVec w) (h : w ≤ 64) : (x.setWidth 64).toNat < 2 ^ w := by
  rw [BitVec.toNat_setWidth_of_le h]
  exact x.isLt

@[simp] theorem map_some_ok (i : Instr) : Except.map some (.ok i : Read Instr) = .ok (some i) := rfl

/-- The vector slots alone depend on an operand. -/
@[simp] theorem encode.vs_eq_iff (w : Bool) (z : Slot) : encode.vs w = z ↔ z = .v0 ∧ w = false ∨ z = .v1 ∧ w = true := by
  cases w <;> cases z <;> decide

@[simp] theorem decodeSlot_vs (w : Bool) (x : BitVec 64) : decodeSlot (encode.vs w) x = Decode.v w x := by cases w <;> rfl

/-! ### Reading the S slot -/

/-- Read an S slot word whose opcode is `op`. -/
def Decode.sOp (x : BitVec 64) (op : Nat) : Read Instr :=
  if op < 0x40 then Decode.sInt x op else if op < 0x60 then Decode.sAddr x op else Decode.sSys x op

theorem decode_s_of_sOp {x : BitVec 64} {op : Nat} {i : Instr} (hx : fld x 56 8 = BitVec.ofNat 8 op) (hop : 0 < op ∧ op < 256)
    (h : Decode.sOp x op = .ok i) : Decode.s x = .ok (some i) := by
  have hx : (fld x 56 8).toNat = op := by simp [hx]; omega
  unfold Decode.s
  simp only [hx]
  rw [if_neg (by omega), map_some_eq_ok]
  exact h

section
open Decode (pred sOp)
variable {op : Nat} {p : Pred} {d a b : BitVec 6} (hop : 0 < op ∧ op < 256)
include hop

theorem decode_s3 {f : Pred → BitVec 6 → BitVec 6 → BitVec 6 → Instr} (hd : ∀ x, sOp x op = Decode.s3 x (f (pred x)))
    (hw : (f p d a b).wf = true) : Decode.s (Encode.s op p d a b 0 0) = .ok (some (f p d a b)) :=
  decode_s_of_sOp (by simp (disch := decide) [Encode.s]) hop
    (by simp (disch := decide) [hd, Decode.s3, Decode.rrr, Encode.s, done_of_wf hw])

theorem decode_s3u {f : Pred → BitVec 6 → BitVec 6 → BitVec 6 → Bool → Instr} {u : Bool}
    (hd : ∀ x, sOp x op = Decode.s3u x (f (pred x))) (hw : (f p d a b u).wf = true) :
    Decode.s (Encode.s op p d a b (Encode.x1 u) 0) = .ok (some (f p d a b u)) :=
  decode_s_of_sOp (by simp (disch := decide) [Encode.s]) hop
    (by simp (disch := decide) [hd, Decode.s3u, Decode.rrr, Encode.s, done_of_wf hw])

theorem decode_s2 {f : Pred → BitVec 6 → BitVec 6 → Instr} (hd : ∀ x, sOp x op = Decode.s2 x (f (pred x)))
    (hw : (f p d a).wf = true) : Decode.s (Encode.s op p d a 0 0 0) = .ok (some (f p d a)) :=
  decode_s_of_sOp (by simp (disch := decide) [Encode.s]) hop
    (by simp (disch := decide) [hd, Decode.s2, Decode.rrr, Encode.s, done_of_wf hw])

theorem decode_si {f : Pred → BitVec 6 → BitVec 6 → BitVec 32 → Instr} {n : BitVec 32}
    (hd : ∀ x, sOp x op = Decode.si x (f (pred x))) (hw : (f p d a n).wf = true) :
    Decode.s (Encode.s op p d a 0 0 (at' 64 12 n)) = .ok (some (f p d a n)) :=
  decode_s_of_sOp (by simp (disch := decide) [Encode.s]) hop
    (by simp (disch := decide) [hd, Decode.si, Decode.ri, Encode.s, done_of_wf hw])

theorem decode_siu {f : Pred → BitVec 6 → BitVec 6 → BitVec 32 → Bool → Instr} {n : BitVec 32} {u : Bool}
    (hd : ∀ x, sOp x op = Decode.siu x (f (pred x))) (hw : (f p d a n u).wf = true) :
    Decode.s (Encode.s op p d a 0 (Encode.x1 u) (at' 64 12 n)) = .ok (some (f p d a n u)) :=
  decode_s_of_sOp (by simp (disch := decide) [Encode.s]) hop
    (by simp (disch := decide) [hd, Decode.siu, Decode.ri, Encode.s, done_of_wf hw])

theorem decode_sGAG {f : Pred → BitVec 6 → BitVec 5 → BitVec 6 → Instr} {e : BitVec 5}
    (hd : ∀ x, sOp x op = Decode.sGAG x (f (pred x))) (hw : (f p d e b).wf = true) :
    Decode.s (Encode.s op p d (Encode.r6 e) b 0 0) = .ok (some (f p d e b)) :=
  decode_s_of_sOp (by simp (disch := decide) [Encode.s]) hop
    (by simp (disch := decide) [hd, Decode.sGAG, Decode.rrr, Encode.s, done_of_wf hw])

theorem decode_sNone {f : Pred → Instr} (hd : ∀ x, sOp x op = Decode.sNone x (f (pred x)))
    (hw : (f p).wf = true) : Decode.s (Encode.s op p 0 0 0 0 0) = .ok (some (f p)) :=
  decode_s_of_sOp (by simp (disch := decide) [Encode.s]) hop
    (by simp (disch := decide) [hd, Decode.sNone, Decode.rrr, Encode.s, done_of_wf hw])

end

theorem wf_syswrOp (p : Pred) (a : BitVec 6) (num : BitVec 12) : (Decode.syswrOp p a num).wf = true := by
  unfold Decode.syswrOp
  split <;> rfl

/-- A SYSWR word is read as the operation of its number (R418). -/
theorem decode_syswr {p : Pred} {a : BitVec 6} {num : BitVec 12} {i : Instr} (hi : Decode.syswrOp p a num = i) :
    Decode.s (Encode.s 0x73 p 0 a 0 0 (at' 64 12 num)) = .ok (some i) := by
  subst hi
  simp (disch := decide) [Decode.s, Encode.s, Decode.sSys, Decode.ri, done_of_wf (wf_syswrOp p a num)]

/-! The registers that are four rows, or two, of the system numbers carry the row's index as an operand. -/

theorem bv2_cases (x : BitVec 2) : x = 0#2 ∨ x = 1#2 ∨ x = 2#2 ∨ x = 3#2 := by
  revert x
  decide

section
variable (p : Pred) (a : BitVec 6) (x : BitVec 2)

theorem syswrOp_handlerWord (ctl : Bool) :
    Decode.syswrOp p a (BitVec.ofNat 12 ((if ctl then 0x8C4 else 0x8C0) + x.toNat)) = .handlerWordWrite p a ctl x := by
  obtain rfl | rfl | rfl | rfl := bv2_cases x <;> cases ctl <;> rfl

theorem syswrOp_preemptRequest : Decode.syswrOp p a (BitVec.ofNat 12 (0x8D0 + x.toNat)) = .preemptRequest p a x := by
  obtain rfl | rfl | rfl | rfl := bv2_cases x <;> rfl

theorem syswrOp_contextResume : Decode.syswrOp p a (BitVec.ofNat 12 (0x8D8 + x.toNat)) = .contextResume p a x := by
  obtain rfl | rfl | rfl | rfl := bv2_cases x <;> rfl

theorem syswrOp_checkpointPeriod (st : Bool) :
    Decode.syswrOp p a (BitVec.ofNat 12 (if st then 0x8E1 else 0x8E0)) = .checkpointPeriodWrite p a st := by
  cases st <;> rfl

end

section
/-! ### Slot by slot

In each lemma the operations of other slots go first: `h` says that their word is of another slot than `z`. -/

variable {i : Instr} {z : Slot} {w : BitVec 64} (h : encode i = some (z, w)) (hw : i.wf = true)
include h hw

theorem decode_encode_s (hz : z = .s) : decodeSlot z w = .ok (some i.named) := by
  cases i <;> cases h <;> simp at hz <;> clear hz
  case add | sub | mul | and | or | xor | shl | shr | sar | rot => exact decode_s3 (by decide) (fun _ => rfl) hw
  case mulh | div | rem | min | max => exact decode_s3u (by decide) (fun _ => rfl) hw
  case clz | popc | mov => exact decode_s2 (by decide) (fun _ => rfl) hw
  case addImm | subImm | mulImm | andImm | orImm | xorImm | shlImm | shrImm | sarImm | rotImm =>
    exact decode_si (by decide) (fun _ => rfl) hw
  case minImm | maxImm => exact decode_siu (by decide) (fun _ => rfl) hw
  case launch | launchm | dscan | imgr => exact decode_sGAG (by decide) (fun _ => rfl) hw
  case tend | stepmark | eret | halt => exact decode_sNone (by decide) (fun _ => rfl) hw
  case qlvl => exact decode_si (by decide) (fun _ => rfl) hw
  case qstat | drain | lkev => exact decode_s2 (by decide) (fun _ => rfl) hw
  case cmp | sel | cmpImm | movImm | movh =>
    simp (disch := decide) [decodeSlot, Decode.s, Encode.s, Instr.named, Decode.sInt, Decode.rrr, Decode.ri, done_of_wf hw]
  case aadd | aaddi | aidx | acmp | ahome | br | brc | call | ret | loop | fset | fmov | kwr | kwrImm | zwr | zwrImm =>
    simp (disch := decide) [decodeSlot, Decode.s, Encode.s, Instr.named, Decode.sAddr, Decode.rrr, Decode.ri, done_of_wf hw]
  case amovh =>
    simp (disch := decide) [decodeSlot, Decode.s, Encode.s, Instr.named, Decode.sAddr, Decode.amovOp, done_of_wf hw]
  case amov p x d a =>
    obtain rfl | rfl | rfl | rfl := bv2_cases x
    case inr.inr.inr => simp [Instr.wf_eq_all, Instr.checks] at hw
    all_goals simp (disch := decide) [decodeSlot, Decode.s, Encode.s, Instr.named, Decode.sAddr, Decode.amovOp, done_of_wf hw]
  case bacqP | bacqC | brelP | brelC | brcfg =>
    simp (disch := decide) [decodeSlot, Decode.s, Encode.s, Instr.named, Decode.sSys, Decode.ring, Encode.setWidth_eq_at', done_of_wf hw]
  case steal | prioSelf | prioTask | lpscfg | lpsnxt | trap | sysrd | frz | frzThaw | imgw | rtver | reconf =>
    simp (disch := decide) [decodeSlot, Decode.s, Encode.s, Instr.named, Decode.sSys, Decode.rrr, Decode.ri, done_of_wf hw]
  case handlerWordWrite p a ctl x => exact decode_syswr (syswrOp_handlerWord p a x ctl)
  case preemptRequest p a x => exact decode_syswr (syswrOp_preemptRequest p a x)
  case contextResume p a x => exact decode_syswr (syswrOp_contextResume p a x)
  case checkpointPeriodWrite p a st => exact decode_syswr (syswrOp_checkpointPeriod p a st)
  all_goals exact decode_syswr rfl

theorem decode_encode_v (hz : z = .v0 ∨ z = .v1) : decodeSlot z w = .ok (some i.named) := by
  cases i <;> cases h <;> simp at hz <;> clear hz
  case vadd | vsub | vmul | vfma | vfms | vclamp | vmin | vmax | vmulh | vabs | vneg | vrcp | vrsq | vexp2 | vlog2 | vsqrt | vcvt | vq8 |
      vdq8 =>
    simp (disch := decide) [Decode.v, Encode.v, Instr.named, Decode.vops, Decode.vty, Decode.vrest, Decode.vArith, Decode.v1, Decode.v2,
      Decode.v2s, Decode.v3, Encode.v1, Encode.v2, Encode.v2s, Encode.v3, done_of_wf hw]
  case vsel | vand | vor | vxor | vperm | vnot | vpopc | vclz | vmov | vredsum | vredmax | vredmin | vshl | vshr | vsar | vbcast | vrot |
      viota | vamax =>
    simp (disch := decide) [Decode.v, Encode.v, Instr.named, Decode.vops, Decode.vty, Decode.vrest, Decode.vMove, Decode.v1, Decode.v1i,
      Decode.v2, Decode.v3, Encode.v1, Encode.v1i, Encode.v2, Encode.v3, done_of_wf hw]
  case vcmp =>
    have hc := Instr.checks_pass hw
    revert hc
    simp +contextual (disch := decide) [Instr.checks, Decode.v, Encode.v, Instr.named, Decode.vops, Decode.vty, Decode.vrest,
      Decode.vMove, done_of_wf hw]

theorem decode_encode_m (hz : z = .m) : decodeSlot z w = .ok (some i.named) := by
  cases i <;> cases h <;> simp at hz <;> clear hz
  all_goals
    have hm := Instr.checks_pass hw
    revert hm
    simp +contextual (disch := decide) [Instr.checks, decodeSlot, Decode.m, Encode.m, Instr.named, Decode.mOp, Decode.mrest, Decode.vty,
      Decode.mgl, Encode.setWidth_eq_at', done_of_wf hw]

theorem decode_encode_ld (hz : z = .ld) : w.toNat < 2 ^ z.width ∧ decodeSlot z w = .ok (some i.named) := by
  cases i <;> cases h <;> simp at hz <;> clear hz
  case ldw | ldd | ldl | ldls | ldg | tlnew | tlrd | tlqry | tlrep =>
    refine ⟨toNat_setWidth_lt _ (by decide), ?_⟩
    simp (disch := decide) [decodeSlot, Decode.ld, Encode.ld, Instr.named, Decode.ldOp, done_of_wf hw]
  case amoAdd | amoMax | amoMin | amoAnd | amoOr | amoXch | amoCas | amoFadd =>
    refine ⟨toNat_setWidth_lt _ (by decide), ?_⟩
    simp (disch := decide) [decodeSlot, Decode.ld, Encode.ld, Encode.amo, Decode.amo, Instr.named, Decode.ldOp, done_of_wf hw]

theorem decode_encode_st (hz : z = .st) : w.toNat < 2 ^ z.width ∧ decodeSlot z w = .ok (some i.named) := by
  cases i <;> cases h <;> simp at hz <;> clear hz
  case stw | std | stl | stlx | tlwr | tlfin | puth =>
    refine ⟨toNat_setWidth_lt _ (by decide), ?_⟩
    simp (disch := decide) [decodeSlot, Decode.st, Encode.st, Instr.named, Decode.stOp, Encode.setWidth_eq_at', done_of_wf hw]

theorem decode_encode_e0 (hz : z = .e0) : decodeSlot z w = .ok (some i.named) := by
  cases i <;> cases h <;> simp at hz <;> clear hz
  case cpy | cred | cmc | cgat | cstat | ccancel =>
    simp (disch := decide) [decodeSlot, Decode.e0, Encode.e0, Instr.named, Decode.e0Op, Decode.cpyHdr, done_of_wf hw]

theorem decode_encode_e1 (hz : z = .e1) : decodeSlot z w = .ok (some i.named) := by
  cases i <;> cases h <;> simp at hz <;> clear hz
  case xcvt | xtrn | xpack =>
    simp (disch := decide) [decodeSlot, Decode.e1, Encode.xf, Instr.named, Decode.xfOp, done_of_wf hw]
  case xexp =>
    have hx := Instr.checks_pass hw
    revert hx
    simp +contextual (disch := decide) [Instr.checks, xexpChecks, decodeSlot, Decode.e1, Encode.xf, Instr.named, Decode.xfOp,
      done_of_wf hw]
  case apxb | apxe | ftcfg | ftcfgNew | ftinv | ftst | ftstep | ftsamp =>
    simp (disch := decide) [decodeSlot, Decode.e1, Encode.ft, Instr.named, Decode.ftOp, done_of_wf hw]

theorem decode_encode_sy (hz : z = .sy) : w.toNat < 2 ^ z.width ∧ decodeSlot z w = .ok (some i.named) := by
  cases i <;> cases h <;> simp at hz <;> clear hz
  case nop | wait | arv | bwt | fmt | fenceAcq | fenceRel | fenceAll | join | leave | yield | hndl =>
    refine ⟨toNat_setWidth_lt _ (by decide), ?_⟩
    have hk := Instr.checks_pass hw
    revert hk
    simp +contextual (disch := decide) [Instr.checks, hkOk, decodeSlot, Decode.sy, Encode.sy, Instr.named, done_of_wf hw]

end

/-- Settles O54, slot by slot: each field of an operation's word is the operand put there. -/
theorem decodeOfEncodeIsTheOperation : Obligations.DecodeOfEncodeIsTheOperation := by
  unfold Obligations.DecodeOfEncodeIsTheOperation
  intro i z w h hw
  cases z with
  | sy => exact decode_encode_sy h hw rfl
  | s => exact ⟨w.isLt, decode_encode_s h hw rfl⟩
  | v0 => exact ⟨w.isLt, decode_encode_v h hw (.inl rfl)⟩
  | v1 => exact ⟨w.isLt, decode_encode_v h hw (.inr rfl)⟩
  | m => exact ⟨w.isLt, decode_encode_m h hw rfl⟩
  | ld => exact decode_encode_ld h hw rfl
  | st => exact decode_encode_st h hw rfl
  | e0 => exact ⟨w.isLt, decode_encode_e0 h hw rfl⟩
  | e1 => exact ⟨w.isLt, decode_encode_e1 h hw rfl⟩

end Sys2Proof
end

section
/-! PROOFS. Requests to queues (R166, R170): what issuing one leaves, and when it issues. -/

namespace Sys2Proof.Machine

theorem bits_eq_div_mod (v lo n : Nat) : bits v lo n = v / 2 ^ lo % 2 ^ n := by rw [bits, Nat.shiftRight_eq_div_pow]

section
variable (s : State)

theorem State.latchVerdict_of_room (h : s.me.sched.latches.length < 64) : s.latchVerdict = .issue := by
  simp [State.latchVerdict, freezeIf, Nat.not_le.mpr h]

theorem State.needTask_of_task (z : Slot) (h : s.me.task.isSome = true) : s.needTask z = .issue := by
  simp [State.needTask, trapIf, Option.isNone_eq_false_iff.mpr h]

@[simp] theorem Verdict.issue_andThen (v : Verdict) : Verdict.issue.andThen v = v := rfl

theorem State.updMe_eq_updCtx (f : Ctx → Ctx) : s.updMe f = s.updCtx s.cur f := rfl

/-- A queue's request takes one latch, is one more request, and touches no byte (R166). -/
theorem State.queueRequest_spec (op : ReqOp) (base : W80) (d : BitVec 6) (dist : Nat) :
    let t := s.queueRequest op base d dist
    s.takesLatch t .s dist (.g d) ∧ s.requests t op ∧ s.sameBytes t := by
  unfold State.queueRequest
  rw [← s.updMe_eq_updCtx]
  refine ⟨⟨rfl, by rw [s.updMe_me], s.me.newLatch .s s.me.mem.nextId dist (.g d), by rw [s.updMe_me], rfl, rfl, rfl, rfl⟩,
    ⟨_, by rw [s.updMe_me], rfl⟩, s.sameBytes_updMe _ rfl rfl⟩

/-- An operation that issues as a request to a queue of die `die`. -/
theorem State.nextWith_queueRequest {i : Instr} {p : Pred} {v : Verdict} {op : ReqOp} {base : W80} {d : BitVec 6} {dist die : Nat}
    (hi : exec i s = act s p v (fun s => s.queueRequest op base d dist)) (hv : v = .issue) (hp : s.me.holds p = true)
    (hdist : dist = if die = s.cur / 4 / 256 then 96 else 160) :
    s.nextWith i (fun t => s.takesLatch t .s (if die = s.cur / 4 / 256 then 96 else 160) (.g d) ∧ s.requests t op ∧ s.sameBytes t) :=
  ⟨_, hi.trans (act_of_issues s p v _ ⟨hp, .inl hv⟩), hdist ▸ s.queueRequest_spec op base d dist⟩

theorem State.queueDist_eq (sel : W64) : s.queueDist sel = if sel.toNat / 64 % 4 = s.cur / 4 / 256 then 96 else 160 := by
  simp [State.queueDist, selDie, bits_eq_div_mod, State.myDie, dieOf, coreOf]

end

/-- Settles O14: each of the five operations is one request under a verdict that, with a latch free, is to issue. -/
theorem queueOperationsSendTheirRequest : Obligations.QueueOperationsSendTheirRequest := by
  unfold Obligations.QueueOperationsSendTheirRequest
  intro s p d b e a imm hp hroom
  have hv := s.latchVerdict_of_room hroom
  have hd := s.queueDist_eq (s.me.g b)
  refine ⟨s.nextWith_queueRequest rfl hv hp hd, s.nextWith_queueRequest rfl hv hp hd, s.nextWith_queueRequest rfl hv hp hd,
    s.nextWith_queueRequest rfl hv hp hd, fun htask => ?_⟩
  have hprio : s.prioVerdict = .issue := by rw [State.prioVerdict, s.needTask_of_task .s htask, Verdict.issue_andThen, hv]
  refine s.nextWith_queueRequest rfl hprio hp ?_
  rw [bits_eq_div_mod]
  rfl

end Sys2Proof.Machine
end

section
/-! PROOFS. Frames: changes of dies, cores, the fabric and stamps alone, and changes that leave first runs their tasks and schedules. -/

namespace Sys2Proof.Machine

/-! ### Contexts, memory, teams and jobs kept -/

/-- Nothing but dies, cores, the fabric and the stamps of arrivals differs. -/
def State.keepsContexts (s t : State) : Prop := ∃ ds cs fb st, t = { s with dies := ds, cores := cs, fab := fb, stamps := st }

namespace State.keepsContexts

variable {s t u : State}

theorem refl (s : State) : s.keepsContexts s := ⟨_, _, _, _, rfl⟩

theorem trans (h : s.keepsContexts t) (k : t.keepsContexts u) : s.keepsContexts u := by
  obtain ⟨_, _, _, _, rfl⟩ := h
  obtain ⟨ds, cs, fb, st, rfl⟩ := k
  exact ⟨ds, cs, fb, st, rfl⟩

theorem foldl {α : Type} (f : State → α → State) (l : List α) (h : ∀ t : State, ∀ x ∈ l, t.keepsContexts (f t x)) (s : State) :
    s.keepsContexts (l.foldl f s) :=
  List.foldlRecOn l f (refl s) fun t ht x hx => ht.trans (h t x hx)

theorem ctxs (h : s.keepsContexts t) : t.ctxs = s.ctxs := by obtain ⟨_, _, _, _, rfl⟩ := h; rfl
theorem mem (h : s.keepsContexts t) : t.mem = s.mem := by obtain ⟨_, _, _, _, rfl⟩ := h; rfl
theorem teams (h : s.keepsContexts t) : t.teams = s.teams := by obtain ⟨_, _, _, _, rfl⟩ := h; rfl
theorem cur (h : s.keepsContexts t) : t.cur = s.cur := by obtain ⟨_, _, _, _, rfl⟩ := h; rfl
theorem ctx (h : s.keepsContexts t) (n : Nat) : t.ctx n = s.ctx n := by obtain ⟨_, _, _, _, rfl⟩ := h; rfl
theorem me (h : s.keepsContexts t) : t.me = s.me := by obtain ⟨_, _, _, _, rfl⟩ := h; rfl
theorem job (h : s.keepsContexts t) (j : Nat) : t.job j = s.job j := by obtain ⟨_, _, _, _, rfl⟩ := h; rfl
theorem sameBytes (h : s.keepsContexts t) : s.sameBytes t := by obtain ⟨_, _, _, _, rfl⟩ := h; exact fun _ _ => rfl

end State.keepsContexts

section
variable (s : State)

theorem State.keepsContexts_updDie (d : Nat) (f : Die → Die) : s.keepsContexts (s.updDie d f) := ⟨_, _, _, _, rfl⟩

theorem State.keepsContexts_updCore (n : Nat) (f : Core → Core) : s.keepsContexts (s.updCore n f) := ⟨_, _, _, _, rfl⟩

theorem State.keepsContexts_inject (d dpkg ddie cls op : Nat) (ord : Bool) (addr aux : W64) (body : List Byte) :
    s.keepsContexts (s.inject d dpkg ddie cls op ord addr aux body) := by
  unfold State.inject
  extract_lets p e
  split
  · exact ⟨_, _, _, _, rfl⟩
  · exact s.keepsContexts_updDie d _

theorem State.keepsContexts_tell (d : Nat) (r : W64) (aux : Nat) (body : List Byte) : s.keepsContexts (s.tell d r aux body) :=
  s.keepsContexts_inject ..

theorem State.keepsContexts_tellBuddy (d : Nat) (r : W64) (aux : Nat) (body : List Byte) :
    s.keepsContexts (s.tellBuddy d r aux body) := by
  unfold State.tellBuddy
  split
  · split
    · exact .refl s
    · exact s.keepsContexts_inject ..
  · exact .refl s

theorem State.keepsContexts_notify (d : Nat) (r : W64) (t : Tile) : s.keepsContexts (s.notify d r t) :=
  .foldl _ _ (fun t _ _ => t.keepsContexts_inject ..) s

/-- A directory entry, its mirror and what watches it lie in dies and in packets. -/
theorem State.keepsContexts_setTile (r : W64) (t : Tile) : s.keepsContexts (s.setTile r t) := by
  unfold State.setTile
  split
  · exact .refl s
  next d _ =>
    extract_lets old u v
    have hu : s.keepsContexts u := s.keepsContexts_updDie d _
    have hv : s.keepsContexts v := by
      unfold v
      split
      · exact hu
      · exact hu.trans (u.keepsContexts_notify d r t)
    split
    next b _ =>
      split
      · exact hv.trans (v.keepsContexts_updDie _ _)
      · exact (hv.trans (v.keepsContexts_tellBuddy ..)).trans (.foldl _ _ (fun t _ _ => t.keepsContexts_tellBuddy ..) _)
    · exact hv

theorem State.keepsContexts_updEntry (tid : Nat) (rebuilt : Bool) (f : QEntry → QEntry) :
    s.keepsContexts (s.updEntry tid rebuilt f) :=
  .foldl _ _ (fun t d _ => t.keepsContexts_updDie d _) s

end

/-! ### Translation of a read -/

section
variable (s : State)

theorem State.keepsContexts_tlb (core home off : Nat) (rd wr : Bool) : s.keepsContexts (s.tlb core home off rd wr).2 := by
  unfold State.tlb
  split
  · exact ⟨_, _, _, _, rfl⟩
  · split
    · exact ⟨_, _, _, _, rfl⟩
    · exact .refl s

theorem State.keepsContexts_locate (n home off : Nat) (rd wr : Bool) : s.keepsContexts (s.locate n home off rd wr).2 := by
  have h := s.keepsContexts_tlb (coreOf n) home off rd wr
  unfold State.locate
  split_ifs
  · exact .refl s
  · exact .refl s
  · generalize s.tlb (coreOf n) home off rd wr = x at h ⊢
    obtain ⟨tr, u⟩ := x
    cases tr <;> exact h
  · exact .refl s
  · generalize s.tlb (coreOf n) home off rd wr = x at h ⊢
    obtain ⟨tr, u⟩ := x
    cases tr <;> exact h
  · exact .refl s

/-- A walk for a read sets no bit of a page table (R188). -/
theorem State.walk_read (home off : Nat) : (s.walk home off false).2 = s := by
  unfold State.walk
  extract_lets root
  split
  · rfl
  · split <;> simp

theorem State.keepsContexts_loadTlb (core : Nat) (e : TlbEntry) : s.keepsContexts (s.loadTlb core e) := ⟨_, _, _, _, rfl⟩

theorem State.keepsContexts_translateNow_read (n home off : Nat) (rd : Bool) :
    s.keepsContexts (s.translateNow n home off rd false).2 := by
  have h := s.keepsContexts_locate n home off rd false
  unfold State.translateNow
  split
  next u heq =>
    have hu : s.keepsContexts u := by rw [heq] at h; exact h
    have hw := u.walk_read home off
    split
    next heq =>
      rw [heq] at hw
      cases hw
      exact hu
    next heq =>
      rw [heq] at hw
      cases hw
      exact (hu.trans (State.keepsContexts_loadTlb ..)).trans (State.keepsContexts_locate ..)
  · exact h

end

end Sys2Proof.Machine
end

section
/-! PROOFS. The iterations of a loop nest (R161, R162): the packed indices by loop. -/

namespace Sys2Proof.Machine

/-- Field `q`, of ten bits, of a sum of a field and a number whose place for it is empty. -/
theorem field_add {a R p : Nat} (ha : a < 2 ^ 10) (hR : R / 2 ^ (10 * p) % 2 ^ 10 = 0) (q : Nat) :
    (a <<< (10 * p) + R) / 2 ^ (10 * q) % 2 ^ 10 = if p = q then a else R / 2 ^ (10 * q) % 2 ^ 10 := by
  rw [Nat.shiftLeft_eq]
  have hp : (a * 2 ^ (10 * p) + R) / 2 ^ (10 * p) = a + R / 2 ^ (10 * p) := by
    rw [Nat.add_comm, Nat.add_mul_div_right _ _ (by positivity), Nat.add_comm]
  rcases Nat.lt_trichotomy p q with h | rfl | h
  · obtain ⟨k, rfl⟩ := Nat.exists_eq_add_of_lt h
    have hpow : 2 ^ (10 * (p + k + 1)) = 2 ^ (10 * p) * (2 ^ 10 * 2 ^ (10 * k)) := by
      rw [← Nat.pow_add, ← Nat.pow_add]
      congr 1
      ring
    rw [if_neg (Nat.ne_of_lt h), hpow, ← Nat.div_div_eq_div_mul, hp, ← Nat.div_div_eq_div_mul, ← Nat.div_div_eq_div_mul,
      ← Nat.div_div_eq_div_mul]
    congr 2
    omega
  · rw [hp, if_pos rfl]
    omega
  · obtain ⟨k, rfl⟩ := Nat.exists_eq_add_of_lt h
    have hpow : a * 2 ^ (10 * (q + k + 1)) = a * 2 ^ (10 * k) * 2 ^ 10 * 2 ^ (10 * q) := by
      rw [show 10 * (q + k + 1) = 10 * k + 10 + 10 * q by ring, Nat.pow_add, Nat.pow_add]
      ring
    rw [if_neg (Nat.ne_of_gt h), hpow, Nat.add_comm, Nat.add_mul_div_right _ _ (by positivity), Nat.add_mul_mod_self_right]

section
variable (d : BitVec 256)

/-- Iterations of the loops at positions `k + 1` to `n - 1`, those inside position `k` of the first `n` (R162). -/
def nestInner (n k : Nat) : Nat := (List.range (n - 1 - k)).foldl (fun m i => m * nestCount d (nestPerm d (k + 1 + i))) 1

theorem nestInner_last (n : Nat) : nestInner d (n + 1) n = 1 := by simp [nestInner]

theorem nestInner_succ {n k : Nat} (h : k < n) : nestInner d (n + 1) k = nestCount d (nestPerm d n) * nestInner d n k := by
  have hlen : n + 1 - 1 - k = (n - 1 - k) + 1 := by omega
  have hpos : k + 1 + (n - 1 - k) = n := by omega
  rw [nestInner, hlen, List.range_succ, List.foldl_append]
  simp [nestInner, hpos, Nat.mul_comm]

theorem mod_nestCount_lt (v j : Nat) : v % nestCount d j < 2 ^ 10 := by
  have hc : nestCount d j ≤ 2 ^ 10 := Nat.mod_lt _ (by positivity)
  exact (Nat.mod_lt _ (Nat.succ_pos _)).trans_le hc

variable {n : Nat} (hinj : ∀ i < n, ∀ j < n, nestPerm d i = nestPerm d j → i = j)
include hinj

/-- The field of a loop outside the first `n` positions is 0. -/
theorem nestIndex_field_outside (v q : Nat) (hq : ∀ i < n, nestPerm d i ≠ q) : nestIndex d v n / 2 ^ (10 * q) % 2 ^ 10 = 0 := by
  induction n generalizing v q with
  | zero => simp [nestIndex]
  | succ n ih =>
    have ih := fun v q => ih (fun i hi j hj => hinj i (by omega) j (by omega)) v q
    have hn : ∀ i < n, nestPerm d i ≠ nestPerm d n := fun i hi he => by
      have := hinj i (by omega) n (by omega) he
      omega
    rw [nestIndex, field_add (mod_nestCount_lt d _ _) (ih _ _ hn), if_neg (hq n (by omega))]
    exact ih _ _ fun i hi => hq i (by omega)

/-- The field of the loop at position `k` is its index (R162). -/
theorem nestIndex_field (v : Nat) {k : Nat} (hk : k < n) :
    nestIndex d v n / 2 ^ (10 * nestPerm d k) % 2 ^ 10 = v / nestInner d n k % nestCount d (nestPerm d k) := by
  induction n generalizing v with
  | zero => exact absurd hk (Nat.not_lt_zero k)
  | succ n ih =>
    have hinj' : ∀ i < n, ∀ j < n, nestPerm d i = nestPerm d j → i = j := fun i hi j hj => hinj i (by omega) j (by omega)
    have hn : ∀ i < n, nestPerm d i ≠ nestPerm d n := fun i hi he => by
      have := hinj i (by omega) n (by omega) he
      omega
    rw [nestIndex, field_add (mod_nestCount_lt d _ _) (nestIndex_field_outside d hinj' _ _ hn)]
    rcases Nat.lt_succ_iff_lt_or_eq.mp hk with h | rfl
    · rw [if_neg (hn k h).symm, ih hinj' _ h, nestInner_succ d h, Nat.div_div_eq_div_mul]
    · rw [if_pos rfl, nestInner_last, Nat.div_one]

end

/-- In a nest that R161 allows no two positions name one loop: as many positions as loops, and every loop named. -/
theorem nestPerm_injective {d : BitVec 256} (h : nestBad d = false) :
    ∀ i < nestNd d, ∀ j < nestNd d, nestPerm d i = nestPerm d j → i = j := by
  have hall : ∀ j < nestNd d, ∃ i < nestNd d, nestPerm d i = j := by
    simp only [nestBad, Bool.or_eq_false_iff, Bool.not_eq_false', List.all_eq_true, List.mem_range, List.contains_eq_mem,
      decide_eq_true_eq, List.mem_map] at h
    obtain ⟨⟨⟨⟨_, hall⟩, _⟩, _⟩, _⟩ := h
    exact hall
  have hsub : List.Subperm (List.range (nestNd d)) ((List.range (nestNd d)).map (nestPerm d)) :=
    List.subperm_of_subset List.nodup_range fun j hj => by simpa using hall j (List.mem_range.mp hj)
  have hnodup := (hsub.perm_of_length_le (by simp)).nodup_iff.mp List.nodup_range
  exact fun i hi j hj => List.inj_on_of_nodup_map hnodup (List.mem_range.mpr hi) (List.mem_range.mpr hj)

end Sys2Proof.Machine
end

section
/-! PROOFS. A task's own operations (R162, R169 to R172). -/

namespace Sys2Proof.Machine

theorem Sparse.mem_of_get {α : Type} {d v : α} {m : Sparse α} {k : Nat} (h : Sparse.get d m k = v) (hv : v ≠ d) : (k, v) ∈ m := by
  induction m with
  | nil => exact absurd h.symm hv
  | cons p r ih =>
    by_cases hk : p.1 = k
    · simp only [Sparse.get, hk, if_true] at h
      simp [← h, ← hk]
    · simp only [Sparse.get, hk, if_false] at h
      exact List.mem_cons_of_mem _ (ih h)

/-! ### Raising priorities (R517) -/

/-- The running context is the same, every context keeps its schedule, and one with a first run keeps its task. -/
structure State.keepsFirstRuns (s t : State) : Prop where
  cur : t.cur = s.cur
  sched : ∀ n, (t.ctx n).sched = (s.ctx n).sched
  task : ∀ n u, u.rebuilt = false → (s.ctx n).task = some u → (t.ctx n).task = some u

theorem State.keepsContexts.keepsFirstRuns {s t : State} (h : s.keepsContexts t) : s.keepsFirstRuns t :=
  ⟨h.cur, fun n => by rw [h.ctx n], fun n _ _ hu => by rw [h.ctx n, hu]⟩

namespace State.keepsFirstRuns

variable {s t u : State}

theorem refl (s : State) : s.keepsFirstRuns s := (keepsContexts.refl s).keepsFirstRuns

theorem trans (h : s.keepsFirstRuns t) (k : t.keepsFirstRuns u) : s.keepsFirstRuns u :=
  ⟨k.cur.trans h.cur, fun n => (k.sched n).trans (h.sched n), fun n w hw hs => k.task n w hw (h.task n w hw hs)⟩

theorem foldl {α : Type} (f : State → α → State) (l : List α) (h : ∀ t : State, ∀ x ∈ l, t.keepsFirstRuns (f t x)) (s : State) :
    s.keepsFirstRuns (l.foldl f s) :=
  List.foldlRecOn l f (refl s) fun t ht x hx => ht.trans (h t x hx)

end State.keepsFirstRuns

section
variable (s : State)

/-- Changing the task of a context where it is a rebuilt one leaves first runs alone. -/
theorem State.keepsFirstRuns_updCtx (n : Nat) (f : Task → Task) (hf : ∀ t, t.rebuilt = false → f t = t) :
    s.keepsFirstRuns (s.updCtx n (fun c => { c with task := c.task.map f })) := by
  have hctx (m : Nat) : (s.updCtx n (fun c => { c with task := c.task.map f })).ctx m =
      if n = m then { s.ctx m with task := (s.ctx m).task.map f } else s.ctx m := by
    by_cases h : n = m
    · subst h
      simp
    · simp [h, s.updCtx_ctx_ne n m _ h]
  refine ⟨rfl, fun m => ?_, fun m u hu hs => ?_⟩
  · rw [hctx]
    split <;> rfl
  · rw [hctx]
    split
    · simp [hs, hf u hu]
    · exact hs

theorem State.keepsFirstRuns_raiseTask (d : Nat) (r : W64) (p : Nat) : s.keepsFirstRuns (s.raiseTask d r p) := by
  unfold State.raiseTask
  extract_lets up lift t
  have ht : s.keepsFirstRuns t := by
    refine .foldl _ _ (fun x e _ => ?_) s
    split
    · exact x.keepsFirstRuns_updCtx _ _ fun u hu => by simp [hu]
    · exact .refl x
  exact ht.trans (t.keepsContexts_updDie ..).keepsFirstRuns

theorem State.keepsContexts_raiseFar (d : Nat) (r : W64) (p : Nat) : s.keepsContexts (s.raiseFar d r p) := by
  unfold State.raiseFar
  split
  · split
    · exact s.keepsContexts_tell ..
    · exact .refl s
  · exact .refl s

theorem State.keepsFirstRuns_raise (fuel : Nat) : ∀ (s : State) (r : W64) (p : Nat), s.keepsFirstRuns (s.raise r p fuel) := by
  induction fuel with
  | zero => exact fun s _ _ => .refl s
  | succ fuel ih =>
    intro s r p
    unfold State.raise
    split
    · exact .refl s
    · split
      · split
        · exact .refl s
        · extract_lets t
          have ht : s.keepsFirstRuns t := (s.keepsContexts_updDie ..).keepsFirstRuns.trans (State.keepsFirstRuns_raiseTask ..)
          split
          · refine ht.trans (.foldl _ _ (fun t x _ => ?_) _)
            split
            · exact (t.keepsContexts_raiseFar ..).keepsFirstRuns
            · exact ih t x p
          · exact ht
      · exact (s.keepsContexts_updDie ..).keepsFirstRuns

theorem State.keepsFirstRuns_setWprio (r : W64) (p : Nat) : s.keepsFirstRuns (s.setWprio r p) := by
  unfold State.setWprio
  split
  · split
    · exact .refl s
    · exact (s.keepsContexts_setTile ..).keepsFirstRuns.trans (State.keepsFirstRuns_raise ..)
  · exact .refl s

/-! ### The base priority of a task (R170) -/

/-- Context `n` has the schedule `q` and runs the first run of `tid`, with a base priority that `P` holds of. -/
def State.runsWith (n : Nat) (q : Sched) (tid : Nat) (P : Nat → Prop) (s : State) : Prop :=
  (s.ctx n).sched = q ∧ ∃ u, (s.ctx n).task = some u ∧ u.tid = tid ∧ u.rebuilt = false ∧ P u.base

/-- What `State.setBase` does at a context listed as `c`. -/
def State.rebase (tid v : Nat) (s : State) (c : Nat × Ctx) : State :=
  match c.2.task with
  | some t => if t.tid = tid ∧ !t.rebuilt then s.updCtx c.1 (fun c => { c with task := some { t with base := v } }) else s
  | none => s

variable {n tid v : Nat} {q : Sched} {P : Nat → Prop} {s}

theorem State.runsWith.rebase (hv : P v) (h : s.runsWith n q tid P) (c : Nat × Ctx) : (s.rebase tid v c).runsWith n q tid P := by
  unfold State.rebase
  split
  next t ht =>
    split
    next hc =>
      by_cases hn : c.1 = n
      · subst hn
        obtain ⟨hq, _⟩ := h
        obtain ⟨htid, hr⟩ := hc
        simpa [State.runsWith, hv, htid] using And.intro hq hr
      · simpa [State.runsWith, s.updCtx_ctx_ne c.1 n _ hn] using h
    · exact h
  · exact h

/-- Once its context has been met, a task has its new base priority. -/
theorem State.runsWith.foldl_rebase (h : s.runsWith n q tid (fun _ => True)) {l : List (Nat × Ctx)} {c : Ctx} (hl : (n, c) ∈ l) {u : Task}
    (hu : c.task = some u) (htid : u.tid = tid) (hr : u.rebuilt = false) :
    (l.foldl (State.rebase tid v) s).runsWith n q tid (· = v) := by
  obtain ⟨before, after, rfl⟩ := List.append_of_mem hl
  rw [List.foldl_append, List.foldl_cons]
  have hbefore : (before.foldl (State.rebase tid v) s).runsWith n q tid (fun _ => True) :=
    List.foldlRecOn before _ h fun t ht x _ => ht.rebase trivial x
  refine List.foldlRecOn after _ ?_ fun t ht x _ => ht.rebase (P := (· = v)) rfl x
  have hstep (t : State) : State.rebase tid v t (n, c) = t.updCtx n (fun c => { c with task := some { u with base := v } }) := by
    simp [State.rebase, hu, htid, hr]
  rw [hstep]
  simpa [State.runsWith, htid, hr] using hbefore.1

theorem State.runsWith.of_keepsFirstRuns {t : State} (h : s.runsWith n q tid P) (k : s.keepsFirstRuns t) : t.runsWith n q tid P := by
  obtain ⟨hq, u, hu, htid, hr, hP⟩ := h
  exact ⟨(k.sched n).trans hq, u, k.task n u hr hu, htid, hr, hP⟩

end

section
variable (s : State)

/-- The context that runs the task has its new base priority, and its schedule as before. -/
theorem State.setBase_runsWith (tid v : Nat) {u : Task} (hu : s.me.task = some u) (htid : u.tid = tid) (hr : u.rebuilt = false) :
    (s.setBase tid v).cur = s.cur ∧ (s.setBase tid v).runsWith s.cur s.me.sched tid (· = v) := by
  have hlisted : (s.cur, s.me) ∈ s.ctxs := Sparse.mem_of_get rfl fun h => by
    rw [h] at hu
    cases hu
  unfold State.setBase
  extract_lets t w es
  have ht : s.keepsContexts t := s.keepsContexts_updEntry ..
  have hw : w = t.ctxs.foldl (State.rebase tid v) t := rfl
  have hcur : w.cur = s.cur := by
    rw [hw]
    refine List.foldlRecOn (motive := fun x : State => x.cur = s.cur) _ _ ht.cur fun x hx c _ => ?_
    unfold State.rebase
    split
    · split <;> exact hx
    · exact hx
  have hrun : w.runsWith s.cur s.me.sched tid (· = v) := by
    rw [hw, ht.ctxs]
    exact State.runsWith.foldl_rebase ⟨by rw [ht.ctx]; rfl, u, by rw [ht.ctx]; exact hu, htid, hr, trivial⟩ hlisted hu htid hr
  have kept {x : State} (hx : w.keepsFirstRuns x) : x.cur = s.cur ∧ x.runsWith s.cur s.me.sched tid (· = v) :=
    ⟨hx.cur.trans hcur, hrun.of_keepsFirstRuns hx⟩
  split
  · exact kept (.refl w)
  · refine kept (.foldl _ _ (fun x r _ => ?_) w)
    split
    · exact (x.keepsContexts_tell ..).keepsFirstRuns
    · exact x.keepsFirstRuns_setWprio ..

end

/-! ### Results of an operation -/

section
variable (s : State)

/-- A result scheduled after changes that left the context time is gained. -/
theorem State.gains_result {u : State} (hu : u.me.sched.time = s.me.sched.time) (z : Slot) (lat : Nat) (d : Dest) (v : Line) :
    s.gains (u.result z lat d v) lat d v := by
  refine ⟨{ due := s.me.sched.time + lat, ord := u.me.sched.ord + z.num, slot := z, dest := d, val := v }, ?_, rfl, rfl, rfl⟩
  simp [hu]

theorem State.result_time (z : Slot) (lat : Nat) (d : Dest) (v : Line) : (s.result z lat d v).me.sched.time = s.me.sched.time := by
  rw [s.result_me]
  rfl

variable {s}

/-- What is gained stays so when more is scheduled. -/
theorem State.gains.result {u : State} {lat : Nat} {d : Dest} {v : Line} (h : s.gains u lat d v) (z : Slot) (lat' : Nat) (d' : Dest)
    (v' : Line) : s.gains (u.result z lat' d' v') lat d v := by
  obtain ⟨p, hp, hrest⟩ := h
  exact ⟨p, by simp [hp], hrest⟩

theorem State.gains.of_sched_eq {u t : State} {lat : Nat} {d : Dest} {v : Line} (h : s.gains u lat d v)
    (ht : t.me.sched = u.me.sched) : s.gains t lat d v := by
  obtain ⟨p, hp, hrest⟩ := h
  exact ⟨p, ht ▸ hp, hrest⟩

end

/-! ### The attempt of a STEAL (R169) -/

/-- A steal attempt moves an entry and notes an arrival. -/
theorem State.keepsContexts_steal (u : State) (thief victim : Nat) : u.keepsContexts (u.steal thief victim).2 := by
  have hcome : u.keepsContexts (u.come (.victim victim) thief) := ⟨_, _, _, _, rfl⟩
  unfold State.steal
  dsimp only
  split
  · exact hcome.trans (State.keepsContexts_updEntry ..)
  · exact hcome

/-- What STEAL does with the answer of its attempt: a landing of distance 40 that carries it has arrived. -/
def State.landSteal (s : State) (d : BitVec 6) (f : BitVec 4) (got : Option Nat) : State :=
  s.updMe (fun c => { c with
    mem := { c.mem with nextId := s.me.mem.nextId + 1 }
    sched := { c.sched with latches := c.sched.latches ++ [{ s.me.newLatch .s s.me.mem.nextId 40 (.g d) with
      stat := .arrived, data := BitVec.ofNat 2048 (got.getD 0), flag := some (f, got.isNone) }] } })

theorem State.landSteal_latches (u : State) (d : BitVec 6) (f : BitVec 4) (got : Option Nat) :
    (u.landSteal d f got).me.sched.latches = u.me.sched.latches ++ [{ u.me.newLatch .s u.me.mem.nextId 40 (.g d) with
      stat := .arrived, data := BitVec.ofNat 2048 (got.getD 0), flag := some (f, got.isNone) }] := by
  rw [State.landSteal, u.updMe_me]

/-- The attempt of a STEAL whose operand is `g`: on the rotation's next victim, on a core of the die, or on none (R169). -/
def State.stealNamed (s : State) (g : Nat) : Option Nat × State :=
  let c := coreOf s.cur
  let k := s.core c
  let victim := if g = 0x100 then some (nextVictim c k.rot)
    else if g < 256 ∧ g ≠ c % 256 then some (256 * dieOf c + g) else none
  let s := if g = 0x100 then s.updCore c (fun k => { k with rot := (k.rot + 1) % 255 }) else s
  match victim with | some v => s.steal c v | none => (none, s)

theorem State.keepsContexts_stealNamed (s : State) (g : Nat) : s.keepsContexts (s.stealNamed g).2 := by
  unfold State.stealNamed
  extract_lets c k victim u
  have hu : s.keepsContexts u := by
    unfold u
    split
    · exact s.keepsContexts_updCore ..
    · exact .refl s
  clear_value victim
  cases victim with
  | some v => exact hu.trans (State.keepsContexts_steal ..)
  | none => exact hu

theorem State.stealNamed_of_noVictim (s : State) {g : Nat} (h : 0x100 < g ∨ g = s.cur / 4 % 256) : (s.stealNamed g).1 = none := by
  have hrot : g ≠ 0x100 := by omega
  have hcore : ¬(g < 256 ∧ g ≠ coreOf s.cur % 256) := by simp only [coreOf]; omega
  simp [State.stealNamed, hrot, hcore]

/-! ### The operations -/

section
variable {s : State} {p : Pred} {task : Task} (ht : s.me.task = some task)
include ht

theorem State.needTask_of_running (z : Slot) : s.needTask z = .issue := s.needTask_of_task z (by simp [ht])

/-- LPSNXT of a configured nest issues once eight cycles have passed (R162, R171). -/
theorem State.lpsVerdict_eq_issue (hc : s.me.seq.conf = true) (hb : s.me.seq.bad = false) (hw : s.me.seq.tcfg + 8 ≤ s.me.sched.time) :
    s.lpsVerdict = .issue := by
  have hk : ¬(s.me.sched.time - s.me.seq.tcfg ≤ 7) := by omega
  simp [State.lpsVerdict, State.needTask_of_running ht, freezeIf, trapIf, hc, hb, hk]

variable (hp : s.me.holds p = true)
include hp

/-- PRIO.self (R170). -/
theorem prioSelf_spec (d : BitVec 6) (imm : BitVec 32) : s.nextWith (.prioSelf p d imm) (fun t =>
    s.gains t 1 (.g d) ((BitVec.ofNat 64 task.base).zeroExtend 2048) ∧ (task.rebuilt = true → t.me.task = some task) ∧
    (task.rebuilt = false → ∃ u, t.me.task = some u ∧ u.tid = task.tid ∧ u.base = imm.toNat % 8)) := by
  refine ⟨_, act_of_issues s p _ _ ⟨hp, .inl (State.needTask_of_running ht .s)⟩, ?_⟩
  simp only [ht]
  have hg : s.gains (s.resultG .s 1 d (BitVec.ofNat 64 task.base)) 1 (.g d) ((BitVec.ofNat 64 task.base).zeroExtend 2048) :=
    s.gains_result rfl ..
  have hme : (s.resultG .s 1 d (BitVec.ofNat 64 task.base)).me.task = some task := by simp [State.resultG, ht]
  cases hr : task.rebuilt with
  | true => exact ⟨hg, fun _ => hme, nofun⟩
  | false =>
    obtain ⟨hcur, hsched, u, hu, htid, _, hbase⟩ := State.setBase_runsWith _ task.tid (imm.toNat % 8) hme rfl hr
    rw [← hcur] at hsched hu
    exact ⟨hg.of_sched_eq hsched, nofun, fun _ => ⟨u, hu, htid, hbase⟩⟩

/-- The first STEPMARK of a task (R172). -/
theorem stepmark_spec (hr : task.rebuilt = false) (hm : (s.pkg, task.tid) ∉ (s.job task.desc.job).marks) :
    s.nextWith (.stepmark p) (fun t => (t.job task.desc.job).steps = (s.job task.desc.job).steps + 1 ∧
      (s.pkg, task.tid) ∈ (t.job task.desc.job).marks ∧ t.me = s.me ∧ s.sameBytes t) := by
  refine ⟨_, act_of_issues s p _ _ ⟨hp, .inl (State.needTask_of_running ht .s)⟩, ?_⟩
  have hcount : s.countStep task.desc.job s.pkg task.tid = s.updJob task.desc.job (fun j =>
      { j with steps := j.steps + 1, marks := j.marks ++ [(s.pkg, task.tid)] }) := by
    simp [State.countStep, hm]
  have hjob : (s.countStep task.desc.job s.pkg task.tid).job task.desc.job =
      { s.job task.desc.job with steps := (s.job task.desc.job).steps + 1, marks := (s.job task.desc.job).marks ++ [(s.pkg, task.tid)] } := by
    rw [hcount, State.job, State.updJob, Sparse.get_set_same]
  have told {t : State} (hk : (s.countStep task.desc.job s.pkg task.tid).keepsContexts t) :
      (t.job task.desc.job).steps = (s.job task.desc.job).steps + 1 ∧ (s.pkg, task.tid) ∈ (t.job task.desc.job).marks ∧
      t.me = s.me ∧ s.sameBytes t := by
    rw [hk.job, hjob, hk.me]
    rw [hcount] at hk ⊢
    exact ⟨rfl, by simp, rfl, hk.sameBytes⟩
  simp only [ht, hr, List.contains_eq_mem, hm, decide_false, Bool.or_false, Bool.false_eq_true, if_false]
  exact told (.foldl _ _ (fun x _ _ => x.keepsContexts_inject ..) _)

/-- A STEPMARK that counts no step changes nothing (R172). -/
theorem stepmark_counted (h : task.rebuilt = true ∨ (s.pkg, task.tid) ∈ (s.job task.desc.job).marks) :
    exec (.stepmark p) s = .next s := by
  refine (act_of_issues s p _ _ ⟨hp, .inl (State.needTask_of_running ht .s)⟩).trans (congrArg _ ?_)
  have hc : (task.rebuilt || (s.job task.desc.job).marks.contains (s.pkg, task.tid)) = true := by simpa using h
  simp only [ht, hc, if_true]

/-- LPSCFG leaves the sequencer unconfigured until its descriptor is read (R171). -/
theorem lpscfg_spec (a : BitVec 5) : s.nextWith (.lpscfg p a) (fun t =>
    t.me.seq.conf = false ∧ t.me.seq.tcfg = s.me.sched.time ∧ s.me.regs = t.me.regs) := by
  refine ⟨_, act_of_issues s p _ _ ⟨hp, .inl (State.needTask_of_running ht .s)⟩, ?_⟩
  dsimp only
  split
  · rw [State.updMe_me]
    exact ⟨rfl, rfl, rfl⟩
  · rw [State.updMe_me, (s.keepsContexts_translateNow_read ..).me]
    exact ⟨rfl, rfl, rfl⟩

section
variable (hc : s.me.seq.conf = true) (hb : s.me.seq.bad = false) (hw : s.me.seq.tcfg + 8 ≤ s.me.sched.time)
include hc hb hw

/-- LPSNXT with iterations left (R162). -/
theorem lpsnxt_next (d : BitVec 6) (f : BitVec 4) (h : s.me.seq.cur < s.me.seq.hi) : s.nextWith (.lpsnxt p d f) (fun t =>
    t.me.seq = { s.me.seq with cur := s.me.seq.cur + 1 } ∧ s.gains t 3 (.f f) 0 ∧
    s.gains t 3 (.g d) ((BitVec.ofNat 64 (nestIndex s.me.seq.desc s.me.seq.cur (nestNd s.me.seq.desc))).zeroExtend 2048)) := by
  refine ⟨_, act_of_issues s p _ _ ⟨hp, .inl (State.lpsVerdict_eq_issue ht hc hb hw)⟩, ?_⟩
  rw [if_neg (Nat.not_le.mpr h)]
  have hu : (s.updMe (fun c => { c with seq := { c.seq with cur := c.seq.cur + 1 } })).me.sched = s.me.sched := by rw [s.updMe_me]
  have htime := congrArg Sched.time hu
  exact ⟨by simp [State.resultG, State.resultF], State.gains_result s ((State.result_time ..).trans htime) ..,
    (State.gains_result s htime ..).result ..⟩

/-- LPSNXT after the last iteration (R162). -/
theorem lpsnxt_end (d : BitVec 6) (f : BitVec 4) (h : s.me.seq.hi ≤ s.me.seq.cur) : s.nextWith (.lpsnxt p d f) (fun t =>
    t.me.seq = s.me.seq ∧ s.gains t 3 (.f f) 1 ∧ s.gains t 3 (.g d) ((0x8000000000000000 : W64).zeroExtend 2048)) := by
  refine ⟨_, act_of_issues s p _ _ ⟨hp, .inl (State.lpsVerdict_eq_issue ht hc hb hw)⟩, ?_⟩
  rw [if_pos h]
  exact ⟨by simp [State.resultG, State.resultF], State.gains_result s (State.result_time ..) .., (State.gains_result s rfl ..).result ..⟩

end

/-- STEAL takes a latch whose data are there (R169). -/
theorem steal_spec (d g : BitVec 6) (f : BitVec 4) (hroom : s.me.sched.latches.length < 64) :
    s.nextWith (.steal p d g f) (fun t => s.takesLatch t .s 40 (.g d) ∧
      ((0x100 < (s.me.g g).toNat ∨ (s.me.g g).toNat = s.cur / 4 % 256) →
        ∀ l, t.me.sched.latches = s.me.sched.latches ++ [l] → l.stat = .arrived ∧ l.data = 0 ∧ l.flag = some (f, true))) := by
  have hv : s.stealVerdict = .issue := by
    rw [State.stealVerdict, State.needTask_of_running ht, Verdict.issue_andThen, s.latchVerdict_of_room hroom]
  have hk := s.keepsContexts_stealNamed (s.me.g g).toNat
  have hland := State.landSteal_latches (s.stealNamed (s.me.g g).toNat).2 d f (s.stealNamed (s.me.g g).toNat).1
  rw [hk.me] at hland
  refine ⟨(s.stealNamed (s.me.g g).toNat).2.landSteal d f (s.stealNamed (s.me.g g).toNat).1,
    act_of_issues s p _ _ ⟨hp, .inl hv⟩, ⟨hk.cur, ?_, _, hland, rfl, rfl, rfl, rfl⟩, fun hg l hl => ?_⟩
  · rw [State.landSteal, State.updMe_me, hk.me]
  · rw [hland, s.stealNamed_of_noVictim hg] at hl
    obtain rfl : _ = l := by simpa using hl
    exact ⟨rfl, rfl, rfl⟩

end

/-- Settles O15: one lemma above for each operation, and the field of each loop in the packed index. -/
theorem taskOperationsOfOneContext : Obligations.TaskOperationsOfOneContext := by
  unfold Obligations.TaskOperationsOfOneContext
  constructor
  · intro s p d g a f imm task hp ht
    exact ⟨prioSelf_spec ht hp d imm, stepmark_spec ht hp, stepmark_counted ht hp, lpscfg_spec ht hp a,
      fun hc hb hw => ⟨lpsnxt_next ht hp hc hb hw d f, lpsnxt_end ht hp hc hb hw d f⟩, steal_spec ht hp d g f⟩
  · intro d v k hbad hk
    exact nestIndex_field d (nestPerm_injective hbad) v hk

end Sys2Proof.Machine
end

section
/-! PROOFS. Choosing the least of a list, and what changes of queues, teams and starting tasks leave. -/

namespace Sys2Proof.Machine

/-! ### The least by a key -/

section
variable {α : Type} {key : α → Nat} {l : List α} {x : α}

theorem leastBy_eq_none_iff : leastBy key l = none ↔ l = [] := by
  cases l with
  | nil => simp [leastBy]
  | cons y r =>
    simp only [leastBy]
    split
    · simp
    · split <;> simp

theorem leastBy_mem (h : leastBy key l = some x) : x ∈ l := by
  induction l generalizing x with
  | nil => cases h
  | cons y r ih =>
    simp only [leastBy] at h
    split at h
    · cases h
      simp
    next z hz =>
      split at h
      · cases h
        exact List.mem_cons_of_mem _ (ih hz)
      · cases h
        simp

theorem leastBy_le (h : leastBy key l = some x) : ∀ y ∈ l, key x ≤ key y := by
  induction l generalizing x with
  | nil => cases h
  | cons y r ih =>
    simp only [leastBy] at h
    split at h
    next hr =>
      cases h
      simp [leastBy_eq_none_iff.mp hr]
    next z hz =>
      have hle := ih hz
      split at h
      next hlt =>
        cases h
        simpa using ⟨hlt.le, hle⟩
      next hge =>
        cases h
        simpa using fun w hw => (Nat.not_lt.mp hge).trans (hle w hw)

/-- A list with an element has a least one. -/
theorem exists_leastBy (h : x ∈ l) : ∃ y, leastBy key l = some y :=
  Option.ne_none_iff_exists'.mp fun hn => by simp [leastBy_eq_none_iff.mp hn] at h

end

/-! ### Queue entries -/

section
variable (s : State)

theorem State.keepsContexts_dropEntries (d : Nat) (f : QEntry → Bool) : s.keepsContexts (s.dropEntries d f) := s.keepsContexts_updDie ..

theorem State.keepsContexts_enqueue (d : Nat) (e : QEntry) : s.keepsContexts (s.enqueue d e) := s.keepsContexts_updDie ..

theorem State.keepsContexts_moveImage (from_ dst : Nat) (e : QEntry) : s.keepsContexts (s.moveImage from_ dst e).2 := by
  unfold State.moveImage
  split
  · exact ⟨_, _, _, _, rfl⟩
  · exact .refl s

/-- A changed entry stands in the pool of its die. -/
theorem State.mem_updEntry {d : Nat} (hd : d < 4) {e : QEntry} (he : e ∈ (s.die d).entries) (f : QEntry → QEntry) :
    f e ∈ ((s.updEntry e.task.tid e.task.rebuilt f).die d).entries := by
  have hentries : ((s.updEntry e.task.tid e.task.rebuilt f).die d).entries = (s.die d).entries.map (fun x =>
      if x.task.tid = e.task.tid ∧ x.task.rebuilt = e.task.rebuilt then f x else x) := by
    rw [State.updEntry, show List.range 4 = [0, 1, 2, 3] from rfl]
    interval_cases d <;> simp [State.updDie_die_ne]
  rw [hentries]
  exact List.mem_map.mpr ⟨e, he, if_pos ⟨rfl, rfl⟩⟩

/-- An entry of a core's local queue stands in the pool of a die of the package. -/
theorem State.mem_localQueue {core : Nat} {e : QEntry} (h : e ∈ s.localQueue core) : ∃ d < 4, e ∈ (s.die d).entries := by
  simp only [State.localQueue, List.mem_filter, List.mem_flatMap, List.mem_range] at h
  exact h.1

theorem State.mem_localQueue_of_loc {core d t : Nat} {e : QEntry} (hd : d < 4) (he : e ∈ (s.die d).entries) (hs : e.stat = .loc core t) :
    e ∈ s.localQueue core := by
  simp only [State.localQueue, List.mem_filter, List.mem_flatMap, List.mem_range, hs, beq_self_eq_true, and_true]
  exact ⟨d, hd, he⟩

theorem State.mem_localQueue_of_stealFrom {victim : Nat} {e : QEntry} (h : s.stealFrom victim = some e) : e ∈ s.localQueue victim := by
  obtain ⟨hleast, _⟩ := Option.filter_eq_some_iff.mp h
  exact List.mem_of_mem_filter (List.mem_of_mem_filter (leastBy_mem hleast))

/-! ### Teams -/

theorem State.mem_teams_of_team? {k : Nat} {tm : Team} (h : s.team? k = some tm) : tm ∈ s.teams := List.mem_of_find?_eq_some h

theorem State.mem_updTeam {tm : Team} (h : tm ∈ s.teams) (f : Team → Team) : f tm ∈ (s.updTeam tm.key f).teams :=
  List.mem_map.mpr ⟨tm, h, if_pos rfl⟩

theorem State.keepsContexts.mem_updTeam {s t : State} (hk : s.keepsContexts t) {tm : Team} (h : tm ∈ s.teams) (f : Team → Team) :
    f tm ∈ (t.updTeam tm.key f).teams :=
  t.mem_updTeam (hk.teams ▸ h) f

theorem State.keepsContexts_bindName (key name : Nat) (members : List Nat) : s.keepsContexts (s.bindName key name members) := by
  unfold State.bindName
  dsimp only
  split
  · exact s.keepsContexts_updDie ..
  · exact .refl s

/-- Starting a task outside a team adds a team, and touches no context and no memory. -/
theorem State.ownTeam_spec (d queue : Nat) (t : Task) : let u := s.ownTeam d queue t
    u.ctxs = s.ctxs ∧ u.mem = s.mem ∧ ∀ x ∈ s.teams, x ∈ u.teams := by
  unfold State.ownTeam
  split
  · exact ⟨rfl, rfl, fun _ h => h⟩
  · have hk (x : Team) := State.keepsContexts_bindName { s with teams := s.teams ++ [x] } t.key 0 [t.desc.rank]
    exact ⟨(hk _).ctxs, (hk _).mem, fun x hx => (hk _).teams ▸ List.mem_append_left _ hx⟩

/-! ### Images put on a context -/

theorem State.keepsContexts_touchAll (k : Nat) : ∀ (s : State) (pa : Nat), s.keepsContexts (s.touchAll pa k) := by
  induction k with
  | zero => exact fun s _ => .refl s
  | succ k ih =>
    intro s pa
    have htouch : s.keepsContexts (s.touch pa) := by
      unfold State.touch
      split
      · exact s.keepsContexts_updDie ..
      · exact .refl s
    exact htouch.trans (ih _ _)

theorem State.keepsContexts_touchRange (pa n : Nat) : s.keepsContexts (s.touchRange pa n) := by
  unfold State.touchRange
  split
  · exact .refl s
  · exact State.keepsContexts_touchAll ..

theorem State.fill_teams (pa n : Nat) (b : Memory) : (s.fill pa n b).teams = s.teams := by
  have hk := State.keepsContexts_touchRange { s with mem := Memory.splice s.mem pa (pa + n) b } pa n
  unfold State.fill
  dsimp only
  split
  · exact hk.teams
  · exact (hk.trans (State.keepsContexts_updDie ..)).teams

theorem State.putImage_teams (n : Nat) (img : FreezeImage) (t : Task) : (s.putImage n img t).teams = s.teams := by
  unfold State.putImage
  refine (State.keepsContexts.foldl _ _ (fun x _ _ => x.keepsContexts_updCore ..) _).teams.trans ?_
  exact List.foldlRecOn (motive := fun x : State => x.teams = s.teams) _ _ (State.fill_teams ..) fun x hx y _ => (x.fill_teams ..).trans hx

/-! ### Starting a task -/

/-- The task that starts from an entry on context `n`: with the data section of its die and the mark of an approximate input. -/
def State.startedTask (s : State) (n : Nat) (e : QEntry) : Task :=
  { e.task with
    dataSec := s.dataSection (dieOf (coreOf n)) e.task.desc.image
    apxIn := e.task.apxIn || e.task.desc.ins.any (fun x => (s.verState x).any (fun v => v.2.1)) }

/-- The context in which an entry's task starts from its launch state (R147). -/
def State.launchCtx (s : State) (n : Nat) (e : QEntry) : Ctx :=
  ((s.ctx n).fresh .task (some (s.startedTask n e)) e.task.desc.entry e.task.desc.args).setBar 0 { BarView.reset with member := true }

/-- The state in which a task's context is set up: from its freeze image, or from its launch state (R147, R421). -/
def State.placedTask (s : State) (n : Nat) (e : QEntry) : State :=
  let t := s.startedTask n e
  match e.image with
  | some k =>
    let h := s.entryDie t
    (match Sparse.find? (s.die h).frozen k with
     | some img => (s.updDie h (fun x => { x with frozen := Sparse.erase x.frozen k })).putImage n img t
     | none => s)
  | none => (s.setCtx n (s.launchCtx n e)).ownTeam (dieOf (coreOf n)) e.queue t

/-- The rest of a start: the entry runs, and a level-2 image is locked in the bundle cache. -/
theorem State.placedTask_keepsContexts_startTask (n : Nat) (e : QEntry) : (s.placedTask n e).keepsContexts (s.startTask n e) := by
  have hentry := (s.placedTask n e).keepsContexts_updEntry (s.startedTask n e).tid (s.startedTask n e).rebuilt
    (fun x => { x with stat := .running n, image := none, task := s.startedTask n e })
  unfold State.startTask
  dsimp only
  split
  · exact hentry.trans (State.keepsContexts_updCore ..)
  · exact hentry

/-- Starting a task removes no team and changes none. -/
theorem State.mem_teams_startTask (n : Nat) (e : QEntry) : ∀ x ∈ s.teams, x ∈ (s.startTask n e).teams := by
  rw [(s.placedTask_keepsContexts_startTask n e).teams]
  unfold State.placedTask
  dsimp only
  split
  · split
    · rw [State.putImage_teams]
      exact fun _ h => h
    · exact fun _ h => h
  · obtain ⟨_, _, hteams⟩ := State.ownTeam_spec (s.setCtx n _) (dieOf (coreOf n)) e.queue (s.startedTask n e)
    exact hteams

/-- Placing a team keeps it, placed, with nothing reserved (R157). -/
theorem State.placeTeam_spec {tm : Team} (h : tm ∈ s.teams) (ctxs : List Nat) :
    ∃ u ∈ (s.placeTeam tm ctxs).teams, u.key = tm.key ∧ u.placed = true ∧ u.state = 0 ∧ u.reserved = [] := by
  unfold State.placeTeam
  extract_lets ms order u ms' w x
  have hu : s.keepsContexts u := .foldl _ _ (fun x _ _ => x.keepsContexts_updEntry ..) s
  have hw : { tm with placed := true, reserved := [], choice := none, state := 0, bindDie := dieOf (coreOf (order.headD 0)) } ∈ w.teams :=
    hu.mem_updTeam h _
  have hx : w.keepsContexts x := by
    unfold x
    split
    · exact w.keepsContexts_bindName ..
    · refine .foldl _ _ (fun y b _ => ?_) w
      split
      · exact y.keepsContexts_updDie ..
      · exact .refl y
  rw [← hx.teams] at hw
  exact ⟨_, List.foldlRecOn (motive := fun y : State => _ ∈ y.teams) _ _ hw fun y hy p _ => y.mem_teams_startTask p.2 p.1 _ hy,
    rfl, rfl, rfl, rfl⟩

end

end Sys2Proof.Machine
end

section
/-! PROOFS. Dispatch, teams, starts, pre-emption and stealing (R147, R151 to R153, R157 to R160). -/

namespace Sys2Proof.Machine

/-! ### Arrivals -/

section
variable {s : State}

/-- An arrival at another point leaves a point fresh. -/
theorem State.fresh_come {p q : Spot} (h : s.fresh p = true) (hne : q ≠ p) (k : Nat) : (s.come q k).fresh p = true := by
  simp only [State.fresh, List.all_eq_true] at h ⊢
  intro x hx
  rcases List.mem_cons.mp hx with rfl | hx
  · simp [hne]
  · exact h x (List.mem_of_mem_filter hx)

theorem State.mayCome_of_fresh {p : Spot} (h : s.fresh p = true) (k : Nat) : s.mayCome p k = true := by
  simp only [State.fresh, State.mayCome, List.all_eq_true, Bool.or_eq_true] at h ⊢
  exact fun x hx => .inl (h x hx)

/-! ### Tasks -/

/-- A ready entry that the dispatcher of die `d` can place in this cycle (R151). -/
def State.placeable (s : State) (d : Nat) (e : QEntry) : Prop :=
  e ∈ (s.die d).entries ∧ s.takeable d e = true ∧ (s.placeFor d e).isSome = true

theorem State.mem_filter_placeable (d : Nat) (e : QEntry) :
    e ∈ (s.die d).entries.filter (fun e => s.takeable d e && (s.placeFor d e).isSome) ↔ s.placeable d e := by
  simp [State.placeable]

/-- TASK_DISPATCH (R151). -/
theorem taskDispatch_spec (hd : s.evt.n < 4) (hon : s.online s.evt.n = true) (hf : s.fresh (.take s.evt.n) = true)
    (hany : ∃ e, s.placeable s.evt.n e)
    (hahead : ∀ e, s.placeable s.evt.n e → (∀ y, s.placeable s.evt.n y → s.entryKey e ≤ s.entryKey y) →
      s.ahead s.evt.n (s.entryKey e) = false) :
    s.nextWith .taskDispatch (fun t => ∃ e k, s.placeable s.evt.n e ∧ s.placeFor s.evt.n e = some k ∧
      (∀ y, s.placeable s.evt.n y → s.entryKey e ≤ s.entryKey y) ∧
      { e with stat := .loc k s.clock } ∈ (t.die s.evt.n).entries ∧ t.mem = s.mem) := by
  obtain ⟨y, hy⟩ := hany
  obtain ⟨e, he⟩ := exists_leastBy (key := s.entryKey) ((s.mem_filter_placeable s.evt.n y).mpr hy)
  have hfits := (s.mem_filter_placeable s.evt.n e).mp (leastBy_mem he)
  have hleast : ∀ y, s.placeable s.evt.n y → s.entryKey e ≤ s.entryKey y := fun y hy =>
    leastBy_le he y ((s.mem_filter_placeable s.evt.n y).mpr hy)
  have ⟨hmem, _, hplace⟩ := hfits
  obtain ⟨k, hk⟩ := Option.isSome_iff_exists.mp hplace
  refine ⟨(s.toCore s.evt.n k e).come (.take s.evt.n) 0, ?_, e, k, hfits, hk, hleast, ?_, rfl⟩
  · simp [exec, execTaskDispatch, Nat.not_le.mpr hd, hon, hf, he, hahead e hfits hleast, hk]
  · rw [State.come_die, State.toCore, State.updDie_die_same]
    exact List.mem_map.mpr ⟨e, hmem, if_pos rfl⟩

/-- LOCAL_TASK_START from the launch state (R147, R152). -/
theorem localTaskStart_spec {e : QEntry} {m : Nat} {rest : List Nat} (he : s.localFirst s.evt.n = some e)
    (hm : s.freeCtxs s.evt.n = m :: rest) (hi : e.image = none) : s.nextWith .localTaskStart (fun t =>
      (t.ctx m).mode = .task ∧ (∃ k, (t.ctx m).task = some k ∧ k.tid = e.task.tid ∧ k.desc = e.task.desc) ∧
      (t.ctx m).sched.pc = e.task.desc.entry ∧ (t.ctx m).sched.time = 0 ∧ (t.ctx m).regs = { Regs.reset with g := number 0 e.task.desc.args } ∧
      (t.ctx m).planes = Planes.reset ∧ t.mem = s.mem) := by
  have hk := s.placedTask_keepsContexts_startTask m e
  have hplaced : s.placedTask m e = (s.setCtx m (s.launchCtx m e)).ownTeam (dieOf (coreOf m)) e.queue (s.startedTask m e) := by
    simp only [State.placedTask, hi]
  obtain ⟨hctxs, hmem, _⟩ := State.ownTeam_spec (s.setCtx m (s.launchCtx m e)) (dieOf (coreOf m)) e.queue (s.startedTask m e)
  rw [← hplaced] at hctxs hmem
  have hctx : (s.startTask m e).ctx m = s.launchCtx m e := by
    rw [hk.ctx, State.ctx, hctxs]
    exact s.setCtx_ctx_same ..
  refine ⟨s.startTask m e, by simp [exec, execLocalTaskStart, he, hm], ?_⟩
  dsimp only
  rw [hctx, hk.mem, hmem]
  exact ⟨rfl, ⟨_, rfl, rfl, rfl⟩, rfl, rfl, rfl, rfl, rfl⟩

/-- CORE_PREEMPTION (R153). -/
theorem corePreemption_spec {e : QEntry} {m since : Nat} (he : s.localFirst s.evt.n = some e)
    (hhead : (s.core s.evt.n).head = some (e.task.tid, since)) (hsince : since + 2 ^ 16 ≤ (s.core s.evt.n).cycle)
    (hroom : (s.die (s.evt.n / 256)).frozen.length < 1024) (hv : s.victimCtx s.evt.n (s.prio e.task) = some m)
    (hp : (s.ctx m).sync.preempt = false) : s.nextWith .corePreemption (fun t =>
      (t.ctx m).sync.preempt = true ∧ (t.ctx m).regs = (s.ctx m).regs ∧ t.mem = s.mem) := by
  have hcan : ¬(e.task.tid ≠ e.task.tid ∨ (s.core s.evt.n).cycle < since + 2 ^ 16 ∨
      1024 ≤ (s.die (dieOf s.evt.n)).frozen.length) := by
    simp only [dieOf]
    omega
  refine ⟨s.updCtx m (fun x => { x with sync := { x.sync with preempt := true } }), ?_, by simp, by simp, rfl⟩
  change execCorePreemption s = _
  unfold execCorePreemption
  simp only [hhead, he, if_neg hcan, hv, hp, Bool.false_eq_true, if_false]

/-! ### Teams -/

/-- TEAM_DISPATCH of a team that fits (R157). -/
theorem teamDispatch_placed {tm : Team} (htm : s.team? s.evt.m = some tm) (hd : tm.die = s.evt.n) (hon : s.online s.evt.n = true)
    (hready : s.teamReady tm = true) (hfit : (s.reserve tm).length = (s.members tm).length) (hf : s.fresh (.take s.evt.n) = true)
    (hahead : s.ahead s.evt.n (s.teamKey tm) = false) : s.nextWith .teamDispatch (fun t =>
      ∃ u ∈ t.teams, u.key = tm.key ∧ u.placed = true ∧ u.state = 0 ∧ u.reserved = []) := by
  refine ⟨(s.placeTeam tm (s.reserve tm)).come (.take tm.die) 0, ?_, s.placeTeam_spec (s.mem_teams_of_team? htm) _⟩
  simp [exec, execTeamDispatch, htm, hd, hon, hready, State.teamFits, hfit, hf, hahead]

/-- TEAM_DISPATCH of a team that does not fit yet and is the next choice (R157). -/
theorem teamDispatch_reserves {tm : Team} (htm : s.team? s.evt.m = some tm) (hd : tm.die = s.evt.n) (hon : s.online s.evt.n = true)
    (hready : s.teamReady tm = true) (hfit : (s.reserve tm).length ≠ (s.members tm).length) (hfirst : s.teamFirst tm = true)
    (hnew : s.reserve tm ≠ tm.reserved) : s.nextWith .teamDispatch (fun t =>
      ∃ u ∈ t.teams, u.key = tm.key ∧ u.placed = tm.placed ∧ u.reserved = s.reserve tm) := by
  refine ⟨s.updTeam tm.key (fun x => { x with reserved := s.reserve tm }), ?_, _, s.mem_updTeam (s.mem_teams_of_team? htm) _, rfl, rfl, rfl⟩
  simp [exec, execTeamDispatch, htm, hd, hon, hready, State.teamFits, hfit, hfirst, hnew]

/-- TEAM_MIGRATE (R157; log entry 96). -/
theorem teamMigrate_spec {tm : Team} {since : Nat} (htm : s.team? s.evt.m = some tm) (hd : tm.die = s.evt.n) (hc : tm.choice = some since)
    (hsince : since + 2 ^ 20 ≤ s.clock) (hp : tm.placed = false)
    (hm : tm.masked = true → ∀ e ∈ s.members tm, (s.core (e.task.pin.getD 0)).offline = true)
    (hto : ∃ e, e < 4 ∧ e ≠ s.evt.n ∧ s.online e = true ∧ tm.tsize - tm.ended.length ≤ (s.die e).slots) :
    s.nextWith .teamMigrate (fun t => ∃ u ∈ t.teams, u.key = tm.key ∧ u.die < 4 ∧ u.die ≠ s.evt.n ∧ s.online u.die = true ∧ u.reserved = [] ∧
      u.choice = none ∧ tm.tsize - tm.ended.length ≤ (s.die u.die).slots) := by
  obtain ⟨e, he, hne, hon, hslots⟩ := hto
  obtain ⟨k, hk⟩ := exists_leastBy (key := fun d => (4096 - (s.die d).slots) * 4 + d) (x := e)
    (l := (List.range 4).filter (fun d => d != tm.die && s.online d && decide (tm.tsize - tm.ended.length ≤ (s.die d).slots)))
    (List.mem_filter.mpr ⟨List.mem_range.mpr he, by rw [decide_eq_true hslots]; simp [hne, hd, hon]⟩)
  have hkdies := leastBy_mem hk
  simp only [List.mem_filter, List.mem_range, Bool.and_eq_true, bne_iff_ne, ne_eq, decide_eq_true_eq, hd] at hkdies
  obtain ⟨hk4, ⟨hkne, hkon⟩, hkslots⟩ := hkdies
  have hgo : (tm.die != s.evt.n || tm.placed || decide (s.clock < since + 2 ^ 20) ||
      (tm.masked && !(s.members tm).all (fun e => (s.core (e.task.pin.getD 0)).offline))) = false := by
    have hm' : (tm.masked && !(s.members tm).all (fun e => (s.core (e.task.pin.getD 0)).offline)) = false := by
      cases hmask : tm.masked with
      | false => rfl
      | true => simpa using hm hmask
    simp only [hd, hp, hm', decide_eq_false (Nat.not_lt.mpr hsince), bne_self_eq_false, Bool.or_self]
  change ∃ t, execTeamMigrate s = .next t ∧ _
  unfold execTeamMigrate
  simp only [htm, hc, hk, hgo, Bool.false_eq_true, if_false]
  have moved {t : State} (hk : s.keepsContexts t) := hk.mem_updTeam (s.mem_teams_of_team? htm) (fun x =>
    { x with die := k, reserved := [], choice := none, masked := false })
  refine ⟨_, rfl, _, moved ((s.keepsContexts_dropEntries ..).trans (.foldl _ _ (fun x e _ => ?_) _)), rfl, hk4, hkne, hkon, rfl, rfl, hkslots⟩
  exact (x.keepsContexts_moveImage ..).trans (State.keepsContexts_enqueue ..)

/-- FREE_TEAM_SLOTS_ADVERTISE (R157). -/
theorem freeTeamSlotsAdvertise_spec (hd : s.evt.n < 4) (hon : s.online s.evt.n = true)
    (hdue : (s.die s.evt.n).advert = 0 ∨ (s.die s.evt.n).advert + 2 ^ 16 ≤ s.clock) : s.nextWith .freeTeamSlotsAdvertise (fun t =>
      (t.die s.evt.n).slots = (s.freeOf s.evt.n).length ∧ (t.die s.evt.n).entries = (s.die s.evt.n).entries ∧ t.mem = s.mem) := by
  have hnot : (decide ((s.die s.evt.n).advert ≠ 0) && decide (s.clock < (s.die s.evt.n).advert + 2 ^ 16)) = false := by
    rcases hdue with h | h
    · simp [h]
    · rw [decide_eq_false (Nat.not_lt.mpr h), Bool.and_false]
  refine ⟨s.updDie s.evt.n (fun x => { x with slots := (s.freeOf s.evt.n).length, advert := max 1 s.clock }), ?_, by simp, by simp, rfl⟩
  change execFreeTeamSlotsAdvertise s = _
  unfold execFreeTeamSlotsAdvertise
  simp only [hnot, Nat.not_le.mpr hd, hon, decide_false, Bool.not_true, Bool.or_self, Bool.false_eq_true, if_false]

/-! ### Stealing -/

/-- An attempt on a fresh victim that has an entry to give takes it into the thief's queue (R159, R160). -/
theorem State.steal_some {thief v : Nat} {e : QEntry} (hf : s.fresh (.victim v) = true) (hroom : (s.localQueue thief).length < 16)
    (he : s.stealFrom v = some e) :
    (s.steal thief v).1 = some e.task.tid ∧ ∃ y ∈ (s.steal thief v).2.localQueue thief, y.task.tid = e.task.tid := by
  have hsteal : s.steal thief v = (some e.task.tid, (s.come (.victim v) thief).updEntry e.task.tid e.task.rebuilt (fun x =>
      { x with stat := .loc thief s.clock })) := by
    simp [State.steal, hf, hroom, he]
  obtain ⟨d, hd, hmem⟩ := s.mem_localQueue (s.mem_localQueue_of_stealFrom he)
  have hentry := (s.come (.victim v) thief).mem_updEntry hd hmem (fun x => { x with stat := .loc thief s.clock })
  rw [hsteal]
  exact ⟨rfl, _, State.mem_localQueue_of_loc _ hd hentry rfl, rfl⟩

theorem State.steal_none {thief v : Nat} (he : s.stealFrom v = none) : s.steal thief v = (none, s.come (.victim v) thief) := by
  simp [State.steal, he]

/-- The attempt of an AUTO_STEAL: on the next victim of the core's rotation (R158). -/
def State.autoAttempt (s : State) : Option Nat × State :=
  (s.come (.attempt s.evt.n) 0).steal s.evt.n (nextVictim s.evt.n (s.core s.evt.n).rot)

section
variable (hoff : (s.core s.evt.n).offline = false) (hwait : (s.core s.evt.n).stealWait = 0) (hq : s.localQueue s.evt.n = [])
  (hfree : (s.freeCtxs s.evt.n).length = 4) (hf : s.fresh (.attempt s.evt.n) = true)
  (hv : s.fresh (.victim (nextVictim s.evt.n (s.core s.evt.n).rot)) = true)
include hoff hwait hq hfree hf hv

/-- AUTO_STEAL of an idle core is one attempt, by whose success its rotation goes on (R158). -/
theorem autoSteal_eq :
    let tried := if s.autoAttempt.1.isSome then 0 else (s.core s.evt.n).tried + 1
    exec .autoSteal s = .next (s.autoAttempt.2.updCore s.evt.n (fun k => { k with
      rot := (k.rot + 1) % 255, tried := if tried = 255 then 0 else tried, stealWait := if tried = 255 then 256 else 0 })) := by
  have hgo : ((s.core s.evt.n).offline || decide (0 < (s.core s.evt.n).stealWait) || !(s.localQueue s.evt.n).isEmpty ||
      decide ((s.freeCtxs s.evt.n).length < 4) || !s.fresh (.attempt s.evt.n) ||
      !s.mayCome (.victim (nextVictim s.evt.n (s.core s.evt.n).rot)) s.evt.n) = false := by
    simp [hoff, hwait, hq, hfree, hf, State.mayCome_of_fresh hv]
  change execAutoSteal s = _
  unfold execAutoSteal
  simp only [hgo, Bool.false_eq_true, if_false]
  rfl

/-- An AUTO_STEAL that finds an entry takes it into the thief's queue (R159). -/
theorem autoSteal_some {e : QEntry} (he : s.stealFrom (nextVictim s.evt.n (s.core s.evt.n).rot) = some e) :
    s.nextWith .autoSteal (fun t => t.mem = s.mem ∧ (t.core s.evt.n).stealWait = 0 ∧ (t.core s.evt.n).tried = 0 ∧
      ∃ y ∈ t.localQueue s.evt.n, y.task.tid = e.task.tid) := by
  refine ⟨_, autoSteal_eq hoff hwait hq hfree hf hv, ?_⟩
  have hk : (s.come (.attempt s.evt.n) 0).keepsContexts s.autoAttempt.2 := State.keepsContexts_steal ..
  have hroom : ((s.come (.attempt s.evt.n) 0).localQueue s.evt.n).length < 16 :=
    lt_of_eq_of_lt (congrArg List.length hq) (by decide)
  obtain ⟨hgot, hqueue⟩ : s.autoAttempt.1 = some e.task.tid ∧ ∃ y ∈ s.autoAttempt.2.localQueue s.evt.n, y.task.tid = e.task.tid :=
    State.steal_some (State.fresh_come hv (by simp) 0) hroom he
  simp only [hgot, State.updCore_core_same]
  exact ⟨hk.mem, rfl, rfl, hqueue⟩

/-- An AUTO_STEAL that finds none goes on to the next victim, and after a round of 255 waits 256 cycles (R158). -/
theorem autoSteal_none (he : s.stealFrom (nextVictim s.evt.n (s.core s.evt.n).rot) = none) :
    s.nextWith .autoSteal (fun t => t.mem = s.mem ∧ (t.core s.evt.n).rot = ((s.core s.evt.n).rot + 1) % 255 ∧
      ((s.core s.evt.n).tried ≠ 254 → (t.core s.evt.n).tried = (s.core s.evt.n).tried + 1 ∧ (t.core s.evt.n).stealWait = 0) ∧
      ((s.core s.evt.n).tried = 254 → (t.core s.evt.n).tried = 0 ∧ (t.core s.evt.n).stealWait = 256)) := by
  refine ⟨_, autoSteal_eq hoff hwait hq hfree hf hv, ?_⟩
  have hgot : s.autoAttempt = (none, _) := State.steal_none he
  simp only [hgot]
  exact ⟨rfl, by simp, fun h => by simp [h], fun h => by simp [h]⟩

end

end

/-- Settles O43: one lemma above for each step. -/
theorem dispatchAndSchedulingSteps : Obligations.DispatchAndSchedulingSteps := by
  unfold Obligations.DispatchAndSchedulingSteps
  intro s d x c core fits
  exact ⟨taskDispatch_spec, fun tm htm htd hon =>
      ⟨fun hready => ⟨teamDispatch_placed htm htd hon hready, teamDispatch_reserves htm htd hon hready⟩,
        fun since => teamMigrate_spec htm htd⟩,
    freeTeamSlotsAdvertise_spec, fun e m rest => localTaskStart_spec, fun e m since => corePreemption_spec,
    fun hoff hwait hq hfree hf hv => ⟨fun e => autoSteal_some hoff hwait hq hfree hf hv, autoSteal_none hoff hwait hq hfree hf hv⟩⟩

end Sys2Proof.Machine
end

section
/-! PROOFS. Memory stays canonical (R179): what is claimed of an answer, and the rules for branches, folds and record updates. -/

namespace Sys2Proof.Machine

/-! Each function `f` of the model that a step calls has one rule here, `State.memOk.f`: from a state whose memory is canonical it makes another (`h.f`). A
rule's proof follows the text of `f`: the rules of the functions that `f` calls stand in the order of its calls (`h.updCtx.drain`), and `.ite`, `.foldl` and
`split` stand at its branches and folds. Memory itself changes in `writeByte` (`Memory.put_wf`) and in `fill` and `loseDie` (`Memory.splice_wf`) only. -/

/-! ### What is claimed of an answer -/

/-- The next state that an outcome answers, where it answers one, has memory in canonical form. -/
def nextMemOk (o : Host.Outcome State Fault Refusal) : Prop :=
  match o with
  | .next t => t.memOk
  | _ => True

/-- The state that an option holds, where it holds one, has memory in canonical form. -/
inductive optMemOk : Option State → Prop
  | none : optMemOk Option.none
  | some {t : State} (h : t.memOk) : optMemOk (Option.some t)

/-! ### Branches -/

theorem State.memOk.ite {c : Prop} [Decidable c] {s t : State} (h : s.memOk) (ht : t.memOk) : (if c then s else t).memOk := by
  split <;> assumption

theorem optMemOk.ite {c : Prop} [Decidable c] {o p : Option State} (h : optMemOk o) (hp : optMemOk p) :
    optMemOk (if c then o else p) := by
  split <;> assumption

theorem nextMemOk.ite {c : Prop} [Decidable c] {o p : Host.Outcome State Fault Refusal} (h : nextMemOk o) (hp : nextMemOk p) :
    nextMemOk (if c then o else p) := by
  split <;> assumption

theorem optMemOk.getD {o : Option State} {t : State} (h : optMemOk o) (ht : t.memOk) : (o.getD t).memOk := by
  cases h with
  | none => exact ht
  | some h => exact h

/-! ### Folds, where the state stands alone or in a pair -/

section
variable {α β : Type}

theorem State.memOk.foldl {f : State → α → State} {l : List α} {s : State} (h : s.memOk)
    (hf : ∀ {t : State} {x : α}, t.memOk → (f t x).memOk) : (l.foldl f s).memOk := by
  induction l generalizing s with
  | nil => exact h
  | cons x l ih => exact ih (hf h)

theorem foldlFst {f : State × β → α → State × β} {l : List α} {p : State × β} (h : p.1.memOk)
    (hf : ∀ {q : State × β} {x : α}, q.1.memOk → (f q x).1.memOk) : (l.foldl f p).1.memOk := by
  induction l generalizing p with
  | nil => exact h
  | cons x l ih => exact ih (hf h)

theorem foldlSnd {f : β × State → α → β × State} {l : List α} {p : β × State} (h : p.2.memOk)
    (hf : ∀ {q : β × State} {x : α}, q.2.memOk → (f q x).2.memOk) : (l.foldl f p).2.memOk := by
  induction l generalizing p with
  | nil => exact h
  | cons x l ih => exact ih (hf h)

theorem optMemOk.foldl_bind {f : State → α → Option State} {l : List α} {o : Option State} (h : optMemOk o)
    (hf : ∀ {t : State} {x : α}, t.memOk → optMemOk (f t x)) : optMemOk (l.foldl (fun q x => q.bind (fun s => f s x)) o) := by
  induction l generalizing o with
  | nil => exact h
  | cons x l ih =>
    refine ih ?_
    cases h with
    | none => exact .none
    | some ht => exact hf ht

/-! ### The state that a match takes out of a pair, an option or an outcome -/

variable {t : State} {a : α} {b : β}

theorem State.memOk.of_fst {p : State × α} (h : p.1.memOk) (e : p = (t, a)) : t.memOk := by subst e; exact h

theorem State.memOk.of_snd {p : α × State} (h : p.2.memOk) (e : p = (a, t)) : t.memOk := by subst e; exact h

theorem State.memOk.of_snd_snd {p : α × β × State} (h : p.2.2.memOk) (e : p = (a, b, t)) : t.memOk := by subst e; exact h

theorem nextMemOk.of_next {o : Host.Outcome State Fault Refusal} (h : nextMemOk o) (e : o = .next t) : t.memOk := by subst e; exact h

theorem optMemOk.of_some {o : Option State} (h : optMemOk o) (e : o = .some t) : t.memOk := by
  subst e
  cases h
  assumption

end

/-! ### States with the same memory -/

/-- The rule for every record update that leaves `mem` out. -/
theorem State.memOk.rest {s : State} (h : s.memOk) {ds cs xs qs ts js fb ho sa pk cl wo ep st po de ou cu ag ev fr} :
    State.memOk ⟨ds, cs, xs, qs, s.mem, ts, js, fb, ho, sa, pk, cl, wo, ep, st, po, de, ou, cu, ag, ev, fr⟩ := h

theorem State.keepsContexts.memOk {s t : State} (k : s.keepsContexts t) (h : s.memOk) : t.memOk := by
  unfold State.memOk
  rw [k.mem]
  exact h

theorem memOk_reset : State.reset.memOk := Memory.wf_nil

end Sys2Proof.Machine
end

section
/-! PROOFS. Memory stays canonical (R179): bytes written, the state's own setters, traps, verdicts, packets and requests. -/

namespace Sys2Proof.Machine
variable {s : State}

/-! ### Bytes, lines and the state's own setters -/

theorem State.memOk.setCtx (h : s.memOk) {n c} : (s.setCtx n c).memOk := h.rest
theorem State.memOk.updCtx (h : s.memOk) {n f} : (s.updCtx n f).memOk := h.setCtx
theorem State.memOk.updCore (h : s.memOk) {n f} : (s.updCore n f).memOk := h.rest
theorem State.memOk.updDie (h : s.memOk) {d f} : (s.updDie d f).memOk := h.rest
theorem State.memOk.setMe (h : s.memOk) {c} : (s.setMe c).memOk := h.setCtx
theorem State.memOk.updMe (h : s.memOk) {f} : (s.updMe f).memOk := h.setMe
theorem State.memOk.come (h : s.memOk) {p k} : (s.come p k).memOk := h.rest

theorem State.memOk.touch (h : s.memOk) {pa} : (s.touch pa).memOk := by
  unfold State.touch
  split
  exacts [h.updDie, h]

theorem State.memOk.touchAll (h : s.memOk) {pa k} : (s.touchAll pa k).memOk := (State.keepsContexts_touchAll k s pa).memOk h
theorem State.memOk.touchRange (h : s.memOk) {pa n} : (s.touchRange pa n).memOk := (s.keepsContexts_touchRange pa n).memOk h

theorem State.memOk.writeByte (h : s.memOk) {pa b} : (s.writeByte pa b).memOk := by
  unfold State.writeByte
  split
  · exact Memory.put_wf _ _ _ h
  · exact Memory.put_wf _ _ _ h
  · exact Memory.put_wf _ _ _ h
  · exact h.updCtx
  · exact h.updCtx
  · exact h
  · exact h

theorem State.memOk.writeBytesRaw (h : s.memOk) {pa bs} : (s.writeBytesRaw pa bs).memOk := by
  induction bs generalizing s pa with
  | nil => exact h
  | cons b r ih => exact ih h.writeByte

theorem State.memOk.mendLines (h : s.memOk) {pa n} : (s.mendLines pa n).memOk := h.updDie

theorem State.memOk.writeMem (h : s.memOk) {pa bs} : (s.writeMem pa bs).memOk :=
  .ite h.writeBytesRaw.touchRange h.writeBytesRaw.touchRange.mendLines

theorem State.memOk.splice (h : s.memOk) {lo hi b} (hlh : lo ≤ hi) : State.memOk { s with mem := Memory.splice s.mem lo hi b } :=
  Memory.splice_wf _ _ _ _ hlh h

theorem State.memOk.fill (h : s.memOk) {pa n b} : (s.fill pa n b).memOk :=
  have hm := (h.splice (Nat.le_add_right pa n)).touchRange
  .ite hm hm.mendLines

/-! ### Results, own stores and events -/

theorem State.memOk.result (h : s.memOk) {slot lat d v} : (s.result slot lat d v).memOk := h.updMe
theorem State.memOk.resultG (h : s.memOk) {slot lat d v} : (s.resultG slot lat d v).memOk := h.result
theorem State.memOk.resultA (h : s.memOk) {slot lat d v} : (s.resultA slot lat d v).memOk := h.result
theorem State.memOk.resultF (h : s.memOk) {slot lat f v} : (s.resultF slot lat f v).memOk := h.result
theorem State.memOk.engineFlag (h : s.memOk) {n f v} : (s.engineFlag n f v).memOk := h.updCtx
theorem State.memOk.setRing (h : s.memOk) {core r x} : (s.setRing core r x).memOk := .ite h.updCore.engineFlag h.updCore

theorem State.memOk.fillRings (h : s.memOk) {core o n k} : (s.fillRings core o n k).memOk := by
  induction k with
  | zero => exact h
  | succ k ih => exact .ite (.ite ih ih.setRing) ih

theorem State.memOk.windowStore (h : s.memOk) {pa bs} : (s.windowStore pa bs).memOk := by
  induction bs generalizing s pa with
  | nil => exact h
  | cons b r ih => exact ih (.ite h h.writeByte)

theorem State.memOk.store (h : s.memOk) {pa bs} : (s.store pa bs).memOk := by
  refine .ite h.windowStore ?_
  split
  exacts [h.writeMem.fillRings, h.writeMem]

theorem State.memOk.brelAct (h : s.memOk) {core r consumer err cnt} : (s.brelAct core r consumer err cnt).memOk := by
  refine .ite ?_ ?_
  · split
    exacts [h.setRing, h]
  · split
    exacts [h.setRing, h]

theorem State.memOk.ownStore (h : s.memOk) {n o} : (s.ownStore n o).memOk := by
  unfold State.ownStore
  split
  exacts [h.brelAct, h.store]

theorem State.memOk.settle (h : s.memOk) {n t} : (s.settle n t).memOk := h.setCtx.foldl fun ht => by exact ht.ownStore

theorem State.memOk.settleWindows (h : s.memOk) {n t} : (s.settleWindows n t).memOk := by
  refine .ite h (h.setCtx.foldl fun ht => ?_)
  exact ht.ownStore

theorem State.memOk.forward (h : s.memOk) {r} : (s.forward r).memOk := .ite h.rest h.rest

theorem State.memOk.event (h : s.memOk) {type die link rx mask t0 t1 det} : (s.event type die link rx mask t0 t1 det).memOk :=
  h.rest.forward

theorem State.memOk.controlEvent (h : s.memOk) {die core ctx cause det} : (s.controlEvent die core ctx cause det).memOk :=
  h.event.rest

/-! ### Stops, frames and traps -/

theorem State.memOk.stop (h : s.memOk) {n code tcause taddr} : (s.stop n code tcause taddr).memOk := h.updCtx.controlEvent
theorem State.memOk.writeFrame (h : s.memOk) {n t rs} : (s.writeFrame n t rs).memOk := h.fill.rest

theorem State.memOk.takeTrap (h : s.memOk) {i} : (s.takeTrap i).memOk := by
  unfold State.takeTrap
  extract_lets n t bix settled c caught records
  split
  · exact .ite h.stop h.stop
  · have hs : settled.memOk := h.settle.settleWindows
    exact .ite hs.stop (.ite hs.setCtx.writeFrame.setCtx.updCore hs.setCtx.writeFrame.setCtx.stop)

theorem State.memOk.restoreFrame (h : s.memOk) {n} : (s.restoreFrame n).memOk := by
  unfold State.restoreFrame
  split
  exacts [h, .ite h.stop (.ite h.stop h.setCtx.updCore)]

theorem State.memOk.parkArrive (h : s.memOk) {n rec_ dest data flag} : (s.parkArrive n rec_ dest data flag).memOk := by
  unfold State.parkArrive
  split
  · exact h
  · extract_lets base d b0 pay t u v
    have hu : u.memOk := by
      unfold u
      clear_value pay
      split
      exacts [h.writeMem.writeMem, h.writeMem]
    have hv : v.memOk := .ite hu.writeMem hu.writeMem
    exact hv.updCtx

theorem State.memOk.parkFault (h : s.memOk) {n rec_ f} : (s.parkFault n rec_ f).memOk := by
  unfold State.parkFault
  split
  exacts [h, h.writeMem.writeMem.updCtx]

/-! ### Verdicts -/

theorem State.memOk.askLeave (h : s.memOk) {core m} : (s.askLeave core m).memOk := h.rest

theorem State.memOk.askFor (h : s.memOk) {w} : (s.askFor w).memOk := by
  unfold State.askFor
  split
  exacts [h.askLeave, h.updMe, h.updMe, h]

theorem State.memOk.freeze (h : s.memOk) {w} : (s.freeze w).memOk := h.updMe.askFor
theorem State.memOk.alsoFreeze (h : s.memOk) {w} : (s.alsoFreeze w).memOk := h.updMe.askFor

theorem State.memOk.decline (h : s.memOk) {a} : (s.decline a).memOk := by
  unfold State.decline
  extract_lets
  split
  exacts [h.updMe.askLeave, h.updMe]

theorem State.memOk.emptyBundle (h : s.memOk) : s.emptyBundle.memOk := h.updMe

theorem State.memOk.onVerdict (h : s.memOk) {v eff} (he : ∀ {t : State}, t.memOk → (eff t).memOk) : (s.onVerdict v eff).memOk := by
  unfold State.onVerdict
  split
  exacts [he h, h.takeTrap, h.freeze, h.decline, h.emptyBundle]

theorem State.memOk.act (h : s.memOk) {p v eff} (he : ∀ {t : State}, t.memOk → (eff t).memOk) : nextMemOk (act s p v eff) :=
  State.memOk.ite (h.onVerdict he) h

theorem State.memOk.always (h : s.memOk) {p eff} (he : ∀ {t : State}, t.memOk → (eff t).memOk) : nextMemOk (always s p eff) :=
  h.act he

/-! ### Packets put on their way -/

theorem State.memOk.sendNew (h : s.memOk) {d p} : (s.sendNew d p).memOk := h.updDie.rest

theorem State.memOk.inject (h : s.memOk) {d dpkg ddie cls op ord addr aux body} :
    (s.inject d dpkg ddie cls op ord addr aux body).memOk :=
  (s.keepsContexts_inject ..).memOk h

theorem State.memOk.injectTile (h : s.memOk) {d dpkg ddie r bs} : (s.injectTile d dpkg ddie r bs).memOk :=
  h.foldl fun ht => by exact ht.inject

theorem State.memOk.release (h : s.memOk) {d} : (s.release d).memOk := h.foldl fun ht => by exact .ite ht.updDie.sendNew ht

/-! ### Translation and requests to memory -/

theorem State.memOk.tlb (h : s.memOk) {core home off rd wr} : (s.tlb core home off rd wr).2.memOk :=
  (s.keepsContexts_tlb ..).memOk h

theorem State.memOk.locate (h : s.memOk) {n home off rd wr} : (s.locate n home off rd wr).2.memOk :=
  (s.keepsContexts_locate ..).memOk h

theorem State.memOk.walkFor (h : s.memOk) {core home off wr} : (s.walkFor core home off wr).memOk :=
  .ite h.updDie (.ite h h.inject.rest)

theorem State.memOk.translatePieces (h : s.memOk) {n home rd wr ps} : (s.translatePieces n home rd wr ps).2.2.memOk := by
  induction ps generalizing s with
  | nil => exact h
  | cons p rest ih =>
    unfold State.translatePieces
    split
    next t e =>
      have ht : t.memOk := by
        split at e
        · cases e; exact h
        · split at e <;> cases e
          next el => exact h.locate.of_snd el
          next el => exact h.locate.of_snd el
          next el => exact h.locate.of_snd el
          next el => exact (h.locate.of_snd el).walkFor
          next el => exact (h.locate.of_snd el).walkFor
      exact ih ht

theorem State.memOk.translateReq (h : s.memOk) {n r} : (s.translateReq n r).2.memOk := by
  unfold State.translateReq
  extract_lets
  split
  · exact h
  · split
    · exact h
    · split
      next t e =>
        have ht := h.translatePieces.of_snd_snd e
        extract_lets
        split
        · exact ht
        · split
          · exact ht
          · split
            · exact ht
            · split <;> exact ht

theorem State.memOk.updReq (h : s.memOk) {n id f} : (s.updReq n id f).memOk := h.updCtx
theorem State.memOk.updLatch (h : s.memOk) {n id f} : (s.updLatch n id f).memOk := h.updCtx

theorem State.memOk.memRequest (h : s.memOk) {slot op cls base ps data land} : (s.memRequest slot op cls base ps data land).memOk := by
  unfold State.memRequest
  extract_lets
  split
  next t e =>
    have ht := h.translateReq.of_snd e
    extract_lets
    split
    · extract_lets
      split
      exacts [ht.updCtx.updCtx, .ite ht.updCtx.updCtx ht.updCtx.updCtx]
    · split
      exacts [ht.updCtx.updCtx, .ite ht.updCtx.updCtx ht.updCtx.updCtx.updCtx]

end Sys2Proof.Machine
end

section
/-! PROOFS. Memory stays canonical (R179): scalar, vector, M, transform, load and store operations, and the ports. -/

namespace Sys2Proof.Machine
variable {s : State}

/-! ### Scalar operations -/

theorem State.memOk.aluRR (h : s.memOk) {l d a b f} : (s.aluRR l d a b f).memOk := h.resultG
theorem State.memOk.aluRI (h : s.memOk) {l d a imm f} : (s.aluRI l d a imm f).memOk := h.resultG
theorem State.memOk.execAdd (h : s.memOk) {p d a b} : nextMemOk (execAdd p d a b s) := h.always fun ht => by exact ht.aluRR

theorem State.memOk.execAddImm (h : s.memOk) {p d a imm} : nextMemOk (execAddImm p d a imm s) :=
  h.always fun ht => by exact ht.aluRI

theorem State.memOk.execSub (h : s.memOk) {p d a b} : nextMemOk (execSub p d a b s) := h.always fun ht => by exact ht.aluRR

theorem State.memOk.execSubImm (h : s.memOk) {p d a imm} : nextMemOk (execSubImm p d a imm s) :=
  h.always fun ht => by exact ht.aluRI

theorem State.memOk.execMul (h : s.memOk) {p d a b} : nextMemOk (execMul p d a b s) := h.always fun ht => by exact ht.aluRR

theorem State.memOk.execMulImm (h : s.memOk) {p d a imm} : nextMemOk (execMulImm p d a imm s) :=
  h.always fun ht => by exact ht.aluRI

theorem State.memOk.execAnd (h : s.memOk) {p d a b} : nextMemOk (execAnd p d a b s) := h.always fun ht => by exact ht.aluRR

theorem State.memOk.execAndImm (h : s.memOk) {p d a imm} : nextMemOk (execAndImm p d a imm s) :=
  h.always fun ht => by exact ht.aluRI

theorem State.memOk.execOr (h : s.memOk) {p d a b} : nextMemOk (execOr p d a b s) := h.always fun ht => by exact ht.aluRR

theorem State.memOk.execOrImm (h : s.memOk) {p d a imm} : nextMemOk (execOrImm p d a imm s) :=
  h.always fun ht => by exact ht.aluRI

theorem State.memOk.execXor (h : s.memOk) {p d a b} : nextMemOk (execXor p d a b s) := h.always fun ht => by exact ht.aluRR

theorem State.memOk.execXorImm (h : s.memOk) {p d a imm} : nextMemOk (execXorImm p d a imm s) :=
  h.always fun ht => by exact ht.aluRI

theorem State.memOk.execShl (h : s.memOk) {p d a b} : nextMemOk (execShl p d a b s) := h.always fun ht => by exact ht.aluRR

theorem State.memOk.execShlImm (h : s.memOk) {p d a imm} : nextMemOk (execShlImm p d a imm s) :=
  h.always fun ht => by exact ht.aluRI

theorem State.memOk.execShr (h : s.memOk) {p d a b} : nextMemOk (execShr p d a b s) := h.always fun ht => by exact ht.aluRR

theorem State.memOk.execShrImm (h : s.memOk) {p d a imm} : nextMemOk (execShrImm p d a imm s) :=
  h.always fun ht => by exact ht.aluRI

theorem State.memOk.execSar (h : s.memOk) {p d a b} : nextMemOk (execSar p d a b s) := h.always fun ht => by exact ht.aluRR

theorem State.memOk.execSarImm (h : s.memOk) {p d a imm} : nextMemOk (execSarImm p d a imm s) :=
  h.always fun ht => by exact ht.aluRI

theorem State.memOk.execRot (h : s.memOk) {p d a b} : nextMemOk (execRot p d a b s) := h.always fun ht => by exact ht.aluRR

theorem State.memOk.execRotImm (h : s.memOk) {p d a imm} : nextMemOk (execRotImm p d a imm s) :=
  h.always fun ht => by exact ht.aluRI

theorem State.memOk.execMulh (h : s.memOk) {p d a b u} : nextMemOk (execMulh p d a b u s) := h.always fun ht => by exact ht.aluRR
theorem State.memOk.execDiv (h : s.memOk) {p d a b u} : nextMemOk (execDiv p d a b u s) := h.always fun ht => by exact ht.aluRR
theorem State.memOk.execRem (h : s.memOk) {p d a b u} : nextMemOk (execRem p d a b u s) := h.always fun ht => by exact ht.aluRR
theorem State.memOk.execMin (h : s.memOk) {p d a b u} : nextMemOk (execMin p d a b u s) := h.always fun ht => by exact ht.aluRR
theorem State.memOk.execMax (h : s.memOk) {p d a b u} : nextMemOk (execMax p d a b u s) := h.always fun ht => by exact ht.aluRR

theorem State.memOk.execMinImm (h : s.memOk) {p d a imm u} : nextMemOk (execMinImm p d a imm u s) :=
  h.always fun ht => by exact ht.aluRI

theorem State.memOk.execMaxImm (h : s.memOk) {p d a imm u} : nextMemOk (execMaxImm p d a imm u s) :=
  h.always fun ht => by exact ht.aluRI

theorem State.memOk.execClz (h : s.memOk) {p d a} : nextMemOk (execClz p d a s) := h.always fun ht => by exact ht.resultG
theorem State.memOk.execPopc (h : s.memOk) {p d a} : nextMemOk (execPopc p d a s) := h.always fun ht => by exact ht.resultG
theorem State.memOk.execCmp (h : s.memOk) {p f a b c} : nextMemOk (execCmp p f a b c s) := h.always fun ht => by exact ht.resultF

theorem State.memOk.execCmpImm (h : s.memOk) {p f a imm c} : nextMemOk (execCmpImm p f a imm c s) :=
  h.always fun ht => by exact ht.resultF

theorem State.memOk.execSel (h : s.memOk) {p d a b f} : nextMemOk (execSel p d a b f s) := h.always fun ht => by exact ht.resultG
theorem State.memOk.execMov (h : s.memOk) {p d a} : nextMemOk (execMov p d a s) := h.always fun ht => by exact ht.resultG

theorem State.memOk.execMovImm (h : s.memOk) {p d imm} : nextMemOk (execMovImm p d imm s) :=
  h.always fun ht => by exact ht.resultG

theorem State.memOk.execMovh (h : s.memOk) {p d imm} : nextMemOk (execMovh p d imm s) := h.always fun ht => by exact ht.resultG
theorem State.memOk.execAadd (h : s.memOk) {p d a b} : nextMemOk (execAadd p d a b s) := h.always fun ht => by exact ht.resultA

theorem State.memOk.execAaddi (h : s.memOk) {p d a imm} : nextMemOk (execAaddi p d a imm s) :=
  h.always fun ht => by exact ht.resultA

theorem State.memOk.execAidx (h : s.memOk) {p d a b j} : nextMemOk (execAidx p d a b j s) :=
  h.always fun ht => by exact ht.resultA

theorem State.memOk.execAcmp (h : s.memOk) {p f a b c} : nextMemOk (execAcmp p f a b c s) :=
  h.always fun ht => by exact ht.resultF

theorem State.memOk.execAmov (h : s.memOk) {p x d a} : nextMemOk (execAmov p x d a s) :=
  h.always fun ht => by exact .ite ht.resultA (.ite ht.resultA ht.resultG)

theorem State.memOk.execAmovh (h : s.memOk) {p d a} : nextMemOk (execAmovh p d a s) := h.always fun ht => by exact ht.resultG
theorem State.memOk.execAhome (h : s.memOk) {p d a b} : nextMemOk (execAhome p d a b s) := h.always fun ht => by exact ht.resultA
theorem State.memOk.branch (h : s.memOk) {target} : (s.branch target).memOk := h.updMe
theorem State.memOk.execBr (h : s.memOk) {p off} : nextMemOk (execBr p off s) := h.always fun ht => by exact ht.branch

theorem State.memOk.execBrc (h : s.memOk) {p d off} : nextMemOk (execBrc p d off s) :=
  h.always fun ht => by exact .ite ht ht.branch.resultG

theorem State.memOk.execCall (h : s.memOk) {p d off} : nextMemOk (execCall p d off s) :=
  h.always fun ht => by exact ht.branch.resultG

theorem State.memOk.execRet (h : s.memOk) {p a} : nextMemOk (execRet p a s) := h.act fun ht => by exact ht.branch

theorem State.memOk.execLoop (h : s.memOk) {p lc im a len cnt} : nextMemOk (execLoop p lc im a len cnt s) :=
  h.always fun ht => by exact .ite ht.updMe ht.updMe.result

theorem State.memOk.execFset (h : s.memOk) {p f v} : nextMemOk (execFset p f v s) := h.always fun ht => by exact ht.resultF

theorem State.memOk.execFmov (h : s.memOk) {p f a inv} : nextMemOk (execFmov p f a inv s) :=
  h.always fun ht => by exact ht.resultF

theorem State.memOk.execKwr (h : s.memOk) {p k a} : nextMemOk (execKwr p k a s) := h.always fun ht => by exact ht.result
theorem State.memOk.execKwrImm (h : s.memOk) {p k imm} : nextMemOk (execKwrImm p k imm s) := h.always fun ht => by exact ht.result
theorem State.memOk.execZwr (h : s.memOk) {p z a} : nextMemOk (execZwr p z a s) := h.always fun ht => by exact ht.result
theorem State.memOk.execZwrImm (h : s.memOk) {p z imm} : nextMemOk (execZwrImm p z imm s) := h.always fun ht => by exact ht.result

/-! ### Vector operations -/

theorem State.memOk.vresult (h : s.memOk) {w lat d v} : (s.vresult w lat d v).memOk := h.result
theorem State.memOk.vround (h : s.memOk) {w lat d v} : (s.vround w lat d v).memOk := h.vresult.updMe
theorem State.memOk.arith (h : s.memOk) {o w t d a b sat_} : (s.arith o w t d a b sat_).memOk := .ite h.vround h.vresult
theorem State.memOk.vfma (h : s.memOk) {neg w t d a b c} : (s.vfma neg w t d a b c).memOk := h.vround
theorem State.memOk.vmap1 (h : s.memOk) {w lat t d a f} : (s.vmap1 w lat t d a f).memOk := h.vresult
theorem State.memOk.vmap2 (h : s.memOk) {w lat t d a b f} : (s.vmap2 w lat t d a b f).memOk := h.vresult
theorem State.memOk.vmap3 (h : s.memOk) {w lat t d a b c f} : (s.vmap3 w lat t d a b c f).memOk := h.vresult
theorem State.memOk.vfnRm (h : s.memOk) {w t d a f} : (s.vfnRm w t d a f).memOk := h.vround
theorem State.memOk.vfnNe (h : s.memOk) {w t d a f} : (s.vfnNe w t d a f).memOk := h.vresult
theorem State.memOk.vreduce (h : s.memOk) {w t d v} : (s.vreduce w t d v).memOk := h.vresult

theorem State.memOk.execVadd (h : s.memOk) {p w ty d a b sb} : nextMemOk (execVadd p w ty d a b sb s) :=
  h.always fun ht => by exact ht.arith

theorem State.memOk.execVsub (h : s.memOk) {p w ty d a b sb} : nextMemOk (execVsub p w ty d a b sb s) :=
  h.always fun ht => by exact ht.arith

theorem State.memOk.execVmul (h : s.memOk) {p w ty d a b sb} : nextMemOk (execVmul p w ty d a b sb s) :=
  h.always fun ht => by exact ht.arith

theorem State.memOk.execVfma (h : s.memOk) {p w ty d a b c} : nextMemOk (execVfma p w ty d a b c s) :=
  h.always fun ht => by exact ht.vfma

theorem State.memOk.execVfms (h : s.memOk) {p w ty d a b c} : nextMemOk (execVfms p w ty d a b c s) :=
  h.always fun ht => by exact ht.vfma

theorem State.memOk.execVmin (h : s.memOk) {p w ty d a b} : nextMemOk (execVmin p w ty d a b s) :=
  h.always fun ht => by exact ht.vmap2

theorem State.memOk.execVmax (h : s.memOk) {p w ty d a b} : nextMemOk (execVmax p w ty d a b s) :=
  h.always fun ht => by exact ht.vmap2

theorem State.memOk.execVabs (h : s.memOk) {p w ty d a} : nextMemOk (execVabs p w ty d a s) :=
  h.always fun ht => by exact ht.vmap1

theorem State.memOk.execVneg (h : s.memOk) {p w ty d a} : nextMemOk (execVneg p w ty d a s) :=
  h.always fun ht => by exact ht.vmap1

theorem State.memOk.execVclamp (h : s.memOk) {p w ty d a b c} : nextMemOk (execVclamp p w ty d a b c s) :=
  h.always fun ht => by exact ht.vmap3

theorem State.memOk.execVmulh (h : s.memOk) {p w ty d a b} : nextMemOk (execVmulh p w ty d a b s) :=
  h.always fun ht => by exact ht.vmap2

theorem State.memOk.execVrcp (h : s.memOk) {p w ty d a} : nextMemOk (execVrcp p w ty d a s) :=
  h.always fun ht => by exact ht.vfnRm

theorem State.memOk.execVrsq (h : s.memOk) {p w ty d a} : nextMemOk (execVrsq p w ty d a s) :=
  h.always fun ht => by exact ht.vfnNe

theorem State.memOk.execVexp2 (h : s.memOk) {p w ty d a} : nextMemOk (execVexp2 p w ty d a s) :=
  h.always fun ht => by exact ht.vfnNe

theorem State.memOk.execVlog2 (h : s.memOk) {p w ty d a} : nextMemOk (execVlog2 p w ty d a s) :=
  h.always fun ht => by exact ht.vfnNe

theorem State.memOk.execVsqrt (h : s.memOk) {p w ty d a} : nextMemOk (execVsqrt p w ty d a s) :=
  h.always fun ht => by exact ht.vfnRm

theorem State.memOk.execVcvt (h : s.memOk) {p w ty tx d a part} : nextMemOk (execVcvt p w ty tx d a part s) :=
  h.always fun ht => by exact .ite ht.vround ht.vresult

theorem State.memOk.execVq8 (h : s.memOk) {p w ty d a signed} : nextMemOk (execVq8 p w ty d a signed s) :=
  h.always fun ht => by exact ht.vresult

theorem State.memOk.execVdq8 (h : s.memOk) {p w ty d a b signed} : nextMemOk (execVdq8 p w ty d a b signed s) :=
  h.always fun ht => by exact ht.vresult

theorem State.memOk.execVand (h : s.memOk) {p w ty d a b} : nextMemOk (execVand p w ty d a b s) :=
  h.always fun ht => by exact ht.vmap2

theorem State.memOk.execVor (h : s.memOk) {p w ty d a b} : nextMemOk (execVor p w ty d a b s) :=
  h.always fun ht => by exact ht.vmap2

theorem State.memOk.execVxor (h : s.memOk) {p w ty d a b} : nextMemOk (execVxor p w ty d a b s) :=
  h.always fun ht => by exact ht.vmap2

theorem State.memOk.execVnot (h : s.memOk) {p w ty d a} : nextMemOk (execVnot p w ty d a s) :=
  h.always fun ht => by exact ht.vmap1

theorem State.memOk.execVshl (h : s.memOk) {p w ty d a n} : nextMemOk (execVshl p w ty d a n s) :=
  h.always fun ht => by exact ht.vmap1

theorem State.memOk.execVshr (h : s.memOk) {p w ty d a n} : nextMemOk (execVshr p w ty d a n s) :=
  h.always fun ht => by exact ht.vmap1

theorem State.memOk.execVsar (h : s.memOk) {p w ty d a n} : nextMemOk (execVsar p w ty d a n s) :=
  h.always fun ht => by exact ht.vmap1

theorem State.memOk.execVpopc (h : s.memOk) {p w ty d a} : nextMemOk (execVpopc p w ty d a s) :=
  h.always fun ht => by exact ht.vmap1

theorem State.memOk.execVclz (h : s.memOk) {p w ty d a} : nextMemOk (execVclz p w ty d a s) :=
  h.always fun ht => by exact ht.vmap1

theorem State.memOk.execVcmp (h : s.memOk) {p w ty c d a b} : nextMemOk (execVcmp p w ty c d a b s) :=
  h.always fun ht => by exact ht.vmap2

theorem State.memOk.execVsel (h : s.memOk) {p w ty d a b c} : nextMemOk (execVsel p w ty d a b c s) :=
  h.always fun ht => by exact ht.vmap3

theorem State.memOk.execVmov (h : s.memOk) {p w ty d a} : nextMemOk (execVmov p w ty d a s) :=
  h.always fun ht => by exact ht.vmap1

theorem State.memOk.vpick (h : s.memOk) {w ty d x f} : (s.vpick w ty d x f).memOk := h.vresult

theorem State.memOk.execVbcast (h : s.memOk) {p w ty d a n} : nextMemOk (execVbcast p w ty d a n s) :=
  h.always fun ht => by exact ht.vpick

theorem State.memOk.execVperm (h : s.memOk) {p w ty d a b} : nextMemOk (execVperm p w ty d a b s) :=
  h.always fun ht => by exact ht.vpick

theorem State.memOk.execViota (h : s.memOk) {p w ty d n} : nextMemOk (execViota p w ty d n s) :=
  h.always fun ht => by exact ht.vresult

theorem State.memOk.execVrot (h : s.memOk) {p w ty d a n} : nextMemOk (execVrot p w ty d a n s) :=
  h.always fun ht => by exact ht.vpick

theorem State.memOk.execVredsum (h : s.memOk) {p w ty d a} : nextMemOk (execVredsum p w ty d a s) :=
  h.always fun ht => by exact ht.vreduce

theorem State.memOk.execVredmax (h : s.memOk) {p w ty d a} : nextMemOk (execVredmax p w ty d a s) :=
  h.always fun ht => by exact ht.vreduce

theorem State.memOk.execVredmin (h : s.memOk) {p w ty d a} : nextMemOk (execVredmin p w ty d a s) :=
  h.always fun ht => by exact ht.vreduce

theorem State.memOk.execVamax (h : s.memOk) {p w ty mx a} : nextMemOk (execVamax p w ty mx a s) :=
  h.always fun ht => by exact ht.result

/-! ### Loads, stores and atomics -/

theorem State.memOk.load (h : s.memOk) {p dest a ac dist off size} : nextMemOk (s.load p dest a ac dist off size) :=
  h.act fun ht => by exact ht.memRequest

theorem State.memOk.execLdw (h : s.memOk) {p d a ac dist off} : nextMemOk (execLdw p d a ac dist off s) := h.load
theorem State.memOk.execLdd (h : s.memOk) {p d a ac dist off} : nextMemOk (execLdd p d a ac dist off s) := h.load
theorem State.memOk.execLdl (h : s.memOk) {p l a ac dist off} : nextMemOk (execLdl p l a ac dist off s) := h.load

theorem State.memOk.loadWords (h : s.memOk) {p l a ac dist off} : nextMemOk (s.loadWords p l a ac dist off) :=
  h.act fun ht => by exact ht.memRequest

theorem State.memOk.execLdls (h : s.memOk) {p l a ac dist sr} : nextMemOk (execLdls p l a ac dist sr s) := h.loadWords
theorem State.memOk.execLdg (h : s.memOk) {p l a ac dist x} : nextMemOk (execLdg p l a ac dist x s) := h.loadWords

theorem State.memOk.storeBytes (h : s.memOk) {p op ac ea data eff} (he : ∀ {t : State}, t.memOk → (eff t).memOk) :
    nextMemOk (s.storeBytes p op ac ea data eff) := by
  refine h.act fun ht => ?_
  exact he ht.memRequest

theorem State.memOk.execStw (h : s.memOk) {p sr a ac off} : nextMemOk (execStw p sr a ac off s) :=
  h.storeBytes fun ht => by exact ht

theorem State.memOk.execStd (h : s.memOk) {p sr a ac off} : nextMemOk (execStd p sr a ac off s) :=
  h.storeBytes fun ht => by exact ht

theorem State.memOk.execStl (h : s.memOk) {p sr a ac off} : nextMemOk (execStl p sr a ac off s) :=
  h.storeBytes fun ht => by exact ht

theorem State.memOk.execStlx (h : s.memOk) {p tt mx sr a ac off} : nextMemOk (execStlx p tt mx sr a ac off s) := by
  unfold Machine.execStlx
  refine h.storeBytes fun ht => ?_
  exact ht.result.updMe

theorem State.memOk.execPuth (h : s.memOk) {p sr a ac off} : nextMemOk (execPuth p sr a ac off s) :=
  h.storeBytes fun ht => by exact ht

theorem State.memOk.amoReq (h : s.memOk) {op m} : (s.amoReq op m).memOk := h.memRequest
theorem State.memOk.execAmoAdd (h : s.memOk) {p m} : nextMemOk (execAmoAdd p m s) := h.act fun ht => by exact ht.amoReq
theorem State.memOk.execAmoMax (h : s.memOk) {p m} : nextMemOk (execAmoMax p m s) := h.act fun ht => by exact ht.amoReq
theorem State.memOk.execAmoMin (h : s.memOk) {p m} : nextMemOk (execAmoMin p m s) := h.act fun ht => by exact ht.amoReq
theorem State.memOk.execAmoAnd (h : s.memOk) {p m} : nextMemOk (execAmoAnd p m s) := h.act fun ht => by exact ht.amoReq
theorem State.memOk.execAmoOr (h : s.memOk) {p m} : nextMemOk (execAmoOr p m s) := h.act fun ht => by exact ht.amoReq
theorem State.memOk.execAmoXch (h : s.memOk) {p m} : nextMemOk (execAmoXch p m s) := h.act fun ht => by exact ht.amoReq
theorem State.memOk.execAmoCas (h : s.memOk) {p m} : nextMemOk (execAmoCas p m s) := h.act fun ht => by exact ht.amoReq
theorem State.memOk.execAmoFadd (h : s.memOk) {p m} : nextMemOk (execAmoFadd p m s) := h.act fun ht => by exact ht.amoReq

/-! ### M operations -/

theorem State.memOk.updPlanes (h : s.memOk) {f} : (s.updPlanes f).memOk := h.updMe

theorem State.memOk.actM (h : s.memOk) {v eff} (he : ∀ {t : State}, t.memOk → (eff t).memOk) : nextMemOk (actM s v eff) :=
  h.onVerdict he

theorem State.memOk.execMcfg (h : s.memOk) {p ty pm} : nextMemOk (execMcfg p ty pm s) :=
  h.actM fun ht => by exact .ite ht.updPlanes ht

theorem State.memOk.execMldw (h : s.memOk) {p ty gl} : nextMemOk (execMldw p ty gl s) := h.actM fun ht => by exact ht.updPlanes
theorem State.memOk.execMswap (h : s.memOk) {p} : nextMemOk (execMswap p s) := h.actM fun ht => by exact .ite ht.updPlanes ht

theorem State.memOk.execMstrm (h : s.memOk) {p ty gl n pl cb arow yf} : nextMemOk (execMstrm p ty gl n pl cb arow yf s) :=
  h.actM fun ht => by exact ht.updPlanes.updCore

theorem State.memOk.execMzero (h : s.memOk) {p pm} : nextMemOk (execMzero p pm s) :=
  h.actM fun ht => by exact .ite ht.updPlanes ht

theorem State.memOk.execMrdacc (h : s.memOk) {p tt gl row pl part} : nextMemOk (execMrdacc p tt gl row pl part s) :=
  h.actM fun ht => by exact .ite ht.result.updMe ht

theorem State.memOk.execMaddacc (h : s.memOk) {p ty gl row pl part} : nextMemOk (execMaddacc p ty gl row pl part s) :=
  h.actM fun ht => by exact ht.updPlanes

theorem State.memOk.execMwaitp (h : s.memOk) {p pm} : nextMemOk (execMwaitp p pm s) := h.actM fun ht => by exact ht
theorem State.memOk.planeStep (h : s.memOk) {f} : nextMemOk (s.planeStep f) := .ite trivial h.updCtx
theorem State.memOk.execWeightBlockLoad (h : s.memOk) : nextMemOk (execWeightBlockLoad s) := h.planeStep
theorem State.memOk.execAccumulatorRowWrite (h : s.memOk) : nextMemOk (execAccumulatorRowWrite s) := h.planeStep
theorem State.memOk.execMaddaccRowWrite (h : s.memOk) : nextMemOk (execMaddaccRowWrite s) := h.planeStep
theorem State.memOk.execStreamLineEntry (h : s.memOk) : nextMemOk (execStreamLineEntry s) := h.planeStep

/-! ### Transform operations -/

theorem State.memOk.xform (h : s.memOk) {p op xf xr rsn} : nextMemOk (s.xform p op xf xr rsn) := h.updMe
theorem State.memOk.execXcvt (h : s.memOk) {p x} : nextMemOk (execXcvt p x s) := h.xform
theorem State.memOk.execXtrn (h : s.memOk) {p x} : nextMemOk (execXtrn p x s) := h.xform
theorem State.memOk.execXexp (h : s.memOk) {p x xr} : nextMemOk (execXexp p x xr s) := h.xform
theorem State.memOk.execXpack (h : s.memOk) {p x} : nextMemOk (execXpack p x s) := h.xform
theorem State.memOk.settleAll (h : s.memOk) {n t} : (s.settleAll n t).memOk := h.settle.updCtx
theorem State.memOk.execTransformBeat (h : s.memOk) : nextMemOk (execTransformBeat s) := .ite h.settleAll.updCtx trivial

/-! ### Draining a context -/

theorem State.memOk.drainAt (h : s.memOk) {n t} : (s.drainAt n t).memOk := h.updCtx.settleAll.updCtx.settleWindows

theorem State.memOk.drainFrom (h : s.memOk) {n t fuel} : (s.drainFrom n t fuel).memOk := by
  induction fuel generalizing s t with
  | zero => exact h
  | succ fuel ih =>
    unfold State.drainFrom
    extract_lets
    split
    · exact h
    · split
      · exact .ite h (ih h.drainAt)
      · exact ih h.drainAt

theorem State.memOk.drain (h : s.memOk) {n} : (s.drain n).memOk := (State.memOk.ite h.settle.settleWindows h).drainFrom

theorem State.memOk.planeCycle (h : s.memOk) {core} : (s.planeCycle core).memOk := by
  refine h.foldl fun ht => ?_
  split
  exacts [ht, ht.setCtx]

/-! ### Page walks and requests served -/

theorem State.memOk.walk (h : s.memOk) {home off wr} : (s.walk home off wr).2.memOk := by
  unfold State.walk
  extract_lets
  split
  · exact h
  · split
    · exact h
    · split
      exacts [h.writeMem, h]

theorem State.memOk.loadTlb (h : s.memOk) {core e} : (s.loadTlb core e).memOk := h.updDie.updCore
theorem State.memOk.settleBound (h : s.memOk) {n r} : (s.settleBound n r).memOk := .ite h.updReq.updLatch h

theorem State.memOk.afterWalk (h : s.memOk) {home off res n} : (s.afterWalk home off res n).memOk :=
  h.foldl fun ht => by exact ht.translateReq.updReq.settleBound

theorem State.memOk.preloaded (h : s.memOk) {home off n} : (s.preloaded home off n).memOk := by
  unfold State.preloaded
  split
  exacts [.ite h.updCtx h, h]

theorem State.memOk.walked (h : s.memOk) {core home off res} : (s.walked core home off res).memOk := by
  refine State.memOk.foldl ?_ fun ht => ?_
  · split
    exacts [h.loadTlb, h]
  · exact ht.afterWalk.preloaded

theorem State.memOk.serveWalk (h : s.memOk) {w} : (s.serveWalk w).memOk := by
  unfold State.serveWalk
  split
  next t e =>
    have ht := h.walk.of_snd e
    refine .ite ht.walked ?_
    split <;> exact ht.inject

theorem State.memOk.askWalks (h : s.memOk) {n} : (s.askWalks n).memOk := h.foldl fun ht => by exact .ite ht.translateReq.updReq ht

theorem State.memOk.execPageWalk (h : s.memOk) : nextMemOk (execPageWalk s) := by
  unfold Machine.execPageWalk
  extract_lets d full
  split
  · trivial
  · extract_lets l taken served
    have hserved : served.memOk := h.updDie.foldl fun ht => by exact ht.serveWalk
    refine State.memOk.ite (hserved.foldl fun ht => ?_) hserved
    exact ht.askWalks

theorem State.memOk.translateNow (h : s.memOk) {n home off rd wr} : (s.translateNow n home off rd wr).2.memOk := by
  unfold State.translateNow
  split
  next t e =>
    have ht := h.locate.of_snd e
    split
    next u e => exact ht.walk.of_snd e
    next u e => exact (ht.walk.of_snd e).loadTlb.locate
  · exact h.locate

theorem State.memOk.performPiece (h : s.memOk) {n r k p a} : (s.performPiece n r k p a).memOk := by
  unfold State.performPiece
  split
  exacts [.ite h.updReq h.updReq, .ite h.store.updReq.come.mendLines h.store.updReq.come]

theorem State.memOk.sendFar (h : s.memOk) {n r} : (s.sendFar n r).memOk := by
  refine (h.foldl fun ht => ?_).updReq
  exact ht.inject

theorem State.memOk.fwTranslate (h : s.memOk) {a rd wr} : (s.fwTranslate a rd wr).2.memOk := by
  unfold State.fwTranslate
  extract_lets
  split
  · split
    next t e =>
      have ht := h.walk.of_snd e
      split <;> exact ht
    next t e => exact h.walk.of_snd e
  · exact h

theorem State.memOk.outsideAccess (h : s.memOk) : nextMemOk s.outsideAccess := by
  refine .ite h.rest (.ite trivial ?_)
  split
  next t e =>
    have ht := h.fwTranslate.of_snd e
    extract_lets
    split
    exacts [ht.rest, ht.store.mendLines, ht.rest, ht]

theorem State.memOk.execMemoryAccessPerform (h : s.memOk) : nextMemOk (execMemoryAccessPerform s) := by
  refine .ite h.outsideAccess ?_
  split
  · trivial
  · split
    exacts [.ite trivial h.performPiece, .ite h.sendFar trivial]

theorem State.memOk.execWindowAccess (h : s.memOk) : nextMemOk (execWindowAccess s) := by
  unfold Machine.execWindowAccess
  split
  · trivial
  · split
    exacts [.ite trivial (.ite h.performPiece h.updReq), trivial]

theorem State.memOk.execHeldWindowAccess (h : s.memOk) : nextMemOk (execHeldWindowAccess s) := by
  unfold Machine.execHeldWindowAccess
  split
  · trivial
  · split
    exacts [.ite h.performPiece trivial, trivial]

theorem State.memOk.heldPieces (h : s.memOk) {core} : (s.heldPieces core).memOk := by
  refine h.foldl fun ht => ?_
  refine ht.foldl fun hu => ?_
  refine .ite (hu.foldl fun hv => ?_) hu
  split
  exacts [.ite hv.performPiece hv, hv]

theorem State.memOk.applyAtomic (h : s.memOk) {a len op u v cmp} : (s.applyAtomic a len op u v cmp).2.memOk := h.store

theorem State.memOk.execAtomicApply (h : s.memOk) : nextMemOk (execAtomicApply s) := by
  unfold Machine.execAtomicApply
  split
  · trivial
  · split
    exacts [.ite trivial (.ite h.updReq h.applyAtomic.come.updReq), trivial]

theorem State.memOk.execWriteAcknowledge (h : s.memOk) : nextMemOk (execWriteAcknowledge s) := by
  unfold Machine.execWriteAcknowledge
  split
  · trivial
  · refine .ite trivial (State.memOk.updCtx ?_)
    split
    exacts [h.updReq.updCtx, h.updReq]

theorem State.memOk.arrive (h : s.memOk) {n r ans} : (s.arrive n r ans).memOk := by
  unfold State.arrive
  extract_lets marked landed pruned
  have hlanded : landed.memOk := by
    unfold landed
    split
    exacts [h.updReq.parkArrive, h.updReq.parkFault, h.updReq.updLatch, h.updReq.updLatch]
  exact .ite hlanded.updCtx.drain hlanded.updCtx

theorem State.memOk.dataArrival (h : s.memOk) {n r} : (s.dataArrival n r).memOk := by
  unfold State.dataArrival
  split <;> exact h.arrive

theorem State.memOk.execWakeDelivery (h : s.memOk) : nextMemOk (execWakeDelivery s) := by
  unfold Machine.execWakeDelivery
  split
  · trivial
  · split
    exacts [.ite trivial (.ite h.updReq.updCtx h.updReq.controlEvent), trivial]

end Sys2Proof.Machine
end

section
/-! PROOFS. Memory stays canonical (R179): the tile directory and the tile operations. -/

namespace Sys2Proof.Machine
variable {s : State}

/-! ### The tile directory -/

theorem State.memOk.tell (h : s.memOk) {d r aux body} : (s.tell d r aux body).memOk := h.inject

theorem State.memOk.tellBuddy (h : s.memOk) {d r aux body} : (s.tellBuddy d r aux body).memOk :=
  (s.keepsContexts_tellBuddy ..).memOk h

theorem State.memOk.sendNotice (h : s.memOk) {d r k p} : (s.sendNotice d r k p).memOk := h.inject
theorem State.memOk.notify (h : s.memOk) {d r t} : (s.notify d r t).memOk := (s.keepsContexts_notify ..).memOk h
theorem State.memOk.setTile (h : s.memOk) {r t} : (s.setTile r t).memOk := (s.keepsContexts_setTile ..).memOk h

theorem State.memOk.updTile (h : s.memOk) {r f} : (s.updTile r f).memOk := by
  unfold State.updTile
  split
  exacts [h.setTile, h]

theorem State.memOk.watch (h : s.memOk) {d r p} : (s.watch d r p).memOk := by
  unfold State.watch
  split
  exacts [h.setTile.sendNotice, h.sendNotice]

theorem State.memOk.dropTile (h : s.memOk) {r} : (s.dropTile r).memOk := by
  unfold State.dropTile
  split
  · exact h
  · refine h.updDie.tellBuddy.foldl fun hu => ?_
    exact hu.updDie

theorem State.memOk.allocate (h : s.memOk) {d lo hi n} : (s.allocate d lo hi n).2.memOk := by
  unfold State.allocate
  extract_lets
  split <;> exact h.rest

theorem State.memOk.hbmPlace (h : s.memOk) {d n} : (s.hbmPlace d n).2.memOk := h.allocate
theorem State.memOk.zeroFill (h : s.memOk) {t} : (s.zeroFill t).memOk := h.fill

theorem State.memOk.released (h : s.memOk) {prod r} : (s.released prod r).memOk := by
  unfold State.released
  split
  exacts [.ite h.zeroFill.setTile h, h]

theorem State.memOk.unassign (h : s.memOk) {d tid r} : (s.unassign d tid r).memOk := .ite h.tell h.released
theorem State.memOk.dropEntries (h : s.memOk) {d f} : (s.dropEntries d f).memOk := h.updDie

theorem State.memOk.readyDie (h : s.memOk) {d} : (s.readyDie d).memOk := by
  unfold State.readyDie
  extract_lets gone unassigned withdrawn now step
  have hunassigned : unassigned.memOk := by
    refine h.foldl fun ht => ?_
    refine ht.foldl fun hu => ?_
    exact hu.unassign
  have hwithdrawn : withdrawn.memOk := .ite hunassigned hunassigned.dropEntries.updDie
  exact hwithdrawn.updDie

theorem State.memOk.releaseImages (h : s.memOk) : s.releaseImages.memOk := .ite h.rest h

theorem State.memOk.readyAll (h : s.memOk) : s.readyAll.memOk := by
  refine (h.foldl fun ht => ?_).releaseImages
  exact ht.readyDie

theorem State.memOk.mirrorRecord (h : s.memOk) {d r} : (s.mirrorRecord d r).memOk := by
  unfold State.mirrorRecord
  split
  exacts [.ite h.updDie h.tellBuddy.tellBuddy, h]

theorem State.memOk.writeRecord (h : s.memOk) {r} : (s.writeRecord r).memOk := by
  unfold State.writeRecord
  split
  · exact h
  · refine h.updDie.mirrorRecord.updTile.foldl fun hu => ?_
    exact .ite hu.tell hu.updTile

mutual
theorem State.memOk.trim {s : State} (h : s.memOk) {r} : ∀ {fuel}, (s.trim r fuel).memOk
  | 0 => by unfold State.trim; exact h
  | fuel + 1 => by
    unfold State.trim
    split
    · refine State.memOk.lowerAll (State.memOk.setTile (h.updDie.tellBuddy.foldl fun ht => ?_))
      exact ht.updDie
    · exact h

theorem State.memOk.lowerAll {s : State} (h : s.memOk) {rs d} : ∀ {fuel}, (s.lowerAll rs d fuel).memOk
  | 0 => by unfold State.lowerAll; exact h
  | fuel + 1 => by
    unfold State.lowerAll
    split
    · exact h
    · refine State.memOk.lowerAll (.ite h.tell ?_)
      split
      exacts [.ite h.setTile.trim.dropTile h.setTile, h]
end

theorem State.memOk.free_ (h : s.memOk) {r} : (s.free_ r).memOk := by
  unfold State.free_
  split
  exacts [.ite h.setTile.trim.dropTile h.setTile, h]

theorem State.memOk.askRecovery (h : s.memOk) {r p} : (s.askRecovery r p).memOk := by
  unfold State.askRecovery
  split
  exacts [h.updDie, h.tell]

theorem State.memOk.enqueue (h : s.memOk) {d e} : (s.enqueue d e).memOk := h.updDie

theorem State.memOk.raiseTask (h : s.memOk) {d r p} : (s.raiseTask d r p).memOk := by
  refine (h.foldl fun ht => ?_).updDie
  split
  exacts [ht.updCtx, ht]

theorem State.memOk.raiseFar (h : s.memOk) {d r p} : (s.raiseFar d r p).memOk := (s.keepsContexts_raiseFar ..).memOk h

theorem State.memOk.raise (h : s.memOk) {r p fuel} : (s.raise r p fuel).memOk := by
  induction fuel generalizing s r with
  | zero => exact h
  | succ fuel ih =>
    unfold State.raise
    split
    · exact h
    · split
      · refine .ite h ?_
        extract_lets
        split
        · refine h.updDie.raiseTask.foldl fun ht => ?_
          exact .ite ht.raiseFar (ih ht)
        · exact h.updDie.raiseTask
      · exact h.updDie

theorem State.memOk.raiseWprio (h : s.memOk) {r p} : (s.raiseWprio r p).memOk := by
  unfold State.raiseWprio
  split
  exacts [.ite h.setTile.raise h, h]

theorem State.memOk.markRebuild (h : s.memOk) {r who} : (s.markRebuild r who).memOk := h.updTile

theorem State.memOk.unrecoverable (h : s.memOk) {rs k fuel} : (s.unrecoverable rs k fuel).2.memOk := by
  induction fuel generalizing s rs k with
  | zero => exact h
  | succ fuel ih =>
    unfold State.unrecoverable
    split
    · exact h
    · split
      · refine ih (State.memOk.trim ?_).updTile
        split
        exacts [h.setTile.updDie.dropEntries, h.setTile.updDie]
      · exact ih h

theorem State.memOk.giveUp (h : s.memOk) {r} : (s.giveUp r).memOk := by
  unfold State.giveUp
  split
  next k t e => exact (h.unrecoverable.of_snd e).event.readyAll

theorem State.memOk.hopelessNow (h : s.memOk) {r} : (s.hopelessNow r).memOk := by
  refine (h.foldl fun ht => ?_).readyAll
  exact ht.giveUp

theorem State.memOk.recover (h : s.memOk) {r p} : (s.recover r p).memOk := by
  unfold State.recover
  split
  · refine .ite h.raise (.ite h (.ite h.setTile.updDie ?_))
    split
    · exact h.setTile.giveUp
    · exact .ite h.askRecovery h.setTile.updDie.giveUp
    next t e =>
      have ht := h.hbmPlace.of_snd e
      refine .ite ht.setTile.updDie.giveUp ?_
      extract_lets placed noted cleared asked there queued
      have hasked : asked.memOk := by
        refine ht.setTile.updDie.zeroFill.foldl fun hu => ?_
        split
        exacts [.ite hu.askRecovery (.ite (.ite hu.raiseFar hu.raise) hu), hu]
      refine (State.memOk.ite hasked.raiseTask ((hasked.foldl fun hu => ?_).enqueue)).readyAll
      exact .ite hu.tell hu.markRebuild
  · exact h

theorem State.memOk.execRecoveryRequest (h : s.memOk) : nextMemOk (execRecoveryRequest s) := by
  unfold Machine.execRecoveryRequest
  split
  · trivial
  · split
    exacts [trivial, .ite trivial h.come.updDie.recover]

theorem State.memOk.validAgain (h : s.memOk) {r} : (s.validAgain r).memOk := by
  unfold State.validAgain
  split
  exacts [.ite h.setTile.free_ h.setTile, h]

theorem State.memOk.recopyTile (h : s.memOk) {r} : (s.recopyTile r).memOk := by
  unfold State.recopyTile
  split
  · extract_lets
    split
    exacts [.ite h.updDie h.updDie.injectTile, h.updDie]
  · exact h

theorem State.memOk.execRestoreComplete (h : s.memOk) : nextMemOk (execRestoreComplete s) := by
  unfold Machine.execRestoreComplete
  extract_lets
  split
  · split
    · refine .ite h.updDie.setTile.validAgain.readyAll ?_
      split
      next v e =>
        have hv := h.updDie.hbmPlace.of_snd e
        exact ((State.memOk.ite hv.zeroFill.writeMem.setTile.recopyTile hv.zeroFill.writeMem.setTile).validAgain).readyAll
      · trivial
      · exact State.memOk.ite h.updDie.setTile.askRecovery h.updDie.setTile.giveUp
    · trivial
  · trivial

theorem State.memOk.replicate (h : s.memOk) {r} : (s.replicate r).memOk := .ite h h.recopyTile

theorem State.memOk.execReplicationComplete (h : s.memOk) : nextMemOk (execReplicationComplete s) := by
  unfold Machine.execReplicationComplete
  extract_lets
  split
  · split
    · have hcopied {c : Prop} [Decidable c] {a b f g} : (if c then (s.updDie a f).updDie b g else s.updDie a f).memOk :=
        .ite h.updDie.updDie h.updDie
      exact .ite trivial (.ite h.updDie (State.memOk.ite hcopied.setTile.trim.readyAll hcopied.setTile.trim))
    · trivial
  · trivial

theorem State.memOk.dropWakes (h : s.memOk) {n} : (s.dropWakes n).memOk := .ite h.setCtx.controlEvent h
theorem State.memOk.dropRings (h : s.memOk) {n} : (s.dropRings n).memOk := h.updCore
theorem State.memOk.unbind (h : s.memOk) {n ref} : (s.unbind n ref).memOk := h.rest
theorem State.memOk.unbindAll (h : s.memOk) {n} : (s.unbindAll n).memOk := h.foldl fun ht => by exact .ite ht.unbind ht
theorem State.memOk.abandon (h : s.memOk) {n} : (s.abandon n).memOk := h.dropRings.unbindAll.updCore.setCtx.dropWakes

theorem State.memOk.producerLost (h : s.memOk) {prod r} : (s.producerLost prod r).memOk := by
  unfold State.producerLost
  split
  exacts [.ite h.zeroFill.setTile h, h]

theorem State.memOk.rebuildLost (h : s.memOk) {r} : (s.rebuildLost r).memOk := by
  unfold State.rebuildLost
  split
  exacts [.ite h.updDie.zeroFill.setTile.askRecovery h, h]

theorem State.memOk.outputsLost (h : s.memOk) {d e} : (s.outputsLost d e).memOk :=
  h.foldl fun ht => by exact .ite (.ite ht.rebuildLost ht) (.ite ht.tell ht.producerLost)

theorem State.memOk.redispatch (h : s.memOk) {d e} : (s.redispatch d e).memOk := by
  refine State.memOk.updDie ?_
  split
  exacts [h.outputsLost.abandon, h.outputsLost]

theorem State.memOk.redispatchTid (h : s.memOk) {r prod} : (s.redispatchTid r prod).memOk := by
  unfold State.redispatchTid
  split
  · exact h
  · refine .ite h.inject (h.foldl fun hu => ?_)
    refine hu.foldl fun hv => ?_
    exact hv.redispatch

theorem State.memOk.destroyed (h : s.memOk) {r} : (s.destroyed r).memOk := by
  unfold State.destroyed
  split
  · exact h
  · refine .ite h.zeroFill.setTile.redispatchTid.readyAll ?_
    exact .ite (.ite h.setTile.askRecovery h.setTile.hopelessNow) (.ite h.rebuildLost h)

theorem State.memOk.execContentDestroyed (h : s.memOk) : nextMemOk (execContentDestroyed s) := by
  unfold Machine.execContentDestroyed
  split
  exacts [trivial, .ite h.come.updDie.destroyed trivial]

theorem State.memOk.execUseRelease (h : s.memOk) : nextMemOk (execUseRelease s) := by
  unfold Machine.execUseRelease
  extract_lets
  split
  · trivial
  · refine .ite trivial ?_
    extract_lets
    split
    · exact h.come.updDie
    · exact .ite h.come.updDie (State.memOk.ite h.come.updDie.setTile.free_ h.come.updDie.setTile)

theorem State.memOk.execPatrolScrub (h : s.memOk) : nextMemOk (execPatrolScrub s) := by
  unfold Machine.execPatrolScrub
  extract_lets
  split
  case h_4 => trivial
  all_goals
    split
    · split
      exacts [h.updDie.updDie, h.updDie]
    · exact h.updDie

theorem State.memOk.tlnew (h : s.memOk) {home shape num job} : (s.tlnew home shape num job).2.memOk := by
  unfold State.tlnew
  extract_lets
  split
  · exact h
  · split
    · exact h
    · split
      · exact h
      · split
        next t e => exact h.allocate.of_snd e
        next t e => exact (h.allocate.of_snd e).updDie.zeroFill.setTile

theorem State.memOk.tlrd (h : s.memOk) {a off} : (s.tlrd a off).2.memOk := by
  unfold State.tlrd
  extract_lets r
  split
  · exact h
  · extract_lets p b
    split
    · exact h
    · split
      · exact h
      · split
        · split
          exacts [h.destroyed, h]
        · split <;> exact h

theorem State.memOk.tlwr (h : s.memOk) {wp task a src off raw tt fmt seed rank} :
    (s.tlwr wp task a src off raw tt fmt seed rank).2.memOk := by
  unfold State.tlwr
  extract_lets
  split
  · exact h
  · extract_lets
    split
    · exact h
    · split
      · exact h
      · split
        · exact h
        · split
          exacts [h, .ite h.store.setTile h.store]

theorem State.memOk.tileStore (h : s.memOk) {wp task r p bs} : (s.tileStore wp task r p bs).2.memOk := by
  unfold State.tileStore
  split
  · exact h
  · split
    · exact h
    · split
      · exact h
      · split
        exacts [h, .ite h.store.setTile h.store]

theorem State.memOk.tlfin (h : s.memOk) {wp task r apx} : (s.tlfin wp task r apx).2.memOk := by
  unfold State.tlfin
  split
  · split
    · exact h
    · split
      · exact h
      · split
        · dsimp only
          exact h.updDie.setTile.validAgain.readyAll
        · dsimp only
          exact h.setTile.readyAll
  · exact h

theorem State.memOk.tlrep (h : s.memOk) {r} : (s.tlrep r).2.memOk := by
  unfold State.tlrep
  split
  · exact h
  · split
    · exact h
    · split
      exacts [h, h.replicate]

/-! ### Tile operations -/

theorem State.memOk.tileRequest (h : s.memOk) {slot op home base ref land} : (s.tileRequest slot op home base ref land).memOk := by
  unfold State.tileRequest
  extract_lets
  split
  exacts [h.updCtx.updCtx, h.updCtx]

theorem State.memOk.execTlnew (h : s.memOk) {p d a dist n} : nextMemOk (execTlnew p d a dist n s) :=
  h.act fun ht => by exact ht.tileRequest

theorem State.memOk.execTlrd (h : s.memOk) {p l a dist off} : nextMemOk (execTlrd p l a dist off s) :=
  h.act fun ht => by exact ht.tileRequest

theorem State.memOk.execTlqry (h : s.memOk) {p l a dist} : nextMemOk (execTlqry p l a dist s) :=
  h.act fun ht => by exact ht.tileRequest

theorem State.memOk.execTlrep (h : s.memOk) {p d a dist} : nextMemOk (execTlrep p d a dist s) :=
  h.act fun ht => by exact ht.tileRequest

theorem State.memOk.execTlwr (h : s.memOk) {p tt mx sr a off} : nextMemOk (execTlwr p tt mx sr a off s) :=
  h.act fun ht => by exact .ite ht.tileRequest ht.tileRequest.result

theorem State.memOk.execTlfin (h : s.memOk) {p a} : nextMemOk (execTlfin p a s) := h.act fun ht => by exact ht.tileRequest.updMe

theorem State.memOk.tileApply (h : s.memOk) {n r} : (s.tileApply n r).memOk := by
  unfold State.tileApply
  extract_lets ref c fail ok
  have hfail {t : State} (ht : t.memOk) {f} : (fail t f).memOk := ht.updReq
  have hok {t : State} (ht : t.memOk) {b} : (ok t b).memOk := ht.updReq
  clear_value fail ok
  cases r.op with
  | tlnew num =>
    refine .ite (hfail h) ?_
    split
    next u e => exact hok (h.tlnew.of_snd e)
    next u e => exact hfail (h.tlnew.of_snd e)
  | tlrd off =>
    dsimp only
    split
    next u e => exact hok (h.tlrd.of_snd e)
    next u e => exact hfail (h.tlrd.of_snd e)
  | tlwr src off raw tt fmt =>
    dsimp only
    split
    next u e => exact hok (h.tlwr.of_snd e)
    next u e => exact hfail (h.tlwr.of_snd e)
  | tlqry =>
    dsimp only
    split
    exacts [hok h, .ite (hfail h) (hok h)]
  | tlrep => exact .ite (hfail h) (hok h.tlrep)
  | tlfin =>
    dsimp only
    split
    next u e => exact hok (h.tlfin.of_snd e)
    next u e => exact hfail (h.tlfin.of_snd e)
  | _ => exact h

theorem State.memOk.touched (h : s.memOk) {r} : (s.touched r).memOk := h.come
theorem State.memOk.sendTile (h : s.memOk) {n r} : (s.sendTile n r).memOk := h.inject.updReq

theorem State.memOk.firmwareEntry (h : s.memOk) : nextMemOk s.firmwareEntry := by
  unfold State.firmwareEntry
  split
  exacts [trivial, .ite h.rest h.setTile.readyAll]

theorem State.memOk.execDirectoryOperation (h : s.memOk) : nextMemOk (execDirectoryOperation s) := by
  refine .ite h.firmwareEntry ?_
  extract_lets
  split
  exacts [trivial, .ite trivial (.ite h.sendTile (.ite trivial h.touched.tileApply))]

theorem State.memOk.execTlfinApply (h : s.memOk) : nextMemOk (execTlfinApply s) := by
  unfold Machine.execTlfinApply
  extract_lets
  split
  · trivial
  · split
    exacts [.ite trivial (.ite h.sendTile (.ite trivial h.touched.tileApply)), trivial]

theorem State.memOk.execHostTileLoad (h : s.memOk) : nextMemOk (execHostTileLoad s) := by
  refine .ite trivial ?_
  split
  · trivial
  next t e =>
    have ht := h.hbmPlace.of_snd e
    extract_lets
    split
    · exact .ite ht.zeroFill.writeMem.updDie.setTile.updDie.readyAll ht.zeroFill.writeMem.updDie.setTile.replicate
    · exact ht.zeroFill.writeMem.updDie.setTile.replicate.readyAll

end Sys2Proof.Machine
end

section
/-! PROOFS. Memory stays canonical (R179): fences and barriers, images, queues, rings and copy commands. -/

namespace Sys2Proof.Machine
variable {s : State}

/-! ### Fences, barriers and handlers -/

theorem State.memOk.execNop (h : s.memOk) {k} : nextMemOk (execNop k s) := h
theorem State.memOk.execFmt (h : s.memOk) {k hr v} : nextMemOk (execFmt k hr v s) := h.result
theorem State.memOk.execWait (h : s.memOk) {k f pol y} : nextMemOk (execWait k f pol y s) := h.onVerdict fun ht => by exact ht
theorem State.memOk.execYield (h : s.memOk) {k} : nextMemOk (execYield k s) := h.updMe
theorem State.memOk.fenced (h : s.memOk) : s.fenced.memOk := h.updMe

theorem State.memOk.execFenceAcq (h : s.memOk) {k sc} : nextMemOk (execFenceAcq k sc s) :=
  h.onVerdict fun ht => by exact ht.fenced

theorem State.memOk.execFenceRel (h : s.memOk) {k sc} : nextMemOk (execFenceRel k sc s) :=
  h.onVerdict fun ht => by exact ht.fenced

theorem State.memOk.execFenceAll (h : s.memOk) {k sc} : nextMemOk (execFenceAll k sc s) :=
  h.onVerdict fun ht => by exact ht.fenced

theorem State.memOk.updTeam (h : s.memOk) {key f} : (s.updTeam key f).memOk := h.rest

theorem State.memOk.bindName (h : s.memOk) {key name members} : (s.bindName key name members).memOk :=
  (s.keepsContexts_bindName ..).memOk h

theorem State.memOk.barApply (h : s.memOk) {key name op rank} : (s.barApply key name op rank).memOk := by
  unfold State.barApply
  extract_lets
  split
  exacts [h.updDie, h]

theorem State.memOk.barSend (h : s.memOk) {op name ord} : (s.barSend op name ord).memOk := by
  unfold State.barSend
  split
  · refine .ite h (State.memOk.updMe ?_)
    split
    exacts [h, h.bindName]

theorem State.memOk.execArv (h : s.memOk) {k n rel} : nextMemOk (execArv k n rel s) :=
  h.onVerdict fun ht => by exact ((State.memOk.ite ht.fenced ht).barSend).updMe

theorem State.memOk.execBwt (h : s.memOk) {k n y} : nextMemOk (execBwt k n y s) := h.onVerdict fun ht => by exact ht.fenced
theorem State.memOk.execJoin (h : s.memOk) {k n} : nextMemOk (execJoin k n s) := h.onVerdict fun ht => by exact ht.barSend.updMe
theorem State.memOk.execLeave (h : s.memOk) {k n} : nextMemOk (execLeave k n s) := h.onVerdict fun ht => by exact ht.barSend.updMe

theorem State.memOk.execBarrierEntryOperation (h : s.memOk) : nextMemOk (execBarrierEntryOperation s) := by
  unfold Machine.execBarrierEntryOperation
  extract_lets
  split
  exacts [.ite trivial h.come.updCtx.barApply, trivial]

theorem State.memOk.execBarrierNotification (h : s.memOk) : nextMemOk (execBarrierNotification s) := by
  unfold Machine.execBarrierNotification
  extract_lets
  split
  · trivial
  · extract_lets
    split
    exacts [.ite h.updDie.updCtx trivial, trivial]

theorem State.memOk.startHandler (h : s.memOk) {n} : (s.startHandler n).memOk := by
  unfold State.startHandler
  extract_lets
  split
  exacts [h, h.setCtx]

theorem State.memOk.execHandlerStart (h : s.memOk) : nextMemOk (execHandlerStart s) := .ite h.startHandler trivial
theorem State.memOk.ownFlush (h : s.memOk) {n} : (s.ownFlush n).memOk := h.updCtx.foldl fun ht => by exact ht.ownStore

theorem State.memOk.execHndl (h : s.memOk) {k} : nextMemOk (execHndl k s) :=
  h.onVerdict fun ht => by exact (State.memOk.ite ht.ownFlush.setMe.dropWakes.startHandler ht.ownFlush.setMe.dropWakes).updMe

/-! ### Task images -/

theorem State.memOk.updEntry (h : s.memOk) {tid rebuilt f} : (s.updEntry tid rebuilt f).memOk :=
  (s.keepsContexts_updEntry ..).memOk h

theorem State.memOk.settleFor (h : s.memOk) {n} : (s.settleFor n).memOk := h.settle

theorem State.memOk.takeImage (h : s.memOk) {n park} : (s.takeImage n park).memOk := by
  unfold State.takeImage
  split
  exacts [h, h.settleFor.updDie.unbindAll.setCtx.dropRings.updEntry.dropWakes.readyAll]

theorem State.memOk.moveImage (h : s.memOk) {from_ dst e} : (s.moveImage from_ dst e).2.memOk :=
  (s.keepsContexts_moveImage ..).memOk h

theorem State.memOk.putImage (h : s.memOk) {n img t} : (s.putImage n img t).memOk := by
  refine (h.setCtx.fill.foldl fun ht => ?_).foldl fun ht => ?_
  · exact ht.fill
  · exact ht.updCore

theorem State.memOk.ownTeam (h : s.memOk) {d queue t} : (s.ownTeam d queue t).memOk := .ite h h.rest.bindName

theorem State.memOk.startTask (h : s.memOk) {n e} : (s.startTask n e).memOk := by
  unfold State.startTask
  extract_lets core d task t home view placed noted
  have hplaced : placed.memOk := by
    unfold placed
    split
    · split
      exacts [h.updDie.putImage, h]
    · exact h.setCtx.ownTeam
  exact .ite hplaced.updEntry.updCore hplaced.updEntry

/-! ### Queues and launches -/

theorem State.memOk.readBlocks (h : s.memOk) {n home off k} : (s.readBlocks n home off k).2.memOk := by
  induction k generalizing s off with
  | zero => exact h
  | succ k ih =>
    unfold State.readBlocks
    split
    next t e =>
      have ht := h.translateNow.of_snd e
      split
      · exact ht
      · split
        next u e => exact (ih ht).of_snd e
        · exact ih ht
    next t e => exact h.translateNow.of_snd e
    next t e => exact h.translateNow.of_snd e

theorem State.memOk.readArea (h : s.memOk) {n a skip len} : (s.readArea n a skip len).2.memOk := by
  unfold State.readArea
  extract_lets
  split
  · exact h
  · split
    exacts [h, h.readBlocks]

theorem State.memOk.waitOn (h : s.memOk) {r p pkg tid} : (s.waitOn r p pkg tid).memOk := by
  refine .ite h.tell ?_
  split
  · exact h
  next t e =>
    extract_lets marked raised
    have hmarked : marked.memOk := .ite h.setTile h
    have hraised : raised.memOk := .ite hmarked hmarked.raiseWprio
    exact .ite hraised.askRecovery hraised

theorem State.memOk.accept (h : s.memOk) {d q r pin} : (s.accept d q r pin).2.memOk := by
  unfold State.accept
  extract_lets qu tid t queued named waiting joined
  have hnamed : named.memOk := h.updDie.foldl fun ht => by exact .ite ht.tell ht.updTile
  have hwaiting : waiting.memOk := hnamed.foldl fun ht => by exact ht.waitOn
  refine .ite hwaiting ?_
  split
  exacts [hwaiting.updTeam, hwaiting.rest]

theorem State.memOk.launchRec (h : s.memOk) {sel w} : (s.launchRec sel w).2.memOk := by
  unfold State.launchRec
  extract_lets
  split
  · exact h
  · split
    · exact h
    · split
      · exact h
      · split
        next t e =>
          dsimp only
          exact (h.accept.of_snd e).readyAll

theorem State.memOk.launch (h : s.memOk) {n a sel} : (s.launch n a sel).2.memOk := by
  unfold State.launch
  extract_lets
  split
  · exact h
  · split
    · exact h
    · split
      · exact h
      · split
        next t e => exact h.readArea.of_snd e
        next t e => exact (h.readArea.of_snd e).launchRec

theorem State.memOk.launchm (h : s.memOk) {n a sel} : (s.launchm n a sel).2.memOk := by
  unfold State.launchm
  extract_lets
  split
  · exact h
  · split
    · exact h
    · split
      · exact h
      · split
        next t e => exact h.readArea.of_snd e
        next t e =>
          have ht := h.readArea.of_snd e
          have hr {c : Prop} [Decidable c] {n a b d} : (if c then (.ok [], t) else t.readArea n a b d).2.memOk := by
            split
            exacts [ht, ht.readArea]
          extract_lets
          split
          next u e => exact hr.of_snd e
          next u e =>
            have hu := hr.of_snd e
            extract_lets
            split
            · exact hu
            · split
              · exact hu
              · split
                · exact hu
                · split
                  · exact hu
                  · dsimp only
                    refine State.memOk.readyAll (hu.foldl fun hv => ?_)
                    exact hv.accept

theorem State.memOk.qlvl (h : s.memOk) {rebuilt sel lvl} : (s.qlvl rebuilt sel lvl).2.memOk := by
  unfold State.qlvl
  extract_lets
  split
  · exact h
  · split
    exacts [h, h.updDie]

theorem State.memOk.setWprio (h : s.memOk) {r p} : (s.setWprio r p).memOk := by
  unfold State.setWprio
  split
  exacts [.ite h h.setTile.raise, h]

theorem State.memOk.setBase (h : s.memOk) {tid v} : (s.setBase tid v).memOk := by
  unfold State.setBase
  extract_lets entered based es
  have hbased : based.memOk := by
    refine h.updEntry.foldl fun ht => ?_
    split
    exacts [.ite ht.updCtx ht, ht]
  clear_value based
  split
  · exact hbased
  · refine hbased.foldl fun ht => ?_
    exact .ite ht.tell ht.setWprio

theorem State.memOk.prioTask (h : s.memOk) {tid v} : (s.prioTask tid v).2.memOk := by
  unfold State.prioTask
  split
  exacts [h.setBase, h]

theorem State.memOk.learn (h : s.memOk) : s.learn.memOk := h.rest

theorem State.memOk.queueApply (h : s.memOk) {n r} : (s.queueApply n r).2.memOk := by
  unfold State.queueApply
  extract_lets
  split
  · exact h.learn.launch
  · exact h.learn.launchm
  · exact h.learn.qlvl
  · exact h.learn
  · exact h.learn.prioTask
  · exact h.learn

theorem State.memOk.queueRequest (h : s.memOk) {op base d dist} : (s.queueRequest op base d dist).memOk := h.updCtx

theorem State.memOk.execLaunch (h : s.memOk) {p d a b} : nextMemOk (execLaunch p d a b s) :=
  h.act fun ht => by exact ht.queueRequest

theorem State.memOk.execLaunchm (h : s.memOk) {p d a b} : nextMemOk (execLaunchm p d a b s) :=
  h.act fun ht => by exact ht.queueRequest

theorem State.memOk.execQlvl (h : s.memOk) {p d a imm} : nextMemOk (execQlvl p d a imm s) :=
  h.act fun ht => by exact ht.queueRequest

theorem State.memOk.execQstat (h : s.memOk) {p d a} : nextMemOk (execQstat p d a s) := h.act fun ht => by exact ht.queueRequest

theorem State.memOk.execPrioSelf (h : s.memOk) {p d imm} : nextMemOk (execPrioSelf p d imm s) := by
  refine h.act fun ht => ?_
  split
  exacts [ht, .ite ht.resultG ht.resultG.setBase]

theorem State.memOk.execPrioTask (h : s.memOk) {p d a imm} : nextMemOk (execPrioTask p d a imm s) :=
  h.act fun ht => by exact ht.queueRequest

theorem State.memOk.seqConfigure (h : s.memOk) {n} : (s.seqConfigure n).memOk := .ite h.updCtx h.updCtx

theorem State.memOk.execLpscfg (h : s.memOk) {p a} : nextMemOk (execLpscfg p a s) := by
  refine h.act fun {t} ht => ?_
  have hr {c : Prop} [Decidable c] {x n b d} : (if c then (.fault x, t) else t.translateNow n b d true false).2.memOk := by
    split
    exacts [ht, ht.translateNow]
  exact hr.updMe

theorem State.memOk.execLpsnxt (h : s.memOk) {p d f} : nextMemOk (execLpsnxt p d f s) :=
  h.act fun ht => by exact .ite ht.resultG.resultF ht.updMe.resultG.resultF

theorem State.memOk.updJob (h : s.memOk) {j f} : (s.updJob j f).memOk := h.rest
theorem State.memOk.countStep (h : s.memOk) {j pkg tid} : (s.countStep j pkg tid).memOk := .ite h h.updJob

theorem State.memOk.execStepmark (h : s.memOk) {p} : nextMemOk (execStepmark p s) := by
  refine h.act fun ht => ?_
  split
  · exact ht
  · refine .ite ht (ht.countStep.foldl fun hv => ?_)
    exact hv.inject

/-! ### Rings -/

theorem State.memOk.execBacqP (h : s.memOk) {p d e ring} : nextMemOk (execBacqP p d e ring s) :=
  h.act fun ht => by exact ht.setRing.resultA

theorem State.memOk.execBacqC (h : s.memOk) {p d t ring} : nextMemOk (execBacqC p d t ring s) :=
  h.act fun ht => by exact ht.setRing.resultA.resultG

theorem State.memOk.brelIssue (h : s.memOk) {r consumer err cnt} : (s.brelIssue r consumer err cnt).memOk := h.updMe

theorem State.memOk.execBrelP (h : s.memOk) {p c e ring} : nextMemOk (execBrelP p c e ring s) :=
  h.act fun ht => by exact ht.brelIssue

theorem State.memOk.execBrelC (h : s.memOk) {p ring} : nextMemOk (execBrelC p ring s) := h.act fun ht => by exact ht.brelIssue

theorem State.memOk.execBrcfg (h : s.memOk) {p d a ring} : nextMemOk (execBrcfg p d a ring s) :=
  h.always fun ht => by exact .ite ht.resultG (.ite ht.resultG ht.setRing.resultG)

/-! ### Copy commands -/

theorem State.memOk.credTable (h : s.memOk) {n m skip} : (s.credTable n m skip).2.memOk := by
  refine foldlSnd h fun hq => ?_
  split
  · split
    next u e => split <;> exact hq.translateNow.of_snd e
    next u e => exact hq.translateNow.of_snd e
    next u e => split <;> exact hq.translateNow.of_snd e
    next u e => exact hq.translateNow.of_snd e
  · exact hq

theorem State.memOk.copyIssue (h : s.memOk) {op hr} : (s.copyIssue op hr).memOk := .ite h.updMe.updCore h.updMe.updCore.result
theorem State.memOk.execCpy (h : s.memOk) {p hr} : nextMemOk (execCpy p hr s) := h.act fun ht => by exact ht.copyIssue
theorem State.memOk.execCred (h : s.memOk) {p hr} : nextMemOk (execCred p hr s) := h.act fun ht => by exact ht.copyIssue
theorem State.memOk.execCmc (h : s.memOk) {p hr} : nextMemOk (execCmc p hr s) := h.act fun ht => by exact ht.copyIssue
theorem State.memOk.execCgat (h : s.memOk) {p hr} : nextMemOk (execCgat p hr s) := h.act fun ht => by exact ht.copyIssue
theorem State.memOk.execCstat (h : s.memOk) {p fl kb} : nextMemOk (execCstat p fl kb s) := h.always fun ht => by exact ht.result
theorem State.memOk.updCmd (h : s.memOk) {n id f} : (s.updCmd n id f).memOk := h.updCtx

theorem State.memOk.endFiller (h : s.memOk) {n m} : (s.endFiller n m).memOk := by
  unfold State.endFiller
  split
  · exact h
  · split
    · refine h.foldl fun hv => ?_
      extract_lets
      split
      exacts [hv.setRing, hv]
    · exact h

theorem State.memOk.cancelCmd (h : s.memOk) {n m} : (s.cancelCmd n m).memOk := by
  unfold State.cancelCmd
  extract_lets done ended
  have hended : ended.memOk := .ite h.updCmd.endFiller h.updCmd
  exact .ite hended hended.engineFlag

theorem State.memOk.execCcancel (h : s.memOk) {p fl} : nextMemOk (execCcancel p fl s) := by
  refine h.always fun ht => ?_
  refine (ht.foldl fun hu => ?_).updCtx
  exact hu.cancelCmd

theorem State.memOk.stopCmd (h : s.memOk) {n id g f} : (s.stopCmd n id g f).memOk := (State.memOk.ite h.controlEvent h).updCmd

theorem State.memOk.startChecks (h : s.memOk) {n m} : (s.startChecks n m).2.memOk := by
  unfold State.startChecks
  extract_lets
  split
  · exact h
  · split
    · exact h
    · split
      next u e => exact h.credTable.of_snd e
      next u e =>
        have hu := h.credTable.of_snd e
        extract_lets
        split <;> exact hu

theorem State.memOk.execCopyCommandStart (h : s.memOk) : nextMemOk (execCopyCommandStart s) := by
  unfold Machine.execCopyCommandStart
  extract_lets
  split
  · trivial
  · refine .ite trivial (.ite ?_ (.ite trivial ?_))
    · split
      exacts [.ite trivial h.walkFor, trivial]
    · split
      next u e => exact (h.startChecks.of_snd e).stopCmd
      next u e =>
        have hu := h.startChecks.of_snd e
        exact (State.memOk.ite hu (.ite hu.tell hu.updTile)).updCmd

theorem State.memOk.copyRead (h : s.memOk) {n x eb} : (s.copyRead n x eb).2.memOk := by
  unfold State.copyRead
  extract_lets
  split
  · split
    next u e =>
      have hu := h.translateNow.of_snd e
      extract_lets
      split
      · exact hu
      · split
        · exact hu
        · split <;> exact hu
    next u e => exact h.translateNow.of_snd e
    next u e => exact h.translateNow.of_snd e
    next u e => exact h.translateNow.of_snd e
  · split
    · exact h
    · split
      · exact h
      · extract_lets
        split
        · exact h
        · split
          · exact h
          · split
            exacts [h.destroyed, h]

theorem State.memOk.copyPlace (h : s.memOk) {n x eb} : (s.copyPlace n x eb).2.memOk := by
  unfold State.copyPlace
  extract_lets
  split
  · split
    next u e =>
      have hu := h.translateNow.of_snd e
      extract_lets
      split
      · exact hu
      · split <;> exact hu
    next u e => exact h.translateNow.of_snd e
    next u e => exact h.translateNow.of_snd e
    next u e => exact h.translateNow.of_snd e
  · split
    · exact h
    · split
      · exact h
      · split
        · exact h
        · split <;> exact h

theorem State.memOk.gather (h : s.memOk) {n m b xs acc} : (s.gather n m b xs acc).2.memOk := by
  induction xs generalizing s b acc with
  | nil => exact h
  | cons x r ih =>
    unfold State.gather
    split
    next t e => exact ih (h.copyRead.of_snd e)
    next t e => exact h.copyRead.of_snd e
    next t e => exact h.copyRead.of_snd e
    next t e => exact ih (h.copyRead.of_snd e)

theorem State.memOk.burstFrom (h : s.memOk) {n m g k b} : (s.burstFrom n m g k b).2.memOk := by
  induction k generalizing s g b with
  | zero => exact h
  | succ k ih =>
    unfold State.burstFrom
    split
    next t e => exact h.gather.of_snd e
    next t e _ => exact h.gather.of_snd e
    next t e _ =>
      have ht := h.gather.of_snd e
      split
      next u e => exact ht.copyPlace.of_snd e
      next u e => exact ht.copyPlace.of_snd e
      next u _ _ _ e _ => exact ht.copyPlace.of_snd e
      next u _ _ e _ => exact ih (ht.copyPlace.of_snd e)

theorem State.memOk.burstWrite (h : s.memOk) {n m b} : (s.burstWrite n m b).memOk := by
  refine .ite h ?_
  split
  exacts [h.store, h.inject.updCmd, h]

theorem State.memOk.execCopyBurst (h : s.memOk) : nextMemOk (execCopyBurst s) := by
  unfold Machine.execCopyBurst
  extract_lets
  split
  · trivial
  · extract_lets
    split
    next u e =>
      have hu := h.burstFrom.of_snd e
      refine .ite trivial ?_
      split
      · exact hu.burstWrite.come.updCore.stopCmd
      · exact .ite hu.burstWrite.come.updCore.updCmd hu.burstWrite.come.updCore.updCmd

theorem State.memOk.execCopyCompletion (h : s.memOk) : nextMemOk (execCopyCompletion s) := by
  unfold Machine.execCopyCompletion
  extract_lets
  split
  exacts [trivial, .ite trivial ((State.memOk.ite h.updCmd h.updCmd.engineFlag).updCtx)]

end Sys2Proof.Machine
end

section
/-! PROOFS. Memory stays canonical (R179): dispatch, fitting, links, system operations and the ends of tasks and jobs. -/

namespace Sys2Proof.Machine
variable {s : State}

/-! ### Dispatch of tasks and teams -/

theorem State.memOk.toCore (h : s.memOk) {d core e} : (s.toCore d core e).memOk := h.updDie

theorem State.memOk.execTaskDispatch (h : s.memOk) : nextMemOk (execTaskDispatch s) := by
  refine .ite trivial ?_
  split
  · refine .ite trivial ?_
    split
    exacts [h.toCore.come, trivial]
  · trivial

theorem State.memOk.placeTeam (h : s.memOk) {t ctxs} : (s.placeTeam t ctxs).memOk := by
  unfold State.placeTeam
  extract_lets ms order counted ms' placed bound
  have hplaced : placed.memOk := State.memOk.updTeam (h.foldl fun ht => by exact ht.updEntry)
  have hbound : bound.memOk := by
    refine .ite hplaced.bindName (hplaced.foldl fun ht => ?_)
    split
    exacts [ht.updDie, ht]
  refine hbound.foldl fun ht => ?_
  exact ht.startTask

theorem State.memOk.execTeamDispatch (h : s.memOk) : nextMemOk (execTeamDispatch s) := by
  unfold Machine.execTeamDispatch
  split
  · trivial
  · exact .ite trivial (.ite (.ite h.placeTeam.come trivial) (.ite trivial h.updTeam))

theorem State.memOk.trackTeams (h : s.memOk) : s.trackTeams.memOk := h.rest

theorem State.memOk.execTeamMigrate (h : s.memOk) : nextMemOk (execTeamMigrate s) := by
  unfold Machine.execTeamMigrate
  split
  · trivial
  · extract_lets
    split
    · refine .ite trivial ((h.dropEntries.foldl fun hv => ?_).updTeam)
      exact hv.moveImage.enqueue
    · trivial

theorem State.memOk.execFreeTeamSlotsAdvertise (h : s.memOk) : nextMemOk (execFreeTeamSlotsAdvertise s) := .ite trivial h.updDie

theorem State.memOk.execLocalTaskStart (h : s.memOk) : nextMemOk (execLocalTaskStart s) := by
  unfold Machine.execLocalTaskStart
  extract_lets
  split
  exacts [h.startTask, trivial]

theorem State.memOk.steal (h : s.memOk) {thief victim} : (s.steal thief victim).2.memOk :=
  (s.keepsContexts_steal ..).memOk h

theorem State.memOk.execAutoSteal (h : s.memOk) : nextMemOk (execAutoSteal s) := .ite trivial h.come.steal.updCore

theorem State.memOk.execSteal (h : s.memOk) {p d a f} : nextMemOk (execSteal p d a f s) := by
  refine h.act fun {t} ht => ?_
  have hn : (t.stealNamed (s.me.g a).toNat).2.memOk := (t.keepsContexts_stealNamed _).memOk ht
  exact hn.updMe

theorem State.memOk.execCorePreemption (h : s.memOk) : nextMemOk (execCorePreemption s) := by
  unfold Machine.execCorePreemption
  extract_lets
  split
  · refine .ite trivial ?_
    split
    exacts [.ite trivial h.updCtx, trivial]
  · trivial

theorem State.memOk.trackHead (h : s.memOk) {core} : (s.trackHead core).memOk := h.updCore

/-! ### Fitting operations -/

theorem State.memOk.updView (h : s.memOk) {n rg f} : (s.updView n rg f).memOk := h.updCtx

theorem State.memOk.loadWeights (h : s.memOk) {n ref w} : optMemOk (s.loadWeights n ref w) := by
  unfold State.loadWeights
  extract_lets
  split
  · exact .some h
  · cases roomIn _ _ _ with
    | none => exact .none
    | some r => exact .some h.rest

theorem State.memOk.updRegEntry (h : s.memOk) {n ref f} : (s.updRegEntry n ref f).memOk := h.rest
theorem State.memOk.useEntry (h : s.memOk) {n ref} : (s.useEntry n ref).memOk := h.updRegEntry
theorem State.memOk.bindRef (h : s.memOk) {n ref} : (s.bindRef n ref).memOk := h.updRegEntry

theorem State.memOk.of_bind_loadWeights {t : State} (h : s.memOk) {o : Option Words} {n ref}
    (e : o.bind (s.loadWeights n ref) = some t) : t.memOk := by
  cases o with
  | none => contradiction
  | some w => exact h.loadWeights.of_some e

theorem State.memOk.execWeightsLoaded (h : s.memOk) : nextMemOk (execWeightsLoaded s) := by
  unfold Machine.execWeightsLoaded
  extract_lets
  split
  · split
    · exact .ite trivial h.updCtx
    · refine .ite h.destroyed.updCtx ?_
      split
      next t e => exact (h.of_bind_loadWeights e).updCtx
      · trivial
  · split
    · trivial
    · refine .ite h.destroyed ?_
      split
      next t e => exact (h.of_bind_loadWeights e).bindRef.updView
      · trivial

theorem State.memOk.surrogate (h : s.memOk) {x ys} : (s.surrogate x ys).memOk := h.foldl fun ht => by exact ht.result

theorem State.memOk.execApxb (h : s.memOk) {p rg len} : nextMemOk (execApxb p rg len s) := by
  refine h.act fun {t} ht => ?_
  extract_lets
  split
  · exact ht
  · have hused {c : Prop} [Decidable c] {n r} : (if c then t.useEntry n r else t).memOk := .ite ht.useEntry ht
    exact .ite hused.updMe.updView.surrogate.updMe hused.updMe.updView

theorem State.memOk.execApxe (h : s.memOk) {p rg} : nextMemOk (execApxe p rg s) := by
  refine h.act fun ht => ?_
  extract_lets
  split
  · exact .ite ht (.ite ((State.memOk.ite ht.updMe.writeMem.updView ht.updMe).updMe) (.ite ht.updMe.writeMem.updView ht.updMe))
  · exact ht

theorem State.memOk.execApxComparison (h : s.memOk) : nextMemOk (execApxComparison s) := .ite h.updCtx trivial
theorem State.memOk.execSurrogateResult (h : s.memOk) : nextMemOk (execSurrogateResult s) := .ite h.setCtx (.ite h.updCtx trivial)
theorem State.memOk.releaseView (h : s.memOk) {n rg} : (s.releaseView n rg).memOk := .ite h ((State.memOk.ite h.unbind h).updView)
theorem State.memOk.ftBind (h : s.memOk) {rg w b st} : (s.ftBind rg w b st).memOk := h.releaseView.bindRef.updView.updMe.fill
theorem State.memOk.execFtcfg (h : s.memOk) {p rg zb} : nextMemOk (execFtcfg p rg zb s) := h.act fun ht => by exact ht.ftBind
theorem State.memOk.sendLine (h : s.memOk) {n r i b} : (s.sendLine n r i b).memOk := h.updCtx

theorem State.memOk.writeTile (h : s.memOk) {n r w} : (s.writeTile n r w).memOk := by
  refine .ite (h.foldl fun ht => ?_) ?_
  · exact ht.sendLine
  · split
    exacts [h, .ite h (.ite h.writeMem.setTile h.writeMem)]

theorem State.memOk.execFtcfgNew (h : s.memOk) {p rg zb} : nextMemOk (execFtcfgNew p rg zb s) := by
  refine h.act fun ht => ?_
  split
  · refine State.memOk.ftBind ?_
    split
    exacts [ht.updRegEntry.writeTile, ht]

theorem State.memOk.execFtinv (h : s.memOk) {p rg} : nextMemOk (execFtinv p rg s) :=
  h.always fun ht => by exact ht.releaseView.updView.updMe

theorem State.memOk.execFtst (h : s.memOk) {p rg mask f} : nextMemOk (execFtst p rg mask f s) :=
  h.act fun ht => by exact ht.resultF

theorem State.memOk.fitIssue (h : s.memOk) {o} : (s.fitIssue o).memOk := .ite h.updMe h.updMe.result

theorem State.memOk.execFtstep (h : s.memOk) {p rg zb fl} : nextMemOk (execFtstep p rg zb fl s) :=
  h.act fun ht => by exact ht.fitIssue

theorem State.memOk.execFtsamp (h : s.memOk) {p rg zb fl} : nextMemOk (execFtsamp p rg zb fl s) :=
  h.act fun ht => by exact (State.memOk.ite ht ht.updView).fitIssue

theorem State.memOk.updFitOps (h : s.memOk) {n f} : (s.updFitOps n f).memOk := h.updCtx

theorem State.memOk.execFittingOpComplete (h : s.memOk) : nextMemOk (execFittingOpComplete s) := by
  unfold Machine.execFittingOpComplete
  extract_lets n c done
  have hdone {t : State} (ht : t.memOk) {o} : (done t o).memOk := .ite ht.updFitOps ht.updFitOps.engineFlag
  clear_value done
  split
  · trivial
  · refine .ite trivial (.ite (.ite trivial (hdone h)) ?_)
    split
    · trivial
    · extract_lets looked
      have hlooked : looked.memOk := h.foldl fun ht => by exact .ite ht.destroyed ht
      clear_value looked
      split
      exacts [.ite hlooked.writeTile.updFitOps (hdone hlooked.writeTile), hlooked.updFitOps]

/-! ### Links -/

theorem State.memOk.setLink (h : s.memOk) {n rx l} : (s.setLink n rx l).memOk := h.rest
theorem State.memOk.updLink (h : s.memOk) {n rx f} : (s.updLink n rx f).memOk := h.setLink
theorem State.memOk.sendAck (h : s.memOk) {n} : (s.sendAck n).memOk := h.updLink.setLink
theorem State.memOk.sendNak (h : s.memOk) {n} : (s.sendNak n).memOk := .ite h h.updLink.setLink
theorem State.memOk.sendTrain (h : s.memOk) {n ver} : (s.sendTrain n ver).memOk := h.updLink
theorem State.memOk.sendOn (h : s.memOk) {n key p} : (s.sendOn n key p).memOk := h.updLink

theorem State.memOk.freeSlots (h : s.memOk) {link p} : (s.freeSlots link p).memOk := by
  unfold State.freeSlots
  split
  exacts [h, h.updLink]

theorem State.memOk.transmit (h : s.memOk) {n} : optMemOk (s.transmit n) := by
  unfold State.transmit
  extract_lets
  split
  · exact .none
  · split
    exacts [.none, .some h.setLink.rest]

theorem State.memOk.execFlitTransmit (h : s.memOk) : nextMemOk (execFlitTransmit s) := by
  unfold Machine.execFlitTransmit
  split
  next t e => exact h.transmit.of_some e
  · trivial

theorem State.memOk.transmitAll (h : s.memOk) {n k} : (s.transmitAll n k).memOk := by
  induction k generalizing s with
  | zero => exact h
  | succ k ih =>
    unfold State.transmitAll
    split
    next t e => exact ih (h.transmit.of_some e)
    · exact h

theorem State.memOk.acceptFlit (h : s.memOk) {n f} : (s.acceptFlit n f).memOk := by
  unfold State.acceptFlit
  extract_lets l e buf l' whole linked arrived
  have harrived : arrived.memOk := by
    unfold arrived
    clear_value buf whole
    split
    exacts [h.setLink.updLink.rest, h.setLink]
  exact .ite harrived.sendAck harrived

theorem State.memOk.execFlitReceive (h : s.memOk) : nextMemOk (execFlitReceive s) :=
  .ite trivial (.ite h (.ite h.sendNak (.ite h (.ite trivial (.ite h.acceptFlit (.ite h h.sendNak))))))

theorem State.memOk.execAckReceive (h : s.memOk) : nextMemOk (execAckReceive s) := .ite trivial h.updLink
theorem State.memOk.execAckTimer (h : s.memOk) : nextMemOk (execAckTimer s) := .ite trivial h.sendAck
theorem State.memOk.execNakReceive (h : s.memOk) : nextMemOk (execNakReceive s) := .ite trivial h.updLink
theorem State.memOk.reportLink (h : s.memOk) {n} : (s.reportLink n).memOk := h.rest

theorem State.memOk.dirDown (h : s.memOk) {n rx t0} : (s.dirDown n rx t0).memOk :=
  (State.memOk.ite h.setLink.event h.setLink).reportLink

theorem State.memOk.linkDown (h : s.memOk) {n rx t0} : (s.linkDown n rx t0).memOk := .ite h.dirDown.dirDown h.dirDown

theorem State.memOk.restripe (h : s.memOk) {n rx mask lost added} : (s.restripe n rx mask lost added).memOk :=
  .ite h.linkDown (.ite h.linkDown h.setLink)

theorem State.memOk.execTrainReceive (h : s.memOk) : nextMemOk (execTrainReceive s) :=
  .ite trivial (.ite h.setLink.updLink (State.memOk.ite h.restripe.updLink h.restripe))

theorem State.memOk.execLosDetection (h : s.memOk) : nextMemOk (execLosDetection s) :=
  .ite trivial (State.memOk.ite h.restripe.sendTrain h.restripe)

theorem State.memOk.execWavelengthRelock (h : s.memOk) : nextMemOk (execWavelengthRelock s) :=
  .ite trivial (.ite h.restripe.sendTrain (.ite h.setLink trivial))

theorem State.memOk.execRestripeTimerEnd (h : s.memOk) : nextMemOk (execRestripeTimerEnd s) :=
  .ite trivial (.ite h.setLink (.ite h.setLink.event h.setLink.event.restripe.sendTrain))

theorem State.memOk.hold (h : s.memOk) {n} : (s.hold n).memOk := h.transmitAll.updLink.updLink
theorem State.memOk.execLkev (h : s.memOk) {p d a} : nextMemOk (execLkev p d a s) := h.always fun ht => by exact ht.resultG
theorem State.memOk.execRtver (h : s.memOk) {p d} : nextMemOk (execRtver p d s) := h.always fun ht => by exact ht.resultG

/-! ### System operations -/

theorem State.memOk.execTrap (h : s.memOk) {p imm} : nextMemOk (execTrap p imm s) := h.act fun ht => by exact ht

theorem State.memOk.inlineChoice (h : s.memOk) {n hr} : (s.inlineChoice n hr).memOk := by
  unfold State.inlineChoice
  split
  exacts [.ite h.takeImage h.updCtx, h]

theorem State.memOk.execEret (h : s.memOk) {p} : nextMemOk (execEret p s) := by
  refine h.act fun ht => ?_
  refine State.memOk.updCtx ?_
  split
  · exact ht.drain.updMe.updCore.planeCycle.restoreFrame.inlineChoice
  · exact ht.drain.updMe.updCore.planeCycle.restoreFrame

theorem State.memOk.execHalt (h : s.memOk) {p} : nextMemOk (execHalt p s) := h.always fun ht => by exact ht.updMe.updMe.drain.stop

theorem State.memOk.execSysrd (h : s.memOk) {p d num} : nextMemOk (execSysrd p d num s) :=
  h.act fun ht => by exact ht.resultG.updMe

theorem State.memOk.execSyswr (h : s.memOk) {p a num} : nextMemOk (execSyswr p a num s) := h.act fun ht => by exact ht
theorem State.memOk.askPage (h : s.memOk) {w} : (s.askPage w).memOk := h.updMe.walkFor

theorem State.memOk.execPageWalkPreload (h : s.memOk) {p a} : nextMemOk (execPageWalkPreload p a s) := by
  refine (State.memOk.ite h.askPage h).act fun ht => ?_
  exact ht.updMe

theorem State.memOk.walkAgain (h : s.memOk) : s.walkAgain.memOk := h.rest.foldl fun ht => by exact ht.walkFor
theorem State.memOk.invalidate (h : s.memOk) {f} : (s.invalidate f).memOk := h.walkAgain.rest

theorem State.memOk.execTlbPageInvalidate (h : s.memOk) {p a} : nextMemOk (execTlbPageInvalidate p a s) :=
  h.act fun ht => by exact ht.invalidate

theorem State.memOk.execTlbAllInvalidate (h : s.memOk) {p a} : nextMemOk (execTlbAllInvalidate p a s) :=
  h.act fun ht => by exact ht.invalidate

theorem State.memOk.execPageTableRootWrite (h : s.memOk) {p a} : nextMemOk (execPageTableRootWrite p a s) :=
  h.always fun ht => by exact .ite ht.updDie ht

theorem State.memOk.execPwrLimWrite (h : s.memOk) {p a} : nextMemOk (execPwrLimWrite p a s) :=
  h.always fun ht => by exact ht.updCore

theorem State.memOk.execHandlerWordWrite (h : s.memOk) {p a ctl x} : nextMemOk (execHandlerWordWrite p a ctl x s) :=
  h.always fun ht => by exact .ite ht.updCtx (.ite ht.updCtx.dropWakes ht)

theorem State.memOk.execFutureEmptyWordWrite (h : s.memOk) {p a} : nextMemOk (execFutureEmptyWordWrite p a s) :=
  h.always fun ht => by exact .ite ht.updMe ht

theorem State.memOk.execFutemptyInline (h : s.memOk) {p a} : nextMemOk (execFutemptyInline p a s) :=
  h.always fun ht => by exact ht.updMe

theorem State.memOk.execTrapWordWrite (h : s.memOk) {p a} : nextMemOk (execTrapWordWrite p a s) :=
  h.always fun ht => by exact .ite ht.updMe ht

theorem State.memOk.execTimerWrite (h : s.memOk) {p a} : nextMemOk (execTimerWrite p a s) := h.always fun ht => by exact ht.updMe

theorem State.memOk.execTframeWrite (h : s.memOk) {p a} : nextMemOk (execTframeWrite p a s) :=
  h.always fun ht => by exact .ite ht.updMe ht

theorem State.memOk.execPreemptRequest (h : s.memOk) {p a x} : nextMemOk (execPreemptRequest p a x s) :=
  h.always fun ht => by exact ht.updCtx

theorem State.memOk.resume (h : s.memOk) {n} : (s.resume n).memOk := .ite h (.ite h.setCtx h.restoreFrame.updCore)

theorem State.memOk.execContextResume (h : s.memOk) {p a x} : nextMemOk (execContextResume p a x s) :=
  h.always fun ht => by exact ht.resume

theorem State.memOk.execCheckpointAreaWrite (h : s.memOk) {p a} : nextMemOk (execCheckpointAreaWrite p a s) :=
  h.always fun ht => by exact .ite ht.updJob ht

theorem State.memOk.execLinDmaxWrite (h : s.memOk) {p a} : nextMemOk (execLinDmaxWrite p a s) :=
  h.always fun ht => by exact ht.updDie

theorem State.memOk.execCheckpointPeriodWrite (h : s.memOk) {p a steps} : nextMemOk (execCheckpointPeriodWrite p a steps s) :=
  h.always fun ht => by exact ht.updJob

/-! ### The end of tasks and jobs -/

theorem State.memOk.fewRecords (h : s.memOk) {d before} : (s.fewRecords d before).memOk := .ite h.controlEvent h

theorem State.memOk.retireOut (h : s.memOk) {c t j r depth} : (s.retireOut c t j r depth).memOk := by
  unfold State.retireOut
  split
  · split
    · exact h.setTile
    · exact .ite h.setTile.writeRecord.fewRecords.askRecovery h.setTile.writeRecord.fewRecords
  · split
    exacts [h.tell.tell, h.tell]

theorem State.memOk.retireTask (h : s.memOk) {c t} : (s.retireTask c t).memOk := by
  refine .ite h ?_
  extract_lets plan depth u
  have hu : u.memOk := by
    refine h.foldl fun hv => ?_
    exact hv.retireOut
  clear_value plan
  split
  exacts [hu.controlEvent, hu.readyAll]

theorem State.memOk.retireAsk (h : s.memOk) : s.retireAsk.memOk := by
  unfold State.retireAsk
  split
  · exact h
  · refine .ite h ?_
    split
    · refine .ite (.ite h h.tell) ?_
      split
      exacts [.ite h.replicate (.ite h h.askRecovery), h]
    · exact h.retireTask.updMe
    · exact .ite h.retireTask.updMe h

theorem State.memOk.releaseUses (h : s.memOk) {t} : (s.releaseUses t).memOk := by
  refine h.foldl fun ht => ?_
  refine .ite ht.tell ?_
  split
  exacts [.ite ht ht.updDie, ht]

theorem State.memOk.leaveAll (h : s.memOk) {n t} : (s.leaveAll n t).memOk := by
  refine .ite h ((h.foldl fun ht => ?_).foldl fun ht => ?_)
  · exact ht.barApply
  · exact ht.barApply

theorem State.memOk.rankEnded (h : s.memOk) {t} : (s.rankEnded t).memOk := by
  unfold State.rankEnded
  split
  exacts [h, .ite h.updTeam h.updDie.rest]

theorem State.memOk.endTask (h : s.memOk) {n} : (s.endTask n).memOk := by
  unfold State.endTask
  split
  · exact h
  next t e =>
    extract_lets c left retired unlocked cleared freed
    have hleft : left.memOk := h.ownFlush.leaveAll
    have hunlocked : unlocked.memOk := (State.memOk.ite hleft hleft.retireTask).releaseUses.dropRings.unbindAll.updCore
    have hcleared : cleared.memOk := hunlocked.foldl fun ht => by exact ht.dropEntries.updDie
    exact hcleared.rankEnded.setCtx.dropWakes.readyAll

theorem State.memOk.execTend (h : s.memOk) {p} : nextMemOk (execTend p s) := h.act fun ht => by exact ht.endTask.updCtx

theorem State.memOk.endJob (h : s.memOk) {j} : (s.endJob j).memOk := by
  refine ((h.foldl fun ht => ?_).rest).readyAll
  refine ht.updDie.foldl fun hu => ?_
  exact hu.free_

theorem State.memOk.execJobEnd (h : s.memOk) : nextMemOk (execJobEnd s) := h.endJob

end Sys2Proof.Machine
end

section
/-! PROOFS. Memory stays canonical (R179): packets, groups, and frozen teams with their images. -/

namespace Sys2Proof.Machine
variable {s : State}

/-! ### Packets and their delivery -/

theorem State.memOk.takeOut (h : s.memOk) {i} : (s.takeOut i).memOk := by
  unfold State.takeOut
  split
  exacts [h.freeSlots.rest, h]

theorem State.memOk.hop (h : s.memOk) {i p} : optMemOk (s.hop i p) := by
  unfold State.hop
  extract_lets e cls esc way fits
  clear_value fits way
  split
  · exact .some h.takeOut
  · split
    · exact .some h.takeOut.sendOn
    · split
      extract_lets
      split
      · split
        exacts [.some h.takeOut.sendOn, .none]
      · split
        exacts [.some h.takeOut, .none]

theorem State.memOk.spread (h : s.memOk) {i t} : optMemOk (s.spread i t) := by
  unfold State.spread
  extract_lets p e links ways u
  have hu : u.memOk := by
    refine h.takeOut.foldl fun hv => ?_
    exact hv.sendOn
  exact .ite (.some (.ite hu.rest hu)) .none

theorem State.memOk.execPacketHop (h : s.memOk) : nextMemOk (execPacketHop s) := by
  unfold Machine.execPacketHop
  split
  · trivial
  next t _ =>
    have hm : optMemOk (if t.pkt.mc then s.spread s.evt.n t else s.hop s.evt.n t.pkt) := .ite h.spread h.hop
    refine .ite h.takeOut (.ite trivial ?_)
    split
    next u e => exact hm.of_some e
    · trivial

theorem State.memOk.ackPacket (h : s.memOk) {d p} : (s.ackPacket d p).memOk := h.rest

theorem State.memOk.takePacket (h : s.memOk) {i p} : (s.takePacket i p).2.memOk := by
  unfold State.takePacket
  extract_lets
  split
  · exact h.takeOut
  · split
    exacts [h.takeOut, h.takeOut.updDie.ackPacket]

theorem State.memOk.places (h : s.memOk) {home off len rd wr} : (s.places home off len rd wr).2.memOk := by
  refine foldlSnd h fun hq => ?_
  split
  · exact hq
  · split
    next u e => exact hq.walk.of_snd e
    next u e =>
      have hu := hq.walk.of_snd e
      split
      · split <;> exact hu
      · exact hu

theorem State.memOk.answer (h : s.memOk) {d p op r} : (s.answer d p op r).memOk := by
  unfold State.answer
  split <;> exact h.inject

theorem State.memOk.packetPlaces (h : s.memOk) {p} : (s.packetPlaces p).2.memOk := by
  unfold State.packetPlaces
  split
  · split
    exacts [h.places, h.places, h.places, h.places, h]

theorem State.memOk.putPlaces (h : s.memOk) {l b} : (s.putPlaces l b).memOk := by
  unfold State.putPlaces
  extract_lets
  split
  · refine .ite ((h.foldl fun hu => ?_).mendLines) (h.foldl fun hu => ?_)
    · exact hu.store
    · exact hu.store
  · refine h.foldl fun hu => ?_
    exact hu.store

theorem State.memOk.serveRead (h : s.memOk) {d p} : (s.serveRead d p).memOk := by
  unfold State.serveRead
  split
  next t e => exact (h.packetPlaces.of_snd e).answer
  next t e =>
    have ht := h.packetPlaces.of_snd e
    exact .ite ht.answer ht.answer

theorem State.memOk.serveWrite (h : s.memOk) {d p} : (s.serveWrite d p).memOk := by
  refine .ite h.updDie ?_
  split
  next t e => exact (h.packetPlaces.of_snd e).answer
  next t e =>
    have ht := h.packetPlaces.of_snd e
    exact .ite ht.answer (.ite ht.answer ht.putPlaces.answer)

theorem State.memOk.serveAtomic (h : s.memOk) {d p} : (s.serveAtomic d p).memOk := by
  unfold State.serveAtomic
  extract_lets
  split
  next t e => exact (h.packetPlaces.of_snd e).answer
  next t e =>
    have ht := h.packetPlaces.of_snd e
    split
    exacts [.ite ht.answer (.ite ht.answer (.ite ht.answer ht.applyAtomic.answer)), ht]

theorem State.memOk.servePut (h : s.memOk) {d p} : (s.servePut d p).memOk := by
  unfold State.servePut
  split
  next t e => exact (h.packetPlaces.of_snd e).answer
  next t e =>
    have ht := h.packetPlaces.of_snd e
    split
    · exact ht.answer
    · exact (State.memOk.ite ht.putPlaces.updCtx ht.putPlaces.controlEvent).answer

theorem State.memOk.serveTile (h : s.memOk) {d p} : (s.serveTile d p).memOk := by
  unfold State.serveTile
  extract_lets r b w out fault reply
  have hreply {x : Option Nat × State} (hx : x.2.memOk) : (reply x).memOk := by
    unfold reply
    split <;> exact State.memOk.answer hx
  clear_value reply
  split
  · split
    next u e => exact (h.tlnew.of_snd e).answer
    next u e => exact (h.tlnew.of_snd e).answer
  · split
    next u e => exact (h.tlrd.of_snd e).answer
    next u e => exact (h.tlrd.of_snd e).answer
  · exact hreply h.tlwr
  · exact hreply h.tlfin
  · exact h.answer
  · exact .ite h.answer h.tlrep.answer
  · exact hreply h.tileStore
  · exact h

theorem State.memOk.serveRecord (h : s.memOk) {d r tail b} : (s.serveRecord d r tail b).memOk := by
  refine .ite ?_ ?_
  · split
    exacts [h.updDie.mirrorRecord, h]
  · split
    · exact h
    · exact .ite h.setTile.writeRecord.fewRecords.askRecovery h.setTile.writeRecord.fewRecords

theorem State.memOk.serveReplicate (h : s.memOk) {d r} : (s.serveReplicate d r).memOk := by
  unfold State.serveReplicate
  split
  exacts [.ite (.ite h h.replicate) (.ite h h.askRecovery), h]

theorem State.memOk.serveMirror (h : s.memOk) {d p} : (s.serveMirror d p).memOk := by
  unfold State.serveMirror
  extract_lets
  split <;> exact h.updDie

theorem State.memOk.serveImage (h : s.memOk) {d p} : (s.serveImage d p).memOk := .ite h.updDie h.updDie

theorem State.memOk.serveWalkFor (h : s.memOk) {d r p pkg who} : (s.serveWalkFor d r p pkg who).memOk := by
  unfold State.serveWalkFor
  extract_lets
  split
  exacts [.ite h.markRebuild.watch.askRecovery h.markRebuild.watch, h.markRebuild.watch]

theorem State.memOk.hearNotice (h : s.memOk) {d r k} : (s.hearNotice d r k).memOk :=
  .ite h.rest.hopelessNow (.ite h.rest.raiseFar h.rest)

theorem State.memOk.serveHome (h : s.memOk) {d p} : (s.serveHome d p).memOk := by
  unfold State.serveHome
  extract_lets
  split
  · exact h.serveMirror
  · exact h.serveMirror
  · exact h.serveMirror
  · exact h.serveMirror
  · exact h.serveMirror
  · exact h.updTile
  · split
    exacts [.ite h.setTile.trim.dropTile h.setTile, h]
  · exact .ite h.askRecovery h
  · exact h.waitOn.watch
  · exact h.updTile
  · exact h.serveRecord
  · exact .ite h h.updDie
  · exact h.serveReplicate.watch
  · exact h.producerLost
  · exact h.released
  · exact h.redispatchTid
  · exact h.updTile
  · exact h.setWprio
  · exact h.countStep
  · exact h.updTile.watch
  · exact h.updTile
  · split
    exacts [.ite h.zeroFill.setTile h, h]
  · split
    exacts [.ite h.writeMem h, h]
  · exact h.hearNotice
  · exact h.serveWalkFor
  · exact h.watch
  · exact h.serveImage
  · exact h.updTile
  · exact h

theorem State.memOk.serveWalkOf (h : s.memOk) {d p} : (s.serveWalkOf d p).memOk := h.updDie
theorem State.memOk.answered (h : s.memOk) {p} : (s.answered p).memOk := h.updReq

theorem State.memOk.copyEnded (h : s.memOk) {n m gs f} : (s.copyEnded n m gs f).memOk := by
  unfold State.copyEnded
  extract_lets
  split
  exacts [.ite h.updCmd h.updCmd.stopCmd, h.updCmd]

theorem State.memOk.copyAnswered (h : s.memOk) {p} : (s.copyAnswered p).memOk := by
  unfold State.copyAnswered
  split
  · split
    exacts [h.copyEnded, h]

theorem State.memOk.walkAnswered (h : s.memOk) {p res} : (s.walkAnswered p res).memOk := .ite h.rest.walked h

theorem State.memOk.takeAnswer (h : s.memOk) {p} : (s.takeAnswer p).memOk :=
  .ite h.answered (.ite h.walkAnswered (.ite h.copyAnswered h))

theorem State.memOk.e2eAck (h : s.memOk) {d key seq} : (s.e2eAck d key seq).memOk := h.updDie.release
theorem State.memOk.multicastAck (h : s.memOk) {d key seq} : (s.multicastAck d key seq).memOk := h.updDie

theorem State.memOk.packetCame (h : s.memOk) {p} : (s.packetCame p).memOk := by
  unfold State.packetCame
  split
  exacts [h.come, h]

theorem State.memOk.deliver (h : s.memOk) {p} : (s.deliver p).memOk := by
  unfold State.deliver
  extract_lets
  split
  · exact h.serveRead
  · exact h.serveWrite
  · exact h.serveAtomic
  · exact h.servePut
  · exact .ite h.serveTile h.serveHome.readyAll
  · exact h.serveWalkOf
  · exact h.takeAnswer
  · exact h.takeAnswer
  · exact .ite h.multicastAck h.e2eAck
  · exact h.inject
  · exact h.updDie
  · exact h.rest
  · exact h

theorem State.memOk.delivery (h : s.memOk) {ops} : nextMemOk (s.delivery ops) := by
  unfold State.delivery
  split
  · trivial
  · refine .ite trivial (.ite (h.takePacket.foldl fun hu => ?_) trivial)
    exact hu.packetCame.deliver

theorem State.memOk.execPacketDelivery (h : s.memOk) : nextMemOk (execPacketDelivery s) := h.delivery
theorem State.memOk.execTableWrite (h : s.memOk) : nextMemOk (execTableWrite s) := h.delivery
theorem State.memOk.execDrainMarkerReceive (h : s.memOk) : nextMemOk (execDrainMarkerReceive s) := h.delivery

theorem State.memOk.lost (h : s.memOk) {p} : (s.lost p).memOk := by
  unfold State.lost
  extract_lets
  split
  · refine .ite h (.ite h.updReq (.ite h.walkAnswered (.ite ?_ (.ite h.updDie h))))
    split
    exacts [h.copyEnded, h]

theorem State.memOk.reportLostCopies (h : s.memOk) : s.reportLostCopies.memOk := by
  refine (h.foldl fun ht => ?_).foldl fun ht => ?_
  · refine ht.foldl fun hu => ?_
    extract_lets gs
    clear_value gs
    split
    exacts [hu, hu.copyEnded.updCmd]
  · exact ht.walkAnswered

theorem State.memOk.reportLost (h : s.memOk) : s.reportLost.memOk := h.reportLostCopies.foldl fun ht => by exact ht.updCtx
theorem State.memOk.replay (h : s.memOk) {d} : (s.replay d).memOk := h.updDie.rest.foldl fun ht => by exact ht.lost

/-! ### Groups, tables and reconfiguration -/

theorem State.memOk.writeTables (h : s.memOk) {ver p} : (s.writeTables ver p).memOk := by
  refine (h.foldl fun ht => ?_).foldl fun ht => ?_
  · exact ht.inject
  · exact ht.inject

theorem State.memOk.startAdvance (h : s.memOk) : s.startAdvance.memOk := by
  unfold State.startAdvance
  split
  · exact h.rest
  · refine h.rest.foldl fun hu => ?_
    exact hu.writeTables

theorem State.memOk.execLinkDownReport (h : s.memOk) : nextMemOk (execLinkDownReport s) := .ite trivial h.startAdvance

theorem State.memOk.floodMark (h : s.memOk) {but what} : (s.floodMark but what).memOk :=
  h.foldl fun ht => by exact .ite ht.setLink ht

theorem State.memOk.peersTo (h : s.memOk) {ver} : (s.peersTo ver).memOk := h.rest
theorem State.memOk.sendDone (h : s.memOk) {ver} : (s.sendDone ver).memOk := .ite h.rest h.inject

theorem State.memOk.advanceEnd (h : s.memOk) : s.advanceEnd.memOk := by
  unfold State.advanceEnd
  split
  exacts [.ite (.ite h.rest.startAdvance h.rest) h, h]

theorem State.memOk.switchTables (h : s.memOk) {ver} : (s.switchTables ver).memOk := by
  refine (((((h.rest.peersTo.foldl fun ht => ?_).rest).foldl fun ht => ?_).reportLost).sendDone).event
  · exact ht.freeSlots
  · exact ht.replay

theorem State.memOk.execAdvanceMark (h : s.memOk) : nextMemOk (execAdvanceMark s) := by
  refine .ite ?_ (.ite h h.floodMark.switchTables)
  split
  exacts [.ite trivial h.rest.floodMark.switchTables.advanceEnd, trivial]

theorem State.memOk.execAdvanceDone (h : s.memOk) : nextMemOk (execAdvanceDone s) := by
  unfold Machine.execAdvanceDone
  split
  · trivial
  · split
    next u e => exact (h.delivery.of_next e).rest.advanceEnd
    · exact h.delivery

theorem State.memOk.execAdvanceTimeout (h : s.memOk) : nextMemOk (execAdvanceTimeout s) := by
  unfold Machine.execAdvanceTimeout
  split
  exacts [trivial, .ite trivial h.rest.event.advanceEnd]

theorem State.memOk.execAuditSend (h : s.memOk) : nextMemOk (execAuditSend s) := .ite trivial h.setLink

theorem State.memOk.execAuditReceive (h : s.memOk) : nextMemOk (execAuditReceive s) := by
  refine .ite trivial (.ite h (h.foldl fun ht => ?_))
  exact .ite ht ht.event.rest

theorem State.memOk.sendMarkers (h : s.memOk) {d} : (s.sendMarkers d).memOk := by
  refine (h.foldl fun ht => ?_).updDie
  exact ht.inject

theorem State.memOk.opDone (h : s.memOk) {who die w} : (s.opDone who die w).memOk := by
  unfold State.opDone
  split
  exacts [h.updReq, h.updDie]

theorem State.memOk.install (h : s.memOk) {r} : (s.install r).memOk := by
  refine (((((((((h.foldl fun ht => ?_).rest).foldl fun ht => ?_).rest).foldl fun ht => ?_).rest).foldl fun ht => ?_).reportLost).event).opDone
  · exact ht.freeSlots
  · exact ht.updLink.updLink
  · exact .ite ht.sendTrain ht
  · exact ht.replay.release

theorem State.memOk.tryInstall (h : s.memOk) : s.tryInstall.memOk := by
  unfold State.tryInstall
  split
  exacts [.ite h.install h, h]

theorem State.memOk.holdLinks (h : s.memOk) : s.holdLinks.memOk := by
  unfold State.holdLinks
  split
  · refine (h.rest.foldl fun hu => ?_).tryInstall
    exact hu.hold
  · exact h

theorem State.memOk.drainedAll (h : s.memOk) : s.drainedAll.memOk := .ite h.rest.floodMark.holdLinks h

theorem State.memOk.drainCheck (h : s.memOk) : s.drainCheck.memOk := by
  unfold State.drainCheck
  split
  exacts [.ite (.ite h.rest.rest.drainedAll h.rest.rest) h, h]

theorem State.memOk.execDrainDoneReceive (h : s.memOk) : nextMemOk (execDrainDoneReceive s) := .ite trivial h.rest.drainedAll

theorem State.memOk.execHoldMarkReceive (h : s.memOk) : nextMemOk (execHoldMarkReceive s) := by
  unfold Machine.execHoldMarkReceive
  split
  exacts [.ite h.floodMark.holdLinks trivial, trivial]

theorem State.memOk.execDrainAnswerReceive (h : s.memOk) : nextMemOk (execDrainAnswerReceive s) := by
  unfold Machine.execDrainAnswerReceive
  split
  next t e => exact (h.delivery.of_next e).drainCheck
  · exact h.delivery

theorem State.memOk.execE2eAckReceive (h : s.memOk) : nextMemOk (execE2eAckReceive s) := by
  unfold Machine.execE2eAckReceive
  split
  next t e => exact (h.delivery.of_next e).drainCheck
  · exact h.delivery

theorem State.memOk.execHeldTimeout (h : s.memOk) : nextMemOk (execHeldTimeout s) := .ite trivial h.linkDown.tryInstall

theorem State.memOk.execHeldDirectionRelock (h : s.memOk) : nextMemOk (execHeldDirectionRelock s) :=
  .ite trivial h.setLink.tryInstall

theorem State.memOk.engineRead (h : s.memOk) {n a len b} : (s.engineRead n a len b).2.memOk := by
  unfold State.engineRead
  extract_lets
  split
  · exact h
  · split
    · split
      · exact h
      · split
        · split <;> exact h
        · exact h
    · split
      next t e => exact h.readBlocks.of_snd e
      next t e => exact h.readBlocks.of_snd e

theorem State.memOk.reconfRead (h : s.memOk) {n a b} : (s.reconfRead n a b).2.memOk := by
  unfold State.reconfRead
  split
  · exact h
  · split
    next t e => exact h.engineRead.of_snd e
    next t e =>
      have ht := h.engineRead.of_snd e
      extract_lets
      split
      · exact ht
      · split
        · exact ht
        · split
          · exact ht
          · split
            next u e => exact ht.engineRead.of_snd e
            next u e =>
              have hu := ht.engineRead.of_snd e
              split
              next v e => exact hu.engineRead.of_snd e
              next v e => exact hu.engineRead.of_snd e

theorem State.memOk.reconfStart (h : s.memOk) {n die who first a} : (s.reconfStart n die who first a).2.memOk := by
  unfold State.reconfStart
  split
  next t e => exact h.reconfRead.of_snd e
  next t e =>
    have ht := h.reconfRead.of_snd e
    split
    · exact ht
    · refine (ht.rest.foldl fun hv => ?_).drainCheck
      exact hv.sendMarkers

theorem State.memOk.yieldOp (h : s.memOk) {op d} : (s.yieldOp op d).memOk := h.queueRequest.updMe

theorem State.memOk.execReconf (h : s.memOk) {p d a} : nextMemOk (execReconf p d a s) := by
  refine h.act fun ht => ?_
  extract_lets
  split
  next u e => exact (ht.yieldOp.reconfStart.of_snd e).opDone
  next u e => exact ht.yieldOp.reconfStart.of_snd e

/-! ### Areas that images are written to -/

theorem State.memOk.areaPages (h : s.memOk) {n home off len rd wr} : (s.areaPages n home off len rd wr).2.memOk := by
  refine foldlSnd h fun hq => ?_
  split
  · exact hq
  · extract_lets
    split
    next u e => exact State.memOk.of_snd (State.memOk.translateNow hq) e
    next u _ e => exact State.memOk.of_snd (State.memOk.translateNow hq) e

theorem State.memOk.sendArea (h : s.memOk) {d home off len m} : (s.sendArea d home off len m).memOk :=
  h.foldl fun ht => by exact ht.inject

theorem State.memOk.putArea (h : s.memOk) {n home off len m} : optMemOk (s.putArea n home off len m) := by
  unfold State.putArea
  split
  · split
    exacts [.some h.sendArea, .none]
  · split
    · exact .none
    next t e =>
      have ht := h.areaPages.of_snd e
      refine .some (ht.foldl fun hu => ?_)
      exact hu.fill

theorem State.memOk.getArea (h : s.memOk) {n home off len} : (s.getArea n home off len).2.memOk := by
  unfold State.getArea
  split
  next t e => exact h.areaPages.of_snd e
  next t e => exact h.areaPages.of_snd e

/-! ### Frozen teams and their images -/

theorem State.memOk.freezeNext (h : s.memOk) {t} : (s.freezeNext t).memOk := by
  refine .ite h ?_
  split
  exacts [h.updCtx, h]

theorem State.memOk.freezeMember (h : s.memOk) {n} : (s.freezeMember n).memOk := h.settleFor.updCtx

theorem State.memOk.thaw (h : s.memOk) {t} : (s.thaw t).memOk := by
  refine ((h.foldl fun ht => ?_).foldl fun ht => ?_).updTeam
  · exact ht.updEntry
  · exact ht.updCtx

theorem State.memOk.frz (h : s.memOk) {t} : (s.frz t).2.memOk := by
  unfold State.frz
  split
  · exact h
  · split
    · exact h.thaw
    · split
      exacts [h.updTeam, h.freezeNext]

theorem State.memOk.frzThaw (h : s.memOk) {t} : (s.frzThaw t).2.memOk := by
  unfold State.frzThaw
  split
  exacts [h, h.thaw]

theorem State.memOk.drainStart (h : s.memOk) {t} : (s.drainStart t).2.memOk := by
  unfold State.drainStart
  split
  · exact h
  · refine h.foldl fun ht => ?_
    exact ht.sendMarkers

theorem State.memOk.drainPoll (h : s.memOk) {t} : (s.drainPoll t).2.memOk := by
  unfold State.drainPoll
  split
  · exact h
  · split
    exacts [h.updTeam, h]

theorem State.memOk.imgw (h : s.memOk) {n x t a first} : (s.imgw n x t a first).2.memOk := by
  unfold State.imgw
  extract_lets
  split
  · exact h
  · split
    · exact h
    · split
      · split
        exacts [h, h.updTeam]
      · split
        · exact h
        · extract_lets
          split
          split
          · exact h
          next u e =>
            have hu := (optMemOk.foldl_bind (.some h) fun ht => State.memOk.putArea ht).of_some e
            extract_lets v w
            have hv : v.memOk := by
              refine .ite (hu.foldl fun hx => ?_) hu
              split
              · refine hx.foldl fun hy => ?_
                exact hy.updDie
              · exact hx
            have hw : w.memOk := hv.rest
            split
            exacts [hw.updTeam, hw.updTeam]

theorem State.memOk.dscan (h : s.memOk) {n a b} : (s.dscan n a b).2.memOk := by
  unfold State.dscan
  extract_lets
  split
  · exact h
  · split
    · exact h
    · exact h.updDie.putArea.getD h.updDie

theorem State.memOk.imageAt (h : s.memOk) {n a skip} : (s.imageAt n a skip).2.2.memOk := by
  unfold State.imageAt
  extract_lets
  split
  · exact h
  · split
    next t e => exact h.getArea.of_snd e
    next t e => exact (h.getArea.of_snd e).getArea

theorem State.memOk.imageChain (h : s.memOk) {n a skip fuel} : (s.imageChain n a skip fuel).2.2.memOk := by
  induction fuel generalizing s a skip with
  | zero => exact h
  | succ fuel ih =>
    unfold State.imageChain
    split
    next t e => exact h.imageAt.of_snd_snd e
    next t e =>
      have ht := h.imageAt.of_snd_snd e
      split
      · exact ht
      · extract_lets
        split
        · exact ht
        · split
          next u e => exact (ih ht).of_snd_snd e
          next u e => exact (ih ht).of_snd_snd e

theorem State.memOk.putOutput (h : s.memOk) {d tid x} : (s.putOutput d tid x).memOk := by
  refine .ite (h.tell.foldl fun ht => ?_) ?_
  · exact ht.tell
  · split
    exacts [.ite h.fill.setTile h, h]

theorem State.memOk.discardTeam (h : s.memOk) {t} : (s.discardTeam t).memOk := by
  refine ((((h.foldl fun ht => ?_).foldl fun ht => ?_).dropEntries).updDie).rest
  · exact ht.abandon
  · split
    exacts [ht.updDie, ht]

theorem State.memOk.putRank (h : s.memOk) {ms known d q b r o} : (s.putRank ms known d q b r o).1.memOk := by
  refine ((h.foldl fun ht => ?_).updDie).enqueue
  exact ht.putOutput

theorem State.memOk.imgr (h : s.memOk) {n a sel} : (s.imgr n a sel).2.memOk := by
  unfold State.imgr
  split
  · exact h
  · extract_lets
    split
    · exact h
    · split
      next t e => exact h.imageChain.of_snd_snd e
      next t e =>
        have ht := h.imageChain.of_snd_snd e
        extract_lets m ranks key u
        split
        · exact ht
        · split
          · exact ht
          · have hu : u.memOk := by
              unfold u
              split
              exacts [ht.discardTeam, ht]
            split
            · exact hu
            · split
              next v _ e =>
                have hv := (foldlFst hu.rest fun hw => State.memOk.putRank hw).of_fst e
                dsimp only
                exact hv.readyAll

theorem State.memOk.teamOp (h : s.memOk) {n by_ first op x a b} : (s.teamOp n by_ first op x a b).2.memOk := by
  unfold State.teamOp
  extract_lets status onTeam
  have hteam {f : Team → Option W64 × State} (hf : ∀ t, (f t).2.memOk) : (onTeam f).2.memOk := by
    unfold onTeam
    split
    exacts [h, hf _]
  clear_value onTeam
  split
  · refine hteam fun t => ?_
    split
    exacts [h.frzThaw, h.frz]
  · refine hteam fun t => ?_
    dsimp only [status]
    split
    exacts [h.drainStart, h.drainPoll]
  · exact h.dscan
  · exact hteam fun t => h.imgw
  · split
    exacts [h, h.imgr]
  · exact h

theorem State.memOk.teamIssue (h : s.memOk) {op x a b d} : (s.teamIssue op x a b d).memOk := by
  unfold State.teamIssue
  extract_lets
  split
  next t e => exact (h.yieldOp.teamOp.of_snd e).opDone
  next t e => exact h.yieldOp.teamOp.of_snd e

theorem State.memOk.execFrz (h : s.memOk) {p d a} : nextMemOk (execFrz p d a s) := h.act fun ht => by exact ht.teamIssue
theorem State.memOk.execFrzThaw (h : s.memOk) {p d a} : nextMemOk (execFrzThaw p d a s) := h.act fun ht => by exact ht.teamIssue
theorem State.memOk.execDrain (h : s.memOk) {p d a} : nextMemOk (execDrain p d a s) := h.act fun ht => by exact ht.teamIssue
theorem State.memOk.execDscan (h : s.memOk) {p d a b} : nextMemOk (execDscan p d a b s) := h.act fun ht => by exact ht.teamIssue

theorem State.memOk.execImgw (h : s.memOk) {p d a b inc bud} : nextMemOk (execImgw p d a b inc bud s) :=
  h.act fun ht => by exact ht.teamIssue

theorem State.memOk.execImgr (h : s.memOk) {p d a b} : nextMemOk (execImgr p d a b s) := h.act fun ht => by exact ht.teamIssue

theorem State.memOk.teamArrival (h : s.memOk) {n r} : nextMemOk (s.teamArrival n r) := by
  refine .ite h.dataArrival ?_
  split
  · refine .ite trivial ?_
    split
    next u e => exact (h.reconfStart.of_snd e).opDone
    next u e => exact .ite trivial (h.reconfStart.of_snd e)
  · split
    next u e => exact (h.teamOp.of_snd e).arrive
    next u e => exact .ite trivial (h.teamOp.of_snd e)
  · trivial

theorem State.memOk.execLatchDataArrival (h : s.memOk) : nextMemOk (execLatchDataArrival s) := by
  unfold Machine.execLatchDataArrival
  extract_lets
  split
  · trivial
  · refine .ite trivial (.ite h.teamArrival (.ite (.ite ?_ trivial) (.ite h.dataArrival trivial)))
    split
    next u e => exact (h.queueApply.of_snd e).arrive
    next u e => exact (h.queueApply.of_snd e).arrive

theorem State.memOk.portStep (h : s.memOk) {op} : nextMemOk (s.portStep op) := by
  refine .ite trivial (.ite h.updDie.opDone (.ite trivial (.ite (.ite trivial ?_) ?_)))
  · split
    next e => exact (h.updDie.reconfStart.of_snd e).opDone
    next e => exact .ite trivial (h.updDie.reconfStart.of_snd e)
  · extract_lets
    split
    next e => exact (h.updDie.teamOp.of_snd e).opDone
    next e => exact .ite trivial (h.updDie.teamOp.of_snd e)

theorem State.memOk.execControlPortFrz (h : s.memOk) : nextMemOk (execControlPortFrz s) := h.portStep
theorem State.memOk.execControlPortDrain (h : s.memOk) : nextMemOk (execControlPortDrain s) := h.portStep
theorem State.memOk.execControlPortDscan (h : s.memOk) : nextMemOk (execControlPortDscan s) := h.portStep
theorem State.memOk.execControlPortImgw (h : s.memOk) : nextMemOk (execControlPortImgw s) := h.portStep
theorem State.memOk.execControlPortImgr (h : s.memOk) : nextMemOk (execControlPortImgr s) := h.portStep
theorem State.memOk.execControlPortReconf (h : s.memOk) : nextMemOk (execControlPortReconf s) := h.portStep

theorem State.memOk.execCheckpointTrigger (h : s.memOk) : nextMemOk (execCheckpointTrigger s) :=
  .ite trivial (.ite h.updJob.controlEvent h.updJob.rest)

end Sys2Proof.Machine
end

section
/-! PROOFS. Memory stays canonical (R179): losses, seals, the host side, power and issue. -/

namespace Sys2Proof.Machine
variable {s : State}

/-! ### Loss of dies and engines -/

theorem State.memOk.opsLost (h : s.memOk) {key} : (s.opsLost key).memOk := by
  refine (h.foldl fun ht => ?_).foldl fun ht => ?_
  · exact ht.updCtx
  · exact .ite ht.opDone ht

theorem State.memOk.restart (h : s.memOk) {d e} : (s.restart d e).memOk := by
  refine State.memOk.redispatch ?_
  split
  exacts [h.updDie, h]

theorem State.memOk.shrink (h : s.memOk) {t} : (s.shrink t).memOk := by
  refine .ite h.opsLost.discardTeam (((h.opsLost.foldl fun ht => ?_).updDie).updTeam)
  exact ht.restart

theorem State.memOk.redispatchOn (h : s.memOk) {ds lost} : (s.redispatchOn ds lost).memOk := by
  refine h.foldl fun ht => ?_
  refine ht.foldl fun hu => ?_
  exact hu.restart

theorem State.memOk.coreOff (h : s.memOk) {c} : (s.coreOff c).memOk := by
  refine ((h.foldl fun ht => ?_).rest).updCore
  exact ht.setCtx

theorem State.memOk.execEngineFault (h : s.memOk) : nextMemOk (execEngineFault s) := by
  refine .ite trivial (((((h.foldl fun ht => ?_).redispatchOn).coreOff).foldl fun ht => ?_).readyAll)
  · exact ht.shrink
  · exact ht.destroyed

theorem State.memOk.promote (h : s.memOk) {b gone r t} : (s.promote b gone r t).memOk := by
  refine .ite h.setTile ?_
  split
  next u e => exact (h.hbmPlace.of_snd e).setTile.zeroFill
  next u e => exact (h.hbmPlace.of_snd e).setTile.zeroFill.redispatchTid
  · exact h.setTile
  · exact h.setTile.redispatchTid
  · exact h.setTile.askRecovery
  · exact .ite h.setTile.askRecovery h.setTile
  · split
    next u e => exact (h.hbmPlace.of_snd e).zeroFill.writeMem.setTile.recopyTile
    · exact .ite h.setTile.askRecovery h.setTile
    · exact .ite h.setTile.askRecovery h.setTile

theorem State.memOk.actFor (h : s.memOk) {b homes gone} : (s.actFor b homes gone).memOk := by
  refine State.memOk.foldl (foldlFst h.updDie.updDie fun ht => ?_) fun ht => ?_
  · exact ht.updDie.mirrorRecord
  · exact ht.promote

theorem State.memOk.sendImage (h : s.memOk) {d i} : (s.sendImage d i).memOk := by
  unfold State.sendImage
  split
  · exact h
  · refine .ite h.updDie (h.foldl fun hu => ?_)
    exact hu.tellBuddy

theorem State.memOk.recopy (h : s.memOk) {d lost} : (s.recopy d lost).memOk := by
  refine ((h.foldl fun ht => ?_).foldl fun ht => ?_).foldl fun ht => ?_
  · refine .ite ht.setTile.recopyTile ?_
    split
    exacts [.ite ht.setTile.updDie ht.setTile.injectTile, ht.setTile]
  · exact ht.mirrorRecord
  · exact ht.sendImage

theorem State.memOk.rehome (h : s.memOk) {x es dst} : (s.rehome x es dst).memOk := by
  unfold State.rehome
  split
  · refine h.rest.foldl fun hu => ?_
    refine State.memOk.enqueue ?_
    split
    exacts [.ite hu.outputsLost hu.outputsLost.abandon, hu.outputsLost]
  · refine h.rest.foldl fun hu => ?_
    refine hu.foldl fun hv => ?_
    exact hv.released

theorem State.memOk.requestsLost (h : s.memOk) {home} : (s.requestsLost home).memOk := h.foldl fun ht => by exact ht.updCtx

theorem State.memOk.loseDie (h : s.memOk) {x} : (s.loseDie x).memOk := by
  unfold State.loseDie
  extract_lets t0 on stored s1 old others mirrored buddy homes s2 es s3 s4 s5 s6 s7 s8 s9 s10
  have hle : x <<< 44 ≤ (x + 1) <<< 44 := by simp only [Nat.shiftLeft_eq]; omega
  have h1 : s1.memOk := h.foldl fun ht => ht.shrink
  have h4 : s4.memOk := (h1.redispatchOn.foldl fun ht => ht.coreOff).updDie
  have h5 : s5.memOk := h4.splice hle
  have h7 : s7.memOk := by
    unfold s7
    clear_value buddy
    split
    exacts [.ite h5.requestsLost.actFor h5.requestsLost, h5.requestsLost]
  have h8 : s8.memOk := h7.foldl fun ht => ht.destroyed
  have h9 : s9.memOk := h8.foldl fun ht => ht.recopy
  exact h9.rehome.rest.event.readyAll

theorem State.memOk.resend (h : s.memOk) {d p} : (s.resend d p).memOk := .ite h (.ite h.inject h.tell)

theorem State.memOk.dropPackets (h : s.memOk) {d home} : (s.dropPackets d home).memOk := by
  refine (h.updDie.foldl fun ht => ?_).release
  exact .ite ht.resend ht.lost

theorem State.memOk.watchAgain (h : s.memOk) {home} : (s.watchAgain home).memOk := by
  refine h.foldl fun ht => ?_
  refine ht.foldl fun hu => ?_
  exact hu.tell

theorem State.memOk.packageLost (h : s.memOk) {p} : (s.packageLost p).memOk := by
  refine .ite (h.foldl fun ht => ?_) h
  refine ht.foldl fun hu => ?_
  split
  exacts [.ite hu.released hu, hu]

theorem State.memOk.hearLoss (h : s.memOk) {home} : (s.hearLoss home).memOk := by
  have hdropped {t : State} (ht : t.memOk) {ds : List Nat} : (ds.foldl (fun s d => s.dropPackets d home) t).memOk :=
    ht.foldl fun hu => hu.dropPackets
  refine (State.memOk.foldl ?_ fun ht => ?_).packageLost.watchAgain.event.readyAll
  · split
    exacts [.ite (hdropped h.rest).actFor (hdropped h.rest), hdropped h.rest]
  · exact ht.recopy

theorem State.memOk.execDieLoss (h : s.memOk) : nextMemOk (execDieLoss s) :=
  .ite trivial (.ite (.ite h.loseDie trivial) (.ite trivial h.hearLoss))

theorem State.memOk.execBuddyRingChange (h : s.memOk) : nextMemOk (execBuddyRingChange s) :=
  h.rest.foldl fun ht => by exact .ite ht ht.recopy

/-! ### Images sealed -/

theorem State.memOk.seal (h : s.memOk) {d num m len own dataAt place} : (s.seal d num m len own dataAt place).2.memOk := by
  unfold State.seal
  extract_lets
  split
  exacts [((State.memOk.ite h.updDie.updDie h.updDie).sendImage).writeMem, h]

theorem State.memOk.execImageCopyComplete (h : s.memOk) : nextMemOk (execImageCopyComplete s) := by
  refine .ite trivial (.ite (((((h.foldl fun ht => ?_).foldl fun ht => ?_).dropEntries).updDie).readyAll) (.ite h.updDie ?_))
  · refine ht.foldl fun hu => ?_
    exact hu.unassign
  · split
    exacts [ht.unbindAll.setCtx.dropRings, ht]
  · split
    exacts [h.updDie, trivial]

/-! ### The host side -/

theorem State.memOk.withLimit (h : s.memOk) {f} : (s.withLimit f).memOk := .ite h.rest h.rest

theorem State.memOk.hosted (h : s.memOk) {f} (hf : ∀ {t : State}, t.memOk → (f t).memOk) : nextMemOk (s.hosted f) :=
  nextMemOk.ite (hf h) trivial

theorem State.memOk.execOwnerWrite (h : s.memOk) : nextMemOk (execOwnerWrite s) := by
  unfold Machine.execOwnerWrite
  extract_lets
  refine h.hosted fun ht => ?_
  refine .ite ((ht.foldl fun hu => ?_).rest) (.ite ht.rest ht)
  exact hu.endJob

theorem State.memOk.answerEntry (h : s.memOk) {a w} : (s.answerEntry a w).memOk := h.store.store

theorem State.memOk.launchEntry (h : s.memOk) {a} : (s.launchEntry a).memOk := by
  refine .ite h.answerEntry (.ite h.answerEntry ?_)
  split
  · exact h.answerEntry
  next t e =>
    have ht := h.fwTranslate.of_snd e
    exact (State.memOk.ite ht.launchRec ht.launchRec.updJob).answerEntry

theorem State.memOk.takeJobs (h : s.memOk) {k} : (s.takeJobs k).memOk := by
  induction k generalizing s with
  | zero => exact h
  | succ k ih =>
    refine ih (State.memOk.rest ?_)
    split
    exacts [h.fwTranslate.launchEntry, h.fwTranslate]

theorem State.memOk.execJobDoorbell (h : s.memOk) : nextMemOk (execJobDoorbell s) := by
  unfold Machine.execJobDoorbell
  extract_lets
  refine h.hosted fun ht => ?_
  exact .ite ht (.ite ht.rest ht.rest.takeJobs)

theorem State.memOk.execEqheadWrite (h : s.memOk) : nextMemOk (execEqheadWrite s) := by
  unfold Machine.execEqheadWrite
  extract_lets
  refine h.hosted fun ht => ?_
  exact .ite ht (.ite ht.rest ht.rest)

theorem State.memOk.execPlimWrite (h : s.memOk) : nextMemOk (execPlimWrite s) := by
  unfold Machine.execPlimWrite
  extract_lets
  refine h.hosted fun ht => ?_
  exact .ite ht ht.withLimit

theorem State.memOk.mboxDone (h : s.memOk) {status} : (s.mboxDone status).memOk := h.rest
theorem State.memOk.mboxWrite (h : s.memOk) {off bs} : (s.mboxWrite off bs).memOk := .ite h.rest.mboxDone h.rest

theorem State.memOk.execBar0RegisterWrite (h : s.memOk) : nextMemOk (execBar0RegisterWrite s) := by
  refine .ite trivial (h.hosted fun ht => ?_)
  refine .ite ht ?_
  split
  · exact .ite ht.rest ht
  · exact .ite ht.rest ht
  · exact .ite ht.rest ht
  · exact .ite ht.rest ht
  · exact .ite ht.mboxWrite ht

theorem State.memOk.execSeal (h : s.memOk) : nextMemOk (execSeal s) := by
  refine .ite (.ite trivial h.seal.rest) ?_
  split
  exacts [trivial, .ite trivial h.seal.rest.mboxDone]

theorem State.memOk.execAperture (h : s.memOk) : nextMemOk (execAperture s) := by
  unfold Machine.execAperture
  extract_lets a
  clear_value a
  refine .ite trivial ?_
  split
  · exact h.mboxDone
  · exact h.rest.mboxDone

theorem State.memOk.execDumpread (h : s.memOk) : nextMemOk (execDumpread s) := by
  unfold Machine.execDumpread
  extract_lets off len
  clear_value off len
  refine .ite trivial ?_
  split
  · exact h.mboxDone
  · exact h.rest.mboxDone

theorem State.memOk.execMeas (h : s.memOk) : nextMemOk (execMeas s) := by
  unfold Machine.execMeas
  extract_lets d i
  clear_value d i
  refine .ite trivial ?_
  split
  · exact h.mboxDone
  · exact h.rest.mboxDone

theorem State.memOk.fatalError (h : s.memOk) {cause} : (s.fatalError cause).memOk := h.rest
theorem State.memOk.execFatalError (h : s.memOk) : nextMemOk (execFatalError s) := .ite trivial h.fatalError

theorem State.memOk.execCoolantConditionChange (h : s.memOk) : nextMemOk (execCoolantConditionChange s) :=
  State.memOk.ite h.withLimit.fatalError h.withLimit

theorem State.memOk.execReadEvents (h : s.memOk) : nextMemOk (execReadEvents s) := .ite h.rest h.rest
theorem State.memOk.execReadDump (h : s.memOk) : nextMemOk (execReadDump s) := h.rest
theorem State.memOk.execResetDie (h : s.memOk) : nextMemOk (execResetDie s) := .ite trivial ((State.memOk.ite h.loseDie h).updDie)
theorem State.memOk.execSetLimit (h : s.memOk) : nextMemOk (execSetLimit s) := h.withLimit
theorem State.memOk.execIdentify (h : s.memOk) : nextMemOk (execIdentify s) := h.rest
theorem State.memOk.spdm (h : s.memOk) {code extra} : nextMemOk (s.spdm code extra) := h.rest
theorem State.memOk.execGetVersion (h : s.memOk) : nextMemOk (execGetVersion s) := h.spdm
theorem State.memOk.execGetCapabilities (h : s.memOk) : nextMemOk (execGetCapabilities s) := h.spdm
theorem State.memOk.execNegotiateAlgorithms (h : s.memOk) : nextMemOk (execNegotiateAlgorithms s) := h.spdm
theorem State.memOk.execGetDigests (h : s.memOk) : nextMemOk (execGetDigests s) := h.spdm
theorem State.memOk.execGetCertificate (h : s.memOk) : nextMemOk (execGetCertificate s) := h.spdm
theorem State.memOk.execChallenge (h : s.memOk) : nextMemOk (execChallenge s) := h.spdm
theorem State.memOk.execGetMeasurements (h : s.memOk) : nextMemOk (execGetMeasurements s) := h.spdm
theorem State.memOk.execDieReset (h : s.memOk) : nextMemOk (execDieReset s) := .ite trivial (.ite h.updDie h.updDie)
theorem State.memOk.execDieReady (h : s.memOk) : nextMemOk (execDieReady s) := .ite trivial h.updDie.rest
theorem State.memOk.execBootTimeout (h : s.memOk) : nextMemOk (execBootTimeout s) := .ite trivial h.updDie
theorem nextMemOk_execPackageReset : nextMemOk (execPackageReset s) := memOk_reset.rest

/-! ### Power leases -/

theorem State.memOk.execSageLeaseGrant (h : s.memOk) : nextMemOk (execSageLeaseGrant s) := by
  unfold Machine.execSageLeaseGrant
  split
  exacts [trivial, .ite h.updCore.rest trivial]

theorem State.memOk.execLeaseExpiry (h : s.memOk) : nextMemOk (execLeaseExpiry s) := by
  unfold Machine.execLeaseExpiry
  extract_lets
  split
  exacts [.ite h.updCore trivial, trivial]

theorem State.memOk.execLeaseRenewal (h : s.memOk) : nextMemOk (execLeaseRenewal s) := .ite h.rest trivial

/-! ### Issue and the time between bundles -/

theorem State.memOk.freezeAll (h : s.memOk) {ws} : (s.freezeAll ws).memOk := by
  unfold State.freezeAll
  split
  · exact h
  · refine h.freeze.foldl fun hu => ?_
    exact hu.alsoFreeze

theorem State.memOk.landFreeze (h : s.memOk) : s.landFreeze.memOk := h.freeze.updMe
theorem State.memOk.takeTimer (h : s.memOk) : s.takeTimer.memOk := h.updMe.takeTrap

theorem State.memOk.pass (h : s.memOk) {core} : (s.pass core).memOk := by
  unfold State.pass
  extract_lets
  split
  exacts [h.updCore.updCtx, h.updCore]

theorem State.memOk.waitFuture (h : s.memOk) {n} : (s.waitFuture n).memOk := by
  unfold State.waitFuture
  extract_lets
  split
  · refine .ite h.waitOn ?_
    split
    exacts [.ite h h.raiseWprio, h]
  · exact h

theorem State.memOk.giveWidth (h : s.memOk) {n} : (s.giveWidth n).memOk := h.drain.waitFuture.pass
theorem State.memOk.futureYield (h : s.memOk) {l} : (s.futureYield l).memOk := h.updMe.giveWidth
theorem State.memOk.raiseLanding (h : s.memOk) {l} : (s.raiseLanding l).memOk := .ite h.futureYield h.takeTrap
theorem State.memOk.afterTrap (h : s.memOk) : s.afterTrap.memOk := .ite h h.pass
theorem State.memOk.arriveAt (h : s.memOk) {n} : (s.arriveAt n).memOk := h.settle.updCtx

theorem State.memOk.takeOff (h : s.memOk) {n} : (s.takeOff n).memOk := by
  refine .ite ?_ h.takeImage
  split
  exacts [h.freezeMember.freezeNext, h.freezeMember]

theorem State.memOk.lateSeq (h : s.memOk) {n} : (s.lateSeq n).memOk := by
  unfold State.lateSeq
  extract_lets
  split
  exacts [h, .ite h.updCtx.seqConfigure.updCtx h]

theorem State.memOk.background (h : s.memOk) {n} : (s.background n).memOk := by
  unfold State.background
  split
  · exact h
  · extract_lets core k ticked counted drained c'
    have hcounted : counted.memOk := State.memOk.lateSeq (.ite h.setCtx.seqConfigure h.setCtx)
    have hdrained : drained.memOk := .ite hcounted.drain hcounted
    exact .ite hdrained.takeOff hdrained

theorem State.memOk.coreBackground (h : s.memOk) {core} : (s.coreBackground core).memOk := by
  refine (((h.planeCycle.foldl fun ht => ?_).updCore).trackHead).trackTeams
  exact ht.background

theorem State.memOk.tellWait (h : s.memOk) {n} : (s.tellWait n).memOk := by
  refine .ite h (State.memOk.updCtx ?_)
  split
  · refine State.memOk.tell ?_
    split
    exacts [h.tell, h]
  · split
    exacts [h.tell, h]

theorem State.memOk.tick (h : s.memOk) {core} : (s.tick core).memOk := by
  refine ((((h.foldl fun ht => ?_).foldl fun ht => ?_).heldPieces).updCore).rest
  · exact ht.settleWindows
  · exact ht.tellWait

theorem State.memOk.execExposedResultWrite (h : s.memOk) : nextMemOk (execExposedResultWrite s) := .ite h.setCtx trivial

theorem State.memOk.execLoadLanding (h : s.memOk) : nextMemOk (execLoadLanding s) :=
  .ite trivial (.ite (.ite trivial h.settle) (.ite trivial h.planeCycle.rest.landFreeze.tick.rest))

theorem State.memOk.execTimerExpiry (h : s.memOk) : nextMemOk (execTimerExpiry s) := .ite trivial h.setCtx

theorem State.memOk.execBundleCacheFill (h : s.memOk) : nextMemOk (execBundleCacheFill s) := by
  unfold Machine.execBundleCacheFill
  extract_lets
  split
  exacts [trivial, .ite trivial h.updCore]

theorem State.memOk.execContextSwitch (h : s.memOk) : nextMemOk (execContextSwitch s) := .ite trivial h.pass
theorem State.memOk.timeout (h : s.memOk) {a} : (s.timeout a).memOk := h.decline.controlEvent.giveWidth

theorem State.memOk.execWaitTimeout (h : s.memOk) : nextMemOk (execWaitTimeout s) := by
  unfold Machine.execWaitTimeout
  extract_lets
  split
  · trivial
  · split
    exacts [h.rest.timeout.rest, trivial]

theorem State.memOk.passCycles (h : s.memOk) {core k f} (hf : ∀ {t : State}, t.memOk → (f t).memOk) :
    (s.passCycles core k f).memOk := by
  induction k generalizing s with
  | zero => exact h
  | succ k ih =>
    unfold State.passCycles
    extract_lets before after ticked
    have hbefore : before.memOk := h.planeCycle
    have hafter : after.memOk := hf hbefore.rest
    have hticked : ticked.memOk := hafter.tick
    exact ih hticked.rest

theorem State.memOk.execWindowSumFreezeEnd (h : s.memOk) : nextMemOk (execWindowSumFreezeEnd s) := by
  unfold Machine.execWindowSumFreezeEnd
  extract_lets
  split
  · trivial
  · refine .ite trivial ?_
    split
    · refine h.passCycles fun hv => ?_
      exact hv.freeze
    · trivial

theorem State.memOk.execPaddedFreezeEnd (h : s.memOk) : nextMemOk (execPaddedFreezeEnd s) := by
  refine .ite trivial (.ite (h.passCycles fun ht => ?_) ?_)
  · exact ht.landFreeze
  · split
    · trivial
    · extract_lets
      split
      · refine .ite (h.passCycles fun hv => ?_) trivial
        exact hv.freeze
      · trivial

end Sys2Proof.Machine
end

section
/-! PROOFS. Memory stays canonical (R179): each instruction, a core's cycle and every step (O56). -/

namespace Sys2Proof.Machine
variable {s : State}

/-! ### Each instruction -/

theorem State.memOk.exec (h : s.memOk) {i} : nextMemOk (exec i s) := by
  unfold Machine.exec
  split
  · exact h.execNop
  · exact h.execWait
  · exact h.execArv
  · exact h.execBwt
  · exact h.execFmt
  · exact h.execFenceAcq
  · exact h.execFenceRel
  · exact h.execFenceAll
  · exact h.execJoin
  · exact h.execLeave
  · exact h.execYield
  · exact h.execHndl
  · exact h.execAdd
  · exact h.execSub
  · exact h.execMul
  · exact h.execMulh
  · exact h.execDiv
  · exact h.execRem
  · exact h.execAnd
  · exact h.execOr
  · exact h.execXor
  · exact h.execShl
  · exact h.execShr
  · exact h.execSar
  · exact h.execRot
  · exact h.execClz
  · exact h.execPopc
  · exact h.execMin
  · exact h.execMax
  · exact h.execCmp
  · exact h.execSel
  · exact h.execMov
  · exact h.execAddImm
  · exact h.execSubImm
  · exact h.execMulImm
  · exact h.execAndImm
  · exact h.execOrImm
  · exact h.execXorImm
  · exact h.execShlImm
  · exact h.execShrImm
  · exact h.execSarImm
  · exact h.execRotImm
  · exact h.execMinImm
  · exact h.execMaxImm
  · exact h.execCmpImm
  · exact h.execMovImm
  · exact h.execMovh
  · exact h.execAadd
  · exact h.execAaddi
  · exact h.execAidx
  · exact h.execAcmp
  · exact h.execAmov
  · exact h.execAmovh
  · exact h.execAhome
  · exact h.execBr
  · exact h.execBrc
  · exact h.execCall
  · exact h.execRet
  · exact h.execLoop
  · exact h.execFset
  · exact h.execFmov
  · exact h.execKwr
  · exact h.execKwrImm
  · exact h.execZwr
  · exact h.execZwrImm
  · exact h.execLaunch
  · exact h.execLaunchm
  · exact h.execTend
  · exact h.execSteal
  · exact h.execPrioSelf
  · exact h.execPrioTask
  · exact h.execLpscfg
  · exact h.execLpsnxt
  · exact h.execStepmark
  · exact h.execQlvl
  · exact h.execQstat
  · exact h.execBacqP
  · exact h.execBacqC
  · exact h.execBrelP
  · exact h.execBrelC
  · exact h.execBrcfg
  · exact h.execTrap
  · exact h.execEret
  · exact h.execSysrd
  · exact h.execSyswr
  · exact h.execHalt
  · exact h.execFrz
  · exact h.execFrzThaw
  · exact h.execDrain
  · exact h.execDscan
  · exact h.execImgw
  · exact h.execImgr
  · exact h.execRtver
  · exact h.execLkev
  · exact h.execReconf
  · exact h.execVadd
  · exact h.execVsub
  · exact h.execVmul
  · exact h.execVfma
  · exact h.execVfms
  · exact h.execVmin
  · exact h.execVmax
  · exact h.execVabs
  · exact h.execVneg
  · exact h.execVclamp
  · exact h.execVmulh
  · exact h.execVrcp
  · exact h.execVrsq
  · exact h.execVexp2
  · exact h.execVlog2
  · exact h.execVsqrt
  · exact h.execVcvt
  · exact h.execVq8
  · exact h.execVdq8
  · exact h.execVand
  · exact h.execVor
  · exact h.execVxor
  · exact h.execVnot
  · exact h.execVshl
  · exact h.execVshr
  · exact h.execVsar
  · exact h.execVpopc
  · exact h.execVclz
  · exact h.execVcmp
  · exact h.execVsel
  · exact h.execVmov
  · exact h.execVbcast
  · exact h.execVperm
  · exact h.execViota
  · exact h.execVrot
  · exact h.execVredsum
  · exact h.execVredmax
  · exact h.execVredmin
  · exact h.execVamax
  · exact h.execMcfg
  · exact h.execMldw
  · exact h.execMswap
  · exact h.execMstrm
  · exact h.execMzero
  · exact h.execMrdacc
  · exact h.execMaddacc
  · exact h.execMwaitp
  · exact h.execLdw
  · exact h.execLdd
  · exact h.execLdl
  · exact h.execLdls
  · exact h.execLdg
  · exact h.execTlnew
  · exact h.execTlrd
  · exact h.execTlqry
  · exact h.execTlrep
  · exact h.execAmoAdd
  · exact h.execAmoMax
  · exact h.execAmoMin
  · exact h.execAmoAnd
  · exact h.execAmoOr
  · exact h.execAmoXch
  · exact h.execAmoCas
  · exact h.execAmoFadd
  · exact h.execStw
  · exact h.execStd
  · exact h.execStl
  · exact h.execStlx
  · exact h.execTlwr
  · exact h.execTlfin
  · exact h.execPuth
  · exact h.execCpy
  · exact h.execCred
  · exact h.execCmc
  · exact h.execCgat
  · exact h.execCstat
  · exact h.execCcancel
  · exact h.execXcvt
  · exact h.execXtrn
  · exact h.execXexp
  · exact h.execXpack
  · exact h.execApxb
  · exact h.execApxe
  · exact h.execFtcfg
  · exact h.execFtcfgNew
  · exact h.execFtinv
  · exact h.execFtst
  · exact h.execFtstep
  · exact h.execFtsamp
  · exact h.execPageWalkPreload
  · exact h.execTlbPageInvalidate
  · exact h.execTlbAllInvalidate
  · exact h.execPageTableRootWrite
  · exact h.execPwrLimWrite
  · exact h.execHandlerWordWrite
  · exact h.execFutureEmptyWordWrite
  · exact h.execFutemptyInline
  · exact h.execTrapWordWrite
  · exact h.execTimerWrite
  · exact h.execTframeWrite
  · exact h.execPreemptRequest
  · exact h.execContextResume
  · exact h.execCheckpointAreaWrite
  · exact h.execLinDmaxWrite
  · exact h.execCheckpointPeriodWrite
  · exact h.execExposedResultWrite
  · exact h.execLatchDataArrival
  · exact h.execLoadLanding
  · exact h.execTimerExpiry
  · exact h.execBundleCacheFill
  · exact h.execContextSwitch
  · exact h.execWaitTimeout
  · exact h.execSageLeaseGrant
  · exact h.execLeaseExpiry
  · exact h.execLeaseRenewal
  · exact h.execWeightBlockLoad
  · exact h.execAccumulatorRowWrite
  · exact h.execMaddaccRowWrite
  · exact h.execHeldWindowAccess
  · exact h.execWindowAccess
  · exact h.execTransformBeat
  · exact h.execSurrogateResult
  · exact h.execApxComparison
  · exact h.execFittingOpComplete
  · exact h.execCopyCommandStart
  · exact h.execCopyBurst
  · exact h.execCopyCompletion
  · exact h.execMemoryAccessPerform
  · exact h.execAtomicApply
  · exact h.execWriteAcknowledge
  · exact h.execPageWalk
  · exact h.execWakeDelivery
  · exact h.execHandlerStart
  · exact h.execBarrierEntryOperation
  · exact h.execBarrierNotification
  · exact h.execTaskDispatch
  · exact h.execTeamDispatch
  · exact h.execTeamMigrate
  · exact h.execFreeTeamSlotsAdvertise
  · exact h.execLocalTaskStart
  · exact h.execCorePreemption
  · exact h.execAutoSteal
  · exact h.execTlfinApply
  · exact h.execUseRelease
  · exact h.execContentDestroyed
  · exact h.execPatrolScrub
  · exact h.execRecoveryRequest
  · exact h.execRestoreComplete
  · exact h.execReplicationComplete
  · exact h.execJobEnd
  · exact h.execEngineFault
  · exact h.execDieLoss
  · exact h.execBuddyRingChange
  · exact h.execImageCopyComplete
  · exact h.execCheckpointTrigger
  · exact h.execControlPortFrz
  · exact h.execControlPortDrain
  · exact h.execControlPortDscan
  · exact h.execControlPortImgw
  · exact h.execControlPortImgr
  · exact h.execControlPortReconf
  · exact h.execFlitTransmit
  · exact h.execFlitReceive
  · exact h.execAckReceive
  · exact h.execAckTimer
  · exact h.execNakReceive
  · exact h.execTrainReceive
  · exact h.execLosDetection
  · exact h.execRestripeTimerEnd
  · exact h.execWavelengthRelock
  · exact h.execHeldTimeout
  · exact h.execHeldDirectionRelock
  · exact h.execPacketHop
  · exact h.execPacketDelivery
  · exact h.execE2eAckReceive
  · exact h.execLinkDownReport
  · exact h.execTableWrite
  · exact h.execAdvanceMark
  · exact h.execAdvanceDone
  · exact h.execAdvanceTimeout
  · exact h.execAuditSend
  · exact h.execAuditReceive
  · exact h.execDrainMarkerReceive
  · exact h.execDrainAnswerReceive
  · exact h.execDrainDoneReceive
  · exact h.execHoldMarkReceive
  · exact h.execOwnerWrite
  · exact h.execJobDoorbell
  · exact h.execEqheadWrite
  · exact h.execPlimWrite
  · exact h.execBar0RegisterWrite
  · exact h.execSeal
  · exact h.execAperture
  · exact h.execDumpread
  · exact h.execMeas
  · exact h.execReadEvents
  · exact h.execReadDump
  · exact h.execResetDie
  · exact h.execSetLimit
  · exact h.execIdentify
  · exact h.execGetVersion
  · exact h.execGetCapabilities
  · exact h.execNegotiateAlgorithms
  · exact h.execGetDigests
  · exact h.execGetCertificate
  · exact h.execChallenge
  · exact h.execGetMeasurements
  · exact h.execDieReset
  · exact h.execBootTimeout
  · exact nextMemOk_execPackageReset
  · exact h.execCoolantConditionChange
  · exact h.execFatalError
  · exact h.execDirectoryOperation
  · exact h.execHostTileLoad
  · exact h.execStreamLineEntry
  · exact h.execWeightsLoaded
  · exact h.execWindowSumFreezeEnd
  · exact h.execPaddedFreezeEnd
  · exact h.execDieReady

/-! ### A core's cycle -/

theorem State.memOk.runOps (h : s.memOk) {l} : nextMemOk (runOps s l) := by
  induction l generalizing s with
  | nil => exact h
  | cons i r ih =>
    unfold Machine.runOps
    split
    next t e => exact ih (h.exec.of_next e)
    · exact h.exec

theorem State.memOk.afterOver (h : s.memOk) {n ops} : (s.afterOver n ops).memOk :=
  .ite h.updCtx.giveWidth (.ite h.updCtx.pass h.updCtx)

theorem State.memOk.afterBundle (h : s.memOk) {n ops} : (s.afterBundle n ops).memOk :=
  .ite h.afterOver (.ite h.updCtx.giveWidth (.ite h.updCtx h.updCtx.pass))

theorem State.memOk.issueBundle (h : s.memOk) {ops} : nextMemOk (s.issueBundle ops) := by
  unfold State.issueBundle
  extract_lets n w granted
  have hr : nextMemOk (Machine.runOps granted (actOrder ops)) := h.updMe.updCore.runOps
  split
  next t e => exact (hr.of_next e).rest.afterBundle
  · exact hr

theorem State.memOk.presentOps (h : s.memOk) {ops} : nextMemOk (s.presentOps ops) := by
  unfold State.presentOps
  extract_lets
  split
  · exact .ite h.updMe.issueBundle h.updMe.freeze
  · exact h.updMe.takeTrap.afterTrap
  · exact h.updMe.takeTimer.afterTrap
  · refine State.memOk.ite ((h.updMe.freezeAll.foldl fun hu => ?_).retireAsk) (h.updMe.freezeAll.foldl fun hu => ?_)
    · split
      exacts [hu.askPage, hu]
    · split
      exacts [hu.askPage, hu]
  · exact .ite h.updMe.updCore.updMe h.updMe.freeze
  · exact h.updMe.decline.giveWidth
  · exact h.updMe.timeout

theorem State.memOk.fetchWait (h : s.memOk) : s.fetchWait.memOk := .ite h.takeTimer.afterTrap h.freeze

theorem State.memOk.fetch (h : s.memOk) : nextMemOk s.fetch := by
  unfold State.fetch
  split
  · exact h.fetchWait
  · split
    · exact h.takeTrap.afterTrap
    · refine .ite h.fetchWait ?_
      split
      exacts [h.presentOps, trivial]

theorem State.memOk.tryAll (h : s.memOk) {l} : (s.tryAll l).memOk := by
  induction l generalizing s with
  | nil => exact h
  | cons p r ih =>
    unfold State.tryAll
    split
    next t e => exact ih (h.rest.exec.of_next e).rest
    · exact ih h

theorem State.memOk.forced (h : s.memOk) {n} : (s.forced n).memOk := by
  unfold State.forced
  extract_lets
  split
  exacts [h, h.tryAll]

theorem State.memOk.present (h : s.memOk) : nextMemOk s.present := by
  unfold State.present
  extract_lets n forced q arrived tend
  have hf : forced.memOk := h.forced
  split
  · exact hf.arriveAt.raiseLanding.afterTrap
  · have ha : arrived.memOk := hf.arriveAt
    refine .ite (State.memOk.ite ha.takeTimer.afterTrap hf.landFreeze) ?_
    refine .ite (State.memOk.ite ha.takeOff.pass ha.freeze) (.ite ?_ ha.fetch)
    exact State.memOk.ite ha.takeTimer.afterTrap (.ite ha.updMe ha.freeze)

theorem State.memOk.coreCycle (h : s.memOk) {core} : nextMemOk (s.coreCycle core) := by
  unfold State.coreCycle
  extract_lets b k
  have hb : b.memOk := h.coreBackground
  clear_value b k
  refine .ite h (.ite hb.pass.tick (.ite hb.updCore.tick (.ite hb.pass.tick ?_)))
  split
  next t e => exact (hb.rest.present.of_next e).tick
  · exact hb.rest.present

theorem State.memOk.firstStep (h : s.memOk) {l} : (s.firstStep l).memOk := by
  induction l with
  | nil => exact h
  | cons p r ih =>
    unfold State.firstStep
    split
    next t e => exact h.rest.exec.of_next e
    · exact ih

theorem State.memOk.default (h : s.memOk) : nextMemOk s.default := by
  unfold State.default
  extract_lets core
  split
  next t e =>
    have ht := h.coreCycle.of_next e
    exact nextMemOk.ite ht.firstStep ht
  · exact h.coreCycle

theorem State.memOk.play (h : s.memOk) {m} : nextMemOk (s.play m) := by
  unfold State.play
  split
  exacts [h.coreCycle, h.coreCycle, .ite trivial h.rest.exec]

/-! ### A step -/

theorem State.memOk.step (h : s.memOk) : nextMemOk (step s) := by
  unfold Machine.step
  split
  exacts [h.default, h.rest.play]

/-- Settles O56: `State.memOk.step` above, whose parts are one rule for each function that a step calls. -/
theorem everyStepKeepsMemoryCanonical : Obligations.EveryStepKeepsMemoryCanonical := by
  unfold Obligations.EveryStepKeepsMemoryCanonical
  intro s t h hstep
  exact h.step.of_next hstep

end Sys2Proof.Machine
end

section
/-! PROOFS. The values right after reset (O57). -/

namespace Sys2Proof.Machine

theorem Ctx.flag_zero (c : Ctx) : c.flag 0 = true := by simp [Ctx.flag]

theorem State.ctx_reset (n : Nat) : State.reset.ctx n = Ctx.reset := rfl

theorem State.core_reset (c : Nat) : State.reset.core c = Core.reset := rfl

theorem State.die_reset (d : Nat) : State.reset.die d = Die.reset := rfl

theorem State.link_reset (n : Nat) (rx : Bool) : State.reset.link n rx = LinkDir.reset := rfl

theorem LinkDir.toNat_word_reset : LinkDir.reset.word.toNat = 0xFFFF * 2 ^ 4 := by decide

/-- After reset the package routes to itself alone: its own entry delivers at once (R546). -/
theorem State.routeTo_reset (p : Nat) : State.reset.routeTo p = if p = State.reset.pkg then 0x600 else 0 := by
  simp only [State.routeTo, State.reset, Fabric.reset, Sparse.get, eq_comm (a := p)]
  split <;> rfl

/-- Settles O57: every table of `State.reset` is empty, so each row reads as its unit's own reset value. -/
theorem resetLeavesTheGivenValues : Obligations.ResetLeavesTheGivenValues := by
  unfold Obligations.ResetLeavesTheGivenValues
  simp only [State.ctx_reset, State.core_reset, State.die_reset, State.link_reset, State.routeTo_reset]
  refine ⟨Memory.wf_nil, rfl, rfl, fun _ => ⟨rfl, rfl, rfl, rfl, rfl, rfl, rfl, Ctx.flag_zero _⟩, fun _ => ⟨rfl, fun _ => rfl⟩,
    fun _ => ⟨rfl, rfl, fun _ => rfl⟩, fun _ _ => LinkDir.toNat_word_reset, rfl, rfl, rfl, rfl, rfl, rfl, rfl, rfl, rfl,
    rfl, rfl, rfl, rfl, rfl, by decide, by decide, fun p hp => if_neg hp⟩

end Sys2Proof.Machine
end

section
/-! PROOFS. The integer operations, comparisons, flags and staging (R12, R227, R228, R229, R233, R234). -/

namespace Sys2Proof.Machine

/-! ### Values (R227, R228) -/

section
variable (x y : W64)

theorem mulHigh_unsigned : (mulHigh true x y).toNat = x.toNat * y.toNat / 2 ^ 64 := by
  have hx := x.isLt
  have hy := y.isLt
  have hlt : x.toNat * y.toNat / 2 ^ 64 < 2 ^ 64 := Nat.div_lt_of_lt_mul (by nlinarith)
  rw [mulHigh, if_pos rfl, Nat.shiftRight_eq_div_pow, BitVec.toNat_ofNat, Nat.mod_eq_of_lt hlt]

/-- The product of two signed words has a signed high half. -/
theorem mulHigh_signed : (mulHigh false x y).toInt = x.toInt * y.toInt / 2 ^ 64 := by
  have hx := x.two_mul_toInt_lt
  have hx' := x.le_two_mul_toInt
  have hy := y.two_mul_toInt_lt
  have hy' := y.le_two_mul_toInt
  have hlo : -(2 ^ 63 * 2 ^ 63) ≤ x.toInt * y.toInt := by nlinarith
  have hhi : x.toInt * y.toInt ≤ 2 ^ 63 * 2 ^ 63 := by nlinarith
  rw [mulHigh, if_neg (by decide)]
  exact BitVec.toInt_ofInt_eq_self (by decide) (by omega) (by omega)

theorem sub_toNat : (x - y).toNat = (2 ^ 64 + x.toNat - y.toNat) % 2 ^ 64 := by
  have hy := y.isLt
  rw [BitVec.toNat_sub]
  omega

theorem shl_toNat : (x <<< shAmt y).toNat = x.toNat * 2 ^ (y.toNat % 64) % 2 ^ 64 := by
  rw [shAmt, BitVec.toNat_shiftLeft, Nat.shiftLeft_eq]

theorem shr_toNat : (x >>> shAmt y).toNat = x.toNat / 2 ^ (y.toNat % 64) := by
  rw [shAmt, BitVec.toNat_ushiftRight, Nat.shiftRight_eq_div_pow]

theorem sar_toInt : (x.sshiftRight (shAmt y)).toInt = x.toInt / 2 ^ (y.toNat % 64) := by
  rw [shAmt, BitVec.toInt_sshiftRight, Int.shiftRight_eq_div_pow]
  norm_cast

/-- ROT moves bit i to bit i + the amount, around the word. -/
theorem rot_getLsbD (i : Nat) (hi : i < 64) :
    (x.rotateLeft (shAmt y)).getLsbD ((i + y.toNat % 64) % 64) = x.getLsbD i := by
  rw [shAmt, BitVec.getLsbD_rotateLeft, Nat.mod_mod]
  by_cases h : i + y.toNat % 64 < 64
  · have hge : ¬i + y.toNat % 64 < y.toNat % 64 := by omega
    simp [Nat.mod_eq_of_lt h, h, hge]
  · have hlt : (i + y.toNat % 64) % 64 < y.toNat % 64 := by omega
    rw [decide_eq_true hlt, cond_true]
    congr 1
    omega

theorem minW_spec (u : Bool) : (minW u x y = x ∨ minW u x y = y) ∧
    (if u then (minW u x y).toNat ≤ x.toNat ∧ (minW u x y).toNat ≤ y.toNat
      else (minW u x y).toInt ≤ x.toInt ∧ (minW u x y).toInt ≤ y.toInt) := by
  cases u <;> simp only [minW, BitVec.ult, BitVec.slt, decide_eq_true_eq, Bool.false_eq_true, if_true, if_false] <;> split <;>
    simp <;> omega

theorem maxW_spec (u : Bool) : (maxW u x y = x ∨ maxW u x y = y) ∧
    (if u then x.toNat ≤ (maxW u x y).toNat ∧ y.toNat ≤ (maxW u x y).toNat
      else x.toInt ≤ (maxW u x y).toInt ∧ y.toInt ≤ (maxW u x y).toInt) := by
  cases u <;> simp only [maxW, BitVec.ult, BitVec.slt, decide_eq_true_eq, Bool.false_eq_true, if_true, if_false] <;> split <;>
    simp <;> omega

/-- CLZ: the bits above the top one bit, or all 64. -/
theorem clz_spec : (BitVec.ofNat 64 (clzN 64 x.toNat)).toNat ≤ 64 ∧
    (∀ i, 64 - (BitVec.ofNat 64 (clzN 64 x.toNat)).toNat ≤ i → x.getLsbD i = false) ∧
    ((BitVec.ofNat 64 (clzN 64 x.toNat)).toNat < 64 → x.getLsbD (63 - (BitVec.ofNat 64 (clzN 64 x.toNat)).toNat) = true) := by
  have hmod : x.toNat % 2 ^ 64 = x.toNat := Nat.mod_eq_of_lt x.isLt
  by_cases h0 : x.toNat = 0
  · obtain rfl : x = 0 := BitVec.eq_of_toNat_eq h0
    simp [clzN]
  · have hlog : Nat.log2 x.toNat < 64 := (Nat.log2_lt h0).mpr x.isLt
    have hv : (BitVec.ofNat 64 (clzN 64 x.toNat)).toNat = 63 - Nat.log2 x.toNat := by
      rw [clzN, hmod, if_neg h0, BitVec.toNat_ofNat]
      omega
    rw [hv]
    refine ⟨by omega, fun i hi => Nat.testBit_lt_two_pow ?_, fun _ => ?_⟩
    · exact lt_of_lt_of_le Nat.lt_log2_self (Nat.pow_le_pow_right (by decide) (by omega))
    · rw [show 63 - (63 - Nat.log2 x.toNat) = Nat.log2 x.toNat by omega]
      exact Nat.testBit_log2 h0

/-- The one bits below bit n. -/
theorem popcN_eq_length (n : Nat) : popcN n x.toNat = ((List.range n).filter (fun i => x.getLsbD i)).length := by
  induction n with
  | zero => rfl
  | succ n ih =>
    have hb : bit x.toNat n = x.getLsbD n := by
      simp [bit, BitVec.getLsbD, Nat.testBit_eq_decide_div_mod_eq, Nat.shiftRight_eq_div_pow]
    rw [popcN, ih, hb, List.range_succ, List.filter_append, List.length_append, List.filter_singleton]
    cases x.getLsbD n <;> rfl

theorem popc_toNat : (BitVec.ofNat 64 (popcN 64 x.toNat)).toNat = ((List.range 64).filter (fun i => x.getLsbD i)).length := by
  have hle : ((List.range 64).filter (fun i => x.getLsbD i)).length ≤ 64 := by
    simpa using List.length_filter_le (fun i => x.getLsbD i) (List.range 64)
  rw [BitVec.toNat_ofNat, popcN_eq_length]
  omega

theorem movh_spec (imm : BitVec 32) : (imm ++ x.truncate 32 : W64).extractLsb' 32 32 = imm ∧
    (imm ++ x.truncate 32 : W64).extractLsb' 0 32 = x.extractLsb' 0 32 :=
  ⟨BitVec.extractLsb'_append_eq_left (w := 32) (w' := 32),
    (BitVec.extractLsb'_append_eq_right (w := 32) (w' := 32)).trans (BitVec.setWidth_eq_extractLsb' (by decide))⟩

theorem toInt_eq_intMin_iff : x.toInt = -2 ^ 63 ↔ x = BitVec.intMin 64 := by
  rw [← BitVec.toInt_inj]
  rfl

theorem toInt_eq_neg_one_iff : x.toInt = -1 ↔ x = BitVec.allOnes 64 := by
  rw [← BitVec.toInt_inj]
  rfl

theorem toNat_eq_zero_iff : x.toNat = 0 ↔ x = 0 := by
  rw [← BitVec.toNat_inj]
  rfl

/-- Rounded toward zero, only the one overflow has no 64-bit quotient. -/
theorem toInt_ofInt_tdiv (h : ¬(x.toInt = -2 ^ 63 ∧ y.toInt = -1)) :
    (BitVec.ofInt 64 (x.toInt.tdiv y.toInt)).toInt = x.toInt.tdiv y.toInt := by
  have hne : x ≠ BitVec.intMin 64 ∨ y ≠ -1#64 := by
    rwa [toInt_eq_intMin_iff, toInt_eq_neg_one_iff, not_and_or] at h
  rw [BitVec.toInt_ofInt, ← BitVec.toInt_sdiv, BitVec.toInt_sdiv_of_ne_or_ne x y hne]

theorem toInt_ofInt_tmod : (BitVec.ofInt 64 (x.toInt.tmod y.toInt)).toInt = x.toInt - y.toInt * x.toInt.tdiv y.toInt := by
  rw [← BitVec.toInt_srem, BitVec.ofInt_toInt, BitVec.toInt_srem, Int.tmod_def]

/-- The quotient, case by case (R228). -/
theorem divQ_spec (u : Bool) : (y.toNat = 0 → (divQ u x y).toNat = 0xFFFFFFFFFFFFFFFF) ∧
    (u = false → x.toInt = -2 ^ 63 → y.toInt = -1 → (divQ u x y).toInt = -2 ^ 63) ∧
    (u = true → y.toNat ≠ 0 → (divQ u x y).toNat = x.toNat / y.toNat) ∧
    (u = false → y.toNat ≠ 0 → ¬(x.toInt = -2 ^ 63 ∧ y.toInt = -1) → (divQ u x y).toInt = x.toInt.tdiv y.toInt) := by
  rw [ne_eq, toNat_eq_zero_iff]
  refine ⟨?_, ?_, ?_, ?_⟩
  · rintro rfl
    rfl
  · rintro rfl hx hy
    rw [toInt_eq_intMin_iff] at hx
    rw [toInt_eq_neg_one_iff] at hy
    subst hx hy
    rfl
  · rintro rfl hy
    rw [divQ, if_neg hy, if_pos rfl, BitVec.toNat_udiv]
  · rintro rfl hy h
    have h' := h
    rw [toInt_eq_intMin_iff, toInt_eq_neg_one_iff] at h'
    rw [divQ, if_neg hy, if_neg (by decide), if_neg h', toInt_ofInt_tdiv x y h]

/-- The remainder, case by case (R228). -/
theorem divR_spec (u : Bool) : (y.toNat = 0 → divR u x y = x) ∧
    (u = false → x.toInt = -2 ^ 63 → y.toInt = -1 → (divR u x y).toNat = 0) ∧
    (u = true → y.toNat ≠ 0 → (divR u x y).toNat = x.toNat - y.toNat * (x.toNat / y.toNat)) ∧
    (u = false → y.toNat ≠ 0 → ¬(x.toInt = -2 ^ 63 ∧ y.toInt = -1) →
      (divR u x y).toInt = x.toInt - y.toInt * x.toInt.tdiv y.toInt) := by
  rw [ne_eq, toNat_eq_zero_iff]
  refine ⟨?_, ?_, ?_, ?_⟩
  · rintro rfl
    rfl
  · rintro rfl hx hy
    rw [toInt_eq_intMin_iff] at hx
    rw [toInt_eq_neg_one_iff] at hy
    subst hx hy
    rfl
  · rintro rfl hy
    rw [divR, if_neg hy, if_pos rfl, BitVec.toNat_umod, Nat.mod_def]
  · rintro rfl hy h
    rw [toInt_eq_intMin_iff, toInt_eq_neg_one_iff] at h
    rw [divR, if_neg hy, if_neg (by decide), if_neg h, toInt_ofInt_tmod]

theorem condW64_iff (c : Cond) : condW64 c x y = true ↔ condTruth c x y := by
  cases c <;> simp [condW64, condTruth, BitVec.toNat_inj, BitVec.slt, BitVec.sle, BitVec.ult, BitVec.ule]

end

/-! ### Results on their way (R197) -/

section
variable {s : State} {p : Pred} {i : Instr} {eff : State → State} (hp : s.me.holds p = true) (hi : exec i s = always s p eff)
include hp hi

theorem State.schedulesG_of_always {lat : Nat} {d : BitVec 6} {v : W64} {P : W64 → Prop} (he : eff s = s.resultG .s lat d v)
    (hv : P v) : s.schedulesG i lat d P :=
  ⟨v, hi.trans ((always_of_holds s p eff hp).trans (congrArg _ he)), hv⟩

theorem State.schedulesA_of_always {lat : Nat} {d : BitVec 5} {v : W80} {P : W80 → Prop} (he : eff s = s.resultA .s lat d v)
    (hv : P v) : s.schedulesA i lat d P :=
  ⟨v, hi.trans ((always_of_holds s p eff hp).trans (congrArg _ he)), hv⟩

theorem State.schedulesF_of_always {lat : Nat} {f : BitVec 4} {b : Bool} {P : Prop} (he : eff s = s.resultF .s lat f b)
    (hb : b = true ↔ P) : s.schedulesF i lat f P :=
  ⟨b, hi.trans ((always_of_holds s p eff hp).trans (congrArg _ he)), hb⟩

theorem exec_eq_scheduled_of_always {lat : Nat} {d : Dest} {v : Line} (he : eff s = s.result .s lat d v) :
    exec i s = .next (s.scheduled .s lat d v) :=
  hi.trans ((always_of_holds s p eff hp).trans (congrArg _ he))

end

/-! ### The operations -/

/-- Settles O1: one lemma above, or one of Lean's, for the value of each operation. -/
theorem integerRegisterFormsScheduleTheirResult : Obligations.IntegerRegisterFormsScheduleTheirResult := by
  unfold Obligations.IntegerRegisterFormsScheduleTheirResult
  constructor
  · intro s p d a b hp x y sh
    have put {i : Instr} {eff : State → State} {lat : Nat} {v : W64} {P : W64 → Prop} (hi : exec i s = always s p eff)
        (he : eff s = s.resultG .s lat d v) (hv : P v) : s.schedulesG i lat d P := State.schedulesG_of_always hp hi he hv
    exact ⟨put rfl rfl (BitVec.toNat_add x y), put rfl rfl (sub_toNat x y), put rfl rfl (BitVec.toNat_mul x y),
      put rfl rfl (mulHigh_unsigned x y), put rfl rfl (mulHigh_signed x y),
      put rfl rfl fun _ => BitVec.getLsbD_and, put rfl rfl fun _ => BitVec.getLsbD_or, put rfl rfl fun _ => BitVec.getLsbD_xor,
      put rfl rfl (shl_toNat x y), put rfl rfl (shr_toNat x y), put rfl rfl (sar_toInt x y), put rfl rfl (rot_getLsbD x y),
      fun u => put rfl rfl (minW_spec x y u), fun u => put rfl rfl (maxW_spec x y u), put rfl rfl rfl⟩
  · intro s p d a hp x
    exact ⟨State.schedulesG_of_always hp rfl rfl (clz_spec x), State.schedulesG_of_always hp rfl rfl (popc_toNat x)⟩

/-- Settles O2: the values of the register forms, of a register and the extended immediate. -/
theorem integerImmediateFormsUseTheSignExtendedImmediate : Obligations.IntegerImmediateFormsUseTheSignExtendedImmediate := by
  unfold Obligations.IntegerImmediateFormsUseTheSignExtendedImmediate
  intro s p d a imm hp x y sh
  have put {i : Instr} {eff : State → State} {lat : Nat} {v : W64} {P : W64 → Prop} (hi : exec i s = always s p eff)
      (he : eff s = s.resultG .s lat d v) (hv : P v) : s.schedulesG i lat d P := State.schedulesG_of_always hp hi he hv
  exact ⟨put rfl rfl (BitVec.toNat_add x y), put rfl rfl (sub_toNat x y), put rfl rfl (BitVec.toNat_mul x y),
    put rfl rfl fun _ => BitVec.getLsbD_and, put rfl rfl fun _ => BitVec.getLsbD_or, put rfl rfl fun _ => BitVec.getLsbD_xor,
    put rfl rfl (shl_toNat x y), put rfl rfl (shr_toNat x y), put rfl rfl (sar_toInt x y), put rfl rfl (rot_getLsbD x y),
    fun u => put rfl rfl (minW_spec x y u), fun u => put rfl rfl (maxW_spec x y u), put rfl rfl rfl,
    put rfl rfl (movh_spec (s.me.g d) imm)⟩

/-- Settles O3: the cases of the quotient and of the remainder. -/
theorem divideAndRemainderDefineEveryCase : Obligations.DivideAndRemainderDefineEveryCase := by
  unfold Obligations.DivideAndRemainderDefineEveryCase
  intro s p d a b u hp x y
  exact ⟨State.schedulesG_of_always hp rfl rfl (divQ_spec x y u), State.schedulesG_of_always hp rfl rfl (divR_spec x y u)⟩

/-- Settles O4: the comparison decides the condition's truth, and flag 0 is not stored. -/
theorem compareWritesTheConditionAndSelectChoosesByFlag : Obligations.CompareWritesTheConditionAndSelectChoosesByFlag := by
  unfold Obligations.CompareWritesTheConditionAndSelectChoosesByFlag
  intro s p d a b f imm c hp
  exact ⟨State.schedulesF_of_always hp rfl rfl (condW64_iff _ _ c), State.schedulesF_of_always hp rfl rfl (condW64_iff _ _ c),
    State.schedulesG_of_always hp rfl rfl ⟨fun h => if_pos h, fun h => if_neg (by simp [h])⟩, fun v => ⟨rfl, rfl⟩⟩

/-- Settles O5: each operation has one result, of its operand. -/
theorem flagAndStagingWritesScheduleTheirValue : Obligations.FlagAndStagingWritesScheduleTheirValue := by
  unfold Obligations.FlagAndStagingWritesScheduleTheirValue
  constructor
  · intro s p f a v inv hp
    exact ⟨State.schedulesF_of_always hp rfl rfl Iff.rfl, State.schedulesF_of_always hp rfl rfl bne_iff_ne, fun _ => rfl⟩
  · intro s p k z a imm hp
    exact ⟨exec_eq_scheduled_of_always hp rfl rfl, exec_eq_scheduled_of_always hp rfl rfl, exec_eq_scheduled_of_always hp rfl rfl,
      exec_eq_scheduled_of_always hp rfl rfl⟩

end Sys2Proof.Machine
end

section
/-! PROOFS. Address operations (R230): the offset wraps, the upper bits stay, and addresses compare as numbers. -/

namespace Sys2Proof.Machine

section
variable (x : W80)

theorem addrWithOff_toNat (o : Int) : (addrWithOff x o).toNat = x.toNat / 2 ^ 48 * 2 ^ 48 + (o % 2 ^ 48).toNat := by
  have hx := x.isLt
  rw [addrWithOff, bits_eq_div_mod, wrap, BitVec.toNat_ofNat, Nat.shiftLeft_eq]
  omega

/-- The bits above the offset are as before. -/
theorem addrWithOff_upper (o : Int) : (addrWithOff x o).extractLsb' 48 32 = x.extractLsb' 48 32 := by
  apply BitVec.eq_of_toNat_eq
  rw [BitVec.extractLsb'_toNat, BitVec.extractLsb'_toNat, addrWithOff_toNat, Nat.shiftRight_eq_div_pow, Nat.shiftRight_eq_div_pow]
  omega

theorem offOf_addrWithOff (o : Int) : (offOf (addrWithOff x o) : Int) = o % 2 ^ 48 := by
  rw [offOf, addrWithOff_toNat]
  omega

/-- An offset is added modulo 2^48 (R230). -/
theorem addrPlus_spec (n : Int) : (addrPlus x n).extractLsb' 48 32 = x.extractLsb' 48 32 ∧
    (offOf (addrPlus x n) : Int) = ((offOf x : Int) + n) % 2 ^ 48 :=
  ⟨addrWithOff_upper x _, offOf_addrWithOff x _⟩

theorem addrWithHome_spec (h : Nat) : (addrWithHome x h).toNat % 2 ^ 65 = x.toNat % 2 ^ 65 ∧
    (addrWithHome x h).toNat / 2 ^ 65 = h % 2 ^ 15 := by
  have hv : (addrWithHome x h).toNat = h % 2 ^ 15 * 2 ^ 65 + x.toNat % 2 ^ 65 := by
    rw [addrWithHome, BitVec.toNat_ofNat, Nat.shiftLeft_eq]
    omega
  omega

theorem truncate64_toNat : (x.truncate 64).toNat = x.toNat % 2 ^ 64 := BitVec.toNat_setWidth ..

theorem high16_toNat : ((x >>> 64).truncate 64).toNat = x.toNat / 2 ^ 64 := by
  have hx := x.isLt
  rw [BitVec.toNat_setWidth, BitVec.toNat_ushiftRight, Nat.shiftRight_eq_div_pow]
  omega

end

/-- Settles O6: sums of offsets, moves of parts, and comparisons of the registers' values. -/
theorem addressOperationsKeepTheUpperBitsAndCompareUnsigned : Obligations.AddressOperationsKeepTheUpperBitsAndCompareUnsigned := by
  unfold Obligations.AddressOperationsKeepTheUpperBitsAndCompareUnsigned
  constructor
  · intro s p d a b e g j imm hp x
    have low (i : BitVec 5) : (i.zeroExtend 6).truncate 5 = i := by simp
    have put {i : Instr} {eff : State → State} {lat : Nat} {v : W80} {P : W80 → Prop} (hi : exec i s = always s p eff)
        (he : eff s = s.resultA .s lat d v) (hv : P v) : s.schedulesA i lat d P := State.schedulesA_of_always hp hi he hv
    exact ⟨put rfl rfl (addrPlus_spec x _), put rfl rfl (addrPlus_spec x _), put rfl rfl (addrPlus_spec x _),
      put rfl (congrArg₂ (s.resultA .s 1) (low d) (congrArg s.me.a (low a))) rfl,
      put rfl (congrArg (s.resultA .s 1 · _) (low d)) (BitVec.toNat_setWidth_of_le (by decide)),
      State.schedulesG_of_always hp rfl (congrArg (fun i => s.resultG .s 1 e ((s.me.a i).truncate 64)) (low a)) (truncate64_toNat x),
      State.schedulesG_of_always hp rfl rfl (high16_toNat x), put rfl rfl (addrWithHome_spec x _)⟩
  · intro s p f a b hp x y
    have put {c : Cond} {P : Prop} (h : condW80 c (s.me.a a) (s.me.a b) = true ↔ P) : s.schedulesF (.acmp p f a b c) 1 f P :=
      State.schedulesF_of_always hp rfl rfl h
    refine ⟨put ?_, put ?_, put ?_, put ?_, put ?_, put ?_⟩ <;> simp [condW80, BitVec.ult, BitVec.ule, x, y, BitVec.toNat_inj]

end Sys2Proof.Machine
end

section
/-! PROOFS. Branches and loops (R203, R231, R232): what redirects issue, and the index of the next bundle. -/

namespace Sys2Proof.Machine

/-! ### Redirections at issue -/

section
variable (s : State)

theorem State.sameBytes_refl : s.sameBytes s := fun _ _ => rfl

theorem State.sameBytes.trans {s t u : State} (h : s.sameBytes t) (k : t.sameBytes u) : s.sameBytes u :=
  fun a ha => (k a ha).trans (h a ha)

/-- A result on its way touches no byte. -/
theorem State.sameBytes_result (z : Slot) (lat : Nat) (d : Dest) (v : Line) : s.sameBytes (s.result z lat d v) :=
  s.sameBytes_updMe _ rfl rfl

theorem Ctx.sameRegs_refl (c : Ctx) : c.sameRegs c := ⟨rfl, rfl, rfl, rfl, rfl, rfl, rfl⟩

/-- A change of the schedule alone. -/
def Ctx.mapSched (f : Sched → Sched) (c : Ctx) : Ctx := { c with sched := f c.sched }

/-- It leaves the registers and every byte. -/
theorem State.updMe_mapSched_spec (f : Sched → Sched) : (s.updMe (Ctx.mapSched f)).me.sched = f s.me.sched ∧
    s.me.sameRegs (s.updMe (Ctx.mapSched f)).me ∧ s.sameBytes (s.updMe (Ctx.mapSched f)) := by
  refine ⟨?_, ?_, s.sameBytes_updMe _ rfl rfl⟩ <;> rw [s.updMe_me]
  · rfl
  · exact Ctx.sameRegs_refl _

/-- What a taken branch to `n` leaves: two delay bundles, then the target (R203, R231). -/
theorem State.branch_spec (m : Nat) (n : Int) (hn : 0 ≤ n → n < 2 ^ 24 → (m : Int) = n) :
    let t := s.branch m
    (t.me.sched.dly = 3 ∧ (0 ≤ n → n < 2 ^ 24 → (t.me.sched.rtgt : Int) = n) ∧ t.me.sched.pc = s.me.sched.pc ∧
      s.me.sameRegs t.me ∧ s.sameBytes t) ∧ t.me.sched.pend = s.me.sched.pend := by
  obtain ⟨hs, hregs, hbytes⟩ := s.updMe_mapSched_spec fun q => { q with rtgt := m % 2 ^ 24, dly := 3 }
  change (s.branch m).me.sched = _ at hs
  refine ⟨⟨by rw [hs], fun h0 h1 => ?_, by rw [hs], hregs, hbytes⟩, by rw [hs]⟩
  rw [hs, ← hn h0 h1, Nat.mod_eq_of_lt (by have := hn h0 h1; omega)]

/-- A branch that also schedules a result. -/
theorem State.branch_result_spec (m : Nat) (n : Int) (hn : 0 ≤ n → n < 2 ^ 24 → (m : Int) = n) (z : Slot) (lat : Nat) (d : Dest)
    (v : Line) :
    let t := (s.branch m).result z lat d v
    (t.me.sched.dly = 3 ∧ (0 ≤ n → n < 2 ^ 24 → (t.me.sched.rtgt : Int) = n) ∧ t.me.sched.pc = s.me.sched.pc ∧
      s.me.sameRegs t.me ∧ s.sameBytes t) ∧ s.gains t lat d v := by
  obtain ⟨⟨hdly, htgt, hpc, hregs, hbytes⟩, -⟩ := s.branch_spec m n hn
  have htime : (s.branch m).me.sched.time = s.me.sched.time := by rw [State.branch, s.updMe_me]
  refine ⟨?_, s.gains_result htime z lat d v⟩
  rw [State.result_me]
  exact ⟨hdly, htgt, hpc, hregs, hbytes.trans ((s.branch m).sameBytes_result z lat d v)⟩

theorem Ctx.target_eq (c : Ctx) (off : BitVec 25) (h : 0 ≤ (c.sched.pc : Int) + off.toInt) :
    (c.target off : Int) = c.sched.pc + off.toInt := Int.toNat_of_nonneg h

end

section
variable {s : State} {p : Pred} {i : Instr} {eff : State → State} {P : State → Prop} (hp : s.me.holds p = true)
include hp

theorem State.nextWith_of_always (hi : exec i s = always s p eff) (h : P (eff s)) : s.nextWith i P :=
  ⟨_, hi.trans (always_of_holds s p eff hp), h⟩

theorem State.nextWith_of_act {v : Verdict} (hv : v = .issue) (hi : exec i s = act s p v eff) (h : P (eff s)) : s.nextWith i P :=
  ⟨_, hi.trans (act_of_issues s p v eff ⟨hp, .inl hv⟩), h⟩

end

/-! ### The next bundle -/

section
variable (c : Ctx)

/-- The end of a bundle on a true path, from the redirection it comes to. -/
theorem Ctx.endBundle_of_nextPc {d : Ctx} (hd : (c.beats c.sched.time).nextPc = d) (hi : d.fit.invoc = none) :
    c.endBundle.sched = { d.sched with
      time := c.sched.time + 1, ord := c.sched.ord + 16, held := 0, waits := .reset, tskip := false, granted := false } ∧ c.endBundle.regs = d.regs ∧ c.endBundle.fit = d.fit := by
  subst hd
  unfold Ctx.endBundle
  dsimp only
  rw [hi]
  exact ⟨rfl, rfl, rfl⟩

/-- With no active loop the next index is the following one, or the target after the last delay bundle (R203). -/
theorem Ctx.nextPc_of_noLoops (hl : c.sched.loops = []) (hj : c.sched.jump = none) : c.nextPc = { c with sched := { c.sched with
    dly := c.sched.dly - 1, pc := if c.sched.dly = 1 then c.sched.rtgt else c.sched.pc + 1 } } := by
  unfold Ctx.nextPc
  by_cases h : c.sched.dly = 1 <;> simp [h, hl, hj, Ctx.endLoops]

/-- A context on its true path with no active loop and no LOOP in the issuing bundle. -/
def Ctx.straight (c : Ctx) : Prop := c.sched.loops = [] ∧ c.sched.jump = none ∧ c.fit.invoc = none

/-- The end of its bundle (R203). -/
theorem Ctx.endBundle_of_straight (h : c.straight) : c.endBundle.straight ∧ c.endBundle.sched.rtgt = c.sched.rtgt ∧
    c.endBundle.sched.dly = c.sched.dly - 1 ∧ c.endBundle.sched.time = c.sched.time + 1 ∧
    c.endBundle.sched.pc = if c.sched.dly = 1 then c.sched.rtgt else c.sched.pc + 1 := by
  obtain ⟨hl, hj, hi⟩ := h
  have hd := (c.beats c.sched.time).nextPc_of_noLoops hl hj
  obtain ⟨hs, -, hf⟩ := c.endBundle_of_nextPc hd hi
  rw [Ctx.straight, hs, hf]
  exact ⟨⟨hl, hj, hi⟩, rfl, rfl, rfl, rfl⟩

end

/-- A taken branch's two delay bundles and then its target (R203). -/
theorem Ctx.endBundle_of_branch (b : Ctx) (h : b.straight) (hd : b.sched.dly = 3) :
    b.endBundle.sched.pc = b.sched.pc + 1 ∧ b.endBundle.endBundle.sched.pc = b.sched.pc + 2 ∧
    b.endBundle.endBundle.endBundle.sched.pc = b.sched.rtgt ∧ b.endBundle.endBundle.endBundle.sched.time = b.sched.time + 3 ∧
    b.endBundle.endBundle.endBundle.sched.dly = 0 := by
  obtain ⟨h1, htgt1, hdly1, htime1, hpc1⟩ := b.endBundle_of_straight h
  obtain ⟨h2, htgt2, hdly2, htime2, hpc2⟩ := b.endBundle.endBundle_of_straight h1
  obtain ⟨-, -, hdly3, htime3, hpc3⟩ := b.endBundle.endBundle.endBundle_of_straight h2
  rw [hd] at hdly1 hpc1
  rw [hdly1] at hdly2 hpc2
  rw [hdly2] at hdly3 hpc3
  exact ⟨hpc1, hpc2.trans (by rw [hpc1]; rfl), hpc3.trans (htgt2.trans htgt1), by rw [htime3, htime2, htime1], hdly3⟩

/-- Settles O7: what a branch leaves at issue, and the three bundles that follow it. -/
theorem branchesIssueTheirTargetThreeBundlesLater : Obligations.BranchesIssueTheirTargetThreeBundlesLater := by
  unfold Obligations.BranchesIssueTheirTargetThreeBundlesLater
  constructor
  · intro s p d a off hp pc goes
    have static := fun h0 (_ : (s.me.sched.pc : Int) + off.toInt < 2 ^ 24) => s.me.target_eq off h0
    refine ⟨State.nextWith_of_always hp rfl (s.branch_spec _ _ static), fun h0 => ?_, fun h1 => ?_,
      State.nextWith_of_always hp rfl (s.branch_result_spec _ _ static ..), fun hlt => ?_, fun hge hg => ?_⟩
    · exact (always_of_holds s p _ hp).trans (by rw [if_pos h0])
    · refine State.nextWith_of_always hp rfl ?_
      rw [if_neg h1]
      exact s.branch_result_spec _ _ static ..
    · have hv : s.retVerdict a = .issue := by simp [State.retVerdict, trapIf, Nat.not_le.mpr hlt]
      obtain ⟨hgoes, hpend⟩ := s.branch_spec (s.me.g a).toNat (s.me.g a).toNat fun _ _ => rfl
      exact State.nextWith_of_act hp hv rfl ⟨fun _ => hgoes, hpend⟩
    · have hv : s.retVerdict a = .trap (.issue .s 0x03 (s.me.g a)) := by simp [State.retVerdict, trapIf, hge, cPCRANGE]
      exact (congrArg (act s p · _) hv).trans (act_of_trap s p _ _ hp hg)
  · intro c target hl hj hi b
    exact b.endBundle_of_branch ⟨hl, hj, hi⟩ rfl

/-! ### Loops (R232) -/

section
variable (c : Ctx)

/-- At the last bundle of the innermost loop, with a count above 1. -/
theorem Ctx.endLoops_repeat (l : LoopRec) (rest : List LoopRec) (h : 1 < (c.lc l.n).toNat) : c.endLoops l.last (l :: rest) =
    ({ c with regs := { c.regs with lc := Sparse.set c.regs.lc l.n.toNat (c.lc l.n - 1) } }, l.first) := by
  simp [Ctx.endLoops, h]

/-- At the last bundle of the only active loop, with a count of at most 1. -/
theorem Ctx.endLoops_leave (l : LoopRec) (hl : c.sched.loops = [l]) (h : (c.lc l.n).toNat ≤ 1) : c.endLoops l.last [l] =
    ({ c with regs := { c.regs with lc := Sparse.set c.regs.lc l.n.toNat 0 }, sched := { c.sched with loops := [] } }, l.last + 1) := by
  simp [Ctx.endLoops, Nat.not_lt.mpr h, hl]

/-- One delay bundle less, and no LOOP noted. -/
def Ctx.delayed (c : Ctx) : Ctx := { c with sched := { c.sched with dly := c.sched.dly - 1, jump := none } }

/-- With no branch due and no LOOP in the issuing bundle, the loops give the next index. -/
theorem Ctx.nextPc_of_loops (hj : c.sched.jump = none) (hd : c.sched.dly ≠ 1) : c.nextPc =
    let r := c.delayed.endLoops c.sched.pc c.sched.loops.reverse
    { r.1 with sched := { r.1.sched with pc := r.2 } } := by
  simp [Ctx.nextPc, hj, hd, Ctx.delayed]

variable {c} {l : LoopRec} (hpc : c.sched.pc = l.last) (hj : c.sched.jump = none) (hd : c.sched.dly ≠ 1) (hi : c.fit.invoc = none)
include hpc hj hd hi

/-- The body starts again, and the count falls by one (R232). -/
theorem Ctx.endBundle_repeat {ls : List LoopRec} (hl : c.sched.loops = ls ++ [l]) (hn : 1 < (c.lc l.n).toNat) :
    c.endBundle.sched.pc = l.first ∧ c.endBundle.sched.loops = ls ++ [l] ∧
    c.endBundle.regs.lc = Sparse.set c.regs.lc l.n.toNat (c.lc l.n - 1) := by
  have hnext := (c.beats c.sched.time).nextPc_of_loops hj hd
  have hrev : (c.beats c.sched.time).sched.loops.reverse = l :: ls.reverse := by
    change c.sched.loops.reverse = _
    simp [hl]
  rw [show (c.beats c.sched.time).sched.pc = l.last from hpc, hrev, (c.beats c.sched.time).delayed.endLoops_repeat l ls.reverse hn] at hnext
  obtain ⟨hs, hr, -⟩ := c.endBundle_of_nextPc hnext hi
  rw [hs, hr]
  exact ⟨rfl, hl, rfl⟩

/-- The only active loop ends, and the next bundle follows (R232). -/
theorem Ctx.endBundle_leave (hl : c.sched.loops = [l]) (hn : (c.lc l.n).toNat ≤ 1) :
    c.endBundle.sched.pc = c.sched.pc + 1 ∧ c.endBundle.sched.loops = [] ∧
    c.endBundle.regs.lc = Sparse.set c.regs.lc l.n.toNat 0 := by
  have hnext := (c.beats c.sched.time).nextPc_of_loops hj hd
  have hrev : (c.beats c.sched.time).sched.loops.reverse = [l] := by
    change c.sched.loops.reverse = _
    simp [hl]
  rw [show (c.beats c.sched.time).sched.pc = l.last from hpc, hrev, (c.beats c.sched.time).delayed.endLoops_leave l hl hn] at hnext
  obtain ⟨hs, hr, -⟩ := c.endBundle_of_nextPc hnext hi
  rw [hs, hr, hpc]
  exact ⟨rfl, rfl, rfl⟩

end

/-- A written count is read back, and the other counts are as before. -/
theorem Ctx.lc_of_set {c d : Ctx} {i : BitVec 3} {v : W32} (h : d.regs.lc = Sparse.set c.regs.lc i.toNat v) :
    d.lc i = v ∧ ∀ j, j ≠ i → d.lc j = c.lc j := by
  unfold Ctx.lc
  rw [h]
  exact ⟨Sparse.get_set_same .., fun j hj => Sparse.get_set_ne _ _ _ _ _ fun e => hj (BitVec.eq_of_toNat_eq e.symm)⟩

/-- A LOOP's count (R232). -/
def Ctx.loopCount (c : Ctx) (im : Bool) (a : BitVec 6) (cnt : BitVec 24) : W32 :=
  if im then cnt.zeroExtend 32 else (c.g a).truncate 32

theorem Ctx.loopCount_toNat (c : Ctx) (im : Bool) (a : BitVec 6) (cnt : BitVec 24) :
    (c.loopCount im a cnt).toNat = if im then cnt.toNat else (c.g a).toNat % 2 ^ 32 := by
  cases im with
  | true => exact BitVec.toNat_setWidth_of_le (w' := 32) (b := cnt) (by decide)
  | false => exact BitVec.toNat_setWidth 32 (c.g a)

/-- The issuing bundle's LOOP is noted (R232). -/
def State.noteJump (s : State) (j : Nat ⊕ LoopRec) : State := s.updMe (Ctx.mapSched fun q => { q with jump := some j })

theorem State.noteJump_spec (s : State) (j : Nat ⊕ LoopRec) : (s.noteJump j).me.sched = { s.me.sched with jump := some j } ∧
    s.me.sameRegs (s.noteJump j).me ∧ s.sameBytes (s.noteJump j) := s.updMe_mapSched_spec _

theorem execLoop_eq (s : State) (p : Pred) (lc : BitVec 3) (im : Bool) (a len : BitVec 6) (cnt : BitVec 24) :
    exec (.loop p lc im a len cnt) s = always s p (fun s => if s.me.loopCount im a cnt = 0 then
        s.noteJump (.inl (s.me.sched.pc + len.toNat))
      else (s.noteJump (.inr { n := lc, first := s.me.sched.pc + 1, last := s.me.sched.pc + len.toNat })).result .s 1 (.lc lc)
        ((s.me.loopCount im a cnt).zeroExtend 2048)) := rfl

/-- LOOP by its count (R232). -/
theorem State.loop_spec {s : State} {p : Pred} (hp : s.me.holds p = true) (lc : BitVec 3) (im : Bool) (a len : BitVec 6)
    (cnt : BitVec 24) (n : Nat) (hn : (s.me.loopCount im a cnt).toNat = n) :
    (n = 0 → s.nextWith (.loop p lc im a len cnt) (fun t =>
       t.me.sched.jump = some (.inl (s.me.sched.pc + len.toNat)) ∧ t.me.sched.pend = s.me.sched.pend ∧ s.me.sameRegs t.me ∧
       s.sameBytes t)) ∧
    (n ≠ 0 → s.nextWith (.loop p lc im a len cnt) (fun t =>
       t.me.sched.jump = some (.inr { n := lc, first := s.me.sched.pc + 1, last := s.me.sched.pc + len.toNat }) ∧
       s.gains t 1 (.lc lc) (BitVec.ofNat 2048 n) ∧ s.me.sameRegs t.me ∧ s.sameBytes t)) := by
  have hz : s.me.loopCount im a cnt = 0 ↔ n = 0 := hn ▸ BitVec.toNat_inj.symm
  refine ⟨fun h0 => State.nextWith_of_always hp (execLoop_eq ..) ?_, fun h1 => State.nextWith_of_always hp (execLoop_eq ..) ?_⟩
  · rw [if_pos (hz.mpr h0)]
    obtain ⟨hs, hregs, hbytes⟩ := s.noteJump_spec (.inl (s.me.sched.pc + len.toNat))
    exact ⟨by rw [hs], by rw [hs], hregs, hbytes⟩
  · rw [if_neg (mt hz.mp h1)]
    obtain ⟨hs, hregs, hbytes⟩ := s.noteJump_spec (.inr { n := lc, first := s.me.sched.pc + 1, last := s.me.sched.pc + len.toNat })
    have hv : (s.me.loopCount im a cnt).zeroExtend 2048 = BitVec.ofNat 2048 n := hn ▸ (BitVec.ofNat_toNat 2048 _).symm
    have hg := s.gains_result (by rw [hs]) .s 1 (.lc lc) ((s.me.loopCount im a cnt).zeroExtend 2048)
    rw [State.result_me]
    exact ⟨congrArg Sched.jump hs, hv ▸ hg, hregs, hbytes.trans (State.sameBytes_result _ _ _ _ _)⟩

/-- Settles O8: a LOOP at issue, and the loops at the end of a bundle. -/
theorem loopsStartSkipRepeatAndLeave : Obligations.LoopsStartSkipRepeatAndLeave := by
  unfold Obligations.LoopsStartSkipRepeatAndLeave
  constructor
  · intro s p lc im a len cnt hp n pc
    exact State.loop_spec hp lc im a len cnt n (s.me.loopCount_toNat im a cnt)
  · intro c ls l hl hpc hj hd hi
    have hd1 : c.sched.dly ≠ 1 := by omega
    refine ⟨fun hn => ?_, fun hn hls => ?_⟩
    · obtain ⟨hp, hloops, hlc⟩ := Ctx.endBundle_repeat hpc hj hd1 hi hl hn
      obtain ⟨hsame, hother⟩ := Ctx.lc_of_set hlc
      refine ⟨hp, hloops, ?_, hother⟩
      rw [hsame, BitVec.toNat_sub_of_le (by rw [BitVec.le_def]; simp; omega)]
      rfl
    · subst hls
      obtain ⟨hp, hloops, hlc⟩ := Ctx.endBundle_leave hpc hj hd1 hi hl hn
      exact ⟨hp, hloops, by rw [(Ctx.lc_of_set hlc).1]; rfl⟩

end Sys2Proof.Machine
end

section
/-! PROOFS. Frame of the operations that only schedule results (R197, R227, R231, R245). -/

namespace Sys2Proof.Machine

/-- The running context may have results for `ds` more, and its schedule may redirect issue; nothing else differs. -/
def State.addsOnly (s : State) (ds : List Dest) (t : State) : Prop :=
  t = s ∨ ∃ q : Sched, t = s.updMe (fun c => { c with sched := q }) ∧ q.latches = s.me.sched.latches ∧
    q.stores = s.me.sched.stores ∧ ∃ ps, q.pend = s.me.sched.pend ++ ps ∧ ∀ x ∈ ps, x.dest ∈ ds

namespace State.addsOnly

variable {s t : State} {ds : List Dest}

theorem result (z : Slot) (lat : Nat) (d : Dest) (v : Line) : s.addsOnly [d] (s.result z lat d v) :=
  .inr ⟨(s.me.result z lat d v).sched, rfl, rfl, rfl, _, rfl, by simp⟩

/-- A redirection of issue adds no result. -/
theorem updMe_mapSched {f : Sched → Sched} (hp : (f s.me.sched).pend = s.me.sched.pend)
    (hl : (f s.me.sched).latches = s.me.sched.latches) (hs : (f s.me.sched).stores = s.me.sched.stores) :
    s.addsOnly ds (s.updMe (Ctx.mapSched f)) :=
  .inr ⟨f s.me.sched, rfl, hl, hs, [], by simpa using hp, by simp⟩

/-- A redirection of issue with a result. -/
theorem updMe_mapSched_result {f : Sched → Sched} (hp : (f s.me.sched).pend = s.me.sched.pend)
    (hl : (f s.me.sched).latches = s.me.sched.latches) (hs : (f s.me.sched).stores = s.me.sched.stores) (z : Slot) (lat : Nat)
    (d : Dest) (v : Line) : s.addsOnly [d] ((s.updMe (Ctx.mapSched f)).result z lat d v) :=
  .inr ⟨((s.me.mapSched f).result z lat d v).sched, s.updMe_updMe .., hl, hs, _, congrArg (· ++ _) hp, by simp⟩

theorem branch (m : Nat) : s.addsOnly ds (s.branch m) :=
  updMe_mapSched (f := fun q => { q with rtgt := m % 2 ^ 24, dly := 3 }) rfl rfl rfl

theorem branch_result (m : Nat) (z : Slot) (lat : Nat) (d : Dest) (v : Line) : s.addsOnly [d] ((s.branch m).result z lat d v) :=
  updMe_mapSched_result (f := fun q => { q with rtgt := m % 2 ^ 24, dly := 3 }) rfl rfl rfl ..

theorem of_always {i : Instr} {p : Pred} {eff : State → State} (hi : exec i s = always s p eff) (ht : exec i s = .next t)
    (h : s.addsOnly ds (eff s)) : s.addsOnly ds t := by
  cases hp : s.me.holds p with
  | true => 
    rw [hi, always_of_holds s p eff hp] at ht
    cases ht
    exact h
  | false =>
    rw [hi, always_of_not_holds s p eff hp] at ht
    cases ht
    exact .inl rfl

/-- What that leaves. -/
theorem frame (h : s.addsOnly ds t) : s.onlySchedule t ∧ s.me.sameRegs t.me ∧ s.sameBytes t ∧ (∀ n, n ≠ s.cur → t.ctx n = s.ctx n) ∧
    t.me.sched.latches = s.me.sched.latches ∧ t.me.sched.stores = s.me.sched.stores ∧
    ∃ ps, t.me.sched.pend = s.me.sched.pend ++ ps ∧ ∀ x ∈ ps, x.dest ∈ ds := by
  rcases h with rfl | ⟨q, rfl, hl, hs, hps⟩
  · exact ⟨.inl rfl, Ctx.sameRegs_refl _, t.sameBytes_refl, fun _ _ => rfl, rfl, rfl, [], by simp, by simp⟩
  · rw [s.updMe_me]
    exact ⟨.inr ⟨q, rfl⟩, Ctx.sameRegs_refl _, s.sameBytes_updMe _ rfl rfl, fun n hn => s.updMe_ctx_ne _ n hn.symm, hl, hs, hps⟩

end State.addsOnly

/-- Each operation with destinations adds its results alone: but for those that redirect issue, one result. -/
theorem exec_addsOnly {s t : State} {i : Instr} {ds : List Dest} (hi : i.writes = some ds) (ht : exec i s = .next t) :
    s.addsOnly ds t := by
  cases i <;> cases hi
  case nop => cases ht; exact .inl rfl
  case fmt => cases ht; exact .result ..
  case br => exact .of_always rfl ht (.branch _)
  case call => exact .of_always rfl ht (.branch_result ..)
  case brc d off =>
    refine .of_always rfl ht ?_
    split
    · exact .inl rfl
    · exact .branch_result ..
  case loop =>
    refine .of_always (execLoop_eq ..) ht ?_
    split
    · exact .updMe_mapSched rfl rfl rfl
    · exact .updMe_mapSched_result rfl rfl rfl ..
  case amov x d a =>
    refine .of_always rfl ht ?_
    by_cases h0 : x = 0
    · rw [if_pos h0, if_pos (.inl h0)]
      exact .result ..
    · by_cases h1 : x = 1
      · rw [if_neg h0, if_pos h1, if_pos (.inr h1)]
        exact .result ..
      · rw [if_neg h0, if_neg h1, if_neg (not_or.mpr ⟨h0, h1⟩)]
        exact .result ..
  all_goals exact .of_always rfl ht (.result ..)

/-- Settles O9: the frame of what only adds results. -/
theorem registerOperationsChangeOnlyTheirSchedule : Obligations.RegisterOperationsChangeOnlyTheirSchedule := by
  unfold Obligations.RegisterOperationsChangeOnlyTheirSchedule
  exact fun _ _ _ _ hi ht => (exec_addsOnly hi ht).frame

end Sys2Proof.Machine
end

section
/-! PROOFS. The bundle that a step runs (R196, R203): from the agenda's move to the operations. -/

namespace Sys2Proof.Machine

/-! ### The order of a bundle's operations (R102, R272) -/

theorem runOps_singleton (s : State) (i : Instr) : runOps s [i] = exec i s := by
  rw [runOps]
  split
  next h => rw [h]; rfl
  · rfl

/-- No load is among the operations that act last. -/
theorem last_and_reads_eq_false (i : Instr) : (i.last && i.reads) = false := by cases i <;> rfl

theorem actOrder_singleton (i : Instr) : actOrder [i] = [i] := by
  have h := last_and_reads_eq_false i
  cases hl : i.last <;> cases hr : i.reads <;> simp_all [actOrder]

/-- A NOP acts before any other operation. -/
theorem actOrder_nop_cons (k : BitVec 2) (i : Instr) : actOrder [.nop k, i] = [.nop k, i] := by
  have h := last_and_reads_eq_false i
  cases hl : i.last <;> cases hr : i.reads <;> simp_all [actOrder, Instr.last, Instr.reads]

/-! ### Stores leave which context runs and what has been sent -/

/-- The running context and the outputs are as they were. -/
def State.keepsCurOut (s t : State) : Prop := t.cur = s.cur ∧ t.out = s.out

namespace State.keepsCurOut

variable {s t u : State}

theorem refl (s : State) : s.keepsCurOut s := ⟨rfl, rfl⟩

theorem trans (h : s.keepsCurOut t) (k : t.keepsCurOut u) : s.keepsCurOut u := ⟨k.1.trans h.1, k.2.trans h.2⟩

theorem foldl {α : Type} (f : State → α → State) (l : List α) (h : ∀ (t : State) (x : α), t.keepsCurOut (f t x)) (s : State) :
    s.keepsCurOut (l.foldl f s) :=
  List.foldlRecOn l f (refl s) fun t ht x _ => ht.trans (h t x)

end State.keepsCurOut

section
variable (s : State)

theorem State.keepsCurOut_setRing (core r : Nat) (x : Ring) : s.keepsCurOut (s.setRing core r x) := by
  unfold State.setRing
  dsimp only
  split <;> exact ⟨rfl, rfl⟩

theorem State.keepsCurOut_fillRings (core o n k : Nat) : s.keepsCurOut (s.fillRings core o n k) := by
  induction k with
  | zero => exact .refl s
  | succ k ih =>
    unfold State.fillRings
    dsimp only
    split
    · split
      · exact ih
      · exact ih.trans (State.keepsCurOut_setRing ..)
    · exact ih

theorem State.keepsCurOut_writeByte (pa : Nat) (b : Byte) : s.keepsCurOut (s.writeByte pa b) := by
  unfold State.writeByte
  split <;> exact ⟨rfl, rfl⟩

theorem State.keepsCurOut_windowStore (pa : Nat) (bs : List Byte) : s.keepsCurOut (s.windowStore pa bs) := by
  induction bs generalizing s pa with
  | nil => exact .refl s
  | cons b r ih =>
    rw [State.windowStore]
    split
    · exact ih s _
    · exact (s.keepsCurOut_writeByte pa b).trans (ih _ _)

theorem State.keepsCurOut_writeBytesRaw (pa : Nat) (bs : List Byte) : s.keepsCurOut (s.writeBytesRaw pa bs) := by
  induction bs generalizing s pa with
  | nil => exact .refl s
  | cons b r ih => exact (s.keepsCurOut_writeByte pa b).trans (ih _ _)

theorem State.keepsCurOut_touch (pa : Nat) : s.keepsCurOut (s.touch pa) := by
  unfold State.touch
  split <;> exact ⟨rfl, rfl⟩

theorem State.keepsCurOut_touchAll (pa k : Nat) : s.keepsCurOut (s.touchAll pa k) := by
  induction k generalizing s pa with
  | zero => exact .refl s
  | succ k ih => exact (s.keepsCurOut_touch pa).trans (ih _ _)

theorem State.keepsCurOut_touchRange (pa n : Nat) : s.keepsCurOut (s.touchRange pa n) := by
  unfold State.touchRange
  split
  · exact .refl s
  · exact s.keepsCurOut_touchAll _ _

theorem State.keepsCurOut_writeMem (pa : Nat) (bs : List Byte) : s.keepsCurOut (s.writeMem pa bs) := by
  have h : s.keepsCurOut ((s.writeBytesRaw pa bs).touchRange pa bs.length) :=
    (s.keepsCurOut_writeBytesRaw pa bs).trans (State.keepsCurOut_touchRange ..)
  unfold State.writeMem
  dsimp only
  split
  · exact h
  · exact h

theorem State.keepsCurOut_store (pa : Nat) (bs : List Byte) : s.keepsCurOut (s.store pa bs) := by
  unfold State.store
  split
  · exact s.keepsCurOut_windowStore pa bs
  · dsimp only
    split
    · exact (s.keepsCurOut_writeMem pa bs).trans (State.keepsCurOut_fillRings ..)
    · exact s.keepsCurOut_writeMem pa bs

theorem State.keepsCurOut_brelAct (core r : Nat) (consumer err : Bool) (cnt : Nat) :
    s.keepsCurOut (s.brelAct core r consumer err cnt) := by
  unfold State.brelAct
  dsimp only
  split
  · split
    · exact s.keepsCurOut_setRing ..
    · exact .refl s
  · split
    · exact s.keepsCurOut_setRing ..
    · exact .refl s

theorem State.keepsCurOut_ownStore (n : Nat) (o : OwnStore) : s.keepsCurOut (s.ownStore n o) := by
  unfold State.ownStore
  split
  · exact s.keepsCurOut_brelAct ..
  · exact s.keepsCurOut_store ..

theorem State.keepsCurOut_settle (n t : Nat) : s.keepsCurOut (s.settle n t) :=
  .foldl (fun x o => x.ownStore n o) _ (fun x o => x.keepsCurOut_ownStore n o) (s.setCtx n _)

theorem State.arriveAt_cur (n : Nat) : (s.arriveAt n).cur = s.cur := (s.keepsCurOut_settle n _).1

end

/-! ### From the agenda to the bundle -/

section
variable (s : State)

/-- Nothing is forced where nothing due is without its data (R208). -/
theorem State.forced_of_late_nil (n : Nat) (h : (s.ctx n).sched.late (s.core (coreOf n)).cycle = []) : s.forced n = s := by
  have hnone : (s.ctx n).sched.latches.filter (fun l => decide (l.due ≤ (s.ctx n).sched.time) &&
      l.overdue (s.core (coreOf n)).cycle) = [] := by
    rw [List.filter_eq_nil_iff]
    intro l hl ho
    simp only [Latch.overdue, Bool.and_eq_true, decide_eq_true_eq] at ho
    refine List.filter_eq_nil_iff.mp h l hl ?_
    simp [ho]
  unfold State.forced
  simp only [hnone, List.map_nil, leastBy]

/-- A context with nothing landing, leaving or empty comes to its fetch (R205, R304, R420). -/
theorem State.present_eq_fetch (hland : s.me.sched.landFault = none) (hlate : s.me.sched.late s.myCore.cycle = [])
    (hleave : (s.arriveAt s.cur).me.leaving = false) (hempty : (s.arriveAt s.cur).me.sched.empty = 0) :
    s.present = (s.arriveAt s.cur).fetch := by
  unfold State.present
  simp only [s.forced_of_late_nil s.cur hlate, hland, hlate, hleave, hempty]
  rfl

/-- A bundle in the bundle cache is decoded and presented (R202, R203). -/
theorem State.fetch_eq_presentOps {i : Image} {b : BitVec 512} {l : List (Slot × Instr)} (hi : s.myImage? = some i)
    (hb : i.bundles[s.me.sched.pc]? = some b) (hc : s.inCache = true) (hl : Decode.bundle b = .ok l) :
    s.fetch = s.presentOps (l.map Prod.snd) := by
  simp [State.fetch, hi, hb, hc, hl]

/-- Issuing a bundle whose weight the window admits (R196, R220). -/
theorem State.presentOps_of_issue {ops : List Instr}
    (hj : (s.updMe (fun c => { c with sync := { c.sync with tending := false } })).judge ops = .issue)
    (hw : s.myCore.windowOk s.myCore.cycle (bundleWeight ops) = true) :
    s.presentOps ops = (s.updMe (fun c => { c with sync := { c.sync with tending := false } })).issueBundle ops := by
  simp [State.presentOps, hj, hw]

/-- What follows a cycle of the running context: its core's cycle ends. -/
def ticked (c : Nat) (o : Host.Outcome State Fault Refusal) : Host.Outcome State Fault Refusal :=
  match o with
  | .next t => .next (t.tick c)
  | o => o

/-- What follows the operations of an issued bundle: the next bundle, and the end of the core's cycle. -/
def issued (c n : Nat) (ops : List Instr) (o : Host.Outcome State Fault Refusal) : Host.Outcome State Fault Refusal :=
  match o with
  | .next t => .next ((({ t with cur := n } : State).afterBundle n ops).tick c)
  | o => o

/-- The cycle of a bundle that issues: its weight is charged, its operations run, and the next bundle follows (R196, R203). -/
theorem ticked_issueBundle (u : State) (c n : Nat) (hn : u.cur = n) (ops : List Instr) : ticked c (u.issueBundle ops) =
    issued c n ops (runOps ((u.updMe (fun c => { c with sched := { c.sched with granted := true } })).updCore (n / 4)
      (fun k => k.charge (ops.foldl (fun m i => m + i.weight) 0))) (actOrder ops)) := by
  subst hn
  unfold State.issueBundle coreOf
  dsimp only
  generalize runOps _ _ = o
  cases o <;> rfl

/-- A core that is online and whose width a context in one of the modes that issue holds (R196, R214). -/
theorem State.coreCycle_eq_present (c : Nat) (hc : c < 1024) (hoff : (s.core c).offline = false) (hon : s.online (dieOf c) = true)
    (hfatal : s.host.fatal = false) (hidle : ((s.coreBackground c).core c).idle = false)
    (hswitch : ((s.coreBackground c).core c).switch = 0)
    (hact : ((s.coreBackground c).ctx ((s.coreBackground c).core c).running).active = true) :
    s.coreCycle c = ticked c ({ s.coreBackground c with cur := ((s.coreBackground c).core c).running } : State).present := by
  have hgo : ((s.core c).offline || !s.online (dieOf c) || s.host.fatal || decide (1024 ≤ c)) = false := by
    simp [hoff, hon, hfatal, hc]
  unfold State.coreCycle
  rw [if_neg (by simp [hgo])]
  dsimp only
  rw [if_neg (by simp [hidle]), if_neg (by simp [hswitch]), if_neg (by simp [hact])]
  generalize State.present _ = o
  cases o <;> rfl

end

/-- Settles O58: each of the lemmas above takes one turn on the way from `step` to `runOps`. -/
theorem stepRunsTheDecodedBundle : Obligations.StepRunsTheDecodedBundle := by
  unfold Obligations.StepRunsTheDecodedBundle
  refine ⟨?_, fun s k i => ?_, fun s i => ?_⟩
  · intro s c rest i b l hag hc hoff hon hfatal v n w q ops hidle hswitch hact hland hlate hleave hempty hi hb hcache hl u hj hw
    have hstep : step s = ({ s with agenda := rest } : State).coreCycle c := by
      rw [step, hag]
      rfl
    have hcycle : ({ s with agenda := rest } : State).coreCycle c = ticked c w.present :=
      ({ s with agenda := rest } : State).coreCycle_eq_present c hc hoff hon hfatal hidle hswitch hact
    rw [hstep, hcycle]
    clear_value v
    have hpresent : w.present = q.fetch := w.present_eq_fetch hland hlate hleave hempty
    have hfetch : q.fetch = q.presentOps ops := q.fetch_eq_presentOps hi hb hcache hl
    have hissue : q.presentOps ops = u.issueBundle ops := q.presentOps_of_issue hj hw
    rw [hpresent, hfetch, hissue, ticked_issueBundle u c n (w.arriveAt_cur n) ops]
    generalize runOps _ _ = o
    cases o <;> rfl
  · rw [actOrder_nop_cons]
    exact runOps_singleton s i
  · rw [actOrder_singleton, runOps_singleton]

end Sys2Proof.Machine
end

section
/-! PROOFS. Loads (R183, R205, R206, R316, R319, R321, R358, R466): when one issues, the latch it takes, and its data where its bytes
lie in the own working area. -/

namespace Sys2Proof.Machine

/-! ### Bytes read -/

theorem ofBytes_append (xs ys : List Byte) : ofBytes (xs ++ ys) = ofBytes xs + 2 ^ (8 * xs.length) * ofBytes ys := by
  induction xs with
  | nil => simp [ofBytes]
  | cons x r ih =>
    rw [List.cons_append, ofBytes, ofBytes, ih, List.length_cons, Nat.mul_succ, Nat.pow_add]
    ring

theorem ofBytes_lt (xs : List Byte) : ofBytes xs < 2 ^ (8 * xs.length) := by
  induction xs with
  | nil => simp [ofBytes]
  | cons x r ih =>
    have hx := x.isLt
    rw [ofBytes, List.length_cons, Nat.mul_succ, Nat.pow_add]
    omega

section
variable (s : State)

@[simp] theorem State.readMem_length (a n : Nat) : (s.readMem a n).length = n := by
  induction n generalizing a with
  | zero => rfl
  | succ n ih => simp [State.readMem, ih]

theorem State.readMem_add (a m n : Nat) : s.readMem a (m + n) = s.readMem a m ++ s.readMem (a + m) n := by
  induction m generalizing a with
  | zero => simp [State.readMem]
  | succ m ih => rw [Nat.succ_add, State.readMem, ih, State.readMem, List.cons_append, Nat.add_right_comm, Nat.add_assoc]

/-- A line of bytes that were read. -/
theorem lineOfBytes_readMem_toNat (a n : Nat) (h : n ≤ 256) : (lineOfBytes (s.readMem a n)).toNat = s.readNat a n := by
  have hlt := ofBytes_lt (s.readMem a n)
  rw [s.readMem_length] at hlt
  exact Nat.mod_eq_of_lt (hlt.trans_le (Nat.pow_le_pow_right (by decide) (by omega)))

theorem State.readNat_lt (a n : Nat) : s.readNat a n < 2 ^ (8 * n) := by
  have h := ofBytes_lt (s.readMem a n)
  rwa [s.readMem_length] at h

/-- Words read one after another are the fields of one number. -/
theorem ofBytes_readMem_words (at_ : Nat → Nat) (k : Nat) :
    ofBytes ((List.range k).flatMap (fun w => s.readMem (at_ w) 4)) = packed 32 (fun w => s.readNat (at_ w) 4) k := by
  induction k with
  | zero => rfl
  | succ k ih =>
    have hlen : ((List.range k).flatMap (fun w => s.readMem (at_ w) 4)).length = k * 4 := by
      simp [List.length_flatMap]
    rw [List.range_succ, List.flatMap_append, ofBytes_append, ih, hlen, packed_succ, Nat.mod_eq_of_lt (s.readNat_lt (at_ k) 4),
      List.flatMap_singleton, show 8 * (k * 4) = 32 * k by ring, Nat.mul_comm (2 ^ (32 * k))]
    rfl

theorem lineElem_lineOfBytes_words (at_ : Nat → Nat) (w : Nat) (h : w < 64) :
    lineElem 32 (lineOfBytes ((List.range 64).flatMap (fun w => s.readMem (at_ w) 4))) w = s.readNat (at_ w) 4 := by
  have hlt := packed_lt 32 (fun w => s.readNat (at_ w) 4) 64
  rw [lineElem, bits_eq_div_mod, lineOfBytes, BitVec.toNat_ofNat, ofBytes_readMem_words, Nat.mod_eq_of_lt hlt, packed_field _ _ _ _ h,
    Nat.mod_eq_of_lt (s.readNat_lt (at_ w) 4)]

end

/-! ### The plain working area (R180, R183) -/

/-- The offset of a plain area byte in its die's address space. -/
def plainOff (n o : Nat) : Nat := 0x80000000000 + (n / 4 % 256) * 0x1000000 + 0x180000 + (n % 4) * 0x20000 + o

theorem plainBase_add_eq (n o : Nat) : plainBase n + o = 2 ^ 44 * (n / 1024) + plainOff n o := by
  rw [plainBase, windowBase, coreOf, Nat.shiftLeft_eq, Nat.div_div_eq_div_mul, plainOff]
  omega

section
variable {n o : Nat} (ho : o < 0x20000)
include ho

theorem plainOff_lt : plainOff n o < 2 ^ 44 := by
  unfold plainOff
  omega

theorem plain_mod : (plainBase n + o) % 2 ^ 44 = plainOff n o := by
  rw [plainBase_add_eq, Nat.mul_add_mod, Nat.mod_eq_of_lt (plainOff_lt ho)]

variable (hn : n < 4096)
include hn

theorem plain_die : bits (plainBase n + o) 44 2 = n / 1024 := by
  rw [bits_eq_div_mod, plainBase_add_eq, Nat.mul_add_div (by decide), Nat.div_eq_of_lt (plainOff_lt ho)]
  omega

theorem plain_lt : plainBase n + o < 2 ^ 46 := by
  have h := plainOff_lt (n := n) ho
  rw [plainBase_add_eq]
  omega

theorem windowCore_plain : windowCore (plainBase n + o) = some (n / 4) := by
  unfold windowCore
  rw [plain_die ho hn, plain_mod ho, plainOff]
  dsimp only
  rw [if_pos (by omega)]
  congr 1
  omega

theorem placeOf_plain : placeOf (plainBase n + o) = .plain n o := by
  have hwin : windowPlace (n / 4) (0x180000 + (n % 4 * 0x20000 + o)) = .plain n o := by
    rw [windowPlace, if_neg (by omega), if_pos (by omega), Nat.add_sub_cancel_left]
    congr 1 <;> omega
  have hcore : 256 * (n / 1024) + (plainOff n o - 0x80000000000) / 0x1000000 = n / 4 := by
    unfold plainOff
    omega
  have hoff : plainOff n o % 0x1000000 = 0x180000 + (n % 4 * 0x20000 + o) := by
    unfold plainOff
    omega
  have hlo : 0x80000000000 ≤ plainOff n o := by
    unfold plainOff
    omega
  have hhi : plainOff n o < 0x80100000000 := by
    unfold plainOff
    omega
  unfold placeOf
  rw [plain_die ho hn, plain_mod ho]
  dsimp only
  rw [if_neg (by omega), if_neg (by omega), if_pos hhi, hcore, hoff, hwin]

end

theorem isSelf.addrHome {ea : W80} (h : isSelf ea) : addrHome ea = selfHome := by
  rw [Machine.addrHome, bits_eq_div_mod, selfHome]
  unfold isSelf at h
  omega

theorem isSelf.badFormat {ea : W80} (h : isSelf ea) : badFormat ea = false := by
  have hm : addrMid ea = 0 := by
    rw [addrMid, bits_eq_div_mod]
    unfold isSelf at h
    omega
  simp [Machine.badFormat, hm]

end Sys2Proof.Machine
end

section
/-! PROOFS. Requests to memory as they issue (R190, R205, R206, R319): what translating them leaves, and loads of the own plain area. -/

namespace Sys2Proof.Machine

/-! ### Translation leaves contexts and memory -/

/-- Contexts, memory and which context runs are the same. -/
def State.sameCtxs (s t : State) : Prop := t.ctxs = s.ctxs ∧ t.mem = s.mem ∧ t.cur = s.cur

namespace State.sameCtxs

variable {s t u : State}

theorem refl (s : State) : s.sameCtxs s := ⟨rfl, rfl, rfl⟩

theorem trans (h : s.sameCtxs t) (k : t.sameCtxs u) : s.sameCtxs u := by
  obtain ⟨hc, hm, hn⟩ := h
  obtain ⟨kc, km, kn⟩ := k
  exact ⟨kc.trans hc, km.trans hm, kn.trans hn⟩

theorem of_keepsContexts (h : s.keepsContexts t) : s.sameCtxs t := ⟨h.ctxs, h.mem, h.cur⟩

theorem ctx (h : s.sameCtxs t) (n : Nat) : t.ctx n = s.ctx n := congrArg (Sparse.get Ctx.reset · n) h.1

end State.sameCtxs

section
variable (s : State)

theorem State.sameCtxs_walkFor (core home off : Nat) (wr : Bool) : s.sameCtxs (s.walkFor core home off wr) := by
  unfold State.walkFor
  dsimp only
  split
  · exact .refl s
  · split
    · exact .refl s
    · obtain ⟨hc, hm, hn⟩ := State.sameCtxs.of_keepsContexts
        (s.keepsContexts_inject (dieOf core) (home / 4) (home % 4) 0 6 true (BitVec.ofNat 64 (home <<< 48 + (off - off % 0x10000)))
          (s.walkTag core wr) [])
      exact ⟨hc, hm, hn⟩

/-- One piece: its place, its fault or a walk. -/
def State.translatePiece (s : State) (n home : Nat) (rd wr : Bool) (p : Piece) : Piece × Bool × State :=
  if p.pa.isSome || p.bad.isSome then (p, false, s)
  else
    match s.locate n home p.off rd wr with
    | (.hit pa k, s) => ({ p with pa := some pa, kind := k }, false, s)
    | (.remote (some (a, k)), s) => ({ p with pa := some a, kind := k }, false, s)
    | (.fault c, s) => ({ p with bad := some c }, false, s)
    | (.miss, s) | (.remote none, s) => (p, true, s.walkFor (coreOf n) home p.off wr)

theorem State.translatePieces_cons (n home : Nat) (rd wr : Bool) (p : Piece) (rest : List Piece) :
    s.translatePieces n home rd wr (p :: rest) =
      let x := s.translatePiece n home rd wr p
      let y := x.2.2.translatePieces n home rd wr rest
      (x.1 :: y.1, x.2.1 || y.2.1, y.2.2) := rfl

theorem State.sameCtxs_translatePiece (n home : Nat) (rd wr : Bool) (p : Piece) :
    s.sameCtxs (s.translatePiece n home rd wr p).2.2 := by
  have h := State.sameCtxs.of_keepsContexts (s.keepsContexts_locate n home p.off rd wr)
  unfold State.translatePiece
  split
  · exact .refl s
  · generalize s.locate n home p.off rd wr = x at h ⊢
    obtain ⟨tr, u⟩ := x
    have hw : s.sameCtxs (u.walkFor (coreOf n) home p.off wr) := h.trans (u.sameCtxs_walkFor ..)
    cases tr with
    | remote at_ =>
      cases at_
      · exact hw
      · exact h
    | miss => exact hw
    | hit | fault => exact h

theorem State.sameCtxs_translatePieces (n home : Nat) (rd wr : Bool) (ps : List Piece) :
    s.sameCtxs (s.translatePieces n home rd wr ps).2.2 := by
  induction ps generalizing s with
  | nil => exact .refl s
  | cons p rest ih => exact (s.sameCtxs_translatePiece n home rd wr p).trans (ih _)

theorem State.sameCtxs_translateReq (n : Nat) (r : Req) : s.sameCtxs (s.translateReq n r).2 := by
  have h := s.sameCtxs_translatePieces n (addrHome r.base) r.op.mode.1 r.op.mode.2 r.pieces
  unfold State.translateReq
  dsimp only
  split_ifs
  · exact .refl s
  · exact .refl s
  · exact h
  · exact h
  · split
    · exact h
    · split <;> exact h

end

/-! ### A request that takes a latch -/

/-- A request as it issues, before its translation. -/
def State.newReq (s : State) (slot : Slot) (op : ReqOp) (cls : Nat) (base : W80) (ps : List Piece) (data : List Byte) : Req :=
  { id := s.me.mem.nextId, ord := s.me.sched.ord + slot.num, t := s.me.sched.time, slot := slot, op := op, cls := cls,
    home := addrHome base, base := base, pieces := ps, data := data, fault := none, performed := false, acked := false,
    bound := none, remote := none, place := none }

/-- The own-window part of a request, at once; one that loads has its data (R319). -/
def State.performOwn (s : State) (n : Nat) (load : Bool) (r : Req) : Req :=
  let own := s.ownPart n r
  (if load ∧ !own.isEmpty then s.ownReads n r else r).markDone (fun p => own.any (fun q => q.pos == p.pos))

/-- A request with a latch: translation, then one more latch and at most one more request of the running context. The latch has the
data at once where the own-window part performed all of it (R205, R206, R319). -/
theorem State.memRequest_land (s : State) (slot : Slot) (op : ReqOp) (cls : Nat) (base : W80) (ps : List Piece) (data : List Byte)
    (dest : Dest) (dist : Nat) :
    let x := s.translateReq s.cur (s.newReq slot op cls base ps data)
    let r := x.2.performOwn s.cur op.isLoad x.1
    ∃ (l : Latch) (rs : List Req), s.memRequest slot op cls base ps data (some (dest, dist)) =
        x.2.updCtx s.cur (fun c => { c with
          sched := { c.sched with latches := c.sched.latches ++ [l] }
          mem := { c.mem with nextId := s.me.mem.nextId + 1, reqs := c.mem.reqs ++ rs } }) ∧
      (l.slot = slot ∧ l.dest = dest ∧ l.due = s.me.sched.time + max dist 1 ∧ l.dist = dist) ∧
      (r.fault = none → r.performed = true → l.stat = .arrived ∧ l.data = lineOfBytes r.data) := by
  intro x r
  unfold State.memRequest
  dsimp only
  have hx : x = s.translateReq s.cur (s.newReq slot op cls base ps data) := rfl
  simp only [State.newReq] at hx
  rw [← hx]
  clear_value x
  obtain ⟨y, u⟩ := x
  dsimp only at r ⊢
  have hr : r = u.performOwn s.cur op.isLoad y := rfl
  dsimp only [State.performOwn] at hr
  rw [← hr]
  clear_value r
  split
  next f hf => exact ⟨_, _, by rw [State.updCtx_updCtx], ⟨rfl, rfl, rfl, rfl⟩, fun h => absurd hf (by rw [h]; nofun)⟩
  next hf =>
    split
    · exact ⟨_, [], by rw [State.updCtx_updCtx], ⟨rfl, rfl, rfl, rfl⟩, fun _ _ => ⟨rfl, rfl⟩⟩
    next hp => exact ⟨_, _, by rw [State.updCtx_updCtx], ⟨rfl, rfl, rfl, rfl⟩, fun _ h => absurd h hp⟩

/-! ### Loads of the own plain area (R183, R319, R321) -/

/-- A piece of `p.len` bytes in the plain area, not yet translated. -/
def Piece.inPlain (p : Piece) : Prop := p.pa = none ∧ p.bad = none ∧ 0 < p.len ∧ p.off + p.len ≤ 0x20000

/-- Its place in the plain area of context `n`. -/
def Piece.atPlain (n : Nat) (p : Piece) : Piece := { p with pa := some (plainBase n + p.off), kind := .o }

/-- The data of a load once it has read a piece in the plain area of context `n`. -/
def State.plainData (s : State) (n : Nat) (data : List Byte) (p : Piece) : List Byte :=
  data.take p.pos ++ s.readMem (plainBase n + p.off) p.len ++ data.drop (p.pos + p.len)

section
variable (s : State) {n : Nat}

theorem State.translatePiece_plain {p : Piece} (h : p.inPlain) (rd wr : Bool) :
    s.translatePiece n selfHome rd wr p = (p.atPlain n, false, s) := by
  obtain ⟨hpa, hbad, hlen, hoff⟩ := h
  have hlt : p.off < 0x20000 := by omega
  simp [State.translatePiece, State.locate, selfAddr, hpa, hbad, hlt, Piece.atPlain]

theorem State.translatePieces_plain {ps : List Piece} (h : ∀ p ∈ ps, p.inPlain) (rd wr : Bool) :
    s.translatePieces n selfHome rd wr ps = (ps.map (Piece.atPlain n), false, s) := by
  induction ps with
  | nil => rfl
  | cons p rest ih =>
    rw [s.translatePieces_cons, s.translatePiece_plain (h p (by simp))]
    dsimp only
    rw [ih fun q hq => h q (by simp [hq])]
    rfl

/-- Where no piece has met a fault there is none to report. -/
theorem Req.pieceFault_of_noBad (r : Req) (h : ∀ p ∈ r.pieces, p.bad = none) : r.pieceFault = none := by
  have hbad : r.pieces.filter (fun p => p.bad.isSome) = [] := by
    rw [List.filter_eq_nil_iff]
    exact fun p hp => by simp [h p hp]
  cases hg : r.gathers <;> simp [Req.pieceFault, hbad, hg, leastBy]

theorem Piece.bad_of_mem_plain {ps : List Piece} (h : ∀ p ∈ ps, p.inPlain) : ∀ q ∈ ps.map (Piece.atPlain n), q.bad = none := by
  intro q hq
  obtain ⟨p, hp, rfl⟩ := List.mem_map.mp hq
  obtain ⟨-, hb, -⟩ := h p hp
  exact hb

/-- Closing a request without a fault can but mark it performed. -/
theorem Req.close_of_pieceFault (r : Req) (hf : r.fault = none) (hp : r.pieceFault = none) : ∃ b, r.close = { r with performed := b } := by
  unfold Req.close
  split
  · exact ⟨true, by rw [hf, hp]; simp⟩
  · exact ⟨r.performed, rfl⟩

/-- A request whose pieces have their places in the plain area. -/
def Req.atPlain (n : Nat) (r : Req) : Req := { r with pieces := r.pieces.map (Piece.atPlain n) }

/-- A translated load meets no fault of its place when it is aligned (R317). -/
theorem State.placeFault_load {r : Req} {gather : Bool} (hop : r.op = .load gather)
    (hal : gather = false → r.data.length = 256 → addrOff r.base % 256 = 0) : s.placeFault r = none := by
  have hmod : addrOff r.base % r.align = 0 := by
    cases gather with
    | true => simp [Req.align, hop, Nat.mod_one]
    | false =>
      simp only [Req.align, hop]
      split
      next h256 => exact hal rfl h256
      · exact Nat.mod_one _
  simp [State.placeFault, hmod, hop]

/-- A load of pieces in the own plain area is translated at once, without a fault (R183, R190, R317). -/
theorem State.translateReq_plain {r : Req} {gather : Bool} (hop : r.op = .load gather) (hself : isSelf r.base) (hf : r.fault = none)
    (hne : r.pieces ≠ []) (h : ∀ p ∈ r.pieces, p.inPlain) (hal : gather = false → r.data.length = 256 → addrOff r.base % 256 = 0) :
    ∃ b, s.translateReq n r = ({ r.atPlain n with performed := b }, s) := by
  have hfault : (r.atPlain n).pieceFault = none := Req.pieceFault_of_noBad _ (Piece.bad_of_mem_plain h)
  obtain ⟨b, hclose⟩ := (r.atPlain n).close_of_pieceFault hf hfault
  have hplace := s.placeFault_load (r := r.atPlain n) hop hal
  unfold State.translateReq
  dsimp only
  rw [if_neg (by simp [hne, hf]), if_neg (by simp [hself.badFormat]), hself.addrHome, s.translatePieces_plain h]
  dsimp only
  rw [if_neg Bool.false_ne_true]
  rw [Req.atPlain] at hfault hclose hplace ⊢
  split
  · exact ⟨b, congrArg (·, s) hclose⟩
  · refine ⟨r.performed, ?_⟩
    rw [hfault]
    dsimp only
    rw [hplace]

variable (hn : n < 4096)
include hn

theorem State.ownPiece_plain {p : Piece} (h : p.inPlain) : s.ownPiece n (p.atPlain n) = true := by
  obtain ⟨-, -, hlen, hoff⟩ := h
  have hlt : p.off < 0x20000 := by omega
  have hfree : s.windowFree (plainBase n + p.off) = true := by rw [State.windowFree, placeOf_plain hlt hn]
  exact Bool.and_eq_true_iff.mpr ⟨decide_eq_true ⟨plain_lt hlt hn, windowCore_plain hlt hn⟩, hfree⟩

/-- A load whose pieces lie in the own plain area performs all of them by its own timing (R319, R358). -/
theorem State.ownPart_plain {r : Req} {gather : Bool} (hop : r.op = .load gather) (hf : r.fault = none)
    (hst : (s.ctx n).sched.stores = []) (hreqs : ∀ q ∈ (s.ctx n).mem.reqs, q.ownWaits s.pkg (n / 4) = false) {ps : List Piece}
    (hr : r.pieces = ps.map (Piece.atPlain n)) (h : ∀ p ∈ ps, p.inPlain) : s.ownPart n r = r.pieces := by
  have hown : r.pieces.filter (fun p => p.bad.isNone && s.ownPiece n p) = r.pieces := by
    rw [hr, List.filter_eq_self]
    intro q hq
    obtain ⟨p, hp, rfl⟩ := List.mem_map.mp hq
    obtain ⟨-, hb, -⟩ := h p hp
    rw [s.ownPiece_plain hn (h p hp), Bool.and_true]
    exact Option.isNone_iff_eq_none.mpr hb
  have hloc : r.located = true := by
    rw [Req.located, hr]
    simp [Piece.atPlain]
  have hbefore : (s.ctx n).ownBefore s.pkg (coreOf n) r.ownRank = false := by
    rw [Ctx.ownBefore, List.any_eq_false]
    intro q hq
    simp [coreOf, hreqs q hq]
  unfold State.ownPart
  dsimp only
  rw [hown, hop, if_neg (by simp [hf, hloc])]
  dsimp only
  rw [if_neg (by simp [hbefore, hst])]

/-- One piece of a load that is in the own window. -/
def State.ownRead (s : State) (n : Nat) (r : Req) (p : Piece) : Req :=
  if !s.ownPiece n p then r
  else if s.pieceBad p then { r with pieces := r.pieces.map (fun q => if q = p then { q with bad := some cMEMERR } else q) }
  else { r with data := s.ownBytes n r.data p }

omit hn in
theorem State.ownReads_eq (r : Req) : s.ownReads n r = r.pieces.foldl (s.ownRead n) r := rfl

section
variable (hst : (s.ctx n).sched.stores = [])
include hst

theorem State.ownRead_plain (r : Req) {p : Piece} (h : p.inPlain) (hgood : s.badAt (plainBase n + p.off) p.len = false) :
    s.ownRead n r (p.atPlain n) = { r with data := s.plainData n r.data p } := by
  have hbad : s.pieceBad (p.atPlain n) = false := hgood
  rw [State.ownRead, if_neg (by simp [s.ownPiece_plain hn h]), if_neg (by simp [hbad]), State.ownBytes, Piece.atPlain]
  dsimp only
  rw [hst]
  rfl

/-- What the load reads, piece by piece (R319, R545). -/
theorem State.foldl_ownRead_plain (r : Req) {ps : List Piece} (h : ∀ p ∈ ps, p.inPlain)
    (hgood : ∀ p ∈ ps, s.badAt (plainBase n + p.off) p.len = false) :
    (ps.map (Piece.atPlain n)).foldl (s.ownRead n) r = { r with data := ps.foldl (s.plainData n) r.data } := by
  induction ps generalizing r with
  | nil => rfl
  | cons p rest ih =>
    rw [List.map_cons, List.foldl_cons, s.ownRead_plain hn hst r (h p (by simp)) (hgood p (by simp)),
      ih _ (fun x hx => h x (by simp [hx])) fun x hx => hgood x (by simp [hx])]
    rfl

end

omit hn in
/-- A request all of whose pieces are marked, and which met no fault, is performed. -/
theorem Req.markDone_all (r : Req) (f : Piece → Bool) (hne : r.pieces ≠ []) (hf : r.fault = none)
    (h : ∀ p ∈ r.pieces, f p = true ∧ p.bad = none) :
    (r.markDone f).fault = none ∧ (r.markDone f).performed = true ∧ (r.markDone f).data = r.data := by
  have hmap : r.pieces.map (fun p => if f p && p.bad.isNone then { p with done := true } else p) =
      r.pieces.map (fun p => { p with done := true }) := List.map_congr_left fun p hp => by simp [h p hp]
  have hfault : ({ r with pieces := r.pieces.map (fun p => { p with done := true }) } : Req).pieceFault = none := by
    refine Req.pieceFault_of_noBad _ fun q hq => ?_
    obtain ⟨p, hp, rfl⟩ := List.mem_map.mp hq
    exact (h p hp).2
  rw [Req.markDone, hmap, Req.close, if_pos (by simp [hne]), hfault, hf]
  exact ⟨rfl, rfl, rfl⟩

/-- The own-window part of such a load performs it (R319). -/
theorem State.performOwn_plain {r : Req} {gather : Bool} (hop : r.op = .load gather) (hf : r.fault = none)
    (hst : (s.ctx n).sched.stores = []) (hreqs : ∀ q ∈ (s.ctx n).mem.reqs, q.ownWaits s.pkg (n / 4) = false) {ps : List Piece}
    (hne : ps ≠ []) (hr : r.pieces = ps.map (Piece.atPlain n)) (h : ∀ p ∈ ps, p.inPlain)
    (hgood : ∀ p ∈ ps, s.badAt (plainBase n + p.off) p.len = false) :
    (s.performOwn n true r).fault = none ∧ (s.performOwn n true r).performed = true ∧
    (s.performOwn n true r).data = ps.foldl (s.plainData n) r.data := by
  have hne' : r.pieces ≠ [] := by rw [hr]; simpa using hne
  have hread : s.ownReads n r = { r with data := ps.foldl (s.plainData n) r.data } := (s.ownReads_eq r).trans
    ((congrArg (List.foldl (s.ownRead n) r) hr).trans (s.foldl_ownRead_plain hn hst r h hgood))
  unfold State.performOwn
  rw [s.ownPart_plain hn hop hf hst hreqs hr h]
  dsimp only
  rw [if_pos ⟨rfl, by simpa using hne'⟩, hread]
  exact Req.markDone_all _ _ hne' hf fun p hp =>
    ⟨List.any_eq_true.mpr ⟨p, hp, by simp⟩, Piece.bad_of_mem_plain (n := n) h p (hr ▸ hp)⟩

end

end Sys2Proof.Machine
end

section
/-! PROOFS. Loads as they issue (R206, R316, R321, R340, R466): the pieces of one, and what it takes and reads. -/

namespace Sys2Proof.Machine

/-! ### Pieces (R353) -/

/-- The pieces of a span of the plain area lie in it. -/
theorem mem_pieces_plain {off pos len m : Nat} (h : off + len ≤ 0x20000) {p : Piece} (hp : p ∈ pieces off pos len m) :
    p.inPlain ∧ off ≤ p.off ∧ p.off + p.len ≤ off + len := by
  induction m generalizing off pos len with
  | zero => cases hp
  | succ m ih =>
    unfold pieces at hp
    split at hp
    · cases hp
    next hlen =>
      extract_lets k at hp
      have hk : 0 < k ∧ k ≤ len := by
        unfold k
        split <;> omega
      rcases List.mem_cons.mp hp with rfl | hp
      · have hoff : off % 2 ^ 48 = off := Nat.mod_eq_of_lt (by omega)
        refine ⟨⟨rfl, rfl, hk.1, ?_⟩, ?_, ?_⟩ <;> dsimp only <;> omega
      · obtain ⟨hplain, hlo, hhi⟩ := ih (by omega) hp
        exact ⟨hplain, by omega, by omega⟩

theorem pieces_ne_nil {off pos len m : Nat} (hl : 0 < len) (hm : 0 < m) : pieces off pos len m ≠ [] := by
  obtain ⟨m, rfl⟩ := Nat.exists_eq_add_one.mpr hm
  rw [pieces, if_neg (by omega)]
  exact List.cons_ne_nil _ _

section
variable (s : State) (n : Nat)

/-- The pieces of a span read its bytes into their places. -/
theorem State.foldl_plainData_pieces {off pos len m : Nat} (h : off + len ≤ 0x20000) (hm : len ≤ m) (data : List Byte)
    (hd : pos + len ≤ data.length) : (pieces off pos len m).foldl (s.plainData n) data =
      data.take pos ++ s.readMem (plainBase n + off) len ++ data.drop (pos + len) := by
  induction m generalizing off pos len data with
  | zero =>
    obtain rfl : len = 0 := by omega
    simp [pieces, State.readMem]
  | succ m ih =>
    unfold pieces
    split
    next hlen =>
      subst hlen
      simp [State.readMem]
    next hlen =>
      extract_lets k
      have hk : 0 < k ∧ k ≤ len := by
        unfold k
        split <;> omega
      have hoff : off % 2 ^ 48 = off := Nat.mod_eq_of_lt (by omega)
      clear_value k
      obtain ⟨j, rfl⟩ := Nat.exists_eq_add_of_le hk.2
      rw [List.foldl_cons, Nat.add_sub_cancel_left, State.plainData, hoff]
      dsimp only
      have htake : (data.take pos ++ s.readMem (plainBase n + off) k).length = pos + k := by simp; omega
      rw [ih (by omega) (by omega) _ (by simp; omega), List.take_left' htake, List.drop_append, htake, s.readMem_add]
      simp [Nat.add_assoc]
      omega

/-- The words of a gather (R321). -/
theorem mem_wordPieces {off : Nat → Int} {p : Piece} (hp : p ∈ wordPieces off) : ∃ w < 64, p ∈ pieces (wrap 48 (off w)) (4 * w) 4 4 := by
  obtain ⟨w, hw, hp⟩ := List.mem_flatMap.mp hp
  exact ⟨w, List.mem_range.mp hw, hp⟩

theorem wrap_of_lt {x : Int} (h0 : 0 ≤ x) (h1 : x + 4 ≤ 0x20000) : wrap 48 x = x.toNat := by
  unfold wrap
  omega

/-- The words of a gather in the plain area read one after another. -/
theorem State.foldl_plainData_words {off : Nat → Int} (h : ∀ w < 64, 0 ≤ off w ∧ off w + 4 ≤ 0x20000) :
    (wordPieces off).foldl (s.plainData n) (zeros 256) =
      (List.range 64).flatMap (fun w => s.readMem (plainBase n + (off w).toNat) 4) := by
  have upTo (k : Nat) (hk : k ≤ 64) : ((List.range k).flatMap (fun w => pieces (wrap 48 (off w)) (4 * w) 4 4)).foldl (s.plainData n)
      (zeros 256) = (List.range k).flatMap (fun w => s.readMem (plainBase n + (off w).toNat) 4) ++ zeros (256 - 4 * k) := by
    induction k with
    | zero => rfl
    | succ k ih =>
      obtain ⟨h0, h1⟩ := h k (by omega)
      have hlen : ((List.range k).flatMap (fun w => s.readMem (plainBase n + (off w).toNat) 4)).length = 4 * k := by
        simp [List.length_flatMap, Nat.mul_comm]
      rw [List.range_succ, List.flatMap_append, List.foldl_append, ih (by omega), List.flatMap_singleton, wrap_of_lt h0 h1,
        s.foldl_plainData_pieces n (by omega) (le_refl 4) _ (by simp [hlen, zeros]; omega), List.flatMap_append, List.flatMap_singleton,
        List.take_left' hlen, List.drop_append, hlen]
      rw [List.drop_eq_nil_of_le (by omega), List.nil_append, Nat.add_sub_cancel_left, zeros, zeros, List.drop_replicate, Nat.sub_sub,
        Nat.mul_succ, List.append_assoc]
  exact (upTo 64 (le_refl 64)).trans (List.append_nil _)

/-- No byte of a part of a range meets a bad line that the range does not meet (R545). -/
theorem State.badAt_of_within {n o size k j : Nat} (hn : n < 4096) (h : o + size ≤ 0x20000) (hbad : s.badAt (plainBase n + o) size = false)
    (hlo : o ≤ k) (hhi : k + j ≤ o + size) (hj : 0 < j) : s.badAt (plainBase n + k) j = false := by
  unfold State.badAt at hbad ⊢
  rw [plain_die (by omega) hn, List.any_eq_false] at hbad ⊢
  intro l hl hm
  refine hbad l hl ?_
  simp only [decide_eq_true_eq] at hm ⊢
  omega

end

/-! ### When a load issues -/

/-- With a latch free and nothing that holds back an access of its class, a load issues (R206, R340, R466). -/
theorem State.loadVerdict_of_roomy (s : State) (ac : BitVec 3) (ea : W80) (ps : List Piece) (hl : s.me.sched.latches.length < 64)
    (h : s.roomy ac.toNat ea) : s.loadVerdict ac ea ps = .issue := by
  obtain ⟨hqueue, hwalk, hresv, hcmds⟩ := h
  have hroom : s.roomFor true ac.toNat ea ps = .issue := by
    unfold State.roomFor
    refine if_neg ?_
    simp only [Bool.or_eq_true, Bool.and_eq_true, decide_eq_true_eq, List.any_eq_true, true_and]
    rintro ((hfull | ⟨-, hfull⟩) | ⟨hpkg, p, -, hfull⟩)
    · omega
    · unfold State.queueRoom at hqueue
      omega
    · split at hfull
      · have := hwalk hpkg
        simp only [Die.walkFull, Bool.and_eq_true, decide_eq_true_eq] at hfull
        omega
      · cases hfull
  have hbank : s.bankVerdict (addrHome ea) ps = .issue := by
    unfold State.bankVerdict
    rw [show s.reservations (coreOf s.cur) = [] from hresv]
    by_cases h2 : s.me.level = 2
    · simp [h2, hcmds h2, freezeIf]
    · simp [h2]
  rw [State.loadVerdict, hroom, hbank]
  rfl

/-! ### What a load takes -/

/-- The latch has what the pieces read, if they lie in the own plain area, the access is aligned, and no piece meets a bad line. -/
def State.readsPlain (s : State) (gather : Bool) (ea : W80) (ps : List Piece) (data : List Byte) (q : Latch) : Prop :=
  ps ≠ [] → (∀ p ∈ ps, p.inPlain) → (gather = false → data.length = 256 → offOf ea % 256 = 0) →
    (∀ p ∈ ps, s.badAt (plainBase s.cur + p.off) p.len = false) →
    q.stat = .arrived ∧ q.data = lineOfBytes (ps.foldl (s.plainData s.cur) data)

section
variable {s : State} {p : Pred} {i : Instr} {gather : Bool} {ac : BitVec 3} {ea : W80} {ps : List Piece} {data : List Byte}
  {dest : Dest} {dist : BitVec 12} (hi : exec i s = act s p (s.loadVerdict ac ea ps) (fun s =>
    s.memRequest .ld (.load gather) ac.toNat ea ps data (some (dest, dist.toNat))))

/-- The data of a load all of whose pieces lie in the own plain area, when nothing goes before it there (R319, R358). -/
theorem State.performOwn_newReq (hn : s.cur < 4096) (hself : isSelf ea) (hquiet : s.ownQuiet) (hne : ps ≠ [])
    (h : ∀ p ∈ ps, p.inPlain) (hal : gather = false → data.length = 256 → offOf ea % 256 = 0)
    (hgood : ∀ p ∈ ps, s.badAt (plainBase s.cur + p.off) p.len = false) :
    let x := s.translateReq s.cur (s.newReq .ld (.load gather) ac.toNat ea ps data)
    let r := x.2.performOwn s.cur true x.1
    r.fault = none ∧ r.performed = true ∧ r.data = ps.foldl (s.plainData s.cur) data := by
  obtain ⟨hst, hreqs⟩ := hquiet
  obtain ⟨b, hx⟩ := s.translateReq_plain (n := s.cur) (r := s.newReq .ld (.load gather) ac.toNat ea ps data) rfl hself rfl hne h hal
  rw [hx]
  exact s.performOwn_plain hn (gather := gather) rfl rfl hst hreqs hne rfl h hgood

variable (hp : s.me.holds p = true) (hl : s.me.sched.latches.length < 64) (hroomy : s.roomy ac.toNat ea)
include hi hp hl hroomy

/-- A load with room takes one latch and writes nothing; the latch has what the own plain area holds (R206, R319, R321). -/
theorem State.load_spec {P : Latch → Prop}
    (hP : s.cur < 4096 → isSelf ea → s.ownQuiet → ∀ q : Latch, s.readsPlain gather ea ps data q → P q) :
    s.nextWith i (fun t => s.takesLatch t .ld dist.toNat dest ∧ t.me.planes = s.me.planes ∧ t.mem = s.mem ∧
      (s.cur < 4096 → isSelf ea → s.ownQuiet → ∀ q, t.me.sched.latches = s.me.sched.latches ++ [q] → P q)) := by
  obtain ⟨l, rs, hreq, ⟨hslot, hdest, hdue, hdist⟩, hdata⟩ :=
    s.memRequest_land .ld (.load gather) ac.toNat ea ps data dest dist.toNat
  have hsame := s.sameCtxs_translateReq s.cur (s.newReq .ld (.load gather) ac.toNat ea ps data)
  have hown := s.performOwn_newReq (gather := gather) (ac := ac) (ea := ea) (ps := ps) (data := data)
  generalize s.translateReq s.cur (s.newReq .ld (.load gather) ac.toNat ea ps data) = x at hreq hdata hsame hown
  refine State.nextWith_of_act hp (s.loadVerdict_of_roomy ac ea ps hl hroomy) hi ?_
  rw [hreq]
  obtain ⟨-, hmem, hcur⟩ := id hsame
  have hme (f : Ctx → Ctx) : (x.2.updCtx s.cur f).me = f s.me := by
    rw [State.me, State.updCtx_cur, hcur, State.updCtx_ctx_same, hsame.ctx]
    rfl
  refine ⟨⟨hcur, by rw [hme], l, by rw [hme], hslot, hdest, hdue, hdist⟩, by rw [hme], hmem, fun hn hself hquiet q hq => ?_⟩
  rw [hme] at hq
  obtain rfl : l = q := by simpa using hq
  refine hP hn hself hquiet l fun hne hplain hal hgood => ?_
  obtain ⟨hf, hperf, hread⟩ := hown hn hself hquiet hne hplain hal hgood
  obtain ⟨hstat, hd⟩ := hdata hf hperf
  exact ⟨hstat, hd.trans (congrArg lineOfBytes hread)⟩

end

section
variable {s : State} (hn : s.cur < 4096) {ea : W80} {q : Latch}
include hn

/-- A load of a span whose bytes lie in the own plain area has them (R321). -/
theorem State.readsPlain.span {size : Nat} (h : s.readsPlain false ea (spanPieces ea size) (zeros size) q) (hsize : 0 < size)
    (hmax : size ≤ 256) (hin : offOf ea + size ≤ 0x20000) (hgood : s.badAt (plainBase s.cur + offOf ea) size = false)
    (hal : size = 256 → offOf ea % 256 = 0) :
    q.stat = .arrived ∧ q.data.toNat = s.readNat (plainBase s.cur + offOf ea) size := by
  have hlen : (zeros size).length = size := List.length_replicate
  obtain ⟨hstat, hdata⟩ := h (pieces_ne_nil hsize hsize) (fun p hp => (mem_pieces_plain hin hp).1) (fun _ h => hal (hlen ▸ h)) fun p hp => by
    obtain ⟨⟨-, -, hpos, -⟩, hlo, hhi⟩ := mem_pieces_plain hin hp
    exact s.badAt_of_within hn hin hgood hlo hhi hpos
  have hread := s.foldl_plainData_pieces s.cur (pos := 0) hin (le_refl size) (zeros size) (by omega)
  rw [List.take_zero, List.nil_append, List.drop_eq_nil_of_le (by omega), List.append_nil] at hread
  exact ⟨hstat, by rw [hdata, show (spanPieces ea size).foldl _ _ = _ from hread, lineOfBytes_readMem_toNat s _ _ hmax]⟩

/-- A load of 64 words that lie in the own plain area has them (R321). -/
theorem State.readsPlain.words {step : Nat → Int}
    (h : s.readsPlain true ea (wordPieces (fun w => (offOf ea : Int) + step w)) (zeros 256) q)
    (hin : ∀ w, w < 64 → 0 ≤ (offOf ea : Int) + step w ∧ (offOf ea : Int) + step w + 4 ≤ 0x20000 ∧
      s.badAt (plainBase s.cur + ((offOf ea : Int) + step w).toNat) 4 = false) :
    q.stat = .arrived ∧ ∀ w, w < 64 → lineElem 32 q.data w = s.readNat (plainBase s.cur + ((offOf ea : Int) + step w).toNat) 4 := by
  have word {p : Piece} (hp : p ∈ wordPieces (fun w => (offOf ea : Int) + step w)) :
      p.inPlain ∧ s.badAt (plainBase s.cur + p.off) p.len = false := by
    obtain ⟨w, hw, hp⟩ := mem_wordPieces hp
    obtain ⟨h0, h1, hgood⟩ := hin w hw
    rw [wrap_of_lt h0 h1] at hp
    obtain ⟨⟨hpa, hbad, hpos, hmax⟩, hlo, hhi⟩ := mem_pieces_plain (by omega) hp
    exact ⟨⟨hpa, hbad, hpos, hmax⟩, s.badAt_of_within hn (by omega) hgood hlo hhi hpos⟩
  have hne : wordPieces (fun w => (offOf ea : Int) + step w) ≠ [] :=
    fun he => pieces_ne_nil (by decide) (by decide) (List.flatMap_eq_nil_iff.mp he 0 (by decide))
  obtain ⟨hstat, hdata⟩ := h hne (fun p hp => (word hp).1) nofun fun p hp => (word hp).2
  rw [s.foldl_plainData_words s.cur fun w hw => ⟨(hin w hw).1, (hin w hw).2.1⟩] at hdata
  exact ⟨hstat, fun w hw => by rw [hdata, lineElem_lineOfBytes_words s _ w hw]⟩

end

/-- Settles O31: a span for the first three operations, 64 words for the other two. -/
theorem loadsTakeALatchForTheirBytes : Obligations.LoadsTakeALatchForTheirBytes := by
  unfold Obligations.LoadsTakeALatchForTheirBytes
  intro s p d gs l a ac dist off x hp hl base takes span words e4 e8 eL
  have spans (ea : W80) (size : Nat) (h0 : 0 < size) (hmax : size ≤ 256) (hn : s.cur < 4096) (_ : isSelf ea) (_ : s.ownQuiet)
      (q : Latch) (h : s.readsPlain false ea (spanPieces ea size) (zeros size) q) : span ea size q :=
    h.span hn h0 hmax
  have gathers (ea : W80) (step : Nat → Int) (hn : s.cur < 4096) (_ : isSelf ea) (_ : s.ownQuiet) (q : Latch)
      (h : s.readsPlain true ea (wordPieces (fun w => (offOf ea : Int) + step w)) (zeros 256) q) : words ea step q :=
    h.words hn
  exact ⟨fun hroomy => State.load_spec rfl hp hl hroomy (spans e4 4 (by decide) (by decide)),
    fun hroomy => State.load_spec rfl hp hl hroomy (spans e8 8 (by decide) (by decide)),
    fun hroomy => State.load_spec rfl hp hl hroomy (spans eL 256 (by decide) (by decide)),
    fun hroomy => State.load_spec rfl hp hl hroomy (gathers (s.me.a a) (fun w => (w : Int) * (s.me.g gs).toInt)),
    fun hroomy => State.load_spec rfl hp hl hroomy (gathers (s.me.a a) (fun w => (lineWord (s.me.src 32 x) w).toInt * 4))⟩

end Sys2Proof.Machine
end

section
/-! PROOFS. Cycles in which a core waits: what they leave of contexts, memory and the core (R205, R209, R220). -/

namespace Sys2Proof.Machine

theorem Sparse.get_of_find? {α : Type} {d v : α} {m : Sparse α} {k : Nat} (h : Sparse.find? m k = some v) : Sparse.get d m k = v := by
  induction m with
  | nil => cases h
  | cons p r ih =>
    rw [Sparse.find?] at h
    rw [Sparse.get]
    split at h
    next hk => rw [if_pos hk, Option.some.inj h]
    next hk => rw [if_neg hk, ih h]

/-! ### What a cycle does beside its freeze -/

/-- Only the planes, the note of lines written and what is told to other packages differ. -/
def Ctx.keepsCourse (c d : Ctx) : Prop :=
  ∃ pl wr y, d = { c with planes := pl, sched := { c.sched with wrote := wr }, sync := y }

theorem Ctx.keepsCourse.refl (c : Ctx) : c.keepsCourse c := ⟨_, _, _, rfl⟩

theorem Ctx.keepsCourse.trans {c d e : Ctx} (h : c.keepsCourse d) (k : d.keepsCourse e) : c.keepsCourse e := by
  obtain ⟨_, _, _, rfl⟩ := h
  obtain ⟨pl, wr, y, rfl⟩ := k
  exact ⟨pl, wr, y, rfl⟩

/-- Memory and cores are as they were, and every context keeps its course. -/
structure State.keepsCourses (s t : State) : Prop where
  mem : t.mem = s.mem
  cores : t.cores = s.cores
  cur : t.cur = s.cur
  course : ∀ n, (s.ctx n).keepsCourse (t.ctx n)

namespace State.keepsCourses

variable {s t u : State}

theorem refl (s : State) : s.keepsCourses s := ⟨rfl, rfl, rfl, fun _ => .refl _⟩

theorem trans (h : s.keepsCourses t) (k : t.keepsCourses u) : s.keepsCourses u :=
  ⟨k.mem.trans h.mem, k.cores.trans h.cores, k.cur.trans h.cur, fun n => (h.course n).trans (k.course n)⟩

theorem foldl {α : Type} (f : State → α → State) (l : List α) (h : ∀ (t : State) (x : α), t.keepsCourses (f t x)) (s : State) :
    s.keepsCourses (l.foldl f s) :=
  List.foldlRecOn l f (refl s) fun t ht x _ => ht.trans (h t x)

theorem core (h : s.keepsCourses t) (k : Nat) : t.core k = s.core k := by rw [State.core, State.core, h.cores]

theorem windowsQuiet {k : Nat} (h : s.keepsCourses t) (hq : s.windowsQuiet k) : t.windowsQuiet k := by
  refine ⟨fun n hn => ?_, fun n r hr p hp => ?_⟩
  · obtain ⟨_, _, _, hc⟩ := h.course n
    rw [hc]
    exact hq.1 n hn
  · obtain ⟨_, _, _, hc⟩ := h.course n
    rw [hc] at hr
    exact hq.2 n r hr p hp

end State.keepsCourses

section
variable (s : State)

theorem State.keepsCourses_updCtx (n : Nat) (f : Ctx → Ctx) (hf : (s.ctx n).keepsCourse (f (s.ctx n))) :
    s.keepsCourses (s.updCtx n f) := by
  refine ⟨rfl, rfl, rfl, fun m => ?_⟩
  by_cases h : n = m
  · subst h
    rw [State.updCtx_ctx_same]
    exact hf
  · rw [State.updCtx_ctx_ne _ _ _ _ h]
    exact .refl _

theorem State.keepsCourses_planeCycle (k : Nat) : s.keepsCourses (s.planeCycle k) := by
  refine .foldl _ _ (fun t n => ?_) s
  split
  · exact .refl t
  next c hc =>
    have hctx : t.ctx n = c := Sparse.get_of_find? hc
    exact t.keepsCourses_updCtx n (fun _ => _) (by rw [hctx]; exact ⟨_, _, _, rfl⟩)

theorem State.keepsCourses_tell (d : Nat) (r : W64) (aux : Nat) (body : List Byte) : s.keepsCourses (s.tell d r aux body) := by
  have h := s.keepsContexts_tell d r aux body
  refine ⟨h.mem, ?_, h.cur, fun n => by rw [h.ctx n]; exact .refl _⟩
  unfold State.tell State.inject
  dsimp only
  split <;> rfl

theorem State.keepsCourses_tellWait (n : Nat) : s.keepsCourses (s.tellWait n) := by
  unfold State.tellWait
  extract_lets c now d ended begun
  split
  · exact .refl s
  · have hended : s.keepsCourses ended := by
      unfold ended
      split
      · exact s.keepsCourses_tell ..
      · exact .refl s
    have hbegun : s.keepsCourses begun := by
      unfold begun
      clear_value now
      split
      · exact hended.trans (State.keepsCourses_tell ..)
      · exact hended
    exact hbegun.trans (begun.keepsCourses_updCtx n _ ⟨_, _, _, rfl⟩)

/-- Without own stores nothing reaches a window (R181). -/
theorem State.settleWindows_of_no_stores {n : Nat} (t : Nat) (h : (s.ctx n).sched.stores = []) : s.settleWindows n t = s := by
  unfold State.settleWindows
  simp only [h, List.filter_nil, List.isEmpty_nil, if_true]

theorem State.mem_pieces_of_readyPiece {n k a : Nat} {r : Req} {p : Piece} (h : s.readyPiece n r k = some (p, a)) : p ∈ r.pieces := by
  unfold State.readyPiece at h
  split at h
  · cases h
  next q hq =>
    split at h
    · cases h
    · obtain ⟨-, h⟩ := Option.ite_none_right_eq_some.mp h
      cases h
      exact List.mem_of_getElem? hq

/-- Where no piece is held, no held access is performed (R272). -/
theorem State.heldPieces_of_none_held (k : Nat) (h : ∀ n, ∀ r ∈ (s.ctx n).mem.reqs, ∀ p ∈ r.pieces, p.held = false) :
    s.heldPieces k = s := by
  refine List.foldlRecOn (motive := (· = s)) _ _ rfl fun t ht c _ => ?_
  refine List.foldlRecOn (motive := (· = s)) _ _ ht fun t ht r _ => ?_
  split
  · refine List.foldlRecOn (motive := (· = s)) _ _ ht fun t ht i _ => ?_
    subst ht
    split
    next r' p a heq =>
      obtain ⟨w, hw, hx⟩ := Option.bind_eq_some_iff.mp heq
      obtain ⟨x, hp, hx⟩ := Option.map_eq_some_iff.mp hx
      cases hx
      rw [h c.1 r' (List.mem_of_find?_eq_some hw) p (t.mem_pieces_of_readyPiece hp)]
      rfl
    · rfl
  · exact ht

/-- What contexts waited for has been told at the end of a cycle of core `k` (R42, R394). -/
def State.told (s : State) (k : Nat) : State := ([0, 1, 2, 3].map (fun i => 4 * k + i)).foldl State.tellWait s

theorem State.keepsCourses_told (k : Nat) : s.keepsCourses (s.told k) := .foldl _ _ (fun t n => t.keepsCourses_tellWait n) s

/-- Without own stores the contexts of a core store nothing to windows at the end of a cycle. -/
theorem State.settleWindows_of_windowsQuiet {k : Nat} (h : s.windowsQuiet k) :
    ([0, 1, 2, 3].map (fun i => 4 * k + i)).foldl (fun s n => s.settleWindows n ((s.ctx n).sched.time - 1)) s = s := by
  refine List.foldlRecOn (motive := (· = s)) _ _ rfl fun t ht n hn => ?_
  obtain ⟨i, hi, rfl⟩ := List.mem_map.mp hn
  have hi4 : i < 4 := by simp only [List.mem_cons, List.not_mem_nil, or_false] at hi; omega
  rw [ht]
  exact s.settleWindows_of_no_stores _ (h.1 _ (by omega))

/-- The core `j` cycles on. -/
def Core.after (k : Core) (j : Nat) : Core := { k with cycle := k.cycle + j }

/-- The cycle of core `k` is counted. -/
def State.cycled (s : State) (k : Nat) : State :=
  let s := s.updCore k (·.after 1)
  { s with clock := max s.clock (s.core k).cycle }

theorem State.cycled_core (k : Nat) : (s.cycled k).core k = (s.core k).after 1 := s.updCore_core_same k (·.after 1)

/-- The end of a core cycle in which nothing waits to reach a window (R181, R272). -/
theorem State.tick_of_windowsQuiet {k : Nat} (h : s.windowsQuiet k) : s.tick k = (s.told k).cycled k := by
  have htick (u : State) (hu : ([0, 1, 2, 3].map (fun i => 4 * k + i)).foldl (fun s n => s.settleWindows n ((s.ctx n).sched.time - 1)) s = u) :
      s.tick k = ((u.told k).heldPieces k).cycled k := by subst hu; rfl
  rw [htick s (s.settleWindows_of_windowsQuiet h), State.heldPieces_of_none_held _ k ((s.keepsCourses_told k).windowsQuiet h).2]

/-- What the end of such a cycle changes. -/
theorem State.tick_spec {k : Nat} (h : s.windowsQuiet k) : (s.tick k).mem = s.mem ∧
    (s.tick k).core k = (s.core k).after 1 ∧ (∀ n, (s.ctx n).keepsCourse ((s.tick k).ctx n)) ∧ (s.tick k).windowsQuiet k := by
  have htold := s.keepsCourses_told k
  rw [s.tick_of_windowsQuiet h]
  generalize s.told k = told at htold
  exact ⟨htold.mem, by rw [told.cycled_core k, htold.core k], htold.course, htold.windowsQuiet h⟩

end

/-! ### Freeze cycles -/

/-- A change of a context that freeze cycles make: it keeps what waits to reach windows. -/
structure Ctx.freezes (g : Ctx → Ctx) : Prop where
  stores : ∀ c, (g c).sched.stores = c.sched.stores
  reqs : ∀ c, (g c).mem.reqs = c.mem.reqs

theorem State.windowsQuiet.updCtx {s : State} {k : Nat} (h : s.windowsQuiet k) {g : Ctx → Ctx} (hg : Ctx.freezes g) (n : Nat) :
    (s.updCtx n g).windowsQuiet k := by
  have hctx (m : Nat) : ((s.updCtx n g).ctx m).sched.stores = (s.ctx m).sched.stores ∧
      ((s.updCtx n g).ctx m).mem.reqs = (s.ctx m).mem.reqs := by
    by_cases hm : n = m
    · subst hm
      rw [State.updCtx_ctx_same]
      exact ⟨hg.stores _, hg.reqs _⟩
    · rw [State.updCtx_ctx_ne _ _ _ _ hm]
      exact ⟨rfl, rfl⟩
  exact ⟨fun m hm => (hctx m).1.trans (h.1 m hm), fun m r hr => h.2 m r ((hctx m).2 ▸ hr)⟩

/-- The freeze of the running context of core `k` as its cycle begins, as `g` counts it. -/
def State.freezeBegin (s : State) (k : Nat) (g : Ctx → Ctx) : State :=
  ({ (s.planeCycle k) with cur := (s.core k).running } : State).updMe g

/-- One cycle of core `k` that freezes as `g` counts it. -/
def State.freezeCycle (s : State) (k : Nat) (g : Ctx → Ctx) : State := { ((s.freezeBegin k g).tick k) with cur := s.cur }

theorem State.passCycles_succ (s : State) (k j : Nat) (g : Ctx → Ctx) :
    s.passCycles k (j + 1) (·.updMe g) = (s.freezeCycle k g).passCycles k j (·.updMe g) := by
  rw [State.passCycles]
  rfl

/-- What `j` freeze cycles of core `k` leave: memory, the core but for its cycle, quiet windows, and of the running context what `R`
says. -/
structure State.frozen (s t : State) (k j : Nat) (R : Ctx → Prop) : Prop where
  mem : t.mem = s.mem
  core : t.core k = (s.core k).after j
  quiet : t.windowsQuiet k
  run : R (t.ctx (s.core k).running)

section
variable {s : State} {k : Nat} {g : Ctx → Ctx} (hg : Ctx.freezes g) {R : Nat → Ctx → Prop}
  (hkeep : ∀ i c d, c.keepsCourse d → R i c → R i d) (hstep : ∀ i c, R i c → R (i + 1) (g c))
include hg hkeep hstep

/-- The freeze at the beginning of a cycle. -/
theorem State.freezeBegin_spec {i : Nat} (hq : s.windowsQuiet k) (hR : R i (s.ctx (s.core k).running)) :
    s.frozen (s.freezeBegin k g) k 0 (R (i + 1)) := by
  have hplane := s.keepsCourses_planeCycle k
  unfold State.freezeBegin
  generalize s.planeCycle k = u at hplane
  refine ⟨hplane.mem, hplane.core k, (hplane.windowsQuiet hq).updCtx hg _, ?_⟩
  have hrun : (({ u with cur := (s.core k).running } : State).updMe g).ctx (s.core k).running = g (u.ctx (s.core k).running) :=
    State.updCtx_ctx_same ..
  rw [hrun]
  exact hstep i _ (hkeep i _ _ (hplane.course _) hR)

theorem State.freezeCycle_spec {i : Nat} (hq : s.windowsQuiet k) (hR : R i (s.ctx (s.core k).running)) :
    s.frozen (s.freezeCycle k g) k 1 (R (i + 1)) := by
  obtain ⟨hmem, hcore, hquiet, hrun⟩ := State.freezeBegin_spec hg hkeep hstep hq hR
  unfold State.freezeCycle
  generalize s.freezeBegin k g = u at hmem hcore hquiet hrun
  obtain ⟨htmem, htcore, htcourse, htquiet⟩ := u.tick_spec hquiet
  generalize u.tick k = t at htmem htcore htcourse htquiet
  exact ⟨htmem.trans hmem, htcore.trans (by rw [hcore]; rfl), htquiet, hkeep _ _ _ (htcourse _) hrun⟩

theorem State.passCycles_spec (j : Nat) {i : Nat} (hq : s.windowsQuiet k) (hR : R i (s.ctx (s.core k).running)) :
    s.frozen (s.passCycles k j (·.updMe g)) k j (R (i + j)) := by
  induction j generalizing s i with
  | zero => exact ⟨rfl, rfl, hq, hR⟩
  | succ j ih =>
    obtain ⟨hmem, hcore, hquiet, hrun⟩ := State.freezeCycle_spec hg hkeep hstep hq hR
    rw [State.passCycles_succ]
    generalize s.freezeCycle k g = t at hmem hcore hquiet hrun
    have hrunning : (t.core k).running = (s.core k).running := by rw [hcore]; rfl
    obtain ⟨hmem', hcore', hquiet', hrun'⟩ := ih hquiet (hrunning ▸ hrun)
    refine ⟨hmem'.trans hmem, hcore'.trans ?_, hquiet', ?_⟩
    · rw [hcore, Core.after, Core.after, Nat.add_assoc, Nat.add_comm 1 j]
      rfl
    · rw [← hrunning, ← Nat.add_assoc, Nat.add_right_comm]
      exact hrun'

end

end Sys2Proof.Machine
end

section
/-! PROOFS. The steps that carry a context and its core on: landings, waits, leases, caches and switches (R197 to R222, R371, R402). -/

namespace Sys2Proof.Machine

/-! ### Results and landings that are due (R197, R205) -/

section
variable {s : State} {k : Nat} (hk : s.evt.n = k)
include hk

theorem State.exposedResultWrite_spec {c : Ctx} (hc : s.ctx k = c) (h : ∃ p ∈ c.sched.pend, p.due ≤ c.sched.time) :
    s.nextWith .exposedResultWrite (fun t => t.mem = s.mem ∧ (t.ctx k).planes = c.planes ∧
      (∀ p ∈ (t.ctx k).sched.pend, c.sched.time < p.due) ∧ ∀ p, c.sched.pend = [p] → (t.ctx k).regs = c.regs.write p.dest p.val) := by
  subst hk hc
  obtain ⟨p, hp, hdue⟩ := h
  refine ⟨_, if_pos (List.any_eq_true.mpr ⟨p, hp, decide_eq_true hdue⟩), rfl, ?_, fun q hq => ?_, fun q hq => ?_⟩
  · rw [State.setCtx_ctx_same]
    exact Ctx.writeAll_planes ..
  · rw [State.setCtx_ctx_same] at hq
    simpa [Ctx.noteLines, Ctx.updPend] using (List.mem_filter.mp hq).2
  · obtain rfl : p = q := by simpa [hq] using hp
    have hps : [p].filter (fun p => decide (p.due ≤ (s.ctx s.evt.n).sched.time)) = [p] := List.filter_eq_self.mpr (by simpa using hdue)
    rw [State.setCtx_ctx_same, hq, hps]
    rfl

end

/-- Without own stores what is due are results and landings. -/
theorem State.settle_of_no_stores (s : State) {n : Nat} (t : Nat) (h : (s.ctx n).sched.stores = []) :
    ∃ wr, s.settle n t = s.setCtx n { (s.ctx n).settleRegs t with sched := { ((s.ctx n).settleRegs t).sched with
      stores := [], wrote := wr } } := by
  unfold State.settle
  simp only [h, List.filter_nil, Ctx.noteLines, Ctx.settleRegs, Ctx.writeAll_sched]
  exact ⟨_, rfl⟩

/-- A lone latch with its data there lands (R205). -/
theorem Ctx.settleRegs_of_landed {c : Ctx} {l : Latch} {t : Nat} (hl : c.sched.latches = [l]) (hdue : l.due ≤ t) (hflag : l.flag = none)
    (hp : c.sched.pend = []) (hstat : l.stat = .arrived) (hpad : l.pad = 0) :
    (c.settleRegs t).regs = c.regs.write l.dest l.data ∧ (c.settleRegs t).sched.latches = [] ∧
      (c.settleRegs t).sched.time = c.sched.time := by
  have hd : c.dueAt t = [{ due := l.due, ord := l.ord, slot := l.slot, dest := l.dest, val := l.data }] := by
    simp [Ctx.dueAt, hp, hl, hdue, hstat, hpad, Latch.results, hflag]
  refine ⟨?_, ?_, ?_⟩
  · rw [Ctx.settleRegs_regs, Ctx.landing, hd]
    rfl
  · simp [Ctx.settleRegs, hl, hdue, hstat, hpad]
  · simp [Ctx.settleRegs]

/-! ### Freeze cycles at a landing (R209) -/

/-- A latch due by context time `t` whose padding has run down by `i` cycles. -/
def Latch.padLess (t i : Nat) (l : Latch) : Latch := if l.due ≤ t then { l with pad := l.pad - i } else l

/-- One freeze cycle at a landing, of the running context. -/
def Ctx.landPass (c : Ctx) : Ctx := { c with
  cnt := c.cnt.freeze .late
  sched := { c.sched with
    held := c.sched.held + 1
    waits := c.sched.waits.first .late
    latches := c.sched.latches.map (Latch.padLess c.sched.time 1) } }

theorem State.landFreeze_eq (s : State) : s.landFreeze = s.updMe Ctx.landPass := by
  have hask (t : State) : t.askFor .late = t := rfl
  rw [State.landFreeze, State.freeze, hask, State.updMe_updMe]
  rfl

theorem Ctx.landPass_freezes : Ctx.freezes Ctx.landPass := ⟨fun _ => rfl, fun _ => rfl⟩

/-- `d` is `c` after `i` freeze cycles at a landing. -/
structure Ctx.lateBy (c : Ctx) (i : Nat) (d : Ctx) : Prop where
  regs : d.regs = c.regs
  time : d.sched.time = c.sched.time
  cnt : d.cnt = { c.cnt with late := c.cnt.late + i }
  latches : d.sched.latches = c.sched.latches.map (Latch.padLess c.sched.time i)

theorem Ctx.lateBy_zero (c : Ctx) : c.lateBy 0 c := by
  refine ⟨rfl, rfl, rfl, ?_⟩
  have hid : Latch.padLess c.sched.time 0 = id := by
    funext l
    simp [Latch.padLess]
  rw [hid, List.map_id]

theorem Ctx.lateBy.of_keepsCourse {c d e : Ctx} {i : Nat} (h : d.keepsCourse e) (hd : c.lateBy i d) : c.lateBy i e := by
  obtain ⟨_, _, _, rfl⟩ := h
  exact ⟨hd.regs, hd.time, hd.cnt, hd.latches⟩

theorem Latch.padLess_padLess (t i : Nat) (l : Latch) : (l.padLess t i).padLess t 1 = l.padLess t (i + 1) := by
  unfold Latch.padLess
  by_cases h : l.due ≤ t
  · simp [h, Nat.sub_sub]
  · simp [h]

theorem Ctx.lateBy.landPass {c d : Ctx} {i : Nat} (h : c.lateBy i d) : c.lateBy (i + 1) d.landPass := by
  obtain ⟨hregs, htime, hcnt, hlatches⟩ := h
  refine ⟨hregs, htime, ?_, ?_⟩
  · simp only [Ctx.landPass, Counters.freeze, hcnt, Nat.add_assoc]
  · simp only [Ctx.landPass, htime, hlatches, List.map_map]
    exact List.map_congr_left fun l _ => l.padLess_padLess _ i

/-- The longest padding among the latches due. -/
def Sched.padDue (q : Sched) : Nat := (q.latches.filter (fun l => decide (l.due ≤ q.time))).foldl (fun m l => max m l.pad) 0

theorem foldl_max_ge {α : Type} (f : α → Nat) (l : List α) (a : Nat) :
    a ≤ l.foldl (fun m x => max m (f x)) a ∧ ∀ x ∈ l, f x ≤ l.foldl (fun m x => max m (f x)) a := by
  induction l generalizing a with
  | nil => exact ⟨le_rfl, fun x hx => by cases hx⟩
  | cons y l ih =>
    obtain ⟨hacc, hall⟩ := ih (max a (f y))
    exact ⟨(le_max_left ..).trans hacc, List.forall_mem_cons.mpr ⟨(le_max_right ..).trans hacc, hall⟩⟩

theorem foldl_max_attained {α : Type} (f : α → Nat) (l : List α) (a : Nat) :
    l.foldl (fun m x => max m (f x)) a = a ∨ ∃ x ∈ l, f x = l.foldl (fun m x => max m (f x)) a := by
  induction l generalizing a with
  | nil => exact .inl rfl
  | cons y l ih =>
    rcases ih (max a (f y)) with h | ⟨x, hx, h⟩
    · rcases max_choice a (f y) with hm | hm
      · exact .inl (h.trans hm)
      · exact .inr ⟨y, List.mem_cons_self, (h.trans hm).symm⟩
    · exact .inr ⟨x, List.mem_cons_of_mem _ hx, h⟩

theorem Sched.le_padDue {q : Sched} {l : Latch} (hl : l ∈ q.latches) (hdue : l.due ≤ q.time) : l.pad ≤ q.padDue :=
  (foldl_max_ge Latch.pad _ 0).2 l (List.mem_filter.mpr ⟨hl, decide_eq_true hdue⟩)

theorem Sched.exists_pad_eq_padDue {q : Sched} (h : 0 < q.padDue) : ∃ l ∈ q.latches, l.due ≤ q.time ∧ l.pad = q.padDue := by
  rcases foldl_max_attained Latch.pad (q.latches.filter (fun l => decide (l.due ≤ q.time))) 0 with h0 | ⟨l, hl, hpad⟩
  · exact absurd h0 (Nat.ne_of_gt h)
  · obtain ⟨hmem, hdue⟩ := List.mem_filter.mp hl
    exact ⟨l, hmem, of_decide_eq_true hdue, hpad⟩

theorem bit_63_eq_false {n : Nat} (h : n < 2 ^ 63) : bit n 63 = false := by
  rw [bit, Nat.shiftRight_eq_div_pow, Nat.div_eq_of_lt h]
  rfl

/-- What `j` freeze cycles at a landing leave. -/
theorem State.passCycles_landFreeze (s : State) {k : Nat} (j : Nat) (hq : s.windowsQuiet k) :
    s.frozen (s.passCycles k j State.landFreeze) k j ((s.ctx (s.core k).running).lateBy j) := by
  have h := State.passCycles_spec (R := (s.ctx (s.core k).running).lateBy) Ctx.landPass_freezes (fun _ _ _ => .of_keepsCourse)
    (fun _ _ => .landPass) j hq (Ctx.lateBy_zero _)
  rw [Nat.zero_add] at h
  rwa [funext State.landFreeze_eq]

section
variable {s : State} {k n : Nat} {core : Core} {r : Ctx} (hk : s.evt.n = k) (hcore : s.core k = core) (hn : core.running = n)
  (hr : s.ctx n = r)
include hk hcore hn hr

/-- One latch of the running context is due (R205). -/
theorem State.loadLanding_spec (hruns : core.idle = false ∧ core.switch = 0 ∧ r.active = true) {l : Latch} (hl : r.sched.latches = [l])
    (hdue : l.due ≤ r.sched.time) (hflag : l.flag = none) (hpend : r.sched.pend = []) (hstores : r.sched.stores = []) :
    (l.stat = .arrived → l.pad = 0 → l.ready ≤ core.cycle → s.nextWith .loadLanding (fun t => t.mem = s.mem ∧
      (t.ctx n).regs = r.regs.write l.dest l.data ∧ (t.ctx n).sched.latches = [] ∧ (t.ctx n).sched.time = r.sched.time)) ∧
    (l.stat = .pending → l.overdue core.cycle = false → s.windowsQuiet k → s.nextWith .loadLanding (fun t => t.mem = s.mem ∧
      (t.ctx n).regs = r.regs ∧ (t.ctx n).sched.time = r.sched.time ∧ (t.ctx n).cnt = { r.cnt with late := r.cnt.late + 1 } ∧
      (t.core k).cycle = core.cycle + 1)) := by
  subst hk hcore hn hr
  obtain ⟨hidle, hswitch, hactive⟩ := hruns
  have hgo : ((s.core s.evt.n).idle || decide (0 < (s.core s.evt.n).switch) || !(s.ctx (s.core s.evt.n).running).active ||
      (s.ctx (s.core s.evt.n).running).sched.latches.all
        (fun l => decide ((s.ctx (s.core s.evt.n).running).sched.time < l.due))) = false := by
    simp [hidle, hswitch, hactive, hl, hdue]
  have hexec : exec .loadLanding s = execLoadLanding s := rfl
  refine ⟨fun hstat hpad hready => ?_, fun hstat hover hq => ?_⟩
  · obtain ⟨wr, hsettle⟩ := s.settle_of_no_stores (s.ctx (s.core s.evt.n).running).sched.time hstores
    obtain ⟨hregs, hlatches, htime⟩ := Ctx.settleRegs_of_landed hl hdue hflag hpend hstat hpad
    have hlate : (s.ctx (s.core s.evt.n).running).sched.late (s.core s.evt.n).cycle = [] := by
      simp [Sched.late, hl, hstat, hpad, hready]
    have hno : (s.ctx (s.core s.evt.n).running).sched.landFault = none := by
      simp [Sched.landFault, hl, hstat, leastBy]
    refine ⟨s.settle (s.core s.evt.n).running (s.ctx (s.core s.evt.n).running).sched.time, ?_, ?_⟩
    · rw [hexec, execLoadLanding]
      simp only [hgo, hlate, hno]
      rfl
    · rw [hsettle]
      beta_reduce
      rw [State.setCtx_ctx_same]
      exact ⟨rfl, hregs, hlatches, htime⟩
  · obtain ⟨hmem, hc, -, hrun⟩ := s.passCycles_landFreeze 1 hq
    have hlate : (s.ctx (s.core s.evt.n).running).sched.late (s.core s.evt.n).cycle = [l] := by
      simp [Sched.late, hl, hstat, hdue]
    refine ⟨s.passCycles s.evt.n 1 State.landFreeze, ?_, hmem, hrun.regs, hrun.time, hrun.cnt, by rw [hc]; rfl⟩
    rw [hexec, execLoadLanding]
    simp only [hgo, hlate, List.any_cons, hover]
    rfl

/-- The running context's landings run out their padding (R209). -/
theorem State.paddedFreezeEnd_spec (hruns : core.idle = false ∧ core.switch = 0 ∧ r.active = true) (htimer : r.sys.timer.toNat < 2 ^ 63)
    (hq : s.windowsQuiet k) (hpad : ∃ l ∈ r.sched.latches, l.due ≤ r.sched.time ∧ 0 < l.pad) : s.nextWith .paddedFreezeEnd (fun t =>
      (t.ctx n).regs = r.regs ∧ (∀ l ∈ (t.ctx n).sched.latches, l.due ≤ r.sched.time → l.pad = 0) ∧ ∃ m, (t.core k).cycle = core.cycle + m ∧
        (t.ctx n).cnt = { r.cnt with late := r.cnt.late + m } ∧ (∃ l ∈ r.sched.latches, l.due ≤ r.sched.time ∧ l.pad = m) ∧
        ∀ l ∈ r.sched.latches, l.due ≤ r.sched.time → l.pad ≤ m) := by
  subst hk hcore hn hr
  obtain ⟨hidle, hswitch, hactive⟩ := hruns
  obtain ⟨l, hl, hdue, hlpad⟩ := hpad
  obtain ⟨m, hm⟩ : ∃ m, m = (s.ctx (s.core s.evt.n).running).sched.padDue := ⟨_, rfl⟩
  have hle : ∀ l ∈ (s.ctx (s.core s.evt.n).running).sched.latches, l.due ≤ (s.ctx (s.core s.evt.n).running).sched.time → l.pad ≤ m :=
    fun l hl hdue => hm ▸ Sched.le_padDue hl hdue
  have hpos : 0 < m := Nat.lt_of_lt_of_le hlpad (hle l hl hdue)
  have hgo : ((s.core s.evt.n).idle || decide (0 < (s.core s.evt.n).switch) || !(s.ctx (s.core s.evt.n).running).active ||
      bit (s.ctx (s.core s.evt.n).running).sys.timer.toNat 63) = false := by
    simp [hidle, hswitch, hactive, bit_63_eq_false htimer]
  have hexec : exec .paddedFreezeEnd s = .next (s.passCycles s.evt.n m State.landFreeze) := by
    show execPaddedFreezeEnd s = _
    rw [hm] at hpos ⊢
    exact (if_neg (Bool.eq_false_iff.mp hgo)).trans (if_pos hpos)
  obtain ⟨hmem, hc, -, hrun⟩ := s.passCycles_landFreeze m hq
  refine ⟨_, hexec, hrun.regs, fun x hx hxdue => ?_, m, by rw [hc]; rfl, hrun.cnt, ?_, hle⟩
  · rw [hrun.latches] at hx
    obtain ⟨y, hy, rfl⟩ := List.mem_map.mp hx
    unfold Latch.padLess at hxdue ⊢
    by_cases hydue : y.due ≤ (s.ctx (s.core s.evt.n).running).sched.time
    · rw [if_pos hydue]
      exact Nat.sub_eq_zero_of_le (hle y hy hydue)
    · rw [if_neg hydue] at hxdue
      exact absurd hxdue hydue
  · exact hm ▸ Sched.exists_pad_eq_padDue (hm ▸ hpos)

end

/-! ### The window sum (R220) -/

/-- Until its wait is over a bundle does not pass the window test. -/
theorem Core.windowOk_of_lt_windowWait (k : Core) {w fuel c j : Nat} (h : j < k.windowWait c w fuel) : k.windowOk (c + j) w = false := by
  induction fuel generalizing c j with
  | zero => exact absurd h (Nat.not_lt_zero _)
  | succ fuel ih =>
    rw [Core.windowWait] at h
    split at h
    · exact absurd h (Nat.not_lt_zero _)
    next hno =>
      cases j with
      | zero => exact Bool.eq_false_iff.mpr hno
      | succ j =>
        rw [Nat.add_comm j 1, ← Nat.add_assoc]
        exact ih (by omega)

/-- A wait shorter than the fuel ends where the bundle passes. -/
theorem Core.windowOk_windowWait (k : Core) {w fuel c : Nat} (h : k.windowWait c w fuel < fuel) :
    k.windowOk (c + k.windowWait c w fuel) w = true := by
  induction fuel generalizing c with
  | zero => exact absurd h (Nat.not_lt_zero _)
  | succ fuel ih =>
    rw [Core.windowWait] at h ⊢
    split at h
    next hok => rw [if_pos hok]; exact hok
    next hno =>
      rw [if_neg hno, ← Nat.add_assoc]
      exact ih (by omega)

/-- One freeze cycle of the window test, of the running context. -/
def Ctx.pwrPass (c : Ctx) : Ctx := { c with
  cnt := c.cnt.freeze .pwr
  sched := { c.sched with
    held := c.sched.held + 1
    waits := c.sched.waits.first .pwr } }

/-- `d` has the registers of `c` and counts `i` more cycles in frz_pwr. -/
def Ctx.pwrBy (c : Ctx) (i : Nat) (d : Ctx) : Prop := d.regs = c.regs ∧ d.cnt = { c.cnt with pwr := c.cnt.pwr + i }

/-- What `j` freeze cycles of the window test leave. -/
theorem State.passCycles_pwr (s : State) {k : Nat} (j : Nat) (hq : s.windowsQuiet k) :
    s.frozen (s.passCycles k j (fun s => s.freeze .pwr)) k j ((s.ctx (s.core k).running).pwrBy j) := by
  have h := State.passCycles_spec (g := Ctx.pwrPass) (R := (s.ctx (s.core k).running).pwrBy) ⟨fun _ => rfl, fun _ => rfl⟩
    (fun i c d hcd hc => by obtain ⟨_, _, _, rfl⟩ := hcd; exact hc)
    (fun i c hc => ⟨hc.1, by simp only [Ctx.pwrPass, Counters.freeze, hc.2, Nat.add_assoc]⟩) j hq (i := 0) ⟨rfl, rfl⟩
  rw [Nat.zero_add] at h
  exact h

/-- The window sum falls until the presented bundle may issue (R220). -/
theorem State.windowSumFreezeEnd_spec {s : State} {k n : Nat} {core : Core} {r : Ctx} (hk : s.evt.n = k) (hcore : s.core k = core)
    (hn : core.running = n) (hr : s.ctx n = r) {ops : List Instr} (hops : s.presented k = some ops)
    (hjudge : ({ s with cur := n } : State).judge ops = .issue) (hno : core.windowOk core.cycle (bundleWeight ops) = false)
    (hlate : r.sched.late core.cycle = []) (htimer : r.sys.timer.toNat < 2 ^ 63) (hq : s.windowsQuiet k) :
    s.nextWith .windowSumFreezeEnd (fun t => ∃ w, 0 < w ∧
      (t.core k).cycle = core.cycle + w ∧ (t.ctx n).cnt = { r.cnt with pwr := r.cnt.pwr + w } ∧ (t.ctx n).regs = r.regs ∧
      (∀ j, j < w → core.windowOk (core.cycle + j) (bundleWeight ops) = false) ∧
      (w < 4096 → (t.core k).windowOk (t.core k).cycle (bundleWeight ops) = true)) := by
  subst hk hcore hn hr
  obtain ⟨w, hw⟩ : ∃ w, w = (s.core s.evt.n).windowWait (s.core s.evt.n).cycle (bundleWeight ops) 4096 := ⟨_, rfl⟩
  have hpos : 0 < w := by
    rw [hw, Core.windowWait, if_neg (Bool.eq_false_iff.mp hno)]
    omega
  have hexec : exec .windowSumFreezeEnd s = .next (s.passCycles s.evt.n w (fun s => s.freeze .pwr)) := by
    show execWindowSumFreezeEnd s = _
    unfold execWindowSumFreezeEnd
    have hgo : (decide (w = 0) || !((s.ctx (s.core s.evt.n).running).sched.late (s.core s.evt.n).cycle).isEmpty ||
        bit (s.ctx (s.core s.evt.n).running).sys.timer.toNat 63) = false := by
      simp [Nat.ne_of_gt hpos, hlate, bit_63_eq_false htimer]
    simp only [hops, ← hw, hjudge]
    exact if_neg (Bool.eq_false_iff.mp hgo)
  obtain ⟨-, hc, -, hregs, hcnt⟩ := s.passCycles_pwr w hq
  refine ⟨_, hexec, w, hpos, by rw [hc]; rfl, hcnt, hregs, fun j hj => ?_, fun hlt => ?_⟩
  · exact Core.windowOk_of_lt_windowWait _ (hw ▸ hj)
  · rw [hc]
    show (s.core s.evt.n).windowOk ((s.core s.evt.n).cycle + w) (bundleWeight ops) = true
    rw [hw]
    exact Core.windowOk_windowWait _ (hw ▸ hlt)

end Sys2Proof.Machine
end

section
/-! PROOFS. Timers, the bundle cache, the width, wait timeouts and leases (R202, R214, R222, R371, R402). -/

namespace Sys2Proof.Machine

/-! ### The timer, the bundle cache and the width -/

theorem State.handle_of_myImage? {s : State} {i : Image} (h : s.myImage? = some i) : i.handle = s.me.imageHandle := by
  have hp := List.find?_some h
  exact eq_of_beq (Bool.and_eq_true_iff.mp hp).1

/-- A core that has just taken the presented bundle's line holds it (R202). -/
theorem State.inCache_of_fillLine {s : State} {core : Core} {h : W64} (hcore : s.myCore = core.fillLine h (s.me.sched.pc / 4))
    (hh : h = s.me.imageHandle) : s.inCache = true := by
  rw [State.inCache, hcore]
  exact List.any_eq_true.mpr ⟨_, List.mem_cons_self, by simp [hh]⟩

/-- The rotation from any context of a core comes to each of its contexts (R214). -/
theorem mem_rotation {k m own : Nat} (hm : m / 4 = k) (hown : own < 4) : m ∈ [1, 2, 3, 0].map (fun i => 4 * k + (own + i) % 4) := by
  simp only [List.map_cons, List.map_nil, List.mem_cons, List.not_mem_nil, or_false]
  omega

/-- An armed timer that has come to its cycle falls due (R402). -/
theorem Ctx.timerTick_of_due {c : Ctx} {cyc : Nat} (harmed : 2 ^ 63 ≤ c.sys.timer.toNat) (hdue : c.sys.timer.toNat - 2 ^ 63 ≤ cyc) :
    c.timerTick cyc = { c with sys := { c.sys with
      timer := BitVec.ofNat 64 (c.sys.timer.toNat % 2 ^ 63), timerDue := true, timerAt := BitVec.ofNat 64 cyc } } := by
  have hlt : c.sys.timer.toNat < 2 ^ 64 := BitVec.isLt _
  have hmod : c.sys.timer.toNat % 2 ^ 63 ≤ cyc := by omega
  have hbit : bit c.sys.timer.toNat 63 = true := by
    rw [bit, Nat.shiftRight_eq_div_pow]
    exact decide_eq_true (by omega)
  exact if_pos (by rw [hbit, decide_eq_true hmod]; rfl)

section
variable {s : State} {k : Nat} (hk : s.evt.n = k)
include hk

theorem State.timerExpiry_spec {c : Ctx} (hc : s.ctx k = c) (harmed : 2 ^ 63 ≤ c.sys.timer.toNat)
    (hdue : c.sys.timer.toNat - 2 ^ 63 ≤ (s.core (k / 4)).cycle) : s.nextWith .timerExpiry (fun t =>
      (t.ctx k).regs = c.regs ∧ (t.ctx k).sys = { c.sys with
        timer := BitVec.ofNat 64 (c.sys.timer.toNat % 2 ^ 63), timerDue := true, timerAt := BitVec.ofNat 64 (s.core (k / 4)).cycle }) := by
  subst hk hc
  have htick := Ctx.timerTick_of_due harmed hdue
  have hne : ((s.ctx s.evt.n).timerTick (s.core (s.evt.n / 4)).cycle).sys ≠ (s.ctx s.evt.n).sys := by
    intro h
    have heq : (BitVec.ofNat 64 ((s.ctx s.evt.n).sys.timer.toNat % 2 ^ 63)).toNat = (s.ctx s.evt.n).sys.timer.toNat :=
      congrArg (fun y => y.timer.toNat) (htick ▸ h)
    rw [BitVec.toNat_ofNat] at heq
    omega
  refine ⟨s.setCtx s.evt.n ((s.ctx s.evt.n).timerTick (s.core (s.evt.n / 4)).cycle), if_neg hne, ?_⟩
  beta_reduce
  rw [State.setCtx_ctx_same, htick]
  exact ⟨rfl, rfl⟩

/-- The missing line heads the bundle cache (R202). -/
theorem State.bundleCacheFill_spec {core : Core} (hcore : s.core k = core) {n : Nat} (hn : core.running = n) {r : Ctx} (hr : s.ctx n = r)
    (hnk : n / 4 = k) (hidle : core.idle = false) (hactive : r.active = true)
    (himage : ∃ i, ({ s with cur := n } : State).myImage? = some i ∧ r.sched.pc < i.bundles.length)
    (hmiss : ({ s with cur := n } : State).inCache = false) :
    s.nextWith .bundleCacheFill (fun t => ({ t with cur := n } : State).inCache = true ∧ t.ctx n = r ∧ t.mem = s.mem) := by
  subst hk hcore hn hr
  obtain ⟨i, hi, hpc⟩ := himage
  have hexec : exec .bundleCacheFill s = .next (s.updCore s.evt.n (fun k => k.fillLine i.handle
      ((s.ctx (s.core s.evt.n).running).sched.pc / 4))) := by
    show execBundleCacheFill s = _
    unfold execBundleCacheFill
    have hgo : ((s.core s.evt.n).idle || !(s.ctx (s.core s.evt.n).running).active ||
        decide (i.bundles.length ≤ (s.ctx (s.core s.evt.n).running).sched.pc) ||
        ({ s with cur := (s.core s.evt.n).running } : State).inCache) = false := by
      simp [hidle, hactive, Nat.not_le.mpr hpc, hmiss]
    simp only [hi]
    exact if_neg (Bool.eq_false_iff.mp hgo)
  refine ⟨_, hexec, State.inCache_of_fillLine (core := s.core s.evt.n) ?_ (State.handle_of_myImage? hi), rfl, rfl⟩
  exact (congrArg (State.core _) hnk).trans
    (s.updCore_core_same s.evt.n (fun k => k.fillLine i.handle ((s.ctx (s.core s.evt.n).running).sched.pc / 4)))

theorem State.contextSwitch_spec {core : Core} (hcore : s.core k = core) (honline : core.offline = false) (hidle : core.idle = true)
    (hready : ∃ m, m / 4 = k ∧ s.readyCtx m = true) : s.nextWith .contextSwitch (fun t =>
      (t.core k).idle = false ∧ (t.core k).switch = 1 ∧ (t.core k).running / 4 = k ∧ s.readyCtx (t.core k).running = true) := by
  subst hk hcore
  obtain ⟨m, hm, hmready⟩ := hready
  obtain ⟨n, hn⟩ : ∃ n, ([1, 2, 3, 0].map (fun i => 4 * s.evt.n + ((s.core s.evt.n).running % 4 + i) % 4)).find? s.readyCtx = some n :=
    Option.isSome_iff_exists.mp (List.find?_isSome.mpr ⟨m, mem_rotation hm (Nat.mod_lt _ (by decide)), hmready⟩)
  have hpass : s.pass s.evt.n =
      (s.updCore s.evt.n (fun k => { k with running := n, idle := false, switch := 1 })).updCtx n Ctx.resumeWidth := by
    unfold State.pass
    simp only [hn]
  have hcore : (s.pass s.evt.n).core s.evt.n = { s.core s.evt.n with running := n, idle := false, switch := 1 } := by
    rw [hpass]
    exact s.updCore_core_same s.evt.n (fun k => { k with running := n, idle := false, switch := 1 })
  have hgo : ((s.core s.evt.n).offline || !((s.core s.evt.n).idle || !(s.ctx (s.core s.evt.n).running).active ||
      (s.ctx (s.core s.evt.n).running).sync.yielded) || ((s.pass s.evt.n).core s.evt.n).idle) = false := by
    rw [honline, hidle, hcore]
    rfl
  refine ⟨s.pass s.evt.n, if_neg (Bool.eq_false_iff.mp hgo), ?_⟩
  beta_reduce
  rw [hcore]
  refine ⟨rfl, rfl, ?_, List.find?_some hn⟩
  obtain ⟨i, -, rfl⟩ := List.mem_map.mp (List.mem_of_find?_eq_some hn)
  show (4 * s.evt.n + ((s.core s.evt.n).running % 4 + i) % 4) / 4 = s.evt.n
  omega

end

/-! ### Leases (R222) -/

section
variable {s : State} {k m : Nat} (hk : s.evt.n = k) (hm : s.evt.m = m)

theorem leaseCost_eq (b : Nat) : leaseCost b = if b = 1 then 44 else if b = 2 then 30 else 120 := by
  unfold leaseCost
  split
  · rfl
  · rfl
  next h1 h2 => rw [if_neg h1, if_neg h2]

theorem State.sageLeaseGrant_spec {a b : Nat} {rest : List (Nat × Nat)} (hqueue : s.sage.queue = (a, b) :: rest)
    (hbudget : s.leaveCosts + (if (s.core a).hasLease b then 0 else if b = 1 then 44 else if b = 2 then 30 else 120) ≤ s.sage.budget) :
    s.nextWith .sageLeaseGrant (fun t => t.sage = { s.sage with queue := rest } ∧ Sparse.get 0 (t.core a).leases b =
      (if (s.core a).hasLease b then Sparse.get 0 (s.core a).leases b else (s.core a).cycle) + 2 ^ 18) := by
  have hfits : s.leaveFits a b = true := by
    rw [State.leaveFits, leaseCost_eq]
    exact decide_eq_true hbudget
  have hexec : exec .sageLeaseGrant s =
      .next { (s.updCore a (fun c => c.grant b)) with sage := { s.sage with queue := rest } } := by
    show execSageLeaseGrant s = _
    unfold execSageLeaseGrant
    simp only [hqueue]
    exact if_pos hfits
  refine ⟨_, hexec, rfl, ?_⟩
  show Sparse.get 0 ((s.updCore a (fun c => c.grant b)).core a).leases b = _
  rw [State.updCore_core_same]
  exact Sparse.get_set_same ..

include hk hm

theorem State.leaseExpiry_spec {core : Core} (hcore : s.core k = core) {e : Nat} (he : Sparse.find? core.leases m = some e)
    (hend : e ≤ core.cycle) : s.nextWith .leaseExpiry (fun t => (t.core k).hasLease m = false ∧ t.sage = s.sage) := by
  subst hk hm hcore
  have hexec : exec .leaseExpiry s =
      .next (s.updCore s.evt.n (fun c => { c with leases := Sparse.erase c.leases s.evt.m })) := by
    show execLeaseExpiry s = _
    unfold execLeaseExpiry
    simp only [he]
    exact if_pos hend
  refine ⟨_, hexec, ?_, rfl⟩
  rw [State.updCore_core_same]
  refine decide_eq_false ?_
  show ¬_ < Sparse.get 0 (Sparse.erase _ s.evt.m) s.evt.m
  rw [Sparse.get_erase_same]
  exact Nat.not_lt_zero _

theorem State.leaseRenewal_spec {core : Core} (hcore : s.core k = core) {e u : Nat} (he : Sparse.find? core.leases m = some e)
    (hlive : core.cycle < e) (hsoon : e < core.cycle + 2 ^ 14) (hu : Sparse.find? core.lastUse m = some u)
    (hrecent : core.cycle < u + 2 ^ 16) (hnot : (k, m) ∉ s.sage.queue) : s.nextWith .leaseRenewal (fun t =>
      t.sage.queue = s.sage.queue ++ [(k, m)] ∧ t.core k = core) := by
  subst hk hm hcore
  have hget : Sparse.get 0 (s.core s.evt.n).leases s.evt.m = e := Sparse.get_of_find? he
  have hlease : (s.core s.evt.n).hasLease s.evt.m = true := decide_eq_true (by rw [hget]; exact hlive)
  refine ⟨{ s with sage := { s.sage with queue := s.sage.queue ++ [(s.evt.n, s.evt.m)] } }, ?_, rfl, rfl⟩
  show execLeaseRenewal s = _
  unfold execLeaseRenewal
  have hnear : e - (s.core s.evt.n).cycle < 2 ^ 14 := by omega
  have hused : (s.core s.evt.n).cycle - u < 2 ^ 16 := by omega
  simp only [hlease, hget, hu, decide_eq_true hnear, decide_eq_true hused]
  exact if_pos (by simpa using hnot)

end

end Sys2Proof.Machine
end

section
/-! PROOFS. The report of a wait timeout (R371), and the steps of a context and its core together. -/

namespace Sys2Proof.Machine

/-! ### Giving up the width sends nothing out (R212 to R214) -/

section
variable {s t : State}

theorem State.keepsContexts.keepsCurOut (h : s.keepsContexts t) : s.keepsCurOut t := by
  obtain ⟨_, _, _, _, rfl⟩ := h
  exact .refl s

end

section
variable (s : State)

theorem State.keepsCurOut_settleWindows (n t : Nat) : s.keepsCurOut (s.settleWindows n t) := by
  unfold State.settleWindows
  extract_lets c due st
  split
  · exact .refl s
  · exact .foldl (fun x o => x.ownStore n o) _ (fun x o => x.keepsCurOut_ownStore n o) (s.setCtx n _)

theorem State.keepsCurOut_updCtx (n : Nat) (f : Ctx → Ctx) : s.keepsCurOut (s.updCtx n f) := ⟨rfl, rfl⟩

theorem State.keepsCurOut_settleAll (n t : Nat) : s.keepsCurOut (s.settleAll n t) :=
  (s.keepsCurOut_settle n t).trans (State.keepsCurOut_updCtx ..)

theorem State.keepsCurOut_drainAt (n t : Nat) : s.keepsCurOut (s.drainAt n t) :=
  (((s.keepsCurOut_updCtx ..).trans (State.keepsCurOut_settleAll ..)).trans (State.keepsCurOut_updCtx ..)).trans
    (State.keepsCurOut_settleWindows ..)

theorem State.keepsCurOut_drainFrom (n t fuel : Nat) : s.keepsCurOut (s.drainFrom n t fuel) := by
  induction fuel generalizing s t with
  | zero => exact .refl s
  | succ fuel ih =>
    unfold State.drainFrom
    extract_lets q cyc
    split
    · exact .refl s
    next u _ =>
      split
      · split
        · exact .refl s
        · exact (s.keepsCurOut_drainAt n u).trans (ih ..)
      · exact (s.keepsCurOut_drainAt n u).trans (ih ..)

theorem State.keepsCurOut_drain (n : Nat) : s.keepsCurOut (s.drain n) := by
  unfold State.drain
  extract_lets t u
  have hu : s.keepsCurOut u := by
    unfold u
    split
    · exact (s.keepsCurOut_settle n (t - 1)).trans (State.keepsCurOut_settleWindows _ n (t - 1))
    · exact .refl s
  exact hu.trans (u.keepsCurOut_drainFrom n t 8192)

theorem State.keepsCurOut_raiseTask (d : Nat) (r : W64) (p : Nat) : s.keepsCurOut (s.raiseTask d r p) := by
  unfold State.raiseTask
  extract_lets up lift t
  have ht : s.keepsCurOut t := by
    refine .foldl _ _ (fun x e => ?_) s
    split <;> exact ⟨rfl, rfl⟩
  exact ht.trans (t.keepsContexts_updDie ..).keepsCurOut

theorem State.keepsCurOut_raise (r : W64) (p fuel : Nat) : s.keepsCurOut (s.raise r p fuel) := by
  induction fuel generalizing s r with
  | zero => exact .refl s
  | succ fuel ih =>
    unfold State.raise
    split
    · exact .refl s
    · split
      · split
        · exact .refl s
        · extract_lets t
          have ht : s.keepsCurOut t := (s.keepsContexts_updDie ..).keepsCurOut.trans (State.keepsCurOut_raiseTask ..)
          split
          · refine ht.trans (.foldl _ _ (fun t x => ?_) _)
            split
            · exact (t.keepsContexts_raiseFar ..).keepsCurOut
            · exact ih t x
          · exact ht
      · exact (s.keepsContexts_updDie ..).keepsCurOut

theorem State.keepsCurOut_raiseWprio (r : W64) (p : Nat) : s.keepsCurOut (s.raiseWprio r p) := by
  unfold State.raiseWprio
  split
  · split
    · exact (s.keepsContexts_setTile ..).keepsCurOut.trans (State.keepsCurOut_raise ..)
    · exact .refl s
  · exact .refl s

theorem State.keepsCurOut_waitFuture (n : Nat) : s.keepsCurOut (s.waitFuture n) := by
  unfold State.waitFuture
  extract_lets c
  split
  next r t _ _ =>
    split
    next hremote =>
      rw [State.waitOn, if_pos hremote]
      exact (s.keepsContexts_tell ..).keepsCurOut
    · split
      · split
        · exact .refl s
        · exact s.keepsCurOut_raiseWprio ..
      · exact .refl s
  · exact .refl s

theorem State.keepsCurOut_pass (core : Nat) : s.keepsCurOut (s.pass core) := by
  unfold State.pass
  extract_lets own
  split <;> exact ⟨rfl, rfl⟩

theorem State.keepsCurOut_giveWidth (n : Nat) : s.keepsCurOut (s.giveWidth n) :=
  ((s.keepsCurOut_drain n).trans (State.keepsCurOut_waitFuture _ n)).trans (State.keepsCurOut_pass ..)

/-- An event of a context tells its die's control core (R537). -/
theorem State.control_mem_controlEvent (die core ctx cause det : Nat) :
    Out.control die (BitVec.ofNat 256 (core + ctx <<< 10 + cause <<< 12 + det <<< 20)) ∈ (s.controlEvent die core ctx cause det).out :=
  List.mem_append_right _ (List.mem_singleton_self _)

/-- The die's control core is told of a wait that gives up (R371). -/
theorem State.control_mem_timeout (a : Await) :
    Out.control (s.cur / 1024) (BitVec.ofNat 256 (s.cur / 4 + s.cur % 4 * 2 ^ 10 + 2 ^ 12)) ∈ (s.timeout a).out := by
  have hmem := State.control_mem_controlEvent (s.decline a) (dieOf (coreOf s.cur)) (coreOf s.cur) (s.cur % 4) 1 0
  rw [dieOf, coreOf, Nat.div_div_eq_div_mul, Nat.shiftLeft_eq, Nat.shiftLeft_eq, Nat.shiftLeft_eq, Nat.one_mul, Nat.zero_mul,
    Nat.add_zero] at hmem
  unfold State.timeout
  dsimp only
  rw [(State.keepsCurOut_giveWidth ..).2, dieOf, coreOf, Nat.div_div_eq_div_mul]
  exact hmem

end

/-- A wait that gives up is reported to its die's control core (R371). -/
theorem State.waitTimeout_spec {s : State} {k n : Nat} (hk : s.evt.n = k) (hn : (s.core k).running = n) {ops : List Instr} {a : Await}
    (hops : s.presented k = some ops) (hjudge : ({ s with cur := n } : State).judge ops = .timeout a) :
    s.nextWith .waitTimeout (fun t => t.cur = s.cur ∧
      Out.control (n / 1024) (BitVec.ofNat 256 (n / 4 + n % 4 * 2 ^ 10 + 2 ^ 12)) ∈ t.out) := by
  subst hk
  obtain ⟨q, hq⟩ : ∃ q : State, q = { s with cur := (s.core s.evt.n).running } := ⟨_, rfl⟩
  have hcur : q.cur = n := by rw [hq, ← hn]
  have hexec : exec .waitTimeout s = .next { (q.timeout a) with cur := s.cur } := by
    show execWaitTimeout s = _
    unfold execWaitTimeout
    rw [← hn, ← hq] at hjudge
    simp only [hops, ← hq, hjudge]
  have hmem := q.control_mem_timeout a
  rw [hcur] at hmem
  generalize q.timeout a = u at hexec hmem
  exact ⟨_, hexec, rfl, hmem⟩

/-- Settles O39: each step by the lemma about it, freeze cycles by what one cycle of a waiting core keeps. -/
theorem contextAndCoreSteps : Obligations.ContextAndCoreSteps := by
  unfold Obligations.ContextAndCoreSteps
  intro s k c core n r q runs cost
  have hk : s.evt.n = k := rfl
  have hc : s.ctx k = c := rfl
  have hcore : s.core k = core := rfl
  have hn : core.running = n := rfl
  have hr : s.ctx n = r := rfl
  subst q runs cost
  clear_value k c core n r
  refine ⟨?_, ?_, ?_, ?_, ?_, ?_, ?_, ?_, ?_, ?_, ?_⟩
  · exact State.exposedResultWrite_spec hk hc
  · exact fun hruns l => State.loadLanding_spec hk hcore hn hr hruns
  · exact State.timerExpiry_spec hk hc
  · exact State.bundleCacheFill_spec hk hcore hn hr
  · exact State.contextSwitch_spec hk hcore
  · exact fun ops a => State.waitTimeout_spec hk (by rw [hcore, hn])
  · exact fun ops => State.windowSumFreezeEnd_spec hk hcore hn hr
  · exact State.paddedFreezeEnd_spec hk hcore hn hr
  · exact fun a b rest => State.sageLeaseGrant_spec
  · exact fun e => State.leaseExpiry_spec hk rfl hcore
  · exact fun e u => State.leaseRenewal_spec hk rfl hcore

end Sys2Proof.Machine
end

section
/-! PROOFS. Elements of vector results: what a vector operation schedules, patterns of integer elements, and integer arithmetic (R245 to
R247, R249, R250). -/

namespace Sys2Proof.Machine

/-! ### Results of the vector slots (R197, R243) -/

section
variable {s : State} {p : Pred} {i : Instr} {eff : State → State} {w : Bool} {lat : Nat} {d : LineRef} {v : Line}
  (hp : s.me.holds p = true) (hi : exec i s = always s p eff)
include hp hi

theorem State.schedulesV_of_always {P : Line → Prop} (he : eff s = s.vresult w lat d v) (hv : P v) : s.schedulesV i w lat d P :=
  ⟨v, hi.trans ((always_of_holds s p eff hp).trans (congrArg _ he)), hv⟩

/-- A result made element by element: what is claimed of each element may use its pattern. -/
theorem State.schedulesV_vline {t : Ty} {f : Nat → Nat} {P : Line → Nat → Prop} (he : eff s = s.vresult w lat d (vline t f))
    (hf : ∀ e, e < t.elems → f e < 2 ^ t.bits) (hP : ∀ v e, e < t.elems → lineElem t.bits v e = f e → P v e) :
    s.schedulesV i w lat d (fun v => ∀ e, e < t.elems → P v e) :=
  State.schedulesV_of_always hp hi he fun e h => hP _ e h ((lineElem_vline t f e h).trans (Nat.mod_eq_of_lt (hf e h)))

end

/-! ### Integers as patterns (R10, R77, R245) -/

theorem signed_eq_bmod (n v : Nat) : signed n v = Int.bmod v (2 ^ n) := by
  rw [signed, Int.bmod, show (2 : Int) ^ n = (2 ^ n : Nat) by norm_cast]
  generalize 2 ^ n = m
  split <;> split <;> omega

theorem wrap_lt (n : Nat) (x : Int) : wrap n x < 2 ^ n := by
  have hpos : (0 : Int) < (2 ^ n : Nat) := by positivity
  have := Int.emod_nonneg x hpos.ne'
  have := Int.emod_lt_of_pos x hpos
  unfold wrap
  omega

theorem wrap_cast (n : Nat) (x : Int) : (wrap n x : Int) = x % 2 ^ n := by
  have : (0 : Int) ≤ x % (2 ^ n : Nat) := Int.emod_nonneg x (by positivity)
  rw [wrap, Int.toNat_of_nonneg this]
  norm_cast

theorem signed_wrap (n : Nat) (x : Int) : signed n (wrap n x) = x.bmod (2 ^ n) := by
  rw [signed_eq_bmod, wrap_cast]
  exact_mod_cast Int.emod_bmod x (2 ^ n)


/-- The value of a pattern of an integer type (R77, R245). -/
def patInt (t : Ty) (x : Nat) : Int := if t.isSigned then signed t.bits x else x

theorem elemInt_eq_patInt (t : Ty) (l : Line) (e : Nat) : elemInt t l e = patInt t (lineElem t.bits l e) := rfl

theorem mulhElem_eq_wrap (t : Ty) (x y : Nat) : mulhElem t x y = wrap t.bits (patInt t x * patInt t y / 2 ^ t.bits) := by
  simp [mulhElem, patInt]

section
variable {t : Ty} (h : t.isI = true)
include h

theorem patInt_wrap {x : Int} (hlo : t.lo ≤ x) (hhi : x ≤ t.hi) : patInt t (wrap t.bits x) = x := by
  rw [patInt, signed_wrap, wrap_cast]
  cases t <;> simp [Ty.isI, Ty.lo, Ty.hi, Ty.isSigned, Ty.bits, Int.bmod] at * <;> omega

theorem patInt_bounds {x : Nat} (hx : x < 2 ^ t.bits) : t.lo ≤ patInt t x ∧ patInt t x ≤ t.hi := by
  unfold patInt
  cases t <;> simp [Ty.isI, Ty.lo, Ty.hi, Ty.isSigned, Ty.bits, signed] at * <;> omega

theorem patInt_emod {x : Nat} (hx : x < 2 ^ t.bits) : patInt t x % 2 ^ t.bits = x := by
  unfold patInt
  cases t <;> simp [Ty.isI, Ty.isSigned, Ty.bits, signed] at * <;> omega

/-- A pattern is its value, wrapped. -/
theorem wrap_patInt {x : Nat} (hx : x < 2 ^ t.bits) : wrap t.bits (patInt t x) = x := by
  exact_mod_cast (wrap_cast t.bits (patInt t x)).trans (patInt_emod h hx)

theorem isF_of_isI : t.isF = false := by cases t <;> simp [Ty.isI] at * <;> rfl

theorem sat_eq_max_min (x : Int) : sat x t.lo t.hi = max t.lo (min t.hi x) := by
  have ⟨hlo, hhi⟩ := patInt_bounds h (Nat.two_pow_pos t.bits)
  unfold sat
  split_ifs <;> omega

/-! ### Elements of the integer operations: the exact value, wrapped (R247, R249, R250) -/

variable {ftz : Bool} {x y z : Nat}

theorem minElem_of_isI : minElem t ftz x y = if patInt t y < patInt t x then y else x := by
  rw [minElem, isF_of_isI h, if_neg (by decide), patInt, patInt]
  split_ifs <;> omega

theorem maxElem_of_isI : maxElem t ftz x y = if patInt t x < patInt t y then y else x := by
  rw [maxElem, isF_of_isI h, if_neg (by decide), patInt, patInt]
  split_ifs <;> omega

section
variable (hx : x < 2 ^ t.bits)
include hx

theorem absElem_eq_wrap : absElem t ftz x = wrap t.bits (patInt t x).natAbs := by
  have hw := wrap_patInt h hx
  rw [absElem, isF_of_isI h, if_neg (by decide)]
  unfold patInt at *
  split_ifs at * <;> simp_all

theorem negElem_eq_wrap : negElem t ftz x = wrap t.bits (0 - patInt t x) := by
  have hmod : (x : Int) ≡ patInt t x [ZMOD (2 ^ t.bits : Nat)] := by
    have := Int.mod_modEq (patInt t x) (2 ^ t.bits)
    rw [patInt_emod h hx] at this
    exact_mod_cast this
  rw [negElem, isF_of_isI h, if_neg (by decide), Int.zero_sub]
  exact congrArg Int.toNat hmod.neg

variable (hy : y < 2 ^ t.bits)
include hy

theorem minElem_eq_wrap : minElem t ftz x y = wrap t.bits (min (patInt t x) (patInt t y)) := by
  rw [minElem_of_isI h]
  split
  · rw [min_eq_right (by omega), wrap_patInt h hy]
  · rw [min_eq_left (by omega), wrap_patInt h hx]

theorem maxElem_eq_wrap : maxElem t ftz x y = wrap t.bits (max (patInt t x) (patInt t y)) := by
  rw [maxElem_of_isI h]
  split
  · rw [max_eq_right (by omega), wrap_patInt h hy]
  · rw [max_eq_left (by omega), wrap_patInt h hx]

theorem clampElem_eq_wrap (hz : z < 2 ^ t.bits) : minElem t ftz (maxElem t ftz x y) z =
    wrap t.bits (min (max (patInt t x) (patInt t y)) (patInt t z)) := by
  have ⟨hxlo, hxhi⟩ := patInt_bounds h hx
  have ⟨hylo, hyhi⟩ := patInt_bounds h hy
  rw [maxElem_eq_wrap h hx hy, minElem_eq_wrap h (wrap_lt _ _) hz, patInt_wrap h (by omega) (by omega)]

end

end

/-! ### Lines of integer elements -/

section
variable {s : State} {p : Pred} {i : Instr} {eff : State → State} {w : Bool} {lat : Nat} {d : LineRef} {t : Ty} {f : Nat → Int}
  (hp : s.me.holds p = true) (hi : exec i s = always s p eff) (he : eff s = s.vresult w lat d (vline t (fun e => wrap t.bits (f e))))
include hp hi he

theorem State.schedulesV_wrapped : s.schedulesV i w lat d (fun v => ∀ e, e < t.elems → (lineElem t.bits v e : Int) = f e % 2 ^ t.bits) :=
  State.schedulesV_vline hp hi he (fun _ _ => wrap_lt _ _) fun _ _ _ hv => hv ▸ wrap_cast _ _

/-- A value in the type's range is read back as it is. -/
theorem State.schedulesV_inRange (h : t.isI = true) (hr : ∀ e, t.lo ≤ f e ∧ f e ≤ t.hi) :
    s.schedulesV i w lat d (fun v => ∀ e, e < t.elems → elemInt t v e = f e) :=
  State.schedulesV_vline hp hi he (fun _ _ => wrap_lt _ _) fun v e _ hv => by
    rw [elemInt_eq_patInt, hv, patInt_wrap h (hr e).1 (hr e).2]

end

section
variable (s : State) (w : Bool) (lat : Nat) (t : Ty) (d : LineRef) (a b c : Src)

theorem State.vmap1_eq_wrap {f : Nat → Nat} {g : Int → Int} (hf : ∀ x, x < 2 ^ t.bits → f x = wrap t.bits (g (patInt t x))) :
    s.vmap1 w lat t d a f = s.vresult w lat d (vline t (fun e => wrap t.bits (g (elemInt t (s.me.src t.bits a) e)))) := by
  simp only [State.vmap1, elemInt_eq_patInt, hf _ (lineElem_lt _ _ _)]

theorem State.vmap2_eq_wrap {f : Nat → Nat → Nat} {g : Int → Int → Int}
    (hf : ∀ x y, x < 2 ^ t.bits → y < 2 ^ t.bits → f x y = wrap t.bits (g (patInt t x) (patInt t y))) :
    s.vmap2 w lat t d a b f = s.vresult w lat d (vline t (fun e =>
      wrap t.bits (g (elemInt t (s.me.src t.bits a) e) (elemInt t (s.me.src t.bits b) e)))) := by
  simp only [State.vmap2, elemInt_eq_patInt, hf _ _ (lineElem_lt _ _ _) (lineElem_lt _ _ _)]

theorem State.vmap3_eq_wrap {f : Nat → Nat → Nat → Nat} {g : Int → Int → Int → Int}
    (hf : ∀ x y z, x < 2 ^ t.bits → y < 2 ^ t.bits → z < 2 ^ t.bits → f x y z = wrap t.bits (g (patInt t x) (patInt t y) (patInt t z))) :
    s.vmap3 w lat t d a b c f = s.vresult w lat d (vline t (fun e => wrap t.bits (g (elemInt t (s.me.src t.bits a) e)
      (elemInt t (s.me.src t.bits b) e) (elemInt t (s.me.src t.bits c) e)))) := by
  simp only [State.vmap3, elemInt_eq_patInt, hf _ _ _ (lineElem_lt _ _ _) (lineElem_lt _ _ _) (lineElem_lt _ _ _)]

theorem arithElem_of_isI (o : Arith) (r : Rnd) (sb : Bool) (x y : Line) (e : Nat) (h : t.isI = true) : arithElem o t r sb x y e =
    wrap t.bits (if sb then max t.lo (min t.hi (o.int (elemInt t x e) (elemInt t y e))) else o.int (elemInt t x e) (elemInt t y e)) := by
  have hl : t ≠ .ln6 := by rintro rfl; cases h
  cases sb <;> simp [arithElem, isF_of_isI h, hl, sat_eq_max_min h]

theorem State.arith_eq_wrap (o : Arith) (sb : Bool) (h : t.isI = true) : s.arith o w t d a b sb = s.vresult w 2 d (vline t (fun e =>
    wrap t.bits (if sb then max t.lo (min t.hi (o.int (elemInt t (s.me.src t.bits a) e) (elemInt t (s.me.src t.bits b) e)))
      else o.int (elemInt t (s.me.src t.bits a) e) (elemInt t (s.me.src t.bits b) e)))) := by
  have hl : t ≠ .ln6 := by rintro rfl; cases h
  have hf := funext fun e => arithElem_of_isI t o s.me.rnd sb (s.me.src t.bits a) (s.me.src t.bits b) e h
  rw [State.arith, hf, isF_of_isI h, arithLat, isF_of_isI h, if_neg (by decide), if_neg (by decide), if_neg hl]

end

/-- Settles O22: each element is the exact value wrapped, which reads back as it is where it is in range. -/
theorem vectorIntegerArithmeticIsExact : Obligations.VectorIntegerArithmeticIsExact := by
  unfold Obligations.VectorIntegerArithmeticIsExact
  intro s p w ty d a b c hp hI x y z n each
  have range (q : Src) (e : Nat) : ty.lo ≤ elemInt ty (s.me.src ty.bits q) e ∧ elemInt ty (s.me.src ty.bits q) e ≤ ty.hi :=
    patInt_bounds hI (lineElem_lt _ _ _)
  have hx (e : Nat) : ty.lo ≤ x e ∧ x e ≤ ty.hi := range a e
  have hy (e : Nat) : ty.lo ≤ y e ∧ y e ≤ ty.hi := range b e
  have hz (e : Nat) : ty.lo ≤ z e ∧ z e ≤ ty.hi := range c e
  have hsat (v : Int) : ty.lo ≤ max ty.lo (min ty.hi v) ∧ max ty.lo (min ty.hi v) ≤ ty.hi := by
    have := hx 0
    omega
  have arith (o : Arith) (sb : Bool) := s.arith_eq_wrap w ty d a b o sb hI
  refine ⟨?_, ?_, ?_, ?_, ?_, ?_, ?_, ?_, ?_, ?_, ?_, ?_⟩
  · exact State.schedulesV_wrapped hp rfl (arith .add false)
  · exact State.schedulesV_wrapped hp rfl (arith .sub false)
  · exact State.schedulesV_wrapped hp rfl (arith .mul false)
  · exact State.schedulesV_inRange hp rfl (arith .add true) hI fun _ => hsat _
  · exact State.schedulesV_inRange hp rfl (arith .sub true) hI fun _ => hsat _
  · exact State.schedulesV_inRange hp rfl (arith .mul true) hI fun _ => hsat _
  · exact State.schedulesV_inRange hp rfl (s.vmap2_eq_wrap w 2 ty d a b (g := min) fun _ _ => minElem_eq_wrap hI) hI
      fun e => ⟨le_min (hx e).1 (hy e).1, (min_le_left _ _).trans (hx e).2⟩
  · exact State.schedulesV_inRange hp rfl (s.vmap2_eq_wrap w 2 ty d a b (g := max) fun _ _ => maxElem_eq_wrap hI) hI
      fun e => ⟨(hx e).1.trans (le_max_left _ _), max_le (hx e).2 (hy e).2⟩
  · exact State.schedulesV_wrapped hp rfl (s.vmap1_eq_wrap w 2 ty d a (g := fun x => x.natAbs) fun _ => absElem_eq_wrap hI)
  · exact State.schedulesV_wrapped hp rfl (s.vmap1_eq_wrap w 2 ty d a (g := fun x => 0 - x) fun _ => negElem_eq_wrap hI)
  · exact State.schedulesV_inRange hp rfl (s.vmap3_eq_wrap w 2 ty d a b c (g := fun x y z => min (max x y) z)
      fun _ _ _ => clampElem_eq_wrap hI) hI
      fun e => ⟨le_min ((hx e).1.trans (le_max_left _ _)) (hz e).1, (min_le_right _ _).trans (hz e).2⟩
  · exact State.schedulesV_wrapped hp rfl (s.vmap2_eq_wrap w 2 ty d a b (g := fun x y => x * y / 2 ^ ty.bits)
      fun x y _ _ => mulhElem_eq_wrap ty x y)

end Sys2Proof.Machine
end

section
/-! PROOFS. Bits of elements, shifts, comparison and moves of patterns (R256 to R259). -/

namespace Sys2Proof.Machine

/-! ### Bits (R256) -/

theorem complement_lt {n : Nat} (x : Nat) : 2 ^ n - 1 - x < 2 ^ n := by
  have := Nat.two_pow_pos n
  omega

section
variable {n x : Nat} (hx : x < 2 ^ n)
include hx

theorem testBit_complement {j : Nat} (hj : j < n) : (2 ^ n - 1 - x).testBit j = !x.testBit j := by
  rw [Nat.sub_sub, Nat.add_comm, Nat.testBit_two_pow_sub_succ hx, decide_eq_true hj, Bool.true_and]

/-- The one bits of a pattern, counted. -/
theorem popcN_eq_length_testBit (hn : n ≤ 64) : popcN n x = ((List.range n).filter (fun j => x.testBit j)).length := by
  have hlt : x < 2 ^ 64 := hx.trans_le (Nat.pow_le_pow_right (by decide) hn)
  have hval : (BitVec.ofNat 64 x).toNat = x := Nat.mod_eq_of_lt hlt
  have h := popcN_eq_length (BitVec.ofNat 64 x) n
  simp only [BitVec.getLsbD, hval] at h
  exact h

theorem popcN_le (hn : n ≤ 64) : popcN n x ≤ n := by
  rw [popcN_eq_length_testBit hx hn]
  simpa using List.length_filter_le (fun j => x.testBit j) (List.range n)

/-- Below its leading zeros a pattern has its top one bit. -/
theorem clzN_spec : clzN n x ≤ n ∧ x < 2 ^ (n - clzN n x) ∧ (x ≠ 0 → 2 ^ (n - 1 - clzN n x) ≤ x) := by
  rw [clzN, Nat.mod_eq_of_lt hx]
  split
  · simp_all
  next h0 =>
    have hlog : Nat.log2 x < n := (Nat.log2_lt h0).mpr hx
    rw [show n - (n - 1 - Nat.log2 x) = Nat.log2 x + 1 by omega, show n - 1 - (n - 1 - Nat.log2 x) = Nat.log2 x by omega]
    exact ⟨by omega, Nat.lt_log2_self, fun _ => Nat.log2_self_le h0⟩

theorem shiftRight_lt (k : Nat) : x >>> k < 2 ^ n := by
  rw [Nat.shiftRight_eq_div_pow]
  exact (Nat.div_le_self _ _).trans_lt hx

end

/-- A value shifted right arithmetically stays in its range. -/
theorem signed_wrap_div (n x k : Nat) : signed n (wrap n (signed n x / (2 ^ k : Nat))) = signed n x / 2 ^ k := by
  have hm : 0 < 2 ^ n := by positivity
  have hk : (1 : Int) ≤ 2 ^ k := by exact_mod_cast Nat.one_le_two_pow
  have hlo := Int.le_bmod (x := x) hm
  have hhi := Int.bmod_lt (x := x) hm
  rw [signed_wrap, signed_eq_bmod, Nat.cast_pow, Nat.cast_ofNat]
  generalize (2 : Nat) ^ n = m at *
  generalize (2 : Int) ^ k = j at *
  apply Int.bmod_eq_of_le
  · rw [Int.le_ediv_iff_mul_le (by omega)]
    have : 0 ≤ (m : Int) / 2 * (j - 1) := mul_nonneg (by omega) (by omega)
    linarith
  · rw [Int.ediv_lt_iff_lt_mul (by omega)]
    have : 0 ≤ ((m : Int) + 1) / 2 * (j - 1) := mul_nonneg (by omega) (by omega)
    linarith

/-! ### Comparison of integers (R257) -/

/-- The exact value of an integer. -/
def Num.ofInt (x : Int) : Num := .fin (decide (x < 0)) x.natAbs 0

theorem decodeNum_of_isI {t : Ty} (h : t.isI = true) {x : Nat} (hx : x < 2 ^ t.bits) : decodeNum t x = Num.ofInt (patInt t x) := by
  cases t <;> simp [Ty.isI] at h <;> simp [decodeNum, Num.ofInt, patInt, Ty.isSigned, Nat.mod_eq_of_lt hx]

theorem flushPat_of_not_isFloat {t : Ty} (h : t.isFloat = false) (ftz : Bool) (x : Nat) : flushPat t ftz x = x := by
  simp [flushPat, h]

theorem isFloat_of_isI {t : Ty} (h : t.isI = true) : t.isFloat = false := by cases t <;> simp [Ty.isI] at * <;> rfl

section
variable (x y : Int)

theorem Num.ofInt_eqv : (Num.ofInt x).eqv (.ofInt y) = true ↔ x = y := by
  simp [Num.eqv, Num.ofInt, magEq]
  omega

theorem Num.ofInt_lt : (Num.ofInt x).lt (.ofInt y) = true ↔ x < y := by
  by_cases hx : x < 0 <;> by_cases hy : y < 0 <;> simp [Num.lt, Num.ofInt, magLt, hx, hy] <;> omega

theorem Num.ofInt_below : (Num.ofInt x).below (.ofInt y) = true ↔ x < y := by
  rw [Num.below, Bool.and_eq_true, Bool.not_eq_true', ← Bool.not_eq_true, Num.ofInt_lt, Num.ofInt_eqv]
  omega

end

/-- A condition between integers; the unsigned ones are refused in a VCMP (R117). -/
def intCond (o : Cond) (x y : Int) : Prop :=
  match o with
  | .eq => x = y | .ne => x ≠ y | .lt => x < y | .le => x ≤ y | .gt => y < x | .ge => y ≤ x | _ => False

theorem condElem_iff_intCond {t : Ty} (h : t.isI = true) {o : Cond} (ho : o.forVcmp = true) (ftz : Bool) {x y : Nat}
    (hx : x < 2 ^ t.bits) (hy : y < 2 ^ t.bits) : condElem o t ftz x y = true ↔ intCond o (patInt t x) (patInt t y) := by
  have hflush := flushPat_of_not_isFloat (isFloat_of_isI h) ftz
  simp only [condElem, hflush, decodeNum_of_isI h hx, decodeNum_of_isI h hy]
  have hne (u v : Int) : (Num.ofInt u).eqv (.ofInt v) = false ↔ u ≠ v := by rw [← Bool.not_eq_true, Num.ofInt_eqv]
  cases o <;> simp [Cond.forVcmp, intCond, Num.ofInt_eqv, Num.ofInt_below, hne] at * <;> omega

/-! ### The operations -/

theorem vcmp_schedules_of_isI {s : State} {p : Pred} {w : Bool} (ty : Ty) (d : LineRef) (a b : Src) (hp : s.me.holds p = true)
    (hI : ty.isI = true) {o : Cond} (ho : o.forVcmp = true) : s.schedulesV (.vcmp p w ty o d a b) w 2 d (fun v => ∀ e, e < ty.elems →
      (intCond o (elemInt ty (s.me.src ty.bits a) e) (elemInt ty (s.me.src ty.bits b) e) → lineElem ty.bits v e = 2 ^ ty.bits - 1) ∧
      (¬intCond o (elemInt ty (s.me.src ty.bits a) e) (elemInt ty (s.me.src ty.bits b) e) → lineElem ty.bits v e = 0)) := by
  have hones : 2 ^ ty.bits - 1 < 2 ^ ty.bits := Nat.sub_lt (Nat.two_pow_pos _) (by decide)
  refine State.schedulesV_vline hp rfl rfl (fun e _ => ?_) fun v e _ hv => ?_
  · exact iteInduction (motive := (· < 2 ^ ty.bits)) (fun _ => hones) (fun _ => Nat.two_pow_pos _)
  · rw [hv]
    have hc := condElem_iff_intCond hI ho s.ftz (lineElem_lt ty.bits (s.me.src ty.bits a) e) (lineElem_lt ty.bits (s.me.src ty.bits b) e)
    exact ⟨fun h => if_pos (hc.mpr h), fun h => if_neg (mt hc.mp h)⟩

theorem ty_bits_le (t : Ty) : t.bits ≤ 32 := by cases t <;> decide

/-- Settles O23: bits and values of an element come from the lemmas above, and what is moved is a pattern of the type. -/
theorem vectorBitAndMoveOperations : Obligations.VectorBitAndMoveOperations := by
  unfold Obligations.VectorBitAndMoveOperations
  constructor
  · intro s p w ty d a b k hp hI hk x y each bitwise
    have hx (e : Nat) : x e < 2 ^ ty.bits := lineElem_lt _ _ _
    have hy (e : Nat) : y e < 2 ^ ty.bits := lineElem_lt _ _ _
    have hb : ty.bits ≤ 64 := (ty_bits_le ty).trans (by decide)
    have put {i : Instr} {eff : State → State} {f : Nat → Nat} {P : Line → Nat → Prop} (hi : exec i s = always s p eff)
        (he : eff s = s.vresult w 2 d (vline ty f)) (hf : ∀ e, f e < 2 ^ ty.bits)
        (hP : ∀ v e, lineElem ty.bits v e = f e → P v e) : each i P :=
      State.schedulesV_vline hp hi he (fun e _ => hf e) fun v e _ => hP v e
    refine ⟨?_, ?_, ?_, ?_, ?_, ?_, ?_, ?_, ?_, ?_⟩
    · exact put rfl rfl (fun e => Nat.and_lt_two_pow _ (hy e)) fun v e hv j _ => hv ▸ Nat.testBit_and _ _ _
    · exact put rfl rfl (fun e => Nat.or_lt_two_pow (hx e) (hy e)) fun v e hv j _ => hv ▸ Nat.testBit_or _ _ _
    · exact put rfl rfl (fun e => Nat.xor_lt_two_pow (hx e) (hy e)) fun v e hv j _ => hv ▸ Nat.testBit_xor _ _ _
    · exact put rfl rfl (fun e => complement_lt (x e)) fun v e hv j hj => hv ▸ testBit_complement (hx e) hj
    · exact put rfl rfl (fun e => Nat.mod_lt _ (Nat.two_pow_pos _)) fun v e hv =>
        hv.trans (congrArg (· % 2 ^ ty.bits) (Nat.shiftLeft_eq _ _))
    · exact put rfl rfl (fun e => shiftRight_lt (hx e) _) fun v e hv => hv.trans (Nat.shiftRight_eq_div_pow _ _)
    · exact put rfl rfl (fun e => wrap_lt _ _) fun v e hv => hv ▸ signed_wrap_div _ _ _
    · exact put rfl rfl (fun e => (popcN_le (hx e) hb).trans_lt Nat.lt_two_pow_self) fun v e hv => hv ▸ popcN_eq_length_testBit (hx e) hb
    · exact put rfl rfl (fun e => (clzN_spec (hx e)).1.trans_lt Nat.lt_two_pow_self) fun v e hv => hv ▸ clzN_spec (hx e)
    · exact fun o ho => vcmp_schedules_of_isI ty d a b hp hI ho
  · intro s p w ty d a b c k hp hk el x y z each
    have put {i : Instr} {eff : State → State} {lat : Nat} {f : Nat → Nat} {P : Line → Nat → Prop} (hi : exec i s = always s p eff)
        (he : eff s = s.vresult w lat d (vline ty f)) (hf : ∀ e, f e < 2 ^ ty.bits)
        (hP : ∀ v e, lineElem ty.bits v e = f e → P v e) : each i lat P :=
      State.schedulesV_vline hp hi he (fun e _ => hf e) fun v e _ => hP v e
    have hel (v : Line) (e : Nat) : el v e < 2 ^ ty.bits := lineElem_lt _ _ _
    refine ⟨?_, ?_, ?_, ?_, ?_, ?_⟩
    · exact put rfl rfl (fun e => hel x e) fun v e hv => hv
    · exact put rfl rfl (fun e => iteInduction (motive := (· < 2 ^ ty.bits)) (fun _ => hel y e) (fun _ => hel x e))
        fun v e hv => ⟨fun h => hv.trans (if_neg h), fun h => hv.trans (if_pos h)⟩
    · exact put rfl rfl (fun e => hel x _) fun v e hv => hv.trans (by rw [Nat.mod_eq_of_lt hk])
    · exact put rfl rfl (fun e => hel x _) fun v e hv => hv
    · exact put rfl rfl (fun e => Nat.mod_lt _ (Nat.two_pow_pos _)) fun v e hv => hv
    · exact put rfl rfl (fun e => hel x _) fun v e hv => hv

end Sys2Proof.Machine
end

section
/-! PROOFS. Float elements: rounded patterns fit their type, and each result is rounded once (R71, R73, R81, R243, R246 to R248, R251). -/

namespace Sys2Proof.Machine

/-! ### Patterns of a type (R72, R73, R77) -/

section
variable {t : Ty} (h : t.isFloat = true)
include h

theorem man_add_expBits : t.man + t.expBits + 1 = t.bits := by cases t <;> simp [Ty.isFloat] at * <;> rfl

theorem nanCode_lt : t.nan < 2 ^ t.bits := by cases t <;> simp [Ty.isFloat] at * <;> decide

theorem infCode_lt : t.infCode < 2 ^ (t.man + t.expBits) := by cases t <;> simp [Ty.isFloat] at * <;> decide

theorem maxCode_lt : t.maxCode < 2 ^ (t.man + t.expBits) := by cases t <;> simp [Ty.isFloat] at * <;> decide

theorem overflowCode_lt : (if t = .f8e4 then t.maxCode else t.infCode) < 2 ^ (t.man + t.expBits) :=
  iteInduction (motive := (· < _)) (fun _ => maxCode_lt h) fun _ => infCode_lt h

/-- A rounded magnitude leaves the sign's bit free. -/
theorem roundMag_lt (mode u : Nat) (neg : Bool) (n : Nat) (e : Int) (st : Bool) :
    roundMag t mode u neg n e st < 2 ^ (t.man + t.expBits) := by
  have hinf := infCode_lt h
  have hmax := maxCode_lt h
  have hcode (code : Nat) : (if t.maxCode < code then (if t = .f8e4 then t.maxCode else t.infCode) else code) <
      2 ^ (t.man + t.expBits) :=
    iteInduction (motive := (· < _)) (fun _ => overflowCode_lt h) fun hle => by omega
  unfold roundMag
  split
  · exact Nat.two_pow_pos _
  · dsimp only
    split
    · split
      · exact hmax
      · split
        · exact hinf
        · exact hmax
        · exact iteInduction (motive := (· < _)) (fun _ => hmax) fun _ => hinf
        · exact iteInduction (motive := (· < _)) (fun _ => hinf) fun _ => hmax
        · exact hinf
    · exact hcode _

theorem withSign_lt (neg : Bool) {v : Nat} (hv : v < 2 ^ (t.man + t.expBits)) : withSign t neg v < 2 ^ t.bits := by
  rw [withSign, ← man_add_expBits h, Nat.pow_succ]
  split <;> omega

end

theorem flushPat_le (t : Ty) (ftz : Bool) (v : Nat) : flushPat t ftz v ≤ v := by
  unfold flushPat
  split <;> omega

/-- A rounded value is a pattern of its type. -/
theorem float_lt {t : Ty} (h : t.isFloat = true) (r : Rnd) (i : Nat) (x : Num) (st : Bool) : r.float t i x st < 2 ^ t.bits := by
  cases x with
  | nan => exact nanCode_lt h
  | inf s => exact withSign_lt h s (overflowCode_lt h)
  | fin s n e => exact (flushPat_le _ _ _).trans_lt (withSign_lt h s (roundMag_lt h _ _ _ _ _ _))

theorem isFloat_of_isF {t : Ty} (h : t.isF = true) : t.isFloat = true := by cases t <;> simp [Ty.isF] at * <;> rfl

/-! ### Results that round by fmt (R81, R243) -/

/-- One rounding operation advances rsn by one, in mode RS alone. -/
theorem Ctx.takeRsn_one (c : Ctx) : c.takeRsn 1 = { c with regs := { c.regs with
    rsn := if c.regs.fmt.toNat % 8 = 4 then c.regs.rsn + 1 else c.regs.rsn } } := by
  have hm : fmtMode c.regs.fmt = c.regs.fmt.toNat % 8 := rfl
  rw [Ctx.takeRsn, hm]
  split <;> rfl

section
variable {s : State} {p : Pred} {i : Instr} {eff : State → State} {w : Bool} {lat : Nat} {d : LineRef} {v : Line} {t : Ty}
  (hp : s.me.holds p = true) (hi : exec i s = always s p eff)
include hp hi

theorem State.schedulesR_of_always {P : Line → Prop} (he : eff s = s.vround w lat d v) (hv : P v) : s.schedulesR i w lat d P := by
  refine ⟨v, hv, hi.trans ((always_of_holds s p eff hp).trans (congrArg _ (he.trans ?_)))⟩
  exact congrArg (s.vresult w lat d v).updMe (funext Ctx.takeRsn_one)

theorem State.schedulesR_vline {f : Nat → Nat} {P : Line → Nat → Prop} (he : eff s = s.vround w lat d (vline t f))
    (hf : ∀ e, e < t.elems → f e < 2 ^ t.bits) (hP : ∀ v e, e < t.elems → lineElem t.bits v e = f e → P v e) :
    s.schedulesR i w lat d (fun v => ∀ e, e < t.elems → P v e) :=
  State.schedulesR_of_always hp hi he fun e h => hP _ e h ((lineElem_vline t f e h).trans (Nat.mod_eq_of_lt (hf e h)))

/-! ### Float arithmetic (R247, R248, R251) -/

variable {f : Nat → Digits} {r : Rnd} (h : t.isFloat = true)
include h

/-- Values rounded once, as a line that takes a rounding value. -/
theorem State.schedulesR_float (he : eff s = s.vround w lat d (vline t (fun e => r.float t e (f e).1 (f e).2))) :
    s.schedulesR i w lat d (fun v => ∀ e, e < t.elems →
      lineElem t.bits v e = r.float t e (f e).1 (f e).2 ∧ ((f e).1 = .nan → lineElem t.bits v e = t.nan)) :=
  State.schedulesR_vline hp hi he (fun _ _ => float_lt h _ _ _ _) fun _ _ _ hv => ⟨hv, fun hn => by rw [hv, hn]; rfl⟩

/-- The same for a line that takes none. -/
theorem State.schedulesV_float (he : eff s = s.vresult w lat d (vline t (fun e => r.float t e (f e).1 (f e).2))) :
    s.schedulesV i w lat d (fun v => ∀ e, e < t.elems →
      lineElem t.bits v e = r.float t e (f e).1 (f e).2 ∧ ((f e).1 = .nan → lineElem t.bits v e = t.nan)) :=
  State.schedulesV_vline hp hi he (fun _ _ => float_lt h _ _ _ _) fun _ _ _ hv => ⟨hv, fun hn => by rw [hv, hn]; rfl⟩

end

theorem State.arith_eq_vround (s : State) (o : Arith) (w : Bool) {t : Ty} (d : LineRef) (a b : Src) (sb : Bool) (h : t.isF = true) :
    s.arith o w t d a b sb = s.vround w (fmaLat t) d (vline t (fun e => s.me.rnd.float t e
      (o.num (s.me.rnd.mode = 3) (elemNum t s.me.rnd.ftz (s.me.src t.bits a) e) (elemNum t s.me.rnd.ftz (s.me.src t.bits b) e)) false)) := by
  have hf : arithElem o t s.me.rnd sb (s.me.src t.bits a) (s.me.src t.bits b) = _ := funext fun e => if_pos h
  rw [State.arith, hf, if_pos h, arithLat, if_pos h]

/-- Settles O24: each operation's line rounds the exact value of its elements. -/
theorem vectorFloatArithmeticRoundsOnce : Obligations.VectorFloatArithmeticRoundsOnce := by
  unfold Obligations.VectorFloatArithmeticRoundsOnce
  intro s p w ty d a b c sb hp hF r num rd lat rounded nearest
  have hfl := isFloat_of_isF hF
  have round {i : Instr} {eff : State → State} {l : Nat} {f : Nat → Digits} (hi : exec i s = always s p eff)
      (he : eff s = s.vround w l d (vline ty (fun e => r.float ty e (f e).1 (f e).2))) : rounded i l f :=
    State.schedulesR_float hp hi hfl he
  have near {i : Instr} {eff : State → State} {f : Nat → Digits} (hi : exec i s = always s p eff)
      (he : eff s = s.vresult w 8 d (vline ty (fun e => s.me.rndNe.float ty e (f e).1 (f e).2))) : nearest i f :=
    State.schedulesV_float hp hi hfl he
  have arith (o : Arith) := s.arith_eq_vround o w d a b sb hF
  exact ⟨round rfl (arith .add), round rfl (arith .sub), round rfl (arith .mul), round rfl rfl, round rfl rfl, round rfl rfl,
    round rfl rfl, near rfl rfl, near rfl rfl, near rfl rfl⟩

end Sys2Proof.Machine
end

section
/-! PROOFS. Float minimum, maximum, sign and comparison (R70, R249, R257): the order of values, and the pattern that is kept. -/

namespace Sys2Proof.Machine

/-! ### The order of values (R249) -/

/-- What places a value among the others: its side of the line and, when it is finite, its signed magnitude. A NaN has no place; it
stands with −∞ here. -/
def Num.key (x : Num) : ℤ ×ₗ ℚ :=
  match x with
  | .nan => toLex (-2, 0)
  | .inf s => toLex (if s then -2 else 2, 0)
  | .fin s n e => toLex (if s then (-1, -(n * 2 ^ e)) else (1, n * 2 ^ e))

theorem magLt_iff (n : Nat) (e : Int) (m : Nat) (f : Int) : magLt n e m f = true ↔ (n : ℚ) * 2 ^ e < m * 2 ^ f := by
  have hsplit {a b : Int} (h : a ≤ b) (k : Nat) : (k : ℚ) * 2 ^ b = (k <<< (b - a).toNat : Nat) * 2 ^ a := by
    obtain ⟨j, rfl⟩ := Int.le.dest h
    rw [add_sub_cancel_left, Int.toNat_natCast, Nat.shiftLeft_eq, zpow_add₀ (by norm_num), zpow_natCast]
    push_cast
    ring
  have hpos (a : Int) : (0 : ℚ) < 2 ^ a := by positivity
  unfold magLt
  split
  next h => rw [hsplit h, mul_lt_mul_iff_left₀ (hpos e), Nat.cast_lt, decide_eq_true_eq]
  next h => rw [hsplit (show f ≤ e by omega) n, mul_lt_mul_iff_left₀ (hpos f), Nat.cast_lt, decide_eq_true_eq]

theorem Num.lt_iff_key {a b : Num} (ha : a ≠ .nan) (hb : b ≠ .nan) : a.lt b = true ↔ a.key < b.key := by
  cases a with
  | nan => exact absurd rfl ha
  | inf s =>
    cases b with
    | nan => exact absurd rfl hb
    | inf t => cases s <;> cases t <;> simp [Num.lt, Num.key, Prod.Lex.toLex_lt_toLex]
    | fin t m f => cases s <;> cases t <;> simp [Num.lt, Num.key, Prod.Lex.toLex_lt_toLex]
  | fin s n e =>
    cases b with
    | nan => exact absurd rfl hb
    | inf t => cases s <;> cases t <;> simp [Num.lt, Num.key, Prod.Lex.toLex_lt_toLex]
    | fin t m f => cases s <;> cases t <;> simp [Num.lt, Num.key, Prod.Lex.toLex_lt_toLex, magLt_iff]

@[simp] theorem Num.nan_lt (x : Num) : Num.nan.lt x = false := rfl

@[simp] theorem Num.lt_nan (x : Num) : x.lt .nan = false := by cases x <;> rfl

@[simp] theorem Num.nan_eqv (x : Num) : Num.nan.eqv x = false := rfl

@[simp] theorem Num.eqv_nan (x : Num) : x.eqv .nan = false := by cases x <;> rfl

/-- An order of values, by which the elements of a minimum or a maximum come before one another. -/
structure Num.Ordered (before : Num → Num → Bool) : Prop where
  asymm : ∀ a b, before a b = true → before b a = false
  negTrans : ∀ a b c, b ≠ .nan → before a b = false → before b c = false → before a c = false

namespace Num.Ordered

variable {before : Num → Num → Bool} (o : Num.Ordered before)
include o

theorem irrefl (a : Num) : before a a = false := by
  by_contra h
  exact h (o.asymm a a (by simpa using h))

theorem swap : Num.Ordered (fun a b => before b a) where
  asymm a b := o.asymm b a
  negTrans a b c hb h k := o.negTrans c b a hb k h

end Num.Ordered

theorem Num.lt_ordered : Num.Ordered Num.lt where
  asymm a b h := by
    by_cases ha : a = .nan
    · simp [ha]
    by_cases hb : b = .nan
    · simp [hb]
    rw [Num.lt_iff_key ha hb] at h
    rw [← Bool.not_eq_true, Num.lt_iff_key hb ha]
    exact h.asymm
  negTrans a b c hb h k := by
    by_cases ha : a = .nan
    · simp [ha]
    by_cases hc : c = .nan
    · simp [hc]
    rw [← Bool.not_eq_true, Num.lt_iff_key ha hb, not_lt] at h
    rw [← Bool.not_eq_true, Num.lt_iff_key hb hc, not_lt] at k
    rw [← Bool.not_eq_true, Num.lt_iff_key ha hc, not_lt]
    exact k.trans h

/-! ### Flushed patterns (R70) -/

section
variable {t : Ty} (h : t.isF = true) (ftz : Bool)

@[simp] theorem flushPat_flushPat (t : Ty) (ftz : Bool) (x : Nat) : flushPat t ftz (flushPat t ftz x) = flushPat t ftz x := by
  have hz : bits (x - bits x 0 t.man) 0 t.man = 0 := by
    simpa [bits] using Nat.sub_mod_eq_zero_of_mod_eq (Nat.mod_mod x (2 ^ t.man)).symm
  by_cases h : (ftz && t.isFloat && bits x t.man t.expBits = 0) = true
  · rw [show flushPat t ftz x = x - bits x 0 t.man from if_pos h, flushPat, hz, Nat.sub_zero, ite_self]
  · rw [show flushPat t ftz x = x from if_neg h, flushPat, if_neg h]

include h

/-- The canonical NaN is no subnormal. -/
theorem flushPat_nan : flushPat t ftz t.nan = t.nan := by cases t <;> cases ftz <;> simp [Ty.isF] at * <;> rfl

theorem decodeNum_nan : decodeNum t t.nan = .nan := by cases t <;> simp [Ty.isF] at * <;> rfl

end

theorem flushPat_lt {t : Ty} (ftz : Bool) {x : Nat} (hx : x < 2 ^ t.bits) : flushPat t ftz x < 2 ^ t.bits := 
  (flushPat_le _ _ _).trans_lt hx

/-! ### The pattern that comes first (R249, R260) -/

/-- Of two patterns, flushed, the first one in an order of values, or the canonical NaN. -/
def pickElem (t : Ty) (ftz : Bool) (before : Num → Num → Bool) (x y : Nat) : Nat :=
  if decodeNum t (flushPat t ftz x) = .nan ∨ decodeNum t (flushPat t ftz y) = .nan then t.nan
  else if before (decodeNum t (flushPat t ftz y)) (decodeNum t (flushPat t ftz x)) then flushPat t ftz y else flushPat t ftz x

theorem minElem_of_isF {t : Ty} (h : t.isF = true) (ftz : Bool) : minElem t ftz = pickElem t ftz Num.lt := by
  funext x y
  simp [minElem, pickElem, h]

theorem maxElem_of_isF {t : Ty} (h : t.isF = true) (ftz : Bool) : maxElem t ftz = pickElem t ftz (fun a b => b.lt a) := by
  funext x y
  simp [maxElem, pickElem, h]

section
variable {t : Ty} {ftz : Bool} {before : Num → Num → Bool} {x y : Nat}

theorem pickElem_of_nan (h : decodeNum t (flushPat t ftz x) = .nan ∨ decodeNum t (flushPat t ftz y) = .nan) :
    pickElem t ftz before x y = t.nan := if_pos h

section
variable (hx : decodeNum t (flushPat t ftz x) ≠ .nan) (hy : decodeNum t (flushPat t ftz y) ≠ .nan)
include hx hy

theorem pickElem_mem : pickElem t ftz before x y = flushPat t ftz x ∨ pickElem t ftz before x y = flushPat t ftz y := by
  rw [pickElem, if_neg (not_or.mpr ⟨hx, hy⟩)]
  split <;> simp

theorem pickElem_first (o : Num.Ordered before) :
    before (decodeNum t (flushPat t ftz x)) (decodeNum t (pickElem t ftz before x y)) = false ∧
    before (decodeNum t (flushPat t ftz y)) (decodeNum t (pickElem t ftz before x y)) = false := by
  rw [pickElem, if_neg (not_or.mpr ⟨hx, hy⟩)]
  split
  next h => exact ⟨o.asymm _ _ h, o.irrefl _⟩
  next h => exact ⟨o.irrefl _, by simpa using h⟩

end

variable (hF : t.isF = true)
include hF

theorem pickElem_lt (hx : x < 2 ^ t.bits) (hy : y < 2 ^ t.bits) : pickElem t ftz before x y < 2 ^ t.bits := by
  unfold pickElem
  split
  · exact nanCode_lt (isFloat_of_isF hF)
  · split
    · exact flushPat_lt ftz hy
    · exact flushPat_lt ftz hx

theorem flushPat_pickElem : flushPat t ftz (pickElem t ftz before x y) = pickElem t ftz before x y := by
  unfold pickElem
  split
  · exact flushPat_nan hF ftz
  · split <;> simp

end

/-- Clamping: the greater of the first two, then the lesser of it and the third. -/
theorem clampPick_spec {t : Ty} {ftz : Bool} {before after : Num → Num → Bool} {x y z : Nat} (hF : t.isF = true) :
    (decodeNum t (flushPat t ftz x) = .nan ∨ decodeNum t (flushPat t ftz y) = .nan ∨ decodeNum t (flushPat t ftz z) = .nan →
      pickElem t ftz before (pickElem t ftz after x y) z = t.nan) ∧
    (decodeNum t (flushPat t ftz x) ≠ .nan → decodeNum t (flushPat t ftz y) ≠ .nan → decodeNum t (flushPat t ftz z) ≠ .nan →
      pickElem t ftz before (pickElem t ftz after x y) z = flushPat t ftz x ∨
      pickElem t ftz before (pickElem t ftz after x y) z = flushPat t ftz y ∨
      pickElem t ftz before (pickElem t ftz after x y) z = flushPat t ftz z) := by
  constructor
  · intro hn
    refine pickElem_of_nan ?_
    rw [flushPat_pickElem hF]
    rcases hn with hx | hy | hz
    · exact .inl (by rw [pickElem_of_nan (.inl hx), decodeNum_nan hF])
    · exact .inl (by rw [pickElem_of_nan (.inr hy), decodeNum_nan hF])
    · exact .inr hz
  · intro hx hy hz
    have hm := pickElem_mem (before := after) hx hy
    have hne : decodeNum t (flushPat t ftz (pickElem t ftz after x y)) ≠ .nan := by
      rcases hm with h | h <;> simpa [h]
    rcases pickElem_mem (before := before) hne hz with h | h
    · rw [h, flushPat_pickElem hF]
      tauto
    · exact .inr (.inr h)

/-! ### Sign and comparison (R249, R257) -/

section
variable {t : Ty} (hF : t.isF = true) (ftz : Bool) {x : Nat}
include hF

theorem absElem_of_isF : absElem t ftz x =
    if decodeNum t (flushPat t ftz x) = .nan then t.nan else flushPat t ftz x % 2 ^ (t.bits - 1) := by
  simp [absElem, hF, bits, ← man_add_expBits (isFloat_of_isF hF)]

/-- The sign is the top bit. -/
theorem negElem_of_isF (hx : x < 2 ^ t.bits) : negElem t ftz x =
    if decodeNum t (flushPat t ftz x) = .nan then t.nan else (flushPat t ftz x + 2 ^ (t.bits - 1)) % 2 ^ t.bits := by
  have hlt := flushPat_lt ftz hx
  have hb := man_add_expBits (isFloat_of_isF hF)
  rw [negElem, if_pos hF]
  generalize flushPat t ftz x = v at *
  simp only [Num.isNan_iff]
  split
  · rfl
  · rw [bit, Nat.shiftRight_eq_div_pow, show t.bits - 1 = t.man + t.expBits by omega, ← hb, Nat.pow_succ] at *
    generalize 2 ^ (t.man + t.expBits) = top at *
    by_cases h : v < top
    · simp [Nat.div_eq_of_lt h, Nat.mod_eq_of_lt (show v + top < top * 2 by omega)]
    · have h1 : v / top = 1 := Nat.div_eq_of_lt_le (by omega) (by omega)
      simp [h1, show v + top = v - top + top * 2 by omega, Nat.mod_eq_of_lt (show v - top < top * 2 by omega)]

end

/-- With a NaN only `ne` holds. -/
theorem condElem_of_nan {t : Ty} {ftz : Bool} {x y : Nat} {o : Cond} (ho : o.forVcmp = true)
    (hn : decodeNum t (flushPat t ftz x) = .nan ∨ decodeNum t (flushPat t ftz y) = .nan) :
    condElem o t ftz x y = decide (o = .ne) := by
  rcases hn with hn | hn <;> cases o <;> simp [Cond.forVcmp, condElem, hn, Num.below] at *

/-! ### The operations -/

theorem State.ftz_eq_decide (s : State) : s.ftz = decide (s.me.regs.fmt.toNat / 8 % 2 = 1) := by
  rw [State.ftz, fmtFtz, bit, Nat.shiftRight_eq_div_pow]

/-- Element `e` of a source as a float operation reads it: its pattern, flushed. -/
def State.flushedPat (s : State) (ty : Ty) (ftz : Bool) (q : Src) (e : Nat) : Nat :=
  flushPat ty ftz (lineElem ty.bits (s.me.src ty.bits q) e)

/-- The value of that element. -/
def State.flushedNum (s : State) (ty : Ty) (ftz : Bool) (q : Src) (e : Nat) : Num := decodeNum ty (s.flushedPat ty ftz q e)

section
variable {s : State} {p : Pred} {w : Bool} {ty : Ty} {d : LineRef} {a b c : Src} (hp : s.me.holds p = true) (hF : ty.isF = true)
  {ftz : Bool} (hftz : s.ftz = ftz)
include hp hF

/-- An operation that picks one of two patterns: which it may be, and that neither comes before it. -/
theorem State.schedulesV_pick {i : Instr} {eff : State → State} {before : Num → Num → Bool} (o : Num.Ordered before)
    (hi : exec i s = always s p eff) (he : eff s = s.vmap2 w 2 ty d a b (pickElem ty ftz before)) :
    s.schedulesV i w 2 d (fun v => ∀ e, e < ty.elems →
      (s.flushedNum ty ftz a e = .nan ∨ s.flushedNum ty ftz b e = .nan → lineElem ty.bits v e = ty.nan) ∧
      (s.flushedNum ty ftz a e ≠ .nan → s.flushedNum ty ftz b e ≠ .nan →
        lineElem ty.bits v e = s.flushedPat ty ftz a e ∨ lineElem ty.bits v e = s.flushedPat ty ftz b e)) ∧
    s.schedulesV i w 2 d (fun v => ∀ e, e < ty.elems → s.flushedNum ty ftz a e ≠ .nan → s.flushedNum ty ftz b e ≠ .nan →
      before (s.flushedNum ty ftz a e) (decodeNum ty (lineElem ty.bits v e)) = false ∧
      before (s.flushedNum ty ftz b e) (decodeNum ty (lineElem ty.bits v e)) = false) := by
  have hlt (e : Nat) : pickElem ty ftz before (lineElem ty.bits (s.me.src ty.bits a) e) (lineElem ty.bits (s.me.src ty.bits b) e) <
    2 ^ ty.bits := pickElem_lt hF (lineElem_lt _ _ _) (lineElem_lt _ _ _)
  constructor
  · exact State.schedulesV_vline hp hi he (fun e _ => hlt e) fun v e _ hv => hv ▸ ⟨pickElem_of_nan, pickElem_mem⟩
  · exact State.schedulesV_vline hp hi he (fun e _ => hlt e) fun v e _ hv ha hb => hv ▸ pickElem_first ha hb o

include hftz

theorem vabs_schedules_of_isF : s.schedulesV (.vabs p w ty d a) w 2 d (fun v => ∀ e, e < ty.elems →
    (s.flushedNum ty ftz a e = .nan → lineElem ty.bits v e = ty.nan) ∧
    (s.flushedNum ty ftz a e ≠ .nan → lineElem ty.bits v e = s.flushedPat ty ftz a e % 2 ^ (ty.bits - 1))) := by
  subst hftz
  refine State.schedulesV_vline hp rfl rfl (fun e _ => ?_) fun v e _ hv => ?_
  · rw [absElem_of_isF hF]
    exact iteInduction (motive := (· < _)) (fun _ => nanCode_lt (isFloat_of_isF hF))
      fun _ => (Nat.mod_le _ _).trans_lt (flushPat_lt _ (lineElem_lt _ _ _))
  · rw [absElem_of_isF hF] at hv
    exact ⟨fun h => hv.trans (if_pos h), fun h => hv.trans (if_neg h)⟩

theorem vneg_schedules_of_isF : s.schedulesV (.vneg p w ty d a) w 2 d (fun v => ∀ e, e < ty.elems →
    (s.flushedNum ty ftz a e = .nan → lineElem ty.bits v e = ty.nan) ∧
    (s.flushedNum ty ftz a e ≠ .nan → lineElem ty.bits v e = (s.flushedPat ty ftz a e + 2 ^ (ty.bits - 1)) % 2 ^ ty.bits)) := by
  subst hftz
  refine State.schedulesV_vline hp rfl rfl (fun e _ => ?_) fun v e _ hv => ?_
  · rw [negElem_of_isF hF _ (lineElem_lt _ _ _)]
    exact iteInduction (motive := (· < _)) (fun _ => nanCode_lt (isFloat_of_isF hF)) fun _ => Nat.mod_lt _ (Nat.two_pow_pos _)
  · rw [negElem_of_isF hF _ (lineElem_lt _ _ _)] at hv
    exact ⟨fun h => hv.trans (if_pos h), fun h => hv.trans (if_neg h)⟩

theorem vclamp_schedules_of_isF : s.schedulesV (.vclamp p w ty d a b c) w 2 d (fun v => ∀ e, e < ty.elems →
    (s.flushedNum ty ftz a e = .nan ∨ s.flushedNum ty ftz b e = .nan ∨ s.flushedNum ty ftz c e = .nan → lineElem ty.bits v e = ty.nan) ∧
    (s.flushedNum ty ftz a e ≠ .nan → s.flushedNum ty ftz b e ≠ .nan → s.flushedNum ty ftz c e ≠ .nan →
      lineElem ty.bits v e = s.flushedPat ty ftz a e ∨ lineElem ty.bits v e = s.flushedPat ty ftz b e ∨
      lineElem ty.bits v e = s.flushedPat ty ftz c e)) := by
  subst hftz
  refine State.schedulesV_vline hp rfl rfl (fun e _ => ?_) fun v e _ hv => ?_
  · rw [minElem_of_isF hF, maxElem_of_isF hF]
    exact pickElem_lt hF (pickElem_lt hF (lineElem_lt _ _ _) (lineElem_lt _ _ _)) (lineElem_lt _ _ _)
  · rw [minElem_of_isF hF, maxElem_of_isF hF] at hv
    exact hv ▸ clampPick_spec hF

theorem vcmp_schedules_of_isF {o : Cond} (ho : o.forVcmp = true) :
    s.schedulesV (.vcmp p w ty o d a b) w 2 d (fun v => ∀ e, e < ty.elems →
    (lineElem ty.bits v e = 0 ∨ lineElem ty.bits v e = 2 ^ ty.bits - 1) ∧
    (s.flushedNum ty ftz a e = .nan ∨ s.flushedNum ty ftz b e = .nan → (lineElem ty.bits v e = 0 ↔ o ≠ .ne))) := by
  subst hftz
  have hone : 1 < 2 ^ ty.bits := Nat.one_lt_two_pow (by cases ty <;> decide)
  refine State.schedulesV_vline hp rfl rfl (fun e _ => ?_) fun v e _ hv => ?_
  · exact iteInduction (motive := (· < _)) (fun _ => by omega) fun _ => by omega
  · rw [show lineElem ty.bits v e = if condElem o ty s.ftz _ _ then 2 ^ ty.bits - 1 else 0 from hv]
    refine ⟨by split <;> simp, fun hn => ?_⟩
    rw [condElem_of_nan ho hn]
    by_cases h : o = .ne
    · simp [h]
      omega
    · simp [h]

end

/-- Settles O26: minimum, maximum and clamp pick the pattern that comes first, and the sign is the top bit of a pattern. -/
theorem vectorFloatSelectionKeepsPatterns : Obligations.VectorFloatSelectionKeepsPatterns := by
  unfold Obligations.VectorFloatSelectionKeepsPatterns
  intro s p w ty d a b c hp hF ftz pat num top each one
  have hftz : s.ftz = decide ftz := s.ftz_eq_decide
  have hmin : minElem ty s.ftz = pickElem ty (decide ftz) Num.lt := by rw [minElem_of_isF hF, hftz]
  have hmax : maxElem ty s.ftz = pickElem ty (decide ftz) (fun a b => b.lt a) := by rw [maxElem_of_isF hF, hftz]
  obtain ⟨min_one, min_first⟩ := State.schedulesV_pick (i := .vmin p w ty d a b) hp hF Num.lt_ordered rfl
    (congrArg (s.vmap2 w 2 ty d a b) hmin)
  obtain ⟨max_one, max_first⟩ := State.schedulesV_pick (i := .vmax p w ty d a b) hp hF Num.lt_ordered.swap rfl
    (congrArg (s.vmap2 w 2 ty d a b) hmax)
  exact ⟨min_one, max_one, min_first, max_first, vabs_schedules_of_isF hp hF hftz, vneg_schedules_of_isF hp hF hftz,
    vclamp_schedules_of_isF hp hF hftz, fun o ho => vcmp_schedules_of_isF hp hF hftz ho⟩

end Sys2Proof.Machine
end

section
/-! PROOFS. Conversions, q8 blocks and LNS6 arithmetic (R78, R83 to R88, R94, R252 to R255): elements, and the line of a packed block. -/

namespace Sys2Proof.Machine

/-! ### Codes fit their type (R77, R83, R94) -/

theorem sign_shiftLeft_le (s : Bool) : b2n s <<< 5 ≤ 32 := by cases s <;> decide

theorem toLn6_lt (x : Num) : toLn6 x < 2 ^ 8 := by
  cases x with
  | nan => decide
  | inf s =>
    have := sign_shiftLeft_le s
    rw [toLn6]
    omega
  | fin s n e =>
    have := sign_shiftLeft_le s
    have := wrap_lt 5 (ln6Search n e (-16) 31)
    rw [toLn6]
    omega

theorem ln6Mul_lt (a b : Nat) : ln6Mul a b < 2 ^ 8 := by
  have := sign_shiftLeft_le (bit a 5 != bit b 5)
  have := wrap_lt 5 (lnQ a + lnQ b)
  unfold ln6Mul
  dsimp only
  split_ifs <;> omega

theorem ln6Add_lt (x y : Num) : ln6Add x y < 2 ^ 8 := by
  unfold ln6Add
  split
  · split <;> decide
  · exact toLn6_lt _

/-- A converted element is a pattern of its new type. -/
theorem conv_lt (r : Rnd) (t : Ty) (i : Nat) (x : Num) : r.conv t i x < 2 ^ t.bits := by
  cases t with
  | ln6 => exact toLn6_lt x
  | f32 | f16 | bf16 | f8e4 | f8e5 => exact float_lt rfl r i x false
  | i8 | i16 | i32 | n8 | n16 | n32 =>
    cases x with
    | nan => exact Nat.two_pow_pos _
    | inf | fin => exact wrap_lt _ _

theorem convElem_lt (r : Rnd) (t u : Ty) (i v : Nat) : r.convElem t u i v < 2 ^ u.bits := by
  unfold Rnd.convElem
  split
  · exact wrap_lt _ _
  · exact conv_lt _ _ _ _

theorem q8Scale_lt (xs : List Num) (sgn ftz : Bool) : q8Scale xs sgn ftz < 2 ^ 32 := by
  unfold q8Scale
  split
  · decide
  · exact (flushPat_le _ _ _).trans_lt (float_lt (t := .f32) rfl _ _ _ _)

theorem q8Code_lt (scale : Nat) (sgn : Bool) (x : Num) : q8Code scale sgn x < 2 ^ 8 := by
  unfold q8Code
  split
  · decide
  · split
    · dsimp only
      split <;> exact wrap_lt _ _
    · decide
  · decide

/-! ### Conversion (R252) -/

theorem convRounds_iff (t u : Ty) : convRounds t u = true ↔ u ≠ .ln6 ∧ ¬(t.isI = true ∧ u.isI = true) := by
  cases ht : t.isI <;> cases hu : u.isI <;> simp [convRounds, ht, hu]

section
variable (r : Rnd) (t u : Ty) (k : Nat) (x : Line) {e : Nat} (he : e < u.elems)
include he

/-- Between types of one count every element is converted; into a smaller type the elements fill part `k` of the line, and from a smaller
type part `k` is read. -/
theorem lineElem_vcvtLine :
    (t.elems = u.elems → lineElem u.bits (vcvtLine r t u k x) e = r.convElem t u e (lineElem t.bits x e)) ∧
    (t.elems < u.elems →
      (e / t.elems = k → lineElem u.bits (vcvtLine r t u k x) e = r.convElem t u e (lineElem t.bits x (e % t.elems))) ∧
      (e / t.elems ≠ k → lineElem u.bits (vcvtLine r t u k x) e = 0)) ∧
    (u.elems < t.elems → lineElem u.bits (vcvtLine r t u k x) e = r.convElem t u e (lineElem t.bits x (k * u.elems + e))) := by
  have hpos : 0 < t.elems := by cases t <;> decide
  have hpart : k * t.elems ≤ e ∧ e < (k + 1) * t.elems ↔ e / t.elems = k := by
    rw [Nat.div_eq_iff hpos, Nat.add_mul, Nat.one_mul]
    omega
  have hmod (y : Nat) : r.convElem t u e y % 2 ^ u.bits = r.convElem t u e y := Nat.mod_eq_of_lt (convElem_lt _ _ _ _ _)
  rw [vcvtLine, lineElem_vline _ _ _ he]
  refine ⟨fun h => ?_, fun h => ⟨fun hk => ?_, fun hk => ?_⟩, fun h => ?_⟩
  · rw [if_pos h.symm, hmod]
  · rw [if_neg h.ne', if_pos h, if_pos (hpart.mpr hk), hmod, Nat.mod_eq_sub_mul_div, hk, Nat.mul_comm]
  · rw [if_neg h.ne', if_pos h, if_neg (mt hpart.mp hk), Nat.zero_mod]
  · rw [if_neg h.ne, if_neg (by omega), hmod]

end

/-! ### The line of a q8 block (R254) -/

/-- The bytes of a list are the fields of its number. -/
theorem ofBytes_map_range (f : Nat → Nat) (n : Nat) : ofBytes ((List.range n).map (fun e => BitVec.ofNat 8 (f e))) = packed 8 f n := by
  induction n with
  | zero => rfl
  | succ n ih =>
    rw [List.range_succ, List.map_append, ofBytes_append, ih, packed_succ, List.length_map, List.length_range]
    simp [ofBytes, Nat.mul_comm]

theorem ofBytes_toBytes (n v : Nat) : ofBytes (toBytes n v) = v % 2 ^ (8 * n) := by
  induction n generalizing v with
  | zero => simp [toBytes, ofBytes, Nat.mod_one]
  | succ n ih =>
    rw [toBytes, ofBytes, ih, BitVec.toNat_ofNat, Nat.shiftRight_eq_div_pow, Nat.mul_succ, Nat.pow_add, Nat.mul_comm (2 ^ (8 * n)),
      Nat.mod_mul]

@[simp] theorem toBytes_length (n v : Nat) : (toBytes n v).length = n := by
  induction n generalizing v with
  | zero => rfl
  | succ n ih => simp [toBytes, ih]

theorem ofBytes_words_range (f : Nat → Nat) (n : Nat) : ofBytes ((List.range n).flatMap (fun j => toBytes 4 (f j))) = packed 32 f n := by
  induction n with
  | zero => rfl
  | succ n ih =>
    rw [List.range_succ, List.flatMap_append, ofBytes_append, ih, packed_succ, List.flatMap_singleton, ofBytes_toBytes]
    simp [List.length_flatMap]
    ring_nf

/-- A list numbered from 0 on. -/
theorem number_map_range {α : Type} (f : Nat → α) (n : Nat) : number 0 ((List.range n).map f) = (List.range n).map (fun e => (e, f e)) := by
  have from_ (i : Nat) : number i ((List.range' i n).map f) = (List.range' i n).map (fun e => (e, f e)) := by
    induction n generalizing i with
    | zero => rfl
    | succ n ih => simp [List.range'_succ, number, ih]
  rw [List.range_eq_range', from_]

theorem field_add_mul_pow_low (lo hi : Nat) {m k b : Nat} (h : k + b ≤ m) : (lo + hi * 2 ^ m) / 2 ^ k % 2 ^ b = lo / 2 ^ k % 2 ^ b := by
  obtain ⟨r, rfl⟩ := Nat.exists_eq_add_of_le h
  rw [show hi * 2 ^ (k + b + r) = hi * 2 ^ r * 2 ^ b * 2 ^ k by ring, Nat.add_mul_div_right _ _ (Nat.two_pow_pos k),
    Nat.add_mul_mod_self_right]

theorem field_add_mul_pow_high {lo m : Nat} (hi : Nat) {k : Nat} (hlo : lo < 2 ^ m) (h : m ≤ k) :
    (lo + hi * 2 ^ m) / 2 ^ k = hi / 2 ^ (k - m) := by
  obtain ⟨r, rfl⟩ := Nat.exists_eq_add_of_le h
  rw [Nat.add_sub_cancel_left, Nat.pow_add, ← Nat.div_div_eq_div_mul, Nat.add_mul_div_right _ _ (Nat.two_pow_pos m),
    Nat.div_eq_of_lt hlo, Nat.zero_add]

theorem halves_lt {lo hi m : Nat} (hlo : lo < 2 ^ m) (hhi : hi < 2 ^ m) : lo + hi * 2 ^ m < 2 ^ (m + m) := by
  rw [Nat.pow_add]
  generalize 2 ^ m = k at *
  nlinarith

/-- A line put together of two halves. -/
theorem lineElem_halves {lo hi : Nat} (hlo : lo < 2 ^ 1024) (hhi : hi < 2 ^ 1024) (b e : Nat) :
    (b * e + b ≤ 1024 → lineElem b (BitVec.ofNat 2048 (lo + hi <<< 1024)) e = lo / 2 ^ (b * e) % 2 ^ b) ∧
    (1024 ≤ b * e → lineElem b (BitVec.ofNat 2048 (lo + hi <<< 1024)) e = hi / 2 ^ (b * e - 1024) % 2 ^ b) := by
  have hlt : lo + hi * 2 ^ 1024 < 2 ^ 2048 := halves_lt hlo hhi
  rw [lineElem, bits_eq_div_mod, BitVec.toNat_ofNat, Nat.shiftLeft_eq, Nat.mod_eq_of_lt hlt]
  exact ⟨fun h => field_add_mul_pow_low lo hi h, fun h => by rw [field_add_mul_pow_high hi hlo h]⟩

theorem packed_field_beyond (b : Nat) (f : Nat → Nat) {n k : Nat} (h : b * n ≤ k) : packed b f n / 2 ^ k % 2 ^ b = 0 := by
  rw [Nat.div_eq_of_lt ((packed_lt b f n).trans_le (Nat.pow_le_pow_right (by decide) h)), Nat.zero_mod]

section
variable (t : Ty) (ftz sgn : Bool) (x : Line)

/-- The scale of block `j` of a line (R94). -/
def blockScale (j : Nat) : Nat := q8Scale ((List.range 64).map (fun i => elemNum t ftz x (64 * j + i))) sgn ftz

/-- The code of element `e` of a line (R94). -/
def blockCode (e : Nat) : Nat := q8Code (blockScale t ftz sgn x (e / 64)) sgn (elemNum t ftz x e)

theorem lineNums_block {j : Nat} (hj : j < t.elems / 64) : ((lineNums t ftz x).drop (64 * j)).take 64 =
    (List.range 64).map (fun i => elemNum t ftz x (64 * j + i)) := by
  refine List.ext_getElem ?_ fun i h1 h2 => ?_
  · simp [lineNums]
    omega
  · simp [lineNums]

theorem vq8Line_eq : vq8Line t ftz sgn x = BitVec.ofNat 2048 (packed 8 (blockCode t ftz sgn x) t.elems +
    packed 32 (blockScale t ftz sgn x) (t.elems / 64) <<< 1024) := by
  have hscales : (List.range (t.elems / 64)).map (fun k => q8Scale (((lineNums t ftz x).drop (64 * k)).take 64) sgn ftz) =
      (List.range (t.elems / 64)).map (blockScale t ftz sgn x) :=
    List.map_congr_left fun j hj => by rw [lineNums_block _ _ _ (List.mem_range.mp hj), blockScale]
  have hdiv : 64 * (t.elems / 64) = t.elems := by cases t <;> rfl
  have hcodes : (number 0 (lineNums t ftz x)).map (fun p =>
      q8Code (((List.range (t.elems / 64)).map (blockScale t ftz sgn x)).getD (p.1 / 64) 0) sgn p.2) =
      (List.range t.elems).map (blockCode t ftz sgn x) := by
    rw [lineNums, number_map_range, List.map_map]
    refine List.map_congr_left fun e he => ?_
    have : e / 64 < t.elems / 64 := by
      have := List.mem_range.mp he
      omega
    simp [this, blockCode]
  unfold vq8Line
  dsimp only
  rw [hscales, hcodes, List.map_map, List.flatMap_map, ← ofBytes_map_range, ← ofBytes_words_range]
  rfl

variable (ht : t.elems ≤ 128)
include ht

/-- Codes byte by byte from the start, scales from word 32 on, zeros elsewhere. -/
theorem lineElem_vq8Line :
    (∀ e, e < t.elems → lineElem 8 (vq8Line t ftz sgn x) e = blockCode t ftz sgn x e) ∧
    (∀ j, j < t.elems / 64 → lineElem 32 (vq8Line t ftz sgn x) (32 + j) = blockScale t ftz sgn x j) ∧
    (∀ j, 16 * (t.elems / 64) ≤ j → j < 64 → ¬(32 ≤ j ∧ j < 32 + t.elems / 64) → lineElem 32 (vq8Line t ftz sgn x) j = 0) := by
  have hdiv : 64 * (t.elems / 64) = t.elems := by cases t <;> rfl
  have hlo : packed 8 (blockCode t ftz sgn x) t.elems < 2 ^ 1024 :=
    (packed_lt _ _ _).trans_le (Nat.pow_le_pow_right (by decide) (by omega))
  have hhi : packed 32 (blockScale t ftz sgn x) (t.elems / 64) < 2 ^ 1024 :=
    (packed_lt _ _ _).trans_le (Nat.pow_le_pow_right (by decide) (by omega))
  have elem (b e : Nat) := lineElem_halves hlo hhi b e
  rw [vq8Line_eq]
  refine ⟨fun e he => ?_, fun j hj => ?_, fun j hj _ hout => ?_⟩
  · rw [(elem 8 e).1 (by omega), packed_field _ _ _ _ he]
    exact Nat.mod_eq_of_lt (q8Code_lt _ _ _)
  · rw [(elem 32 (32 + j)).2 (by omega), show 32 * (32 + j) - 1024 = 32 * j by omega, packed_field _ _ _ _ hj]
    exact Nat.mod_eq_of_lt (q8Scale_lt _ _ _)
  · by_cases h : j < 32
    · rw [(elem 32 j).1 (by omega), Nat.div_eq_of_lt, Nat.zero_mod]
      exact (packed_lt _ _ _).trans_le (Nat.pow_le_pow_right (by decide) (by omega))
    · rw [(elem 32 j).2 (by omega), packed_field_beyond _ _ (by omega)]

end

/-! ### Decoding a q8 block, and LNS6 (R247, R255) -/

/-- The value of a code of a q8 block, before its scale. -/
def codeValue (sgn : Bool) (c : Nat) : Num := if sgn then .fin (decide (128 ≤ c)) (signed 8 c).natAbs 0 else .fin false c 0

section
variable {s : State} {p : Pred} {w : Bool} {ty : Ty} {d : LineRef} {a b : Src} (hp : s.me.holds p = true)
include hp

theorem vdq8_schedules (sg : Bool) (ht : ty.isFloat = true) : s.schedulesV (.vdq8 p w ty d a b sg) w 3 d (fun v => ∀ e, e < ty.elems →
    (f32 (flushPat .f32 s.ftz (lineElem 32 (s.me.src ty.bits b) (32 + e / 64))) = .nan → lineElem ty.bits v e = ty.nan) ∧
    lineElem ty.bits v e = ({ Rnd.ne with ftz := s.ftz } : Rnd).float ty e ((codeValue sg (lineElem 8 (s.me.src ty.bits a) e)).mul
      (f32 (flushPat .f32 s.ftz (lineElem 32 (s.me.src ty.bits b) (32 + e / 64))))) false) := by
  refine State.schedulesV_vline hp rfl rfl (fun e _ => float_lt ht _ _ _ _) fun v e _ hv => ⟨fun hq => ?_, hv⟩
  refine hv.trans ?_
  rw [hq, Num.mul_nan]
  rfl

theorem ln6_schedules {i : Instr} {eff : State → State} {lat : Nat} {f : Nat → Nat} (hi : exec i s = always s p eff)
    (he : eff s = s.vresult w lat d (vline .ln6 f)) (hf : ∀ e, f e < 2 ^ 8) :
    s.schedulesV i w lat d (fun v => ∀ e, e < 256 → lineElem 8 v e = f e) :=
  State.schedulesV_vline (t := .ln6) hp hi he (fun e _ => hf e) fun _ _ _ hv => hv

end

end Sys2Proof.Machine
end

section
/-! PROOFS. Reductions (R96 to R100, R260, R261): the tree of additions, the element that comes first, the greatest magnitude. -/

namespace Sys2Proof.Machine

/-! ### The tree of pairwise additions (R96) -/

section
variable (f : Nat → Nat → Nat)

theorem treeLevel_map_range (x : Nat → Nat) (n : Nat) :
    treeLevel f ((List.range (2 * n)).map x) = (List.range n).map (fun i => f (x (2 * i)) (x (2 * i + 1))) := by
  induction n generalizing x with
  | zero => rfl
  | succ n ih =>
    have hx := ih (fun i => x (i + 2))
    rw [Nat.mul_succ, List.range_succ_eq_map, List.range_succ_eq_map, List.range_succ_eq_map (n := n)]
    simp only [List.map_cons, List.map_map, treeLevel] at hx ⊢
    exact congrArg _ hx

/-- A tree over the nodes of its first level has one level more. -/
theorem pairTree_first_level (x : Nat → Nat) (k i : Nat) :
    pairTree f (fun i => f (x (2 * i)) (x (2 * i + 1))) k i = pairTree f x (k + 1) i := by
  induction k generalizing i with
  | zero => rfl
  | succ k ih => exact congrArg₂ f (ih _) (ih _)

theorem treeSum_succ (xs : List Nat) (fuel : Nat) (h : 2 ≤ xs.length) : treeSum f xs (fuel + 1) = treeSum f (treeLevel f xs) fuel := by
  match xs, h with
  | _ :: _ :: _, _ => rfl

/-- The levels of a list of 2^k terms are the tree over them. -/
theorem treeSum_map_range (x : Nat → Nat) {k fuel : Nat} (h : k < fuel) :
    treeSum f ((List.range (2 ^ k)).map x) fuel = pairTree f x k 0 := by
  induction k generalizing x fuel with
  | zero =>
    obtain ⟨m, rfl⟩ := Nat.exists_eq_add_of_lt h
    rfl
  | succ k ih =>
    obtain ⟨m, rfl⟩ : ∃ m, fuel = m + 1 := ⟨fuel - 1, by omega⟩
    have hlen : 2 ≤ ((List.range (2 ^ (k + 1))).map x).length := by
      simpa using Nat.le_self_pow (Nat.succ_ne_zero k) 2
    rw [treeSum_succ f _ _ hlen, ← pairTree_first_level, ← ih _ (show k < m by omega), ← treeLevel_map_range, Nat.pow_succ, Nat.mul_comm]

end

theorem pairTree_sum (m : Nat) (x : Nat → Nat) (k i : Nat) (h : ∀ i, x i < m) :
    pairTree (fun a b => (a + b) % m) x k i = ((List.range (2 ^ k)).map (fun j => x (2 ^ k * i + j))).sum % m := by
  induction k generalizing i with
  | zero => simp [pairTree, Nat.mod_eq_of_lt (h i)]
  | succ k ih =>
    have hleft (j : Nat) : 2 ^ (k + 1) * i + j = 2 ^ k * (2 * i) + j := by ring
    have hright (j : Nat) : 2 ^ k * (2 * i) + (2 ^ k + j) = 2 ^ k * (2 * i + 1) + j := by ring
    rw [pairTree, ih, ih, ← Nat.add_mod, show 2 ^ (k + 1) = 2 ^ k + 2 ^ k by ring, List.range_add, List.map_append, List.sum_append,
      List.map_map, Function.comp_def]
    simp only [← Nat.mul_two, ← Nat.pow_succ, hleft, hright]

theorem pairTree_lt {f : Nat → Nat → Nat} {m : Nat} (hf : ∀ a b, f a b < m) (x : Nat → Nat) {k : Nat} (hk : 0 < k) (i : Nat) :
    pairTree f x k i < m := by
  obtain ⟨k, rfl⟩ : ∃ j, k = j + 1 := ⟨k - 1, by omega⟩
  exact hf _ _

/-- The number of levels of the tree over a line's elements (R96, R237). -/
def treeLevels (t : Ty) : Nat := if t.bits = 32 then 6 else if t.bits = 16 then 7 else 8

theorem two_pow_treeLevels (t : Ty) : 2 ^ treeLevels t = t.elems := by cases t <;> rfl

theorem treeLevels_bounds (t : Ty) : 0 < treeLevels t ∧ treeLevels t < 9 := by cases t <;> decide

theorem redAdd_lt (t : Ty) (r : Rnd) (a b : Nat) : redAdd t r a b < 2 ^ t.bits := by
  unfold redAdd
  split
  next h => exact float_lt (isFloat_of_isF h) _ _ _ _
  · exact Nat.mod_lt _ (Nat.two_pow_pos _)

/-- VREDSUM's sum over a line is a tree over its elements. -/
theorem treeSum_linePats (t : Ty) (r : Rnd) (g : Nat → Nat) (l : Line) :
    treeSum (redAdd t r) ((linePats t l).map g) 9 = pairTree (redAdd t r) (fun e => g (lineElem t.bits l e)) (treeLevels t) 0 := by
  rw [linePats, ← two_pow_treeLevels, List.map_map, treeSum_map_range _ _ (treeLevels_bounds t).2]
  rfl

theorem redAdd_of_isI {t : Ty} (h : t.isI = true) (r : Rnd) : redAdd t r = fun a b => (a + b) % 2 ^ t.bits :=
  funext fun a => funext fun b => by rw [redAdd, isF_of_isI h, if_neg (by decide)]

/-- Integers are added modulo 2^b (R97). -/
theorem treeSum_linePats_int {t : Ty} (h : t.isI = true) (r : Rnd) (ftz : Bool) (l : Line) :
    treeSum (redAdd t r) ((linePats t l).map (flushPat t ftz)) 9 = ((List.range t.elems).map (lineElem t.bits l)).sum % 2 ^ t.bits := by
  have hflush (x : Nat) := flushPat_of_not_isFloat (isFloat_of_isI h) ftz x
  rw [treeSum_linePats, redAdd_of_isI h]
  simp only [hflush]
  rw [pairTree_sum _ _ _ _ fun _ => lineElem_lt _ _ _, two_pow_treeLevels]
  simp

/-! ### The element that comes first (R249, R260) -/

section
variable {f : Nat → Nat → Nat} {g : Nat → Nat} {good : Nat → Prop} {R : Nat → Nat → Prop}

/-- A function that chooses one of two patterns, as `g` reads them, and by `R` not the worse, chooses from a list one that is not worse
than any. -/
theorem foldl_chooses (hrefl : ∀ u, R u u) (htrans : ∀ u v w, good v → R u v → R v w → R u w)
    (hf : ∀ x y, good (g x) → good (g y) → (g (f x y) = g x ∨ g (f x y) = g y) ∧ R (g x) (g (f x y)) ∧ R (g y) (g (f x y)))
    (xs : List Nat) (acc : Nat) (hgood : ∀ x ∈ acc :: xs, good (g x)) :
    (∃ x ∈ acc :: xs, g (xs.foldl f acc) = g x) ∧ ∀ x ∈ acc :: xs, R (g x) (g (xs.foldl f acc)) := by
  induction xs generalizing acc with
  | nil => simp [hrefl]
  | cons y xs ih =>
    obtain ⟨hacc, hy, hxs⟩ : good (g acc) ∧ good (g y) ∧ ∀ x ∈ xs, good (g x) := by simpa using hgood
    obtain ⟨hmem, haccR, hyR⟩ := hf acc y hacc hy
    have hgood' : good (g (f acc y)) := by rcases hmem with h | h <;> rwa [h]
    obtain ⟨⟨x, hx, hxe⟩, hall⟩ := ih (f acc y) (by simpa [hgood'] using hxs)
    have hfirst := hall (f acc y) (by simp)
    refine ⟨?_, ?_⟩
    · rcases List.mem_cons.mp hx with rfl | hx
      · rcases hmem with h | h
        · exact ⟨acc, by simp, hxe.trans h⟩
        · exact ⟨y, by simp, hxe.trans h⟩
      · exact ⟨x, by simp [hx], hxe⟩
    · intro z hz
      rcases List.mem_cons.mp hz with rfl | hz
      · exact htrans _ _ _ hgood' haccR hfirst
      rcases List.mem_cons.mp hz with rfl | hz
      · exact htrans _ _ _ hgood' hyR hfirst
      · exact hall z (by simp [hz])

end

section
variable {t : Ty} (hF : t.isF = true) (ftz : Bool) (before : Num → Num → Bool)
include hF

/-- The canonical NaN stays. -/
theorem foldl_pickElem_nan (xs : List Nat) : xs.foldl (pickElem t ftz before) t.nan = t.nan := by
  induction xs with
  | nil => rfl
  | cons x xs ih =>
    rw [List.foldl_cons, pickElem_of_nan (.inl (by rw [flushPat_nan hF, decodeNum_nan hF])), ih]

/-- A NaN among the elements makes the result the canonical NaN (R249). -/
theorem foldl_pickElem_of_nan_mem (xs : List Nat) (acc : Nat) (hne : xs ≠ [])
    (h : ∃ x ∈ acc :: xs, decodeNum t (flushPat t ftz x) = .nan) :
    xs.foldl (pickElem t ftz before) acc = t.nan := by
  obtain ⟨y, ys, rfl⟩ := List.exists_cons_of_ne_nil hne
  induction ys generalizing acc y with
  | nil => exact pickElem_of_nan (by simpa using h)
  | cons z zs ih =>
    by_cases hn : decodeNum t (flushPat t ftz acc) = .nan ∨ decodeNum t (flushPat t ftz y) = .nan
    · rw [List.foldl_cons, pickElem_of_nan hn, foldl_pickElem_nan hF]
    · obtain ⟨x, hx, hxn⟩ := h
      have hx' : x ∈ z :: zs := by
        rcases List.mem_cons.mp hx with rfl | hx
        · exact absurd (.inl hxn) hn
        rcases List.mem_cons.mp hx with rfl | hx
        · exact absurd (.inr hxn) hn
        · exact hx
      exact ih _ z (by simp) ⟨x, List.mem_cons_of_mem _ hx', hxn⟩

theorem flushPat_foldl_pickElem (xs : List Nat) (acc : Nat) (hne : xs ≠ []) :
    flushPat t ftz (xs.foldl (pickElem t ftz before) acc) = xs.foldl (pickElem t ftz before) acc := by
  obtain ⟨y, ys, rfl⟩ := List.exists_cons_of_ne_nil hne
  induction ys generalizing acc y with
  | nil => exact flushPat_pickElem hF
  | cons z zs ih => exact ih (pickElem t ftz before acc y) z (by simp)

end

/-! ### Folds over the elements of a line (R260) -/

section
variable {t : Ty} {l : Line}

theorem two_le_elems (t : Ty) : 2 ≤ t.elems := by cases t <;> decide

theorem mem_linePats {x : Nat} : x ∈ linePats t l ↔ ∃ e, e < t.elems ∧ lineElem t.bits l e = x := by simp [linePats]

/-- A line has a first element, and others. -/
theorem linePats_eq_cons : ∃ x xs, linePats t l = x :: xs ∧ xs ≠ [] := by
  have hlen : (linePats t l).length = t.elems := by simp [linePats]
  have := two_le_elems t
  match h : linePats t l with
  | [] => simp [h] at hlen; omega
  | [x] => simp [h] at hlen; omega
  | x :: y :: r => exact ⟨x, y :: r, rfl, by simp⟩

section
variable (hF : t.isF = true) {ftz : Bool} {before : Num → Num → Bool}
include hF

theorem foldPats_pickElem_of_nan (h : ∃ e, e < t.elems ∧ elemNum t ftz l e = .nan) :
    foldPats (pickElem t ftz before) (linePats t l) = t.nan := by
  obtain ⟨x, xs, hxs, hne⟩ := linePats_eq_cons (t := t) (l := l)
  obtain ⟨e, he, hn⟩ := h
  have hmem : lineElem t.bits l e ∈ x :: xs := hxs ▸ mem_linePats.mpr ⟨e, he, rfl⟩
  rw [hxs]
  exact foldl_pickElem_of_nan_mem hF ftz before xs x hne ⟨_, hmem, hn⟩

/-- Without a NaN the result is an element, flushed, that no element comes before. -/
theorem foldPats_pickElem_first (o : Num.Ordered before) (h : ∀ e, e < t.elems → elemNum t ftz l e ≠ .nan) :
    (∃ e, e < t.elems ∧ foldPats (pickElem t ftz before) (linePats t l) = flushPat t ftz (lineElem t.bits l e)) ∧
    ∀ e, e < t.elems → before (elemNum t ftz l e) (decodeNum t (foldPats (pickElem t ftz before) (linePats t l))) = false := by
  obtain ⟨x, xs, hxs, hne⟩ := linePats_eq_cons (t := t) (l := l)
  have hgood : ∀ y ∈ x :: xs, decodeNum t (flushPat t ftz y) ≠ .nan := by
    intro y hy
    obtain ⟨e, he, rfl⟩ := mem_linePats.mp (hxs ▸ hy)
    exact h e he
  obtain ⟨⟨y, hy, hmem⟩, hall⟩ := foldl_chooses (g := flushPat t ftz) (good := fun u => decodeNum t u ≠ .nan)
    (R := fun u v => before (decodeNum t u) (decodeNum t v) = false) (f := pickElem t ftz before)
    (fun u => o.irrefl _) (fun u v w hv => o.negTrans _ _ _ hv)
    (fun u v hu hv => by
      rw [flushPat_pickElem hF]
      exact ⟨pickElem_mem hu hv, pickElem_first hu hv o⟩) xs x hgood
  rw [flushPat_foldl_pickElem hF ftz before xs x hne] at hmem hall
  rw [hxs]
  obtain ⟨e, he, rfl⟩ := mem_linePats.mp (hxs ▸ hy)
  exact ⟨⟨e, he, hmem⟩, fun j hj => hall _ (hxs ▸ mem_linePats.mpr ⟨j, hj, rfl⟩)⟩

end

/-- Of integers the result is an element as far along the order `le` as any. -/
theorem foldPats_int {f : Nat → Nat → Nat} {le : Int → Int → Prop} (hrefl : ∀ u, le u u) (htrans : ∀ u v w, le u v → le v w → le u w)
    (hf : ∀ x y, (f x y = x ∨ f x y = y) ∧ le (patInt t x) (patInt t (f x y)) ∧ le (patInt t y) (patInt t (f x y))) :
    ∃ e, e < t.elems ∧ foldPats f (linePats t l) = lineElem t.bits l e ∧ ∀ j, j < t.elems → le (elemInt t l j) (elemInt t l e) := by
  obtain ⟨x, xs, hxs, -⟩ := linePats_eq_cons (t := t) (l := l)
  obtain ⟨⟨y, hy, hmem⟩, hall⟩ := foldl_chooses (g := id) (good := fun _ => True) (R := fun u v => le (patInt t u) (patInt t v)) (f := f)
    (fun u => hrefl _) (fun u v w _ => htrans _ _ _) (fun u v _ _ => hf u v) xs x (fun _ _ => trivial)
  obtain ⟨e, he, rfl⟩ := mem_linePats.mp (hxs ▸ hy)
  rw [hxs]
  refine ⟨e, he, hmem, fun j hj => ?_⟩
  have := hall _ (hxs ▸ mem_linePats.mpr ⟨j, hj, rfl⟩)
  rw [hmem] at this
  exact this

end

/-! ### The greatest magnitude (R98) -/

/-- The magnitude of a value, as an FP32 pattern. -/
def magPat (x : Num) : Nat := Rnd.ne.float .f32 0 x.abs false

theorem amax_append_singleton (xs : List Num) (x : Num) :
    amax (xs ++ [x]) = if x = .nan then amax xs else max (amax xs) (magPat x) := by
  rw [amax, List.foldl_append]
  cases x <;> simp [amax, magPat]

/-- The greatest magnitude of the values that are no NaN, or 0. -/
theorem amax_spec (xs : List Num) :
    (∀ x ∈ xs, x ≠ .nan → magPat x ≤ amax xs) ∧ (amax xs = 0 ∨ ∃ x ∈ xs, x ≠ .nan ∧ amax xs = magPat x) := by
  induction xs using List.reverseRecOn with
  | nil => exact ⟨by simp, .inl rfl⟩
  | append_singleton xs x ih =>
    obtain ⟨hle, hmem⟩ := ih
    rw [amax_append_singleton]
    by_cases hx : x = .nan
    · rw [if_pos hx]
      refine ⟨fun y hy hn => ?_, hmem.imp_right fun ⟨y, hy, h⟩ => ⟨y, by simp [hy], h⟩⟩
      rcases List.mem_append.mp hy with hy | hy
      · exact hle y hy hn
      · exact absurd ((List.mem_singleton.mp hy).trans hx) hn
    · rw [if_neg hx]
      constructor
      · intro y hy hn
        rcases List.mem_append.mp hy with hy | hy
        · exact (hle y hy hn).trans (le_max_left _ _)
        · rw [List.mem_singleton.mp hy]
          exact le_max_right _ _
      · rcases max_choice (amax xs) (magPat x) with h | h
        · rw [h]
          exact hmem.imp_right fun ⟨y, hy, h⟩ => ⟨y, by simp [hy], h⟩
        · exact .inr ⟨x, by simp, hx, h⟩

/-! ### The operations (R260, R261) -/

section
variable {s : State} {p : Pred} {w : Bool} {ty : Ty} {d : LineRef} {a : Src} (hp : s.me.holds p = true)
include hp

theorem State.schedulesV_reduce {i : Instr} {eff : State → State} {z : Nat} {P : Nat → Prop} (hi : exec i s = always s p eff)
    (he : eff s = s.vreduce w ty d z) (hz : z < 2 ^ ty.bits) (hP : P z) :
    s.schedulesV i w 6 d (fun v => ∃ z, P z ∧ ∀ e, e < ty.elems → lineElem ty.bits v e = z) :=
  State.schedulesV_of_always hp hi he ⟨z, hP, fun e h => (lineElem_vline ty _ e h).trans (Nat.mod_eq_of_lt hz)⟩

/-- VREDMAX and VREDMIN of class F (R249, R260). -/
theorem State.schedulesV_reducePick {i : Instr} {eff : State → State} {before : Num → Num → Bool} (hF : ty.isF = true)
    (o : Num.Ordered before) (hi : exec i s = always s p eff)
    (he : eff s = s.vreduce w ty d (foldPats (pickElem ty s.ftz before) (linePats ty (s.me.src ty.bits a)))) :
    ((∃ e, e < ty.elems ∧ s.flushedNum ty s.ftz a e = .nan) →
      s.schedulesV i w 6 d (fun v => ∃ z, z = ty.nan ∧ ∀ e, e < ty.elems → lineElem ty.bits v e = z)) ∧
    ((∀ e, e < ty.elems → s.flushedNum ty s.ftz a e ≠ .nan) →
      s.schedulesV i w 6 d (fun v => ∃ z, ((∃ e, e < ty.elems ∧ z = s.flushedPat ty s.ftz a e) ∧
        ∀ e, e < ty.elems → before (s.flushedNum ty s.ftz a e) (decodeNum ty z) = false) ∧
        ∀ e, e < ty.elems → lineElem ty.bits v e = z)) := by
  constructor
  · intro h
    have hz := foldPats_pickElem_of_nan (before := before) hF h
    exact State.schedulesV_reduce hp hi he (hz ▸ nanCode_lt (isFloat_of_isF hF)) hz
  · intro h
    have hz := foldPats_pickElem_first hF o h
    obtain ⟨e, -, hze⟩ := hz.1
    exact State.schedulesV_reduce hp hi he (hze ▸ flushPat_lt _ (lineElem_lt _ _ _)) hz

/-- VREDMAX and VREDMIN of class I. -/
theorem State.schedulesV_reduceInt {i : Instr} {eff : State → State} {f : Nat → Nat → Nat} {le : Int → Int → Prop}
    (hrefl : ∀ u, le u u) (htrans : ∀ u v w, le u v → le v w → le u w)
    (hf : ∀ x y, (f x y = x ∨ f x y = y) ∧ le (patInt ty x) (patInt ty (f x y)) ∧ le (patInt ty y) (patInt ty (f x y)))
    (hi : exec i s = always s p eff) (he : eff s = s.vreduce w ty d (foldPats f (linePats ty (s.me.src ty.bits a)))) :
    s.schedulesV i w 6 d (fun v => ∃ z, (∃ e, e < ty.elems ∧ z = lineElem ty.bits (s.me.src ty.bits a) e ∧
      ∀ j, j < ty.elems → le (elemInt ty (s.me.src ty.bits a) j) (elemInt ty (s.me.src ty.bits a) e)) ∧
      ∀ e, e < ty.elems → lineElem ty.bits v e = z) := by
  obtain ⟨e, he', hze, hle⟩ := foldPats_int (l := s.me.src ty.bits a) hrefl htrans hf
  exact State.schedulesV_reduce hp hi he (hze ▸ lineElem_lt _ _ _) ⟨e, he', hze, hle⟩

end

/-- The integer minimum and maximum choose one of their operands, as far along the order as either. -/
theorem minElem_chooses {t : Ty} (h : t.isI = true) (ftz : Bool) (x y : Nat) :
    (minElem t ftz x y = x ∨ minElem t ftz x y = y) ∧
    patInt t (minElem t ftz x y) ≤ patInt t x ∧ patInt t (minElem t ftz x y) ≤ patInt t y := by
  rw [minElem_of_isI h]
  split <;> simp <;> omega

theorem maxElem_chooses {t : Ty} (h : t.isI = true) (ftz : Bool) (x y : Nat) :
    (maxElem t ftz x y = x ∨ maxElem t ftz x y = y) ∧
    patInt t x ≤ patInt t (maxElem t ftz x y) ∧ patInt t y ≤ patInt t (maxElem t ftz x y) := by
  rw [maxElem_of_isI h]
  split <;> simp <;> omega

/-- Settles O27: conversions and LNS6 element by element, a q8 block by the halves of its line, the sum as a tree, the extremes by
choosing from the elements in turn. -/
theorem conversionsReductionsAndLogarithms : Obligations.ConversionsReductionsAndLogarithms := by
  unfold Obligations.ConversionsReductionsAndLogarithms
  intro s p w ty tx d a b k sg m hp r x y x8 y8 ne scale ln reduces conv el pat num tree add level extreme
  have q8_elems (h : ty = .f32 ∨ ty = .bf16) : ty.elems ≤ 128 := by rcases h with rfl | rfl <;> decide
  have q8_isFloat (h : ty = .f32 ∨ ty = .bf16) : ty.isFloat = true := by rcases h with rfl | rfl <;> rfl
  refine ⟨?_, ?_, ?_, ?_, ?_, ?_, ?_, ?_, ?_, ?_, ?_, ?_⟩
  · exact ln6_schedules hp rfl rfl fun _ => ln6Mul_lt _ _
  · exact ln6_schedules hp rfl rfl fun _ => ln6Add_lt _ _
  · exact ln6_schedules hp rfl rfl fun _ => ln6Add_lt _ _
  · intro h
    exact State.schedulesR_of_always hp rfl (by exact if_pos ((convRounds_iff ty tx).mpr h)) fun e he => lineElem_vcvtLine _ _ _ _ _ he
  · intro h
    have hn : ¬convRounds ty tx = true := by rw [convRounds_iff]; tauto
    exact State.schedulesV_of_always hp rfl (by exact if_neg hn) fun e he => lineElem_vcvtLine _ _ _ _ _ he
  · intro h
    exact State.schedulesV_of_always hp rfl rfl (lineElem_vq8Line ty s.ftz sg x (q8_elems h))
  · intro h
    exact vdq8_schedules hp sg (q8_isFloat h)
  · intro h
    have hz := treeSum_linePats_int h tree r.ftz x
    exact State.schedulesV_reduce hp rfl rfl (hz ▸ Nat.mod_lt _ (Nat.two_pow_pos _)) hz
  · intro h
    have hadd : redAdd ty tree = add := funext fun u => funext fun v => if_pos h
    have hz := treeSum_linePats ty tree (flushPat ty r.ftz) x
    exact State.schedulesV_reduce hp rfl rfl (hz.trans_lt (pairTree_lt (redAdd_lt ty tree) pat (treeLevels_bounds ty).1 0))
      (hz.trans (congrArg (fun f => pairTree f pat level 0) hadd))
  · have pick (h : ty.isF = true) := State.schedulesV_reducePick (i := .vredmax p w ty d a) hp h Num.lt_ordered.swap rfl
      (congrArg (fun f => s.vreduce w ty d (foldPats f (linePats ty x))) (maxElem_of_isF h s.ftz))
    refine ⟨fun h => (pick h).1, fun h => (pick h).2, fun h => ?_⟩
    exact State.schedulesV_reduceInt hp (fun _ => le_rfl) (fun _ _ _ => le_trans) (maxElem_chooses h s.ftz) rfl rfl
  · have pick (h : ty.isF = true) := State.schedulesV_reducePick (i := .vredmin p w ty d a) hp h Num.lt_ordered rfl
      (congrArg (fun f => s.vreduce w ty d (foldPats f (linePats ty x))) (minElem_of_isF h s.ftz))
    refine ⟨fun h => (pick h).1, fun h => (pick h).2, fun h => ?_⟩
    exact State.schedulesV_reduceInt (le := fun u v => v ≤ u) hp (fun _ => le_rfl) (fun _ _ _ h k => le_trans k h)
      (minElem_chooses h s.ftz) rfl rfl
  · obtain ⟨hle, hmem⟩ := amax_spec (lineNums ty r.ftz x)
    have hnum {u : Machine.Num} : u ∈ lineNums ty r.ftz x ↔ ∃ e, e < ty.elems ∧ elemNum ty r.ftz x e = u := by simp [lineNums]
    refine ⟨_, always_of_holds s p _ hp, fun e he => hle _ (hnum.mpr ⟨e, he, rfl⟩), hmem.imp_right ?_⟩
    rintro ⟨u, hu, hn, hz⟩
    obtain ⟨e, he, rfl⟩ := hnum.mp hu
    exact ⟨e, he, hn, hz⟩

end Sys2Proof.Machine
end
